-- ==== Sys2Proof/Word.lean ====
section
/-!
DEFINITION. The words of the module: a byte of memory, the 32-bit element of a
groom tile register (R147), a 64-bit register (R563). Bit 0 is the least
significant bit (R19).
-/

namespace Sys2Proof

/-- One byte of memory (R19). -/
abbrev Byte := BitVec 8

/-- One element of a groom tile register, or an FP32 pattern (R147, R187). -/
abbrev W32 := BitVec 32

/-- A 64-bit register of the ID block, or an instruction word (R155, R563). -/
abbrev W64 := BitVec 64

end Sys2Proof
end

