-- ==== Sys2Proof/Syntax.lean ====
section
/-!
DEFINITION. The commands of the module: one constructor of `Instr` for every row of
spec/opcode_table.json, with the operands that come from outside the module or name
the unit that takes the step. What a row's own rule reads from the module's memory,
registers or records is not an operand.
-/

namespace Sys2Proof

/-- The header of a letter (R570), less its kind. `reserved` is the OR of every reserved bit and byte of its header and payload (R23, R573); `unlisted` is a kind that R576 does not list, in place of the row's (R573; log 112). -/
structure LetterHead where
  flags : Nat
  length : Nat
  sequence : Nat
  tag : Nat
  reserved : Nat
  unlisted : Option Nat
  deriving DecidableEq, Repr, Inhabited

/-- A bulk read's buffer (R575). -/
structure Bulk where
  addr : Nat
  len : Nat
  deriving DecidableEq, Repr, Inhabited

/-- The unit fields of PADDOCK_OPEN and PADDOCK_RESIZE (R514, R520). -/
structure Units where
  groups : Nat
  packages : Nat
  pens : Nat
  slotBlocks : Nat
  entries : Nat
  deriving DecidableEq, Repr, Inhabited

/-- The fields of ADMIT (R479). -/
structure AdmitFields where
  cls : Nat
  queue : Nat
  model : Nat
  spec : Nat
  seed : Nat
  prompt : Nat
  promptLen : Nat
  maxNew : Nat
  deadline : Nat
  out : Nat
  stop : List Nat
  param : List W32
  deriving DecidableEq, Repr, Inhabited

/-- The frame header of a link frame (R412) as it arrives on a port, with whether its check holds. -/
structure FrameHead where
  tree : Nat
  tag : Nat
  lseq : Nat
  cells : Nat
  crcOk : Bool
  deriving DecidableEq, Repr, Inhabited

/-- One gradient block on the wire (R442). -/
structure GBlock where
  q : List Int
  bad : Bool
  sat : Bool
  nf : Bool
  members : Nat
  blkSeal : Nat
  deriving DecidableEq, Repr, Inhabited

/-- The collection header of a GRAD frame (R441). -/
structure GradHead where
  bucket : Nat
  block : Nat
  exp : Int
  attempt : Nat
  epoch : Nat
  step : Nat
  deriving DecidableEq, Repr, Inhabited

/-- A seal record (R458). `nsq` is a LONG pattern. -/
structure SealRec where
  step : Nat
  epoch : Nat
  attempt : Nat
  votes : Nat
  nclass : Nat
  nsq : Nat
  setdig : List Byte
  coefdig : List Byte
  amax : List W32
  deriving DecidableEq, Repr, Inhabited

/-- A CLOSE record (R462). `live` holds one bit for each layer. -/
structure CloseRec where
  step : Nat
  epoch : Nat
  attempt : Nat
  votes : Nat
  nlayer : Nat
  live : Nat
  deriving DecidableEq, Repr, Inhabited

/-- An EPOCH record (R471). -/
structure EpochRec where
  epoch : Nat
  roleDigest : List Byte
  step : Nat
  differs : Bool
  deriving DecidableEq, Repr, Inhabited

/-- The PARAM header (R464). -/
structure ParamHead where
  bucket : Nat
  kind : Nat
  offset : Nat
  step : Nat
  deriving DecidableEq, Repr, Inhabited

/-- What the LINK frame carries (R413, R419): the last lseq taken, a resend request, and the peer's identity. -/
structure LinkInfo where
  acked : Option Nat
  resend : Option Nat
  credits : List (Nat × Nat)
  serial : Nat
  postcode : Nat
  deriving DecidableEq, Repr, Inhabited

/-- The DATA codeword that brings a companion message: its cseq, whether this is its last message, and whether the message's op and reserved fields are as R425 has them (R423, R425, R430). -/
structure McHead where
  cseq : Nat
  last : Bool
  sound : Bool
  deriving DecidableEq, Repr, Inhabited

/-- A read of memory as its code sees it (R257, R260, R263, R305). -/
inductive EccOutcome where
  | clean
  | corrected
  | uncorrectable
  deriving DecidableEq, Repr, Inhabited

/-- A physical upset in the ranks of a stable (R132-R143; log 37): none; bits of what a stall holds flip (its accumulator, its entry of a K.TOPK list, or the item of that number that K.COMPACT or K.EXPAND holds); or the checksum stall's P1 and P2 change; or a cell of memory flips, named by a device address and the bit within its code unit (R257, R305, R309). -/
inductive Upset where
  | none
  | stall (rank stall mask : Nat)
  | sums (rank : Nat) (d1 d2 : Int)
  | cell (dev bit : Nat)
  deriving DecidableEq, Repr, Inhabited

/-- A failure in a shed (R288): the shed's number in its package, or its device channel for S.ATTN; the row of S.MV or the pass of S.ATTN (two for each segment) that fails once; the vector lane that the check locates; or a parity error of the element unit. -/
structure ShedFail where
  shed : Nat
  unit : Nat
  lane : Option Nat
  parity : Bool
  deriving DecidableEq, Repr, Inhabited

/-- The units with lanes that R417 retires. -/
inductive LaneUnit where
  | port (p : Nat)
  | mcl
  | bridge (dir : Nat)
  deriving DecidableEq, Repr, Inhabited

/-- What a governor interval measures on a die (R55, R65). -/
structure Measured where
  pace : Nat
  powerMw : Nat
  paddockMw : List Nat
  tj : Int
  deriving DecidableEq, Repr, Inhabited

/-- One stream's sampling in a serving step (R489): the tokens y(L + 1), ... and the new guesses. A token of none is not an integer below the vocabulary size. -/
structure Sampled where
  slot : Nat
  tokens : List (Option Nat)
  guesses : List Nat
  deriving DecidableEq, Repr, Inhabited

/-- What phase 1 finds in a firmware slot (R652): whether everything but svn is in order. -/
structure SlotCheck where
  aOk : Bool
  bOk : Bool
  deriving DecidableEq, Repr, Inhabited

/-- One command of the module for each row of spec/opcode_table.json. -/
inductive Instr where
  -- letters of the device (R576, R615, R670)
  | pad (p : Nat) (h : LetterHead)
  | hello (p : Nat) (h : LetterHead) (ifMajor ifMinor : Nat)
  | features (p : Nat) (h : LetterHead) (requested : List Nat)
  | powerCap (p : Nat) (h : LetterHead) (watts : Nat)
  | scrubSet (p : Nat) (h : LetterHead) (hours : Nat)
  | remountMap (p : Nat) (h : LetterHead) (b : Bulk)
  | warmPrepare (p : Nat) (h : LetterHead) (retained : Nat)
  | warmHandback (p : Nat) (h : LetterHead) (count map mapLen records : Nat)
  | trainingRead (p : Nat) (h : LetterHead) (b : Bulk)
  | configRead (p : Nat) (h : LetterHead) (b : Bulk)
  | configWrite (p : Nat) (h : LetterHead) (src : Nat)
  | attest (p : Nat) (h : LetterHead) (nonce : List Byte) (b : Bulk) (unprogrammed : Nat)
  | firmwareWrite (p : Nat) (h : LetterHead) (src length : Nat)
  | rollbackCommit (p : Nat) (h : LetterHead) (svn : Nat)
  | segmentSet (p : Nat) (h : LetterHead) (segment : Nat)
  | identityRead (p : Nat) (h : LetterHead) (b : Bulk)
  -- letters of a paddock (R576)
  | paddockOpen (p : Nat) (h : LetterHead) (u : Units) (crypt retained : Nat) (drbgOk : Bool)
  | openingComplete (p : Nat)
  | paddockClose (p : Nat) (h : LetterHead)
  | closingComplete (p : Nat)
  | paddockResize (p : Nat) (h : LetterHead) (add rem : Units)
  | resizeComplete (p : Nat)
  | paddockMap (p : Nat) (h : LetterHead) (ctx nadd nremove list : Nat)
  | schedSet (p : Nat) (h : LetterHead) (slice blockAfter : Nat)
  | paddockPower (p : Nat) (h : LetterHead) (watts : Nat)
  | historySet (p : Nat) (h : LetterHead) (n : Nat)
  | stateRead (p : Nat) (h : LetterHead) (ctx selector first count : Nat) (b : Bulk)
  | parcelLoad (p : Nat) (h : LetterHead) (address length priority step : Nat)
  | parcelUnload (p : Nat) (h : LetterHead) (ctx : Nat)
  | stepRun (p : Nat) (h : LetterHead) (ctx step count : Nat)
  | checkpoint (p : Nat) (h : LetterHead) (ctx dest : Nat)
  | restore (p : Nat) (h : LetterHead) (ctx src : Nat)
  | initialise (p : Nat) (h : LetterHead) (ctx layer part src : Nat)
  | admitLetter (p : Nat) (h : LetterHead) (f : AdmitFields)
  | cancel (p : Nat) (h : LetterHead)
  | requestRead (p : Nat) (h : LetterHead)
  | membership (p : Nat) (h : LetterHead) (epoch roles parcel checkpoint ckStep agreeTimeout : Nat)
  | replay (p : Nat) (h : LetterHead) (step attempt nfBefore mode role ctx checkpoint sealLog : Nat)
  | diagCounters (p : Nat) (h : LetterHead) (unit index : Nat) (b : Bulk)
  | refcount (p : Nat) (h : LetterHead) (ostler : Nat)
  | freezeInfo (p : Nat) (h : LetterHead) (b : Bulk)
  -- configuration space and MCL (R425, R563)
  | pbxbaseEnable (m : McHead) (rtag p value : Nat)
  | pbxbaseDisable (m : McHead) (rtag p value : Nat)
  | cfgWr (m : McHead) (rtag offset : Nat) (value : Option Nat)
  | apRd (m : McHead) (rtag addr count : Nat)
  | inv (m : McHead) (rtag addr : Nat) (data : List Byte)
  | cmp (m : McHead) (rtag status : Nat)
  | cmpD (m : McHead) (rtag status : Nat) (data : List Byte)
  | credit (m : McHead) (requests dataUnits invs : Nat)
  | ack (m : McHead) (cseq : Nat)
  | retry (m : McHead) (cseq : Nat)
  | mclUncorrectableCodeword (errors : List (Nat × Nat))
  | mclAlignTimeout
  | mclTrainingDone (good taken : Nat) (valid : Bool)
  | postboxRetryTimer (rtag : Nat)
  | mclTimeout (p ctx : Nat)
  | mclStall (p : Nat)
  -- link frames and ports (R412-R421)
  | link (port : Nat) (f : FrameHead) (info : LinkInfo)
  | grad (port : Nat) (f : FrameHead) (g : GradHead) (blocks : List GBlock)
  | sealFrame (port : Nat) (f : FrameHead) (r : SealRec)
  | close (port : Nat) (f : FrameHead) (r : CloseRec)
  | param (port : Nat) (f : FrameHead) (h : ParamHead) (payload : List Byte)
  | xfer (port : Nat) (f : FrameHead) (dest src number offset : Nat) (payload : List Byte)
  | epoch (port : Nat) (f : FrameHead) (r : EpochRec)
  | linkUncorrectableCodeword (port : Nat) (errors : List (Nat × Nat))
  | linkAlignTimeout (port : Nat)
  | holdTimeout (port : Nat)
  | linkRetrainRetry (port : Nat) (ok : Bool)
  | linkTrainingDone (port : Nat) (ok : Bool) (serial postcode : Nat)
  | laneLockLoss (u : LaneUnit) (lane : Nat)
  | laneWindowEnd (u : LaneUnit) (counts : List (Nat × Nat))
  -- timers and background work
  | heartbeatMiss (ostler : Nat)
  | governorInterval (die : Nat) (m : Measured)
  | vctlRepeat (die : Nat)
  | watchdogWarning (stable source : Nat)
  | watchdogHalt (stable : Nat)
  | blockAfterExpiry (p : Nat)
  | sliceExpiry (p : Nat)
  | deadlineExpiry (p tag : Nat)
  | collectExpiry (p ctx : Nat)
  | sealExpiry (p ctx : Nat)
  | broadcastExpiry (p ctx : Nat)
  | xferDurationExpiry (p ctx number : Nat)
  | agreeTimeout (p ctx : Nat)
  | handbackTimeout
  | scrubPeriodEnd (channel : Nat)
  | patrolScrubRead (channel ca : Nat) (o : EccOutcome)
  | yardScrub (pen offset : Nat) (o : EccOutcome)
  | wck2dqTrack (channel : Nat) (absorbed retrained : Bool) (temp : Int)
  | mr4Poll (channel : Nat) (above85 outOfRange : Bool)
  | perBankRefresh (channel rank bank : Nat) (managed : Bool)
  | tjSample (die : Nat) (tj : Int)
  | coolOkLow
  | coolantCheck (inlet outlet : Int) (powerMw : Nat)
  -- rails and the start (R596-R618)
  | railDip (rail mv : Nat)
  | railRecovered (rail : Nat)
  | railReset (rail : Nat)
  | v12InputGood (coolOk : Bool)
  | v12InputLow
  | mresetNFall
  | mresetNRise
  | boot (c : SlotCheck)
  | repair (badStables badStalls : List Nat)
  | mclPhase (good : Nat)
  | memory (failed patternBad : List Nat) (temps : List Int) (canaryBad : Nat)
  | finish (portsUp : Nat) (peers : List (Nat × Nat))
  -- the halter (R625-R634)
  | halterNLow
  | halterAcknowledged (entryNs : Nat)
  | halterNHigh
  -- the post bus (R636-R645)
  | call
  | arbitrationWindow (samples : List Bool)
  | assign (serial seat : Nat) (collided : Bool)
  | release (seat : Nat) (collided : Bool)
  | read (seat offset count : Nat) (collided : Bool)
  | status (seat : Nat) (collided : Bool)
  | identity (seat : Nat) (collided : Bool)
  | postBusUnknownOp (op seat : Nat) (collided : Bool)
  -- the test access port (R667-R669)
  | testLogicReset
  | bypass (die : Nat)
  | idcode (die : Nat)
  | samplePreload (die : Nat) (pins cells : Nat)
  | extest (die : Nat)
  | clamp (die : Nat)
  | highz (die : Nat)
  | extestPulse (die : Nat)
  | extestTrain (die : Nat)
  | readout (addr : Nat)
  -- kernels on a physical stable (R96-R146, R591)
  | kernel (p ctx : Nat)
  | kMm (stable : Nat)
  | kConv (stable : Nat)
  | kDist (stable : Nat)
  | kTopk (stable : Nat)
  | kCompact (stable : Nat)
  | kExpand (stable : Nat)
  | feedEvent (stable : Nat) (ready : Bool) (u : Upset)
  | rampDown (stable ranks : Nat)
  | rampUp (stable ranks : Nat)
  | kernelBoundary (stable : Nat)
  | stableReplacement (stable : Nat)
  | stableCopyDone (stable : Nat)
  | groomParityError (stable : Nat)
  | recordEnd (p ctx ordinal : Nat)
  | branch (p ctx ordinal : Nat)
  -- the groom of a physical stable (R159)
  | gLd (stable : Nat)
  | gSt (stable : Nat)
  | gLdk (stable : Nat)
  | gMov (stable : Nat)
  | gGath (stable : Nat)
  | gScat (stable : Nat)
  | gSel (stable : Nat)
  | gRand (stable : Nat)
  | gAdd (stable : Nat)
  | gSub (stable : Nat)
  | gMul (stable : Nat)
  | gFma (stable : Nat)
  | gFms (stable : Nat)
  | gFnma (stable : Nat)
  | gFnms (stable : Nat)
  | gMax (stable : Nat)
  | gMin (stable : Nat)
  | gAbs (stable : Nat)
  | gNeg (stable : Nat)
  | gCmp (stable : Nat)
  | gRcp (stable : Nat)
  | gDiv (stable : Nat)
  | gSqrt (stable : Nat)
  | gRsqrt (stable : Nat)
  | gExp (stable : Nat)
  | gLog (stable : Nat)
  | gTanh (stable : Nat)
  | gSig (stable : Nat)
  | gErf (stable : Nat)
  | gRsum (stable : Nat)
  | gCsum (stable : Nat)
  | gRmax (stable : Nat)
  | gCmax (stable : Nat)
  | gRmin (stable : Nat)
  | gCmin (stable : Nat)
  | gRep (stable : Nat)
  | gScal (stable : Nat)
  -- sheds, turnout and transfers (R274, R294, R467)
  | sMv (p ctx ordinal n : Nat) (fails : List ShedFail)
  | sAttn (p ctx ordinal n : Nat) (fails : List ShedFail)
  | sAcomb (p ctx ordinal n : Nat)
  | sCopy (p ctx ordinal n : Nat)
  | sFill (p ctx ordinal n : Nat)
  | move (engine : Nat)
  | xpose (engine : Nat)
  | turnoutJobEnd (engine : Nat)
  | xferSend (p ctx ordinal : Nat)
  | xferRecv (p ctx ordinal : Nat)
  -- the training step (R330)
  | phase (p ctx : Nat)
  | stepBegin (p ctx : Nat)
  | forwardPassEnd (p ctx : Nat)
  | lossPassEnd (p ctx : Nat)
  | backwardEnd (p ctx : Nat)
  | collectEnd (p ctx : Nat)
  | commit (p ctx : Nat)
  | drainEnd (p ctx : Nat)
  -- serving (R484)
  | bind (p ctx : Nat)
  | servingCommitPoint (p ctx : Nat) (sampled : List Sampled)
  | deliver (p ctx : Nat)
  | servingDrain (p ctx : Nat)
  | modelSwap (p : Nat)
  -- scheduling and translation (R522-R548)
  | switch (p : Nat)
  | saveComplete (p : Nat)
  | resumeComplete (p : Nat)
  | swap (p : Nat)
  | tableRebuildDone (p ctx : Nat)
  | tableSwitch (p ctx : Nat)
  | swapInComplete (p ctx : Nat)
  -- ostlers
  | ostlerTakeover (ostler : Nat)
  | selfCheckFailure (isStable : Bool) (unit : Nat)
  | driftRecomputeDone (p ctx : Nat)
  deriving DecidableEq, Repr

end Sys2Proof
end

