-- ==== Sys2Proof/Decode.lean ====
section
/-!
DEFINITION. The decoder over the rows of spec/opcode_table.json that give bits. No
row gives bits: the commands of this block come from outside as commands, not as
words.
-/

namespace Sys2Proof

/-- The command that a word spells by the table's bits: none, as no row has any. -/
def decodeTableWord (_nbits _w : Nat) : Option Instr := none

end Sys2Proof
end

