-- ==== Sys2Proof/Machine/Bits.lean ====
section
/-!
DEFINITION. Bit fields and byte order (R19): a field is written [high:low], and
every multi-byte field of letters, records, wire formats and memory is
little-endian.
-/

namespace Sys2Proof.Machine

/-- Field [hi:lo] of `v` (R19). -/
def bitsOf (v hi lo : Nat) : Nat := (v >>> lo) % 2 ^ (hi + 1 - lo)

/-- Bit `i` of `v` (R19). -/
def bitOf (v i : Nat) : Bool := (v >>> i) % 2 == 1

/-- A Bool as the bit that carries it. -/
def bit (b : Bool) : Nat := if b then 1 else 0

/-- The `n` little-endian bytes of `v` (R19). -/
def leBytes : Nat → Nat → List Byte
  | 0, _ => []
  | n + 1, v => BitVec.ofNat 8 v :: leBytes n (v / 256)

/-- The number that little-endian bytes spell (R19). -/
def leVal : List Byte → Nat
  | [] => 0
  | b :: bs => b.toNat + 256 * leVal bs

/-- The two's-complement value of the low `n` bits of `v`. -/
def signedOf (n v : Nat) : Int :=
  let w := v % 2 ^ n
  if 2 * w < 2 ^ n then (w : Int) else (w : Int) - (2 ^ n : Nat)

/-- The low `n` bits of the two's-complement form of `i`. -/
def unsignedOf (n : Nat) (i : Int) : Nat := (i % ((2 ^ n : Nat) : Int)).toNat

/-- A list cut into runs of n. -/
def chunksOf {α : Type} (n : Nat) : Nat → List α → List (List α)
  | 0, _ => []
  | k + 1, bs => bs.take n :: chunksOf n k (bs.drop n)

/-- Quotient rounded up. -/
def ceilDiv (a b : Nat) : Nat := (a + b - 1) / b

/-- The numbers lo, lo + 1, ... of count `n`. -/
def span (lo n : Nat) : List Nat := (List.range n).map (lo + ·)

/-- The bits that are set in `v`, among bits 0 to n - 1, in increasing order. -/
def bitsSet (n v : Nat) : List Nat := (List.range n).filter (bitOf v)

end Sys2Proof.Machine
end

