-- ==== Sys2Proof/Machine/Dyadic.lean ====
section
/-!
DEFINITION. Exact numbers. `Dy` is a dyadic rational m * 2^e, the value of every
finite operand (R187, R189, R190, R197). `Fx` is a real number known to its floor
at 2^-160, with a bit that says whether anything lies above that floor. Every
rounding target of R213 has a step of at least 2^-149, so an `Fx` decides each
rounding exactly.
-/

namespace Sys2Proof.Machine

/-- m * 2^e. -/
structure Dy where
  m : Int
  e : Int
  deriving DecidableEq, Repr, Inhabited

namespace Dyn

/-- i * 2^k, for k of either sign, rounded down. -/
def shiftFloor (i : Int) (k : Int) : Int :=
  if 0 ≤ k then i * ((2 ^ k.toNat : Nat) : Int) else i / ((2 ^ (-k).toNat : Nat) : Int)

/-- Whether i * 2^k is not a whole number. -/
def shiftLoses (i : Int) (k : Int) : Bool :=
  if 0 ≤ k then false else decide (i % ((2 ^ (-k).toNat : Nat) : Int) ≠ 0)

/-- The whole number a. -/
def ofInt (a : Int) : Dy := ⟨a, 0⟩

def zero : Dy := ⟨0, 0⟩

def neg (a : Dy) : Dy := ⟨-a.m, a.e⟩

def abs (a : Dy) : Dy := ⟨a.m.natAbs, a.e⟩

def add (a b : Dy) : Dy :=
  if a.m = 0 then b
  else if b.m = 0 then a
  else if a.e ≤ b.e then ⟨a.m + shiftFloor b.m (b.e - a.e), a.e⟩
  else ⟨shiftFloor a.m (a.e - b.e) + b.m, b.e⟩

def sub (a b : Dy) : Dy := add a (neg b)

def mul (a b : Dy) : Dy := ⟨a.m * b.m, a.e + b.e⟩

/-- a * 2^k. -/
def scale (a : Dy) (k : Int) : Dy := ⟨a.m, a.e + k⟩

def isZero (a : Dy) : Bool := a.m == 0

def lt (a b : Dy) : Bool := decide ((sub a b).m < 0)

def le (a b : Dy) : Bool := decide ((sub a b).m ≤ 0)

def eq (a b : Dy) : Bool := decide ((sub a b).m = 0)

/-- The larger of two, the first when they are equal. -/
def max (a b : Dy) : Dy := if lt a b then b else a

/-- floor(log2 |a|), for a not zero. -/
def log2 (a : Dy) : Int := (Nat.log2 a.m.natAbs : Int) + a.e

/-- ceil(log2 a), for a above zero (R228). -/
def ceilLog2 (a : Dy) : Int :=
  if eq ⟨1, log2 a⟩ (abs a) then log2 a else log2 a + 1

/-- A whole number, or none (R169, R313). -/
def toInt? (a : Dy) : Option Int :=
  if shiftLoses a.m a.e then none else some (shiftFloor a.m a.e)

end Dyn

/-- A real number v with m <= v * 2^160 < m + 1, and v * 2^160 = m exactly when `more` is false. -/
structure Fx where
  m : Int
  more : Bool
  deriving DecidableEq, Repr, Inhabited

/-- The number of fraction bits of an `Fx`. -/
def fxBits : Int := 160

namespace Fxn

def ofDy (a : Dy) : Fx := ⟨Dyn.shiftFloor a.m (a.e + fxBits), Dyn.shiftLoses a.m (a.e + fxBits)⟩

/-- Subtraction of a dyadic number whose step is at least 2^-160. -/
def subDy (x : Fx) (d : Dy) : Fx := ⟨x.m - Dyn.shiftFloor d.m (d.e + fxBits), x.more⟩

def isNeg (x : Fx) : Bool := decide (x.m < 0)

def isZero (x : Fx) : Bool := decide (x.m = 0) && !x.more

/-- The floor of |x| at 2^-160. Its `more` bit is the same. -/
def mag (x : Fx) : Nat :=
  if x.m < 0 then (if x.more then (-x.m - 1).toNat else (-x.m).toNat) else x.m.toNat

def neg (x : Fx) : Fx := if x.more then ⟨-x.m - 1, true⟩ else ⟨-x.m, false⟩

/-- x = d? -/
def eqDy (x : Fx) (d : Dy) : Bool :=
  !x.more && !(Dyn.shiftLoses d.m (d.e + fxBits)) && decide (x.m = Dyn.shiftFloor d.m (d.e + fxBits))

end Fxn

/-- An operand's value (R187): NaN, an infinity, a signed zero, or a finite number that is not zero. -/
inductive Ext where
  | nan
  | inf (neg : Bool)
  | zero (neg : Bool)
  | fin (d : Dy)
  deriving DecidableEq, Repr, Inhabited

namespace Extn

def ofDy (d : Dy) (negZero : Bool := false) : Ext := if d.m = 0 then .zero negZero else .fin d

/-- The finite value, with zero for what is not finite. -/
def dy : Ext → Dy
  | .fin d => d
  | _ => Dyn.zero

def isNaN : Ext → Bool
  | .nan => true
  | _ => false

def isInf : Ext → Bool
  | .inf _ => true
  | _ => false

def isFinite : Ext → Bool
  | .fin _ => true
  | .zero _ => true
  | _ => false

def isZero : Ext → Bool
  | .zero _ => true
  | _ => false

/-- The sign bit; NaN counts as positive (R188). -/
def isNeg : Ext → Bool
  | .nan => false
  | .inf n => n
  | .zero n => n
  | .fin d => decide (d.m < 0)

def neg : Ext → Ext
  | .nan => .nan
  | .inf n => .inf (!n)
  | .zero n => .zero (!n)
  | .fin d => .fin (Dyn.neg d)

def abs : Ext → Ext
  | .nan => .nan
  | .inf _ => .inf false
  | .zero _ => .zero false
  | .fin d => .fin (Dyn.abs d)

/-- Order of two values that are not NaN, zeros equal. -/
def lt : Ext → Ext → Bool
  | .nan, _ => false
  | _, .nan => false
  | .inf a, .inf b => a && !b
  | .inf a, _ => a
  | _, .inf b => !b
  | a, b => Dyn.lt (dy a) (dy b)

def eqv : Ext → Ext → Bool
  | .nan, _ => false
  | _, .nan => false
  | .inf a, .inf b => a == b
  | .inf _, _ => false
  | _, .inf _ => false
  | a, b => Dyn.eq (dy a) (dy b)

end Extn

/-- Integer square root by bits: the largest r with r * r <= n, looking at bits below 2^k. -/
def isqrtBits (n : Nat) : Nat → Nat → Nat
  | 0, r => r
  | k + 1, r =>
    let r' := r + 2 ^ k
    if r' * r' ≤ n then isqrtBits n k r' else isqrtBits n k r

/-- The largest r with r * r <= n. -/
def isqrt (n : Nat) : Nat := isqrtBits n (Nat.log2 n / 2 + 1) 0

end Sys2Proof.Machine
end

