-- ==== Sys2Proof/Machine/Flags.lean ====
section
/-!
DEFINITION. The flag word of groom instructions and K.* operations (R175), the
flags that a rounding raises (R163, R175, R213) and how flag words are gathered
(R131, R176, R177).
-/

namespace Sys2Proof.Machine

/-- R175 [0]: a NaN was read, or produced from operands that are not NaN. -/
def flagINV : Nat := 1
/-- R175 [1]: a rounded result exceeded the largest finite value of its format. -/
def flagOFL : Nat := 2
/-- R175 [2]: a result was tiny after rounding and inexact. -/
def flagUFL : Nat := 4
/-- R175 [3]: a rounding changed a value. -/
def flagINX : Nat := 8
/-- R175 [4]: a long accumulator saturated, or a store conversion was clamped. -/
def flagSAT : Nat := 16
/-- R175 [5]: a division by zero, or zero given to G.RCP, G.RSQRT or G.LOG. -/
def flagDZ : Nat := 32

/-- `f` where the condition holds, no flag otherwise. -/
def flagIf (c : Bool) (f : Nat) : Nat := if c then f else 0

/-- OR of two flag words (R176). -/
def flagOr (a b : Nat) : Nat := a ||| b

/-- OR over the lanes or stalls (R131, R176). -/
def flagsAll (fs : List Nat) : Nat := fs.foldl flagOr 0

/-- INV for every operand that is NaN (R175). -/
def flagNaNRead (xs : List Ext) : Nat := flagIf (xs.any Extn.isNaN) flagINV

end Sys2Proof.Machine
end

