-- ==== Sys2Proof/Machine/Formats.lean ====
section
/-!
DEFINITION. Formats, rounding and conversion (R186-R196, R204, R213-R215, R219).
-/

namespace Sys2Proof.Machine

/-- The rounding modes of R213 that a groom RND code selects. -/
inductive Rnd where
  | rne
  | rz
  | rd
  | ru
  deriving DecidableEq, Repr, Inhabited

/-- RND codes of R155: 0 RNE, 1 RZ, 2 RD, 3 RU. -/
def rndOf (c : Nat) : Rnd :=
  match c % 4 with
  | 0 => .rne
  | 1 => .rz
  | 2 => .rd
  | _ => .ru

/-- What the codes at the top of a floating format mean (R187). -/
inductive FpKind where
  | ieee
  | e4m3
  | finite
  deriving DecidableEq, Repr, Inhabited

/-- A floating-point element format of R187. -/
structure FpFmt where
  eb : Nat
  mb : Nat
  kind : FpKind
  deriving DecidableEq, Repr, Inhabited

def fmtFP32 : FpFmt := ⟨8, 23, .ieee⟩
def fmtBF16 : FpFmt := ⟨8, 7, .ieee⟩
def fmtE4M3 : FpFmt := ⟨4, 3, .e4m3⟩
def fmtE5M2 : FpFmt := ⟨5, 2, .ieee⟩
def fmtE2M3 : FpFmt := ⟨2, 3, .finite⟩
def fmtE3M2 : FpFmt := ⟨3, 2, .finite⟩
def fmtE2M1 : FpFmt := ⟨2, 1, .finite⟩

namespace Fp

def bias (f : FpFmt) : Int := (2 ^ (f.eb - 1) : Nat) - 1

/-- Exponent of the smallest normal number (R187). -/
def emin (f : FpFmt) : Int := 1 - bias f

/-- The pattern of the largest finite value (R187). -/
def maxCode (f : FpFmt) : Nat :=
  match f.kind with
  | .ieee => (2 ^ f.eb - 1) * 2 ^ f.mb - 1
  | .e4m3 => 2 ^ (f.eb + f.mb) - 2
  | .finite => 2 ^ (f.eb + f.mb) - 1

def signBit (f : FpFmt) (neg : Bool) : Nat := if neg then 2 ^ (f.eb + f.mb) else 0

/-- The canonical NaN of the format (R188). -/
def nanCode (f : FpFmt) : Nat :=
  match f.kind with
  | .ieee => (2 ^ f.eb - 1) * 2 ^ f.mb + 2 ^ (f.mb - 1)
  | _ => 2 ^ (f.eb + f.mb) - 1

def infCode (f : FpFmt) (neg : Bool) : Nat := signBit f neg + (2 ^ f.eb - 1) * 2 ^ f.mb

/-- The value of a pattern (R187, R188). -/
def decode (f : FpFmt) (bits : Nat) : Ext :=
  let w := bits % 2 ^ (f.eb + f.mb + 1)
  let neg := decide (2 ^ (f.eb + f.mb) ≤ w)
  let a := w % 2 ^ (f.eb + f.mb)
  let ef := a / 2 ^ f.mb
  let mf := a % 2 ^ f.mb
  let top := 2 ^ f.eb - 1
  if f.kind = .ieee ∧ ef = top then (if mf = 0 then .inf neg else .nan)
  else if f.kind = .e4m3 ∧ a = 2 ^ (f.eb + f.mb) - 1 then .nan
  else
    let m : Nat := if ef = 0 then mf else 2 ^ f.mb + mf
    let e : Int := (if ef = 0 then emin f else (ef : Int) - bias f) - f.mb
    if m = 0 then .zero neg else .fin ⟨if neg then -(m : Int) else m, e⟩

/-- Largest finite value (R187). -/
def largest (f : FpFmt) : Dy := Extn.dy (decode f (maxCode f))

/-- Whether the discarded part takes the magnitude up (R213). -/
def roundsUp (mode : Rnd) (neg : Bool) (q rem half : Nat) (more : Bool) : Bool :=
  match mode with
  | .rne => decide (half < rem) || (decide (rem = half) && (more || q % 2 == 1))
  | .rz => false
  | .rd => neg && (decide (rem ≠ 0) || more)
  | .ru => !neg && (decide (rem ≠ 0) || more)

/-- A magnitude rounded to a grid: q * 2^qe, and whether the rounding changed it. -/
structure Grid where
  q : Nat
  qe : Int
  inexact : Bool
  deriving DecidableEq, Repr, Inhabited

/-- Round |x| to `mb` + 1 significant bits, with the step never below 2^(lowest - mb) (R213). -/
def toGrid (mb : Nat) (lowest : Int) (mode : Rnd) (x : Fx) : Grid :=
  let neg := Fxn.isNeg x
  let m := Fxn.mag x
  let top : Int := (Nat.log2 m : Int) - fxBits
  let e := if m = 0 then lowest else if top < lowest then lowest else top
  let qe := e - mb
  let sh := (qe + fxBits).toNat
  let q := m / 2 ^ sh
  let rem := m % 2 ^ sh
  let up := if sh = 0 then (match mode with | .ru => !neg && x.more | .rd => neg && x.more | _ => false)
            else roundsUp mode neg q rem (2 ^ (sh - 1)) x.more
  ⟨if up then q + 1 else q, qe, decide (rem ≠ 0) || x.more⟩

/-- Tiny after rounding (R175): with the exponent unbounded below, the rounded magnitude lies below 2^lowest. DEDUCED (log 14). -/
def tiny (mb : Nat) (lowest : Int) (mode : Rnd) (x : Fx) : Bool :=
  let m := Fxn.mag x
  if m = 0 then true
  else
    let top : Int := (Nat.log2 m : Int) - fxBits
    if lowest ≤ top then false
    else if top < lowest - 1 then true
    else
      let g := toGrid mb (lowest - 1) mode x
      decide (g.q < 2 ^ (mb + 1))

/-- A result before its one rounding: NaN, an infinity, a signed zero, or a real number that is not zero. -/
inductive XRes where
  | nan
  | inf (neg : Bool)
  | zero (neg : Bool)
  | num (x : Fx)
  deriving DecidableEq, Repr, Inhabited

def ofExt : Ext → XRes
  | .nan => .nan
  | .inf n => .inf n
  | .zero n => .zero n
  | .fin d => .num (Fxn.ofDy d)

/-- A real number as a result, with the sign that a zero takes. -/
def ofFx (x : Fx) (negZero : Bool := false) : XRes := if Fxn.isZero x then .zero negZero else .num x

/-- A pattern together with the flags of the conversion that made it. -/
structure Coded where
  bits : Nat
  flags : Nat
  deriving DecidableEq, Repr, Inhabited

/-- The pattern of grid point q * 2^qe in a format whose grid is scaled by 2^off. -/
def gridCode (f : FpFmt) (off : Int) (g : Grid) : Nat :=
  (g.qe - (emin f + off - f.mb)).toNat * 2 ^ f.mb + g.q

/-- Whether a rounding that overflows ends at infinity (R213). -/
def reachesInf (mode : Rnd) (neg : Bool) : Bool :=
  match mode with
  | .rne => true
  | .rz => false
  | .rd => neg
  | .ru => !neg

/-- Conversion of a finite value to a floating format (R213). FP8 clamps, FP32 and BF16 reach infinity. -/
def encodeNum (f : FpFmt) (mode : Rnd) (x : Fx) : Coded :=
  let neg := Fxn.isNeg x
  let g := toGrid f.mb (emin f) mode x
  let c := gridCode f 0 g
  let s := signBit f neg
  if maxCode f < c then
    if f.mb < 7 then ⟨s + maxCode f, flagOr flagSAT flagINX⟩
    else ⟨if reachesInf mode neg then infCode f neg else s + maxCode f, flagOr flagOFL flagINX⟩
  else
    let u := g.inexact && tiny f.mb (emin f) mode x
    ⟨s + c, flagOr (flagIf g.inexact flagINX) (flagIf u flagUFL)⟩

/-- Conversion of a result to a floating format (R188, R213). A NaN that was read sets INV at its reader. -/
def encode (f : FpFmt) (mode : Rnd) : XRes → Coded
  | .nan => ⟨nanCode f, 0⟩
  | .inf n => if f.kind = .ieee then ⟨infCode f n, 0⟩ else ⟨nanCode f, flagINV⟩
  | .zero n => ⟨signBit f n, 0⟩
  | .num x => encodeNum f mode x

/-- Nearest integer of a real number in a mode, and whether that changed it (R213). -/
def roundInt (mode : Rnd) (x : Fx) : Int × Bool :=
  let neg := Fxn.isNeg x
  let m := Fxn.mag x
  let sh := fxBits.toNat
  let q := m / 2 ^ sh
  let rem := m % 2 ^ sh
  let r : Nat := if roundsUp mode neg q rem (2 ^ (sh - 1)) x.more then q + 1 else q
  (if neg then -(r : Int) else r, decide (rem ≠ 0) || x.more)

/-- x > i for a whole number i. -/
def aboveInt (x : Fx) (i : Int) : Bool :=
  let d := x.m - Dyn.shiftFloor i fxBits
  decide (0 < d) || (d == 0 && x.more)

/-- x < i for a whole number i. -/
def belowInt (x : Fx) (i : Int) : Bool := decide (x.m < Dyn.shiftFloor i fxBits)

/-- Conversion to INT32 or UINT32 (R213): a value outside the format's range clamps, one within it rounds. -/
def encodeInt (isSigned : Bool) (mode : Rnd) (r : XRes) : Coded :=
  let lo : Int := if isSigned then -2147483648 else 0
  let hi : Int := if isSigned then 2147483647 else 4294967295
  match r with
  | .nan => ⟨if isSigned then 0x80000000 else 0, flagINV⟩
  | .inf n => ⟨unsignedOf 32 (if n then lo else hi), flagSAT⟩
  | .zero _ => ⟨0, 0⟩
  | .num x =>
    let (v, ch) := roundInt mode x
    if aboveInt x hi then ⟨unsignedOf 32 hi, flagSAT⟩
    else if belowInt x lo then ⟨unsignedOf 32 lo, flagSAT⟩
    else ⟨unsignedOf 32 v, flagIf ch flagINX⟩

/-- A wide pair, each part an FP32 pattern (R148). -/
structure Pair where
  hi : W32
  lo : W32
  deriving DecidableEq, Repr, Inhabited

/-- An FP32 pattern of a result and the flags raised. -/
structure Narrow where
  v : W32
  flags : Nat
  deriving DecidableEq, Repr, Inhabited

structure WideRes where
  v : Pair
  flags : Nat
  deriving DecidableEq, Repr, Inhabited

/-- One rounding of a result to FP32 (R160). -/
def toNarrow (mode : Rnd) (r : XRes) : Narrow :=
  let c := encode fmtFP32 mode r
  ⟨BitVec.ofNat 32 c.bits, c.flags⟩

/-- The pair of an exact result (R163). -/
def toWide (r : XRes) : WideRes :=
  match r with
  | .num x =>
    let h := encode fmtFP32 .rne r
    match decode fmtFP32 h.bits with
    | .inf _ => ⟨⟨BitVec.ofNat 32 h.bits, 0⟩, flagOr flagOFL flagINX⟩
    | he =>
      let rest := Fxn.subDy x (Extn.dy he)
      if Fxn.isZero rest then ⟨⟨BitVec.ofNat 32 h.bits, 0⟩, 0⟩
      else
        let l := encode fmtFP32 .rne (.num rest)
        let exact := Fxn.eqDy rest (Extn.dy (decode fmtFP32 l.bits))
        let small := Dyn.lt (Dyn.abs (Extn.dy he)) ⟨1, -126⟩
        ⟨⟨BitVec.ofNat 32 h.bits, BitVec.ofNat 32 l.bits⟩,
          flagOr (flagIf (!exact) flagINX) (flagIf (!exact && small) flagUFL)⟩
  | _ => ⟨⟨BitVec.ofNat 32 (encode fmtFP32 .rne r).bits, 0⟩, 0⟩

/-- Value of an FP32 pattern. -/
def val32 (w : W32) : Ext := decode fmtFP32 w.toNat

/-- Value of a pair, hi + lo exactly (R148); a zero pair has the sign of hi (log 16). -/
def valPair (p : Pair) : Ext :=
  match val32 p.hi, val32 p.lo with
  | .nan, _ => .nan
  | _, .nan => .nan
  | .inf a, .inf b => if a = b then .inf a else .nan
  | .inf a, _ => .inf a
  | _, .inf b => .inf b
  | .zero a, .zero _ => .zero a
  | .zero _, y => y
  | x, .zero _ => x
  | x, y => Extn.ofDy (Dyn.add (Extn.dy x) (Extn.dy y))

/-- FP32 of a whole number (R166, R314); exact below 2^24. -/
def ofNat32 (n : Nat) : W32 := (toNarrow .rne (ofFx (Fxn.ofDy ⟨n, 0⟩))).v

def one32 : W32 := 0x3F800000
def nan32 : W32 := 0x7FC00000
/-- A pattern as Heljor writes it: every NaN is the canonical one (R188). -/
def canon32 (w : W32) : W32 := if Extn.isNaN (val32 w) then nan32 else w

end Fp

/-! ### Format codes (R186) -/

/-- Element format of a plain or MX floating code (R186). -/
def elemFmt? (code : Nat) : Option FpFmt :=
  match code with
  | 0x01 => some fmtFP32
  | 0x02 => some fmtBF16
  | 0x03 => some fmtE4M3
  | 0x04 => some fmtE5M2
  | 0x05 => some fmtE2M3
  | 0x06 => some fmtE3M2
  | 0x07 => some fmtE2M1
  | 0x11 => some fmtE4M3
  | 0x12 => some fmtE5M2
  | 0x13 => some fmtE2M3
  | 0x14 => some fmtE3M2
  | 0x15 => some fmtE2M1
  | _ => none

/-- A code of R186's table. -/
def fmtKnown (code : Nat) : Bool :=
  [0x01, 0x02, 0x03, 0x04, 0x05, 0x06, 0x07, 0x08, 0x11, 0x12, 0x13, 0x14, 0x15, 0x16,
   0x20, 0x21, 0x22, 0x23, 0x28, 0x29].contains code

/-- An MX code (R186, R192). -/
def isMx (code : Nat) : Bool := decide (0x11 ≤ code ∧ code ≤ 0x16)

/-- Bits per element (R186); 48 for a soft-target entry. -/
def fmtBits (code : Nat) : Nat :=
  match code with
  | 0x01 => 32
  | 0x02 => 16
  | 0x05 => 6
  | 0x06 => 6
  | 0x07 => 4
  | 0x13 => 6
  | 0x14 => 6
  | 0x15 => 4
  | 0x20 => 128
  | 0x21 => 32
  | 0x22 => 32
  | 0x23 => 1
  | 0x28 => 48
  | 0x29 => 48
  | _ => 8

/-- Formats that the module writes (R196). -/
def fmtWritable (code : Nat) : Bool :=
  [0x01, 0x02, 0x03, 0x04, 0x11, 0x12, 0x20, 0x21, 0x22, 0x23, 0x28, 0x29].contains code

/-- The value of an E8M0 pattern (R190). -/
def e8m0 (b : Nat) : Ext := if b % 256 = 255 then .nan else .fin ⟨1, (b % 256 : Nat) - (127 : Int)⟩

/-- Value of the stored pattern of one element, without a block scale (R187, R189, R190, R314). -/
def elemValue (code : Nat) (bits : Nat) : Ext :=
  match elemFmt? code with
  | some f => Fp.decode f bits
  | none =>
    match code with
    | 0x08 => e8m0 bits
    | 0x16 => Extn.ofDy ⟨signedOf 8 bits, -6⟩
    | 0x21 => Extn.ofDy ⟨signedOf 32 bits, 0⟩
    | 0x22 => Extn.ofDy ⟨(bits % 2 ^ 32 : Nat), 0⟩
    | 0x23 => Extn.ofDy ⟨(bits % 2 : Nat), 0⟩
    | 0x28 => Extn.ofDy ⟨(bits % 2 ^ 20 : Nat), 0⟩
    | 0x29 => if bits % 2 ^ 28 = 0x0FFFFFFF then .nan
              else if bits % 2 ^ 28 = 0 then .zero false
              else .fin ⟨-((bits % 2 ^ 28 : Nat) : Int), -20⟩
    | _ => .nan

/-- An element under its block scale (R193): the scale 0xFF makes NaN, infinities and NaN keep their value. -/
def scaledValue (scale : Nat) (v : Ext) : Ext :=
  if scale % 256 = 255 then .nan
  else match v with
    | .fin d => .fin (Dyn.scale d ((scale % 256 : Nat) - (127 : Int)))
    | x => x

/-! ### MXFP8 blocks (R214) -/

/-- One position of a block before conversion. `satPos` and `satNeg` enter as the largest FP32 (R204). -/
inductive BlockVal where
  | special
  | zero (neg : Bool)
  | num (x : Fx)
  deriving DecidableEq, Repr, Inhabited

structure Block where
  scale : Nat
  elems : List Nat
  flags : Nat
  deriving DecidableEq, Repr, Inhabited

def blockMag : BlockVal → Nat × Bool
  | .num x => (Fxn.mag x, x.more)
  | _ => (0, false)

def blockIsNum : BlockVal → Bool
  | .num _ => true
  | _ => false

def blockNeg : BlockVal → Bool
  | .zero n => n
  | .num x => Fxn.isNeg x
  | .special => false

/-- One element of a block whose exponent is e (R214): a result below the smallest normal that is inexact sets UFL. A clamp sets SAT only where the exponent was cut to 127. -/
def mxElem (f : FpFmt) (e : Int) (cut : Bool) (mode : Rnd) : BlockVal → Fp.Coded
  | .special => ⟨0, 0⟩
  | .zero n => ⟨Fp.signBit f n, 0⟩
  | .num x =>
    let g := Fp.toGrid f.mb (Fp.emin f + e) mode x
    let c := Fp.gridCode f e g
    let s := Fp.signBit f (Fxn.isNeg x)
    let inx := flagIf g.inexact flagINX
    if Fp.maxCode f < c then ⟨s + Fp.maxCode f, flagOr inx (flagIf cut flagSAT)⟩
    else ⟨s + c, flagOr inx (flagIf (g.inexact && decide (c < 2 ^ f.mb)) flagUFL)⟩

/-- Conversion of one block to MXFP8 (R214). emax is 8 for E4M3 and 15 for E5M2. -/
def mxConvert (code : Nat) (mode : Rnd) (vs : List BlockVal) : Block :=
  let f := if code % 2 = 1 then fmtE4M3 else fmtE5M2
  let emax : Int := if code % 2 = 1 then 8 else 15
  if vs.contains .special then ⟨0xFF, vs.map fun _ => 0, flagINV⟩
  else if !(vs.any blockIsNum) then ⟨0, vs.map fun v => Fp.signBit f (blockNeg v), 0⟩
  else
    let m := vs.foldl (fun a v => Nat.max a (blockMag v).1) 0
    let e0 : Int := if m = 0 then -400 else (Nat.log2 m : Int) - fxBits - emax
    let cut := decide (127 < e0)
    let e : Int := if 127 < e0 then 127 else if e0 < -127 then -127 else e0
    let cs := vs.map (mxElem f e cut mode)
    ⟨(e + 127).toNat, cs.map (·.bits), flagsAll (cs.map (·.flags))⟩

/-! ### Stochastic rounding (R219) -/

/-- The grid of FP32 at a magnitude: exponent of the step. -/
def step32 (d : Dy) : Int :=
  let l := Dyn.log2 d
  (if l < -126 then -126 else l) - 23

/-- round_sr to FP32 of an exact sum with the 32-bit word r (R219). -/
def roundSr32 (d : Dy) (r : Nat) : Fp.Narrow :=
  if d.m = 0 then ⟨0, 0⟩
  else
    let neg := decide (d.m < 0)
    let a := Dyn.abs d
    let s := Fp.signBit fmtFP32 neg
    let two128 : Dy := ⟨1, 128⟩
    let big := Dyn.lt (Fp.largest fmtFP32) a
    let qe : Int := if big then 104 else step32 a
    let q : Int := if big then 2 ^ 24 - 1 else Dyn.shiftFloor a.m (a.e - qe)
    let lo : Dy := ⟨q, qe⟩
    if Dyn.eq lo a then ⟨BitVec.ofNat 32 (s + Fp.gridCode fmtFP32 0 ⟨q.toNat, qe, false⟩), 0⟩
    else
      let goUp := Dyn.le two128 a ||
        Dyn.lt (Dyn.mul ⟨(r % 2 ^ 32 : Nat), -32⟩ ⟨1, qe⟩) (Dyn.sub a lo)
      let q' : Int := if goUp then q + 1 else q
      let c := Fp.gridCode fmtFP32 0 ⟨q'.toNat, qe, true⟩
      if Fp.maxCode fmtFP32 < c then ⟨BitVec.ofNat 32 (Fp.infCode fmtFP32 neg), flagOr flagOFL flagINX⟩
      else ⟨BitVec.ofNat 32 (s + c), flagOr flagINX (flagIf (Dyn.lt ⟨q', qe⟩ ⟨1, -126⟩) flagUFL)⟩

/-- round_sr on the integer grid (R219, R221). -/
def roundSrInt (d : Dy) (r : Nat) : Int :=
  let a := Dyn.abs d
  let lo := Dyn.shiftFloor a.m a.e
  let f := Dyn.sub a ⟨lo, 0⟩
  let v := if Dyn.lt ⟨(r % 2 ^ 32 : Nat), -32⟩ f then lo + 1 else lo
  if d.m < 0 then -v else v

end Sys2Proof.Machine
end

