-- ==== Sys2Proof/Machine/LongAcc.lean ====
section
/-!
DEFINITION. The long accumulator (R197-R207), its terms, its drain, and the
compensated FP32 accumulation of BF16 (R210, R211).
-/

namespace Sys2Proof.Machine

/-- A long accumulator (R197): the five kinds of state code, and the finite numbers v * 2^-64. -/
inductive Acc where
  | nan
  | inf (neg : Bool)
  | sat (pos neg : Bool)
  | fin (v : Int)
  deriving DecidableEq, Repr, Inhabited

/-- An accumulator value together with the flags that made it. -/
structure AccF where
  acc : Acc
  flags : Nat
  deriving DecidableEq, Repr, Inhabited

namespace Long

/-- The 128-bit pattern (R197). -/
def toBits : Acc → Nat
  | .nan => 2 ^ 127
  | .inf false => 2 ^ 127 + 1
  | .inf true => 2 ^ 127 + 2
  | .sat true false => 2 ^ 127 + 3
  | .sat false true => 2 ^ 127 + 4
  | .sat _ _ => 2 ^ 127 + 5
  | .fin v => unsignedOf 128 v

/-- The accumulator that a pattern spells (R197). -/
def ofBits (b : Nat) : Acc :=
  let w := b % 2 ^ 128
  if w = 2 ^ 127 then .nan
  else if w = 2 ^ 127 + 1 then .inf false
  else if w = 2 ^ 127 + 2 then .inf true
  else if w = 2 ^ 127 + 3 then .sat true false
  else if w = 2 ^ 127 + 4 then .sat false true
  else if w = 2 ^ 127 + 5 then .sat true true
  else .fin (signedOf 128 w)

def zero : Acc := .fin 0

def isState : Acc → Bool
  | .fin _ => false
  | _ => true

/-- The value of the terms of both (R201). -/
def add : Acc → Acc → Acc
  | .nan, _ => .nan
  | _, .nan => .nan
  | .inf a, .inf b => if a = b then .inf a else .nan
  | .inf a, _ => .inf a
  | _, .inf b => .inf b
  | .sat p n, .sat p' n' => .sat (p || p') (n || n')
  | .sat p n, _ => .sat p n
  | _, .sat p n => .sat p n
  | .fin a, .fin b => .fin (a + b)

/-- One more term enters an accumulator: its flags join, and a NaN that infinities of both signs make sets INV, as it would if it were spilled and read again (R175, R200, R201, R208). -/
def take (a t : AccF) : AccF :=
  let r := add a.acc t.acc
  ⟨r, flagOr (flagOr a.flags t.flags) (flagIf (r == .nan && a.acc != .nan && t.acc != .nan) flagINV)⟩

/-- Nearest multiple of 2^-64, ties to even, as a count of 2^-64 (R199). -/
def roundTerm (d : Dy) : Int × Bool :=
  let k := d.e + 64
  if 0 ≤ k then (Dyn.shiftFloor d.m k, false)
  else
    let s := (-k).toNat
    let a := d.m.natAbs
    let q := a / 2 ^ s
    let rem := a % 2 ^ s
    let r := if Fp.roundsUp .rne false q rem (2 ^ (s - 1)) false then q + 1 else q
    (if d.m < 0 then -(r : Int) else r, decide (rem ≠ 0))

/-- One term and its class (R199). The flag INV of a NaN term is set by the caller's class. -/
def term : Ext → AccF
  | .nan => ⟨.nan, flagINV⟩
  | .inf n => ⟨.inf n, 0⟩
  | .zero _ => ⟨.fin 0, 0⟩
  | .fin d =>
    if Dyn.le ⟨1, 46⟩ (Dyn.abs d) then ⟨.sat (decide (0 < d.m)) (decide (d.m < 0)), flagSAT⟩
    else
      let (v, lost) := roundTerm d
      ⟨.fin v, flagIf lost flagINX⟩

/-- A preload as one more term (R200). -/
def preload (b : Nat) : AccF :=
  match ofBits b with
  | .nan => ⟨.nan, flagINV⟩
  | .inf n => ⟨.inf n, 0⟩
  | .sat p n => ⟨.sat p n, flagSAT⟩
  | .fin v =>
    if (2 ^ 126 : Int) ≤ v.natAbs then ⟨.sat (decide (0 < v)) (decide (v < 0)), flagSAT⟩ else ⟨.fin v, 0⟩

/-- Product of two operands with the sum of their block exponents already in them (R198, R199). -/
def product (a b : Ext) : Ext :=
  match a, b with
  | .nan, _ => .nan
  | _, .nan => .nan
  | .inf s, y => if Extn.isZero y then .nan else .inf (s != Extn.isNeg y)
  | x, .inf s => if Extn.isZero x then .nan else .inf (s != Extn.isNeg x)
  | x, y => Extn.ofDy (Dyn.mul (Extn.dy x) (Extn.dy y))

/-- Difference of two operands, exact (R198). -/
def diff (a b : Ext) : Ext :=
  match a, b with
  | .nan, _ => .nan
  | _, .nan => .nan
  | .inf s, .inf t => if s = t then .nan else .inf s
  | .inf s, _ => .inf s
  | _, .inf t => .inf (!t)
  | x, y => Extn.ofDy (Dyn.sub (Extn.dy x) (Extn.dy y))

/-- (a - b)² (R198). -/
def sqDiff (a b : Ext) : Ext :=
  match diff a b with
  | .nan => .nan
  | .inf _ => .inf false
  | .zero _ => .zero false
  | .fin d => .fin (Dyn.mul d d)

/-- |a - b| (R198). -/
def absDiff (a b : Ext) : Ext := Extn.abs (diff a b)

/-- The value that drains, times 2^scale, as a result before rounding, and the flags of R204 that come from a state code. -/
def drainRes (a : Acc) (scale : Int) : Fp.XRes × Nat :=
  match a with
  | .nan => (.nan, 0)
  | .inf n => (.inf n, 0)
  | .sat true false => (.num (Fxn.ofDy (Fp.largest fmtFP32)), flagSAT)
  | .sat false true => (.num (Fxn.ofDy (Dyn.neg (Fp.largest fmtFP32))), flagSAT)
  | .sat _ _ => (.nan, flagINV)
  | .fin v => (Fp.ofFx (Fxn.ofDy ⟨v, scale - 64⟩), 0)

/-- Largest finite value of the format with a sign (R204). -/
def largestCode (f : FpFmt) (neg : Bool) : Nat := Fp.signBit f neg + Fp.maxCode f

/-- The drain of one value to a format that is not MX and not LONG (R204). -/
def drainTo (f : FpFmt) (a : Acc) (scale : Int) : Fp.Coded :=
  match a with
  | .sat true false => ⟨largestCode f false, flagSAT⟩
  | .sat false true => ⟨largestCode f true, flagSAT⟩
  | _ =>
    let (r, fl) := drainRes a scale
    let c := Fp.encode f .rne r
    ⟨c.bits, flagOr c.flags fl⟩

/-- How one value enters the block recipe of an MXFP8 drain (R204, R214). -/
def drainBlock (a : Acc) (scale : Int) : BlockVal × Nat :=
  match a with
  | .fin v => if v = 0 then (.zero false, 0) else (.num (Fxn.ofDy ⟨v, scale - 64⟩), 0)
  | .sat true false => (.num (Fxn.ofDy (Fp.largest fmtFP32)), flagSAT)
  | .sat false true => (.num (Fxn.ofDy (Dyn.neg (Fp.largest fmtFP32))), flagSAT)
  | _ => (.special, 0)

/-- The value of an accumulator where K.DIST select compares (R121): NaN is never better. For state codes the spec gives no order; SAT+ and SAT- count as the infinities of their signs and SAT± as NaN, which is the model's choice (log 124). -/
def value : Acc → Ext
  | .nan => .nan
  | .inf n => .inf n
  | .sat true false => .inf false
  | .sat false true => .inf true
  | .sat _ _ => .nan
  | .fin v => Extn.ofDy ⟨v, -64⟩

/-- G.LD of LONG to FP32 or a pair (R207): the value and its flags. -/
def loadRes (b : Nat) : Fp.XRes × Nat :=
  match ofBits b with
  | .nan => (.nan, flagINV)
  | a => drainRes a 0

end Long

/-! ### BF16 (R210-R212) -/

/-- The compensated pair (s, c) of a BF16 dot product, FP32 patterns (R211). -/
structure BfAcc where
  s : W32
  c : W32
  deriving DecidableEq, Repr, Inhabited

namespace Bf

/-- Exact sum of operands; NaN where infinities of both signs meet (R210, IEEE 754). -/
def sum2 (a b : Ext) : Ext :=
  match a, b with
  | .nan, _ => .nan
  | _, .nan => .nan
  | .inf s, .inf t => if s = t then .inf s else .nan
  | .inf s, _ => .inf s
  | _, .inf t => .inf t
  | .zero s, .zero t => .zero (s && t)
  | x, y => Extn.ofDy (Dyn.add (Extn.dy x) (Extn.dy y))

/-- Exact sum, rounded once to FP32 (R210). -/
def round32 (x : Ext) : Fp.Narrow := Fp.toNarrow .rne (Fp.ofExt x)

/-- One event: the products of up to 16 pairs, summed exactly and rounded once, then added into (s, c) (R210, R211). INV where a NaN arises or is read. -/
def event (acc : BfAcc) (prods : List Ext) : BfAcc × Nat :=
  let x := prods.foldl sum2 (.zero false)
  let e := round32 x
  let sv := Fp.val32 acc.s
  let ev := Fp.val32 e.v
  let exact := sum2 sv ev
  let t := round32 exact
  let tv := Fp.val32 t.v
  let z := if Extn.isFinite tv then sum2 exact (Extn.neg tv) else .zero false
  let c := round32 (sum2 (Fp.val32 acc.c) z)
  (⟨t.v, c.v⟩, flagOr (flagIf (Extn.isNaN x || Extn.isNaN tv) flagINV) (flagOr (e.flags) (flagOr t.flags c.flags)))

/-- The exact s + c (R211). -/
def value (a : BfAcc) : Ext := sum2 (Fp.val32 a.s) (Fp.val32 a.c)

/-- The 16-byte partial entry: s, then c, then zero (R211). -/
def toBits (a : BfAcc) : Nat := a.s.toNat + a.c.toNat * 2 ^ 32

def ofBits (b : Nat) : BfAcc := ⟨BitVec.ofNat 32 b, BitVec.ofNat 32 (b / 2 ^ 32)⟩

end Bf

end Sys2Proof.Machine
end

