-- ==== Sys2Proof/Machine/Transcend.lean ====
section
/-!
DEFINITION. The exact functions of R159 that are not sums and products: quotients,
roots, e^x, ln x, tanh, the logistic sigmoid and erf, each as a real number known to
its floor at 2^-160 (`Fx`), so that the one rounding of R162 and the pair of R163
are exact. The functions that are transcendental are enclosed between two integers
at a finer scale (`Iv`); the scale is refined until both ends have the same floor
(log 15).
-/

namespace Sys2Proof.Machine

/-- lo <= v * 2^F <= hi, for a scale F that the context fixes; v is not negative. -/
structure Iv where
  lo : Nat
  hi : Nat
  deriving DecidableEq, Repr, Inhabited

namespace Ivn

def one (F : Nat) : Iv := ⟨2 ^ F, 2 ^ F⟩

def add (a b : Iv) : Iv := ⟨a.lo + b.lo, a.hi + b.hi⟩

/-- a - b where b is the smaller. -/
def sub (a b : Iv) : Iv := ⟨a.lo - b.hi, a.hi - b.lo⟩

def mul (F : Nat) (a b : Iv) : Iv := ⟨a.lo * b.lo / 2 ^ F, ceilDiv (a.hi * b.hi) (2 ^ F)⟩

def mulNat (a : Iv) (n : Nat) : Iv := ⟨a.lo * n, a.hi * n⟩

def divNat (a : Iv) (n : Nat) : Iv := ⟨a.lo / n, ceilDiv a.hi n⟩

def div (F : Nat) (a b : Iv) : Iv := ⟨a.lo * 2 ^ F / b.hi, ceilDiv (a.hi * 2 ^ F) b.lo⟩

/-- A dyadic number that is not negative. -/
def ofDy (F : Nat) (d : Dy) : Iv :=
  let l := (Dyn.shiftFloor d.m (d.e + F)).toNat
  ⟨l, if Dyn.shiftLoses d.m (d.e + F) then l + 1 else l⟩

def sqrt (F : Nat) (a : Iv) : Iv := ⟨isqrt (a.lo * 2 ^ F), isqrt (a.hi * 2 ^ F) + 1⟩

end Ivn

/-- Σ of t, t·x/(n+1), t·x²/((n+1)(n+2)), ... over `k` terms; returns the sum and the last term. -/
def expTerms (F : Nat) (x : Iv) : Nat → Nat → Iv → Iv → Iv × Iv
  | 0, _, t, s => (s, t)
  | k + 1, n, t, s =>
    let t' := Ivn.divNat (Ivn.mul F t x) (n + 1)
    expTerms F x k (n + 1) t' (Ivn.add s t')

/-- a squared `k` times. -/
def squares (F : Nat) : Nat → Iv → Iv
  | 0, a => a
  | k + 1, a => squares F k (Ivn.mul F a a)

/-- e^x for 0 <= x < 2^8: the argument is cut to below 2^-8, where the terms fall by 2^8 each. -/
def expIv (F : Nat) (d : Dy) : Iv :=
  let x := Ivn.ofDy F (Dyn.scale d (-16))
  let (s, t) := expTerms F x (F / 8 + 2) 0 (Ivn.one F) (Ivn.one F)
  squares F 16 ⟨s.lo, s.hi + t.hi + 2⟩

/-- e^d for |d| < 2^8 and either sign. -/
def expSigned (F : Nat) (d : Dy) : Iv :=
  if d.m < 0 then Ivn.div F (Ivn.one F) (expIv F (Dyn.neg d)) else expIv F d

/-- Σ z^(2i+1) / (2i+1) over `k` terms, with z2 = z². -/
def atanhTerms (F : Nat) (z2 : Iv) : Nat → Nat → Iv → Iv → Iv
  | 0, _, p, s => ⟨s.lo, s.hi + 2 * p.hi + 2⟩
  | k + 1, n, p, s => atanhTerms F z2 k (n + 2) (Ivn.mul F p z2) (Ivn.add s (Ivn.divNat p n))

/-- 2 * atanh z for 0 <= z <= 1/3. -/
def atanh2 (F : Nat) (z : Iv) : Iv :=
  Ivn.mulNat (atanhTerms F (Ivn.mul F z z) (F / 3 + 2) 1 z ⟨0, 0⟩) 2

/-- ln 2. -/
def ln2Iv (F : Nat) : Iv := atanh2 F (Ivn.divNat (Ivn.one F) 3)

/-- ln d for d > 0, as a lower and an upper integer bound of either sign. -/
def lnBounds (F : Nat) (d : Dy) : Int × Int :=
  let k0 := Dyn.log2 d
  let m0 := Dyn.scale d (-k0)
  let up := Dyn.lt ⟨3, -1⟩ m0
  let k := if up then k0 + 1 else k0
  let m := if up then Dyn.scale m0 (-1) else m0
  let below := Dyn.lt m ⟨1, 0⟩
  let diff := Ivn.ofDy F (Dyn.abs (Dyn.sub m ⟨1, 0⟩))
  let z := Ivn.div F diff (Ivn.ofDy F (Dyn.add m ⟨1, 0⟩))
  let l := atanh2 F z
  let (lo, hi) : Int × Int := if below then (-(l.hi : Int), -(l.lo : Int)) else (l.lo, l.hi)
  let c := ln2Iv F
  if 0 ≤ k then (k * c.lo + lo, k * c.hi + hi) else (k * c.hi + lo, k * c.lo + hi)

/-- arctan (1/n) by its alternating series, `k` pairs of terms. -/
def atanInv (F n : Nat) : Nat → Nat → Nat → Int → Int
  | 0, _, _, s => s
  | k + 1, j, p, s => atanInv F n k (j + 4) (p / n ^ 4) (s + (p / j : Nat) - (p / (n * n * (j + 2)) : Nat))

/-- pi, by Machin's formula, enclosed generously. -/
def piIv (F : Nat) : Iv :=
  let a := atanInv F 5 (F / 8 + 4) 1 (2 ^ F / 5) 0
  let b := atanInv F 239 (F / 8 + 4) 1 (2 ^ F / 239) 0
  let p := (16 * a - 4 * b).toNat
  ⟨p - 64 * F, p + 64 * F⟩

/-- Σ t_n with t_(n+1) = t_n * 2x² / (2n+3): the positive series of erf. -/
def erfTerms (F : Nat) (x2 : Iv) : Nat → Nat → Iv → Iv → Iv
  | 0, _, t, s => ⟨s.lo, s.hi + 2 * t.hi + 2⟩
  | k + 1, n, t, s =>
    let t' := Ivn.divNat (Ivn.mul F t (Ivn.mulNat x2 2)) (2 * n + 3)
    erfTerms F x2 k (n + 1) t' (Ivn.add s t')

/-- erf x for 0 < x < 12: 2/√π · e^(-x²) · Σ 2^n x^(2n+1) / (2n+1)!!. -/
def erfIv (F : Nat) (d : Dy) : Iv :=
  let x := Ivn.ofDy F d
  let s := erfTerms F (Ivn.ofDy F (Dyn.mul d d)) (F + 700) 0 x x
  let e := expSigned F (Dyn.neg (Dyn.mul d d))
  let c := Ivn.div F (Ivn.mulNat (Ivn.one F) 2) (Ivn.sqrt F (piIv F))
  Ivn.mul F (Ivn.mul F s e) c

/-- Refine the scale until both bounds have one floor at 2^-160; after the last try the lower bound stands (log 15). -/
def settle (f : Nat → Int × Int) : Nat → Nat → Int
  | 0, F => (f F).1 / ((2 ^ (F - 160) : Nat) : Int)
  | k + 1, F =>
    let (lo, hi) := f F
    let p : Int := ((2 ^ (F - 160) : Nat) : Int)
    if lo / p = hi / p then lo / p else settle f k (2 * F)

/-- A transcendental number between the bounds of f, never itself on the grid of 2^-160. -/
def settled (f : Nat → Int × Int) : Fx := ⟨settle f 4 400, true⟩

def ivBounds (i : Iv) : Int × Int := (i.lo, i.hi)

/-- A value too large for every format, or too small for every grid (R213). -/
def hugeFx : Fx := ⟨2 ^ 400, true⟩
def tinyFx : Fx := ⟨0, true⟩
/-- Just below one. -/
def nearOneFx : Fx := ⟨2 ^ 160 - 1, true⟩

namespace Exact

/-- a / b, both finite and b not zero. -/
def div (a b : Dy) : Fx :=
  let n := a.m * (if 0 ≤ b.m then 1 else -1)
  let d : Nat := b.m.natAbs
  let k := a.e - b.e + fxBits
  let num := if 0 ≤ k then n * ((2 ^ k.toNat : Nat) : Int) else n
  let den : Int := if 0 ≤ k then d else d * ((2 ^ (-k).toNat : Nat) : Int)
  ⟨num / den, decide (num % den ≠ 0)⟩

/-- √a for a > 0. -/
def sqrt (a : Dy) : Fx :=
  let n := (Dyn.shiftFloor a.m (a.e + 2 * fxBits)).toNat
  let r := isqrt n
  ⟨r, decide (r * r ≠ n) || Dyn.shiftLoses a.m (a.e + 2 * fxBits)⟩

/-- 1 / √a for a > 0. -/
def rsqrt (a : Dy) : Fx :=
  let k := 2 * fxBits - a.e
  let n : Nat := if 0 ≤ k then 2 ^ k.toNat else 1
  let d : Nat := if 0 ≤ k then a.m.natAbs else a.m.natAbs * 2 ^ (-k).toNat
  let r := isqrt (n / d)
  ⟨r, decide (r * r * d ≠ n)⟩

/-- e^d for d not zero. -/
def exp (d : Dy) : Fx :=
  if Dyn.le ⟨120, 0⟩ d then hugeFx
  else if Dyn.le d ⟨-120, 0⟩ then tinyFx
  else settled fun F => ivBounds (expSigned F d)

/-- ln d for d > 0 and d ≠ 1. -/
def ln (d : Dy) : Fx := settled fun F => lnBounds F d

/-- tanh d for d > 0. -/
def tanhPos (d : Dy) : Fx :=
  if Dyn.le ⟨64, 0⟩ d then nearOneFx
  else settled fun F =>
    let e := expIv F (Dyn.scale d 1)
    ivBounds (Ivn.div F (Ivn.sub e (Ivn.one F)) (Ivn.add e (Ivn.one F)))

/-- 1 / (1 + e^-d) for d not zero. -/
def sigmoid (d : Dy) : Fx :=
  if Dyn.le ⟨120, 0⟩ d then nearOneFx
  else if Dyn.le d ⟨-120, 0⟩ then tinyFx
  else settled fun F => ivBounds (Ivn.div F (Ivn.one F) (Ivn.add (Ivn.one F) (expSigned F (Dyn.neg d))))

/-- erf d for d > 0. -/
def erfPos (d : Dy) : Fx :=
  if Dyn.le ⟨11, 0⟩ d then nearOneFx else settled fun F => ivBounds (erfIv F d)

/-- An odd function from its values above zero. -/
def odd (f : Dy → Fx) (d : Dy) : Fx := if d.m < 0 then Fxn.neg (f (Dyn.neg d)) else f d

end Exact

end Sys2Proof.Machine
end

