-- ==== Sys2Proof/Machine/Arith.lean ====
section
/-!
DEFINITION. The element operations of the groom (R159-R167): each gives the exact
result of one element before its one rounding, with the flags INV and DZ that come
from the operands (R175). Zero signs that the rules leave to arithmetic follow
IEEE 754 (log 16).
-/

namespace Sys2Proof.Machine

/-- An exact result and the flags of its operands. -/
structure ERes where
  r : Fp.XRes
  flags : Nat
  deriving DecidableEq, Repr, Inhabited

namespace El

open Fp (XRes)

def ok (r : XRes) : ERes := ⟨r, 0⟩
def invalid : ERes := ⟨.nan, flagINV⟩
def divZero (neg : Bool) : ERes := ⟨.inf neg, flagDZ⟩
def ofExt (x : Ext) : ERes := ok (Fp.ofExt x)
def one : ERes := ok (.num ⟨2 ^ 160, false⟩)

/-- The zero that an exact cancellation gives (R162, IEEE 754): -0 only when rounding down. -/
def cancelZero (mode : Rnd) : XRes := .zero (decide (mode = .rd))

def add (mode : Rnd) (a b : Ext) : ERes :=
  match a, b with
  | .nan, _ => invalid
  | _, .nan => invalid
  | .inf s, .inf t => if s = t then ok (.inf s) else invalid
  | .inf s, _ => ok (.inf s)
  | _, .inf t => ok (.inf t)
  | .zero s, .zero t => if s = t then ok (.zero s) else ok (cancelZero mode)
  | x, y =>
    let d := Dyn.add (Extn.dy x) (Extn.dy y)
    if d.m = 0 then ok (cancelZero mode) else ok (.num (Fxn.ofDy d))

def sub (mode : Rnd) (a b : Ext) : ERes := add mode a (Extn.neg b)

/-- Exact product; NaN for a NaN or for an infinity times zero. -/
def prod (a b : Ext) : Ext :=
  match a, b with
  | .nan, _ => .nan
  | _, .nan => .nan
  | .inf s, y => if Extn.isZero y then .nan else .inf (s != Extn.isNeg y)
  | x, .inf s => if Extn.isZero x then .nan else .inf (s != Extn.isNeg x)
  | .zero s, y => .zero (s != Extn.isNeg y)
  | x, .zero s => .zero (s != Extn.isNeg x)
  | .fin x, .fin y => .fin (Dyn.mul x y)

def mul (a b : Ext) : ERes :=
  match prod a b with
  | .nan => invalid
  | x => ofExt x

/-- (±a × b) ± c, rounded once (R159). -/
def fma (mode : Rnd) (negP negC : Bool) (a b c : Ext) : ERes :=
  let p := prod a b
  let p' := if negP then Extn.neg p else p
  let c' := if negC then Extn.neg c else c
  match p' with
  | .nan => invalid
  | x => add mode x c'

def max (a b : Ext) : ERes :=
  if Extn.isNaN a || Extn.isNaN b then invalid
  else if Extn.isZero a && Extn.isZero b then ok (.zero (Extn.isNeg a && Extn.isNeg b))
  else ofExt (if Extn.lt a b then b else a)

def min (a b : Ext) : ERes :=
  if Extn.isNaN a || Extn.isNaN b then invalid
  else if Extn.isZero a && Extn.isZero b then ok (.zero (Extn.isNeg a || Extn.isNeg b))
  else ofExt (if Extn.lt b a then b else a)

def copy (a : Ext) : ERes :=
  match a with
  | .nan => invalid
  | x => ofExt x

def abs (a : Ext) : ERes := copy (Extn.abs a)
def neg (a : Ext) : ERes := copy (Extn.neg a)

/-- Whether the comparison `cond` holds (R167): 0 EQ, 1 NE, 2 LT, 3 LE, 4 GT, 5 GE, 6 UNORD. -/
def compares (cond : Nat) (a b : Ext) : Bool :=
  let un := Extn.isNaN a || Extn.isNaN b
  match cond with
  | 0 => !un && Extn.eqv a b
  | 1 => un || !Extn.eqv a b
  | 2 => !un && Extn.lt a b
  | 3 => !un && (Extn.lt a b || Extn.eqv a b)
  | 4 => !un && Extn.lt b a
  | 5 => !un && (Extn.lt b a || Extn.eqv a b)
  | _ => un

def cmp (cond : Nat) (a b : Ext) : ERes :=
  ⟨if compares cond a b then .num ⟨2 ^ 160, false⟩ else .zero false, flagNaNRead [a, b]⟩

/-- G.SEL (R167): the source that is not selected is not read. -/
def sel (s a b : Ext) : ERes :=
  let x := if Extn.isZero s then b else a
  ⟨Fp.ofExt x, flagNaNRead [s, x]⟩

def rcp (a : Ext) : ERes :=
  match a with
  | .nan => invalid
  | .inf n => ok (.zero n)
  | .zero n => divZero n
  | .fin d => ok (.num (Exact.div ⟨1, 0⟩ d))

def div (a b : Ext) : ERes :=
  let n := Extn.isNeg a != Extn.isNeg b
  match a, b with
  | .nan, _ => invalid
  | _, .nan => invalid
  | .inf _, .inf _ => invalid
  | .inf _, _ => ok (.inf n)
  | _, .inf _ => ok (.zero n)
  | .zero _, .zero _ => invalid
  | .zero _, _ => ok (.zero n)
  | _, .zero _ => divZero n
  | .fin x, .fin y => ok (.num (Exact.div x y))

def sqrt (a : Ext) : ERes :=
  match a with
  | .nan => invalid
  | .inf n => if n then invalid else ok (.inf false)
  | .zero n => ok (.zero n)
  | .fin d => if d.m < 0 then invalid else ok (.num (Exact.sqrt d))

def rsqrt (a : Ext) : ERes :=
  match a with
  | .nan => invalid
  | .inf n => if n then invalid else ok (.zero false)
  | .zero n => divZero n
  | .fin d => if d.m < 0 then invalid else ok (.num (Exact.rsqrt d))

def exp (a : Ext) : ERes :=
  match a with
  | .nan => invalid
  | .inf n => ok (if n then .zero false else .inf false)
  | .zero _ => one
  | .fin d => ok (.num (Exact.exp d))

def ln (a : Ext) : ERes :=
  match a with
  | .nan => invalid
  | .inf n => if n then invalid else ok (.inf false)
  | .zero _ => divZero true
  | .fin d =>
    if d.m < 0 then invalid
    else if Dyn.eq d ⟨1, 0⟩ then ok (.zero false)
    else ok (.num (Exact.ln d))

/-- ±1 at an infinity, ±0 at a zero: the odd functions that tend to one. -/
def sigmoidal (f : Dy → Fx) (a : Ext) : ERes :=
  match a with
  | .nan => invalid
  | .inf n => ok (.num ⟨if n then -(2 ^ 160) else 2 ^ 160, false⟩)
  | .zero n => ok (.zero n)
  | .fin d => ok (.num (Exact.odd f d))

def tanh (a : Ext) : ERes := sigmoidal Exact.tanhPos a
def erf (a : Ext) : ERes := sigmoidal Exact.erfPos a

def sig (a : Ext) : ERes :=
  match a with
  | .nan => invalid
  | .inf n => if n then ok (.zero false) else one
  | .zero _ => ok (.num ⟨2 ^ 159, false⟩)
  | .fin d => ok (.num (Exact.sigmoid d))

end El

/-! ### Pair arithmetic for the update, the loss sum and the sheds (R209, R378) -/

namespace Wide

open Fp (Pair)

/-- A pair with the flags raised so far. -/
structure W where
  p : Pair
  f : Nat
  deriving DecidableEq, Repr, Inhabited

def ofPair (p : Pair) : W := ⟨p, 0⟩

/-- A narrow operand enters as (value, +0) (R160). -/
def of32 (w : W32) : W := ⟨⟨w, 0⟩, 0⟩

def ofDy (d : Dy) : W :=
  let r := Fp.toWide (Fp.ofFx (Fxn.ofDy d))
  ⟨r.v, r.flags⟩

def val (w : W) : Ext := Fp.valPair w.p

def put (f0 : Nat) (e : ERes) : W :=
  let r := Fp.toWide e.r
  ⟨r.v, flagOr f0 (flagOr e.flags r.flags)⟩

def add (a b : W) : W := put (flagOr a.f b.f) (El.add .rne (val a) (val b))
def sub (a b : W) : W := put (flagOr a.f b.f) (El.sub .rne (val a) (val b))
def mul (a b : W) : W := put (flagOr a.f b.f) (El.mul (val a) (val b))
def div (a b : W) : W := put (flagOr a.f b.f) (El.div (val a) (val b))
/-- a × b + c. -/
def fma (a b c : W) : W := put (flagOr a.f (flagOr b.f c.f)) (El.fma .rne false false (val a) (val b) (val c))
/-- -(a × b) + c. -/
def fnma (a b c : W) : W := put (flagOr a.f (flagOr b.f c.f)) (El.fma .rne true false (val a) (val b) (val c))
def rsqrt (a : W) : W := put a.f (El.rsqrt (val a))
def rcp (a : W) : W := put a.f (El.rcp (val a))
def exp (a : W) : W := put a.f (El.exp (val a))
def log (a : W) : W := put a.f (El.ln (val a))
def max (a b : W) : W := put (flagOr a.f b.f) (El.max (val a) (val b))
def min (a b : W) : W := put (flagOr a.f b.f) (El.min (val a) (val b))

def zero : W := ⟨⟨0, 0⟩, 0⟩
def one : W := of32 Fp.one32

/-- One rounding of a pair to FP32 (R160). -/
def round32 (a : W) : Fp.Narrow :=
  let n := Fp.toNarrow .rne (Fp.ofExt (val a))
  ⟨n.v, flagOr a.f n.flags⟩

def isBad (w : W32) : Bool := !(Extn.isFinite (Fp.val32 w))

/-- A pair with a part that is NaN or infinite (R348). -/
def nonfinite (p : Pair) : Bool := isBad p.hi || isBad p.lo

/-- pow_w of R382, over the bits of n from the highest set bit down. -/
def powBits (a : W) (n : Nat) : Nat → W → W
  | 0, y => y
  | k + 1, y =>
    let y2 := mul y y
    powBits a n k (if bitOf n k then mul y2 a else y2)

/-- pow_w(a, n) (R382). -/
def pow (a : W) (n : Nat) : W := powBits a n (if n = 0 then 0 else Nat.log2 n + 1) one

/-- Pairwise tree over present positions (R166): neighbours combine level by level, an absent child passes the other on. -/
def treeLevel {α : Type} (f : α → α → α) : List (Option α) → List (Option α)
  | a :: b :: rest =>
    (match a, b with
      | some x, some y => some (f x y)
      | some x, none => some x
      | none, y => y) :: treeLevel f rest
  | rest => rest

def treeFold {α : Type} (f : α → α → α) : Nat → List (Option α) → Option α
  | 0, l => l.headD none
  | k + 1, l => treeFold f k (treeLevel f l)

/-- A reduction over up to 64 positions (R166). -/
def tree64 {α : Type} (f : α → α → α) (l : List (Option α)) : Option α := treeFold f 6 l

/-- Sum of up to 64 pairs by the tree (R166, R380). -/
def rsum (l : List W) : W :=
  (tree64 add (l.map some ++ List.replicate (64 - l.length) none)).getD zero

/-- Cut a list into runs of n. -/
def runs {α : Type} (n : Nat) : Nat → List α → List (List α)
  | 0, _ => []
  | k + 1, l => if l.isEmpty then [] else l.take n :: runs n k (l.drop n)

/-- A row's sum: 64-column tiles in column order, each a wide G.RSUM, added with wide G.ADD (R380, R393). -/
def tiledSum (l : List W) : W :=
  match runs 64 (l.length / 64 + 1) l with
  | [] => zero
  | t :: ts => ts.foldl (fun a r => add a (rsum r)) (rsum t)

/-- Whether n is a power of two. -/
def isPow2 (n : Nat) : Bool := decide (0 < n) && decide (2 ^ Nat.log2 n = n)

/-- Multiply by 1/n when n is a power of two, otherwise divide by n (R380). -/
def divCount (a : W) (n : Nat) : W :=
  if isPow2 n then mul a (ofDy ⟨1, -(Nat.log2 n : Int)⟩) else div a (ofDy ⟨n, 0⟩)

end Wide

end Sys2Proof.Machine
end

