-- ==== Sys2Proof/Machine/Sha256.lean ====
section
/-!
DEFINITION. SHA-256, which the module uses for every digest (R239, R247, R336,
R438, R587, R603, R652, R661). The spec names the function and does not restate it;
this is FIPS 180-4 (PRESUMED, log 12).
-/

namespace Sys2Proof.Machine

namespace Sha

def two32 : Nat := 2 ^ 32

def rotr (x n : Nat) : Nat := (x >>> n) ||| ((x <<< (32 - n)) % two32)

def kTable : List Nat :=
  [0x428A2F98, 0x71374491, 0xB5C0FBCF, 0xE9B5DBA5, 0x3956C25B, 0x59F111F1, 0x923F82A4, 0xAB1C5ED5] ++
  [0xD807AA98, 0x12835B01, 0x243185BE, 0x550C7DC3, 0x72BE5D74, 0x80DEB1FE, 0x9BDC06A7, 0xC19BF174] ++
  [0xE49B69C1, 0xEFBE4786, 0x0FC19DC6, 0x240CA1CC, 0x2DE92C6F, 0x4A7484AA, 0x5CB0A9DC, 0x76F988DA] ++
  [0x983E5152, 0xA831C66D, 0xB00327C8, 0xBF597FC7, 0xC6E00BF3, 0xD5A79147, 0x06CA6351, 0x14292967] ++
  [0x27B70A85, 0x2E1B2138, 0x4D2C6DFC, 0x53380D13, 0x650A7354, 0x766A0ABB, 0x81C2C92E, 0x92722C85] ++
  [0xA2BFE8A1, 0xA81A664B, 0xC24B8B70, 0xC76C51A3, 0xD192E819, 0xD6990624, 0xF40E3585, 0x106AA070] ++
  [0x19A4C116, 0x1E376C08, 0x2748774C, 0x34B0BCB5, 0x391C0CB3, 0x4ED8AA4A, 0x5B9CCA4F, 0x682E6FF3] ++
  [0x748F82EE, 0x78A5636F, 0x84C87814, 0x8CC70208, 0x90BEFFFA, 0xA4506CEB, 0xBEF9A3F7, 0xC67178F2]

def h0 : List Nat :=
  [0x6A09E667, 0xBB67AE85, 0x3C6EF372, 0xA54FF53A, 0x510E527F, 0x9B05688C, 0x1F83D9AB, 0x5BE0CD19]

def s0 (x : Nat) : Nat := (rotr x 7 ^^^ rotr x 18) ^^^ (x >>> 3)
def s1 (x : Nat) : Nat := (rotr x 17 ^^^ rotr x 19) ^^^ (x >>> 10)
def e0 (x : Nat) : Nat := (rotr x 2 ^^^ rotr x 13) ^^^ rotr x 22
def e1 (x : Nat) : Nat := (rotr x 6 ^^^ rotr x 11) ^^^ rotr x 25

/-- The message schedule, newest word first. -/
def extend : Nat → List Nat → List Nat
  | 0, w => w
  | k + 1, w =>
    extend k (((s1 (w.getD 1 0) + w.getD 6 0 + s0 (w.getD 14 0) + w.getD 15 0) % two32) :: w)

structure Regs where
  a : Nat
  b : Nat
  c : Nat
  d : Nat
  e : Nat
  f : Nat
  g : Nat
  h : Nat

def round (r : Regs) (kw : Nat × Nat) : Regs :=
  let ch := (r.e &&& r.f) ^^^ ((two32 - 1 - r.e) &&& r.g)
  let maj := ((r.a &&& r.b) ^^^ (r.a &&& r.c)) ^^^ (r.b &&& r.c)
  let t1 := r.h + e1 r.e + ch + kw.1 + kw.2
  let t2 := e0 r.a + maj
  ⟨(t1 + t2) % two32, r.a, r.b, r.c, (r.d + t1) % two32, r.e, r.f, r.g⟩

/-- The big-endian 32-bit words of a block. -/
def words : List Byte → List Nat
  | a :: b :: c :: d :: rest =>
    (((a.toNat * 256 + b.toNat) * 256 + c.toNat) * 256 + d.toNat) :: words rest
  | _ => []

def compress (h : List Nat) (block : List Byte) : List Nat :=
  let w := (extend 48 (words block).reverse).reverse
  let g (i : Nat) := h.getD i 0
  let r := (kTable.zip w).foldl round ⟨g 0, g 1, g 2, g 3, g 4, g 5, g 6, g 7⟩
  [(g 0 + r.a) % two32, (g 1 + r.b) % two32, (g 2 + r.c) % two32, (g 3 + r.d) % two32,
   (g 4 + r.e) % two32, (g 5 + r.f) % two32, (g 6 + r.g) % two32, (g 7 + r.h) % two32]

def blocks : Nat → List Nat → List Byte → List Nat
  | 0, h, _ => h
  | k + 1, h, bs => blocks k (compress h (bs.take 64)) (bs.drop 64)

def pad (bs : List Byte) : List Byte :=
  let n := bs.length
  let z := (55 + 64 - n % 64) % 64
  bs ++ (0x80#8 :: List.replicate z 0#8) ++ (leBytes 8 (8 * n)).reverse

end Sha

/-- SHA-256 of a byte string. -/
def sha256 (bs : List Byte) : List Byte :=
  let p := Sha.pad bs
  (Sha.blocks (p.length / 64) Sha.h0 p).flatMap fun w => (leBytes 4 w).reverse

end Sys2Proof.Machine
end

