-- ==== Sys2Proof/Machine/Cipher.lean ====
section
/-!
DEFINITION. The cipher of LPDDR5X data: AES-256 (FIPS 197) in the XTS mode of IEEE 1619
over one 64-byte burst (R265), and the key of a paddock by the counter-mode KDF of
NIST SP 800-108 with HMAC-SHA-256 (R663).
-/

namespace Sys2Proof.Machine

/-! ### AES-256 -/

/-- Multiply by x in the field of AES. -/
def gfDouble (b : Byte) : Byte := if b.msb then (b <<< 1) ^^^ 0x1B else b <<< 1

/-- The product of two field elements: a times the bits of b, from the lowest of n up. -/
def gfMulBits (a b : Byte) : Nat → Byte
  | 0 => 0
  | n + 1 => (if b.getLsbD 0 then a else 0) ^^^ gfMulBits (gfDouble a) (b >>> 1) n

def gfMul (a b : Byte) : Byte := gfMulBits a b 8

/-- The inverse, with 0 for 0: the 254th power. -/
def gfInv (a : Byte) : Byte :=
  let a2 := gfMul a a
  let a3 := gfMul a2 a
  let a12 := let q := gfMul a3 a3; gfMul q q
  let a15 := gfMul a12 a3
  let a240 := let q := gfMul a15 a15; let q := gfMul q q; let q := gfMul q q; gfMul q q
  gfMul (gfMul a240 a12) a2

def subByte (x : Byte) : Byte :=
  let i := gfInv x
  i ^^^ i.rotateLeft 1 ^^^ i.rotateLeft 2 ^^^ i.rotateLeft 3 ^^^ i.rotateLeft 4 ^^^ 0x63

def unsubByte (y : Byte) : Byte := gfInv (y.rotateLeft 1 ^^^ y.rotateLeft 3 ^^^ y.rotateLeft 6 ^^^ 0x05)

def xorBytes (a b : List Byte) : List Byte := (a.zip b).map fun q => q.1 ^^^ q.2

/-- Word i of the key schedule from the words before it, newest first. -/
def nextKeyWord (i : Nat) (ws : List (List Byte)) : List Byte :=
  let last := ws.headD []
  let t :=
    if i % 8 = 0 then
      xorBytes ((last.drop 1 ++ last.take 1).map subByte) [(1 : Byte) <<< (i / 8 - 1), 0, 0, 0]
    else if i % 8 = 4 then last.map subByte
    else last
  xorBytes (ws.getD 7 []) t

/-- n more words of the schedule, newest first. -/
def keyWords (i : Nat) (ws : List (List Byte)) : Nat → List (List Byte)
  | 0 => ws
  | n + 1 => keyWords (i + 1) (nextKeyWord i ws :: ws) n

/-- The 15 round keys of a 32-byte key. -/
def roundKeys (key : List Byte) : List (List Byte) :=
  chunksOf 16 15 (keyWords 8 (chunksOf 4 8 key).reverse 52).reverse.flatten

/-- Byte i of the block after its rows have been shifted by `step` columns a row. -/
def shiftRows (step : Nat) (st : List Byte) : List Byte :=
  (List.range 16).map fun i => st.getD ((i + 4 * step * (i % 4)) % 16) 0

/-- One column times the circulant matrix whose first row is m. -/
def mixColumn (m col : List Byte) : List Byte :=
  (List.range 4).map fun r => (List.range 4).foldl (fun (a : Byte) (c : Nat) => a ^^^ gfMul (m.getD ((c + 4 - r) % 4) 0) (col.getD c 0)) 0

def mixColumns (m st : List Byte) : List Byte := (chunksOf 4 4 st).flatMap (mixColumn m)

/-- The rounds after the first key, the last of them without its mixing of columns. -/
def cipherRounds (st : List Byte) : List (List Byte) → List Byte
  | [] => st
  | [k] => xorBytes (shiftRows 1 (st.map subByte)) k
  | k :: ks => cipherRounds (xorBytes (mixColumns [2, 3, 1, 1] (shiftRows 1 (st.map subByte))) k) ks

def plainRounds (st : List Byte) : List (List Byte) → List Byte
  | [] => st
  | [k] => xorBytes ((shiftRows 3 st).map unsubByte) k
  | k :: ks => plainRounds (mixColumns [14, 11, 13, 9] (xorBytes ((shiftRows 3 st).map unsubByte) k)) ks

def aesEncrypt (key block : List Byte) : List Byte :=
  match roundKeys key with
  | [] => block
  | k :: ks => cipherRounds (xorBytes block k) ks

def aesDecrypt (key block : List Byte) : List Byte :=
  match (roundKeys key).reverse with
  | [] => block
  | k :: ks => plainRounds (xorBytes block k) ks

/-! ### XTS over a burst (R265) -/

/-- The tweaks of n blocks in turn, each twice the one before in the field of IEEE 1619. -/
def tweaks (t : Nat) : Nat → List (List Byte)
  | 0 => []
  | n + 1 => leBytes 16 t :: tweaks ((2 * t % 2 ^ 128) ^^^ (if t < 2 ^ 127 then 0 else 0x87)) n

/-- XTS over one burst: a 64-byte key, data key first; the burst's device address divided by 64 numbers the data unit. -/
def xts (cipher : List Byte → List Byte → List Byte) (key : List Byte) (dev : Nat) (bs : List Byte) : List Byte :=
  let t := leVal (aesEncrypt (key.drop 32) (leBytes 16 (dev / 64)))
  ((chunksOf 16 4 bs).zip (tweaks t 4)).flatMap fun q => xorBytes (cipher (key.take 32) (xorBytes q.1 q.2)) q.2

def encryptBurst : List Byte → Nat → List Byte → List Byte := xts aesEncrypt
def decryptBurst : List Byte → Nat → List Byte → List Byte := xts aesDecrypt

/-! ### The key of a paddock (R663) -/

/-- HMAC with SHA-256 (RFC 2104). -/
def hmac (key msg : List Byte) : List Byte :=
  let k := (if 64 < key.length then sha256 key else key)
  let k := k ++ List.replicate (64 - k.length) 0
  sha256 (k.map (· ^^^ 0x5C) ++ sha256 (k.map (· ^^^ 0x36) ++ msg))

/-- Key material of a paddock: the counter-mode KDF under K_dev, label PXPK, context h, serial and paddock number, 512 bits (R663). PRESUMED (log 132): counter and length are 32 bits big-endian, a zero byte parts label and context, and the serial takes 8 bytes and the paddock number one, little-endian. -/
def paddockKey (kdev h : List Byte) (serial p : Nat) : List Byte :=
  let fixed : List Byte := [0x50, 0x58, 0x50, 0x4B, 0] ++ h ++ leBytes 8 serial ++ leBytes 1 p ++ [0, 0, 2, 0]
  hmac kdev ([0, 0, 0, 1] ++ fixed) ++ hmac kdev ([0, 0, 0, 2] ++ fixed)

end Sys2Proof.Machine
end

