-- ==== Sys2Proof/Config.lean ====
section
/-!
DEFINITION. What a module is made with (OTP, R647), the functions of secrets and of
physics that the spec does not give as numbers, and the free values. An `opaque`
constant has no body: nothing can be proved of its value. The log entries named
stand in notes/assumptions.
-/

namespace Sys2Proof.Config

/-- A value the spec leaves open, drawn number n (log 1). -/
opaque freeValue : Nat → Nat

/-- OTP: the die serial of the west die, 64 bits (R647; log 4). -/
opaque serial : Nat
/-- OTP: memory grade is Q (R9, R564; log 4). -/
opaque gradeQ : Bool
/-- OTP: supply input is T, 12 V (R9, R564; log 4). -/
opaque supplyT : Bool
/-- OTP: ASCII stepping letter and digit (R11, R565; log 4). -/
opaque stepLetter : Nat
opaque stepDigit : Nat
/-- OTP: the 16 feature fuses (R566, R647; log 4). -/
opaque featureFuses : Nat
/-- OTP: SHA-256 of the firmware public key (R647; log 5). -/
opaque fwKeyHash : List Byte

/-- The 60-byte HSS public key of the device, from SEED and I (R648; log 5). -/
opaque deviceKey : List Byte
/-- The 5,236-byte HSS signature with index q over a message (R648, R659; log 5). -/
opaque sign : Nat → List Byte → List Byte
/-- Whether a firmware signature verifies: key, header bytes 0-255, signature (R650, R652; log 5). -/
opaque fwVerify : List Byte → List Byte → List Byte → Bool
/-- The n-th 32-byte output of the HMAC_DRBG since manufacture (R663; log 5). -/
opaque drbg : Nat → List Byte
/-- The device's key-derivation key K_dev (R648, R663; log 5). -/
opaque kdev : List Byte
/-- The content of the warm record and the settings of a training record are not described: what training number n of a channel finds, by channel and n (R247, R604; log 6). -/
opaque trainedSettings : Nat → Nat → List Byte
/-- Check bits that bit i of a burst contributes; their sum is the code of R257, which is linear (log 125). -/
opaque eccColumn : Nat → BitVec 16
/-- The package's mode registers require refresh management (R243; log 159). -/
opaque refreshManaged : Nat → Bool
/-- Repair resources of each bank of a package as delivered (R261; log 126). -/
opaque repairRows : Nat

/-- The canary that WARM_PREPARE writes into a package's last burst, 64 bytes (R608; log 6). -/
opaque canary : Nat → List Byte

/-- What the bytes of a checkpoint are masked with, by position: their encoding is not described (R406; log 75). -/
opaque checkpointMask : Nat → Byte

/-- Measured power of a die or paddock scaled from one voltage to another: power in mW, the die's pace, from mV, to mV (R55, R65; log 17). -/
opaque powerAt : Nat → Nat → Nat → Nat → Nat
/-- Predicted junction temperature in 0.25 C: die, Tj now, the die's pace, from mV, to mV (R55, R65; log 17). -/
opaque tjAt : Nat → Int → Nat → Nat → Nat → Int

/-- Bytes of XFER, EPOCH and LINK frames whose layout is not described: by what the frame says, and position (R413, R467, R471; log 55). -/
opaque frameBody : List Nat → Nat → Byte
/-- The transfer group in an XFER frame's header: by collection tag and transfer number (R412; log 55). -/
opaque xferGroup : Nat → Nat → Nat
/-- Cells that the update path and the memory writer hold for each incoming link: 0 and 1 (R414; log 54). -/
opaque stageCells : Nat → Nat

/-- The firmware's layout of what it keeps in pens and in save images: the byte at an offset, by what it holds (R306, R329, R530, R531; logs 97 and 129). -/
opaque controlByte : List Nat → Nat → Byte
/-- The address that a layer state gives for its column statistic: by paddock, context and layer (R375; log 129). -/
opaque columnAt : Nat → Nat → Nat → Nat

end Sys2Proof.Config
end

