-- ==== Sys2Proof/Machine/StLinks.lean ====
section
/-!
DEFINITION. The state of link ports (R407-R421, R444-R451), of MCL (R422-R432) and
of the die-to-die bridge (R31).
-/

namespace Sys2Proof.Machine

/-- The states of R416. -/
inductive PortState where
  | down
  | training
  | up
  | spared
  | out
  deriving DecidableEq, Repr, Inhabited

/-- What a window counts of a lane or lane group (R417): its number, uncorrectable codewords, losses of lock, corrected symbols. -/
structure LaneCount where
  lane : Nat
  uncorrectable : Nat
  locks : Nat
  corrected : Nat
  deriving DecidableEq, Repr, Inhabited

/-- A block that an adder has open (R445): the header of the frame that opened it and the sum so far. -/
structure OpenBlock where
  tree : Nat
  tag : Nat
  head : GradHead
  sum : GBlock
  deriving DecidableEq, Repr, Inhabited

/-- An input that waits at an adder (R447): the port it came on, 32 for the local stage, and the cells that its frame holds of the adder's credit until it is taken, counted with the frame's last block (R414). -/
structure WaitIn where
  src : Nat
  cells : Nat
  tree : Nat
  tag : Nat
  head : GradHead
  blk : GBlock
  deriving DecidableEq, Repr, Inhabited

/-- What a frame carries (R412, R441, R458, R462, R464, R467, R471). -/
inductive FrameBody where
  | grad (h : GradHead) (blocks : List GBlock)
  | sealed (r : SealRec)
  | close (r : CloseRec)
  | param (h : ParamHead) (payload : List Byte)
  | xfer (dest src number offset : Nat) (payload : List Byte)
  | epoch (r : EpochRec)
  | link (i : LinkInfo)
  deriving DecidableEq, Repr, Inhabited

/-- A frame to be sent, or sent and not yet acknowledged (R412, R413), or a record with its segments (R458): the paddock whose job it is of, 16 for a LINK frame (R551), the first lseq, the index of its first codeword (R411), cells, tree, tag and what it carries. -/
structure SentFrame where
  pad : Nat
  lseq : Nat
  index : Nat
  cells : Nat
  tree : Nat
  tag : Nat
  body : FrameBody
  deriving DecidableEq, Repr, Inhabited

/-- A link port with its adder (R407-R421, R444). `since` is when it went DOWN, `heardAt` when a codeword of its peer last came, `windowAt` when the window of R417 began (R17); `named` is the module's own postcode that its LINK frames carry since its last training (R646); `lseqIn` the next frame expected; `asksResend` a resend asked of the peer; `resent` the frame last resent and how often; `replay` the frames not yet acknowledged; `credit` the cells held at the peer's stages, `queue` the frames that wait for it at the transmitter and `waiting` those that their paddocks still hold (R551); `returned` the cells that this module's stages have freed and `owes` that a LINK frame is due; `link` the LINK frame last sent; `wordOut` the index of the next codeword; `inputs` what waits at the adder; `mismatch` the jobs whose PEER_MISMATCH was posted. -/
structure Port where
  state : PortState
  since : Nat
  heardAt : Nat
  windowAt : Nat
  retired : Option Nat
  counts : List LaneCount
  serial : Nat
  postcode : Nat
  named : Nat
  lseqIn : Nat
  lseqOut : Nat
  asksResend : Bool
  replay : List SentFrame
  resent : Nat × Nat
  credit : List (Nat × Int)
  queue : List SentFrame
  waiting : List SentFrame
  returned : List (Nat × Nat)
  owes : Bool
  link : Option SentFrame
  wordOut : Nat
  dropped : Nat
  mismatch : List Nat
  adder : List OpenBlock
  inputs : List WaitIn
  deriving DecidableEq, Repr, Inhabited

def Port.down : Port := ⟨.down, 0, 0, 0, none, [], 0, 0, 0, 0, 0, false, [], (0, 0), [], [], [], [], false, none, 0, 0, [], [], []⟩

/-- The lanes that carry codewords, in order of symbol: lane 4 in place of a retired one (R410, R416). -/
def Port.active (p : Port) : List Nat :=
  match p.retired with
  | none => [0, 1, 2, 3]
  | some r => [0, 1, 2, 3, 4].filter (· != r)

/-- A port that carries frames. -/
def Port.carries (p : Port) : Bool := p.state == .up || p.state == .spared

/-- A port that carried frames retrains (R418, R420). -/
def Port.retrain (p : Port) : Port := if p.carries then { p with state := .training } else p

/-- A stage of this module has freed cells: they go back to the peer in the next LINK frame (R85, R414). -/
def Port.giveBack (x : Port) (stage cells : Nat) : Port :=
  let had := ((x.returned.find? (·.1 == stage)).map (·.2)).getD 0
  if cells = 0 then x else { x with returned := (stage, had + cells) :: x.returned.filter (·.1 != stage), owes := true }

/-- A message of MCL (R424). -/
structure McMsg where
  op : Nat
  count : Nat
  rtag : Nat
  addr : Nat
  status : Nat
  aux : Nat
  deriving DecidableEq, Repr, Inhabited

/-- A unit of a DATA codeword: message slots, the rest of its four empty, or a granule (R423). -/
inductive McUnit where
  | messages (ms : List McMsg)
  | granule (bs : List Byte)
  deriving DecidableEq, Repr, Inhabited

/-- A DATA codeword: its cseq and the first of its ten units; the others are fill (R423, R430). -/
structure McWord where
  cseq : Nat
  units : List McUnit
  deriving DecidableEq, Repr, Inhabited

/-- What made a request of the module (R427, R432, R562): `buffer` writes the buffer of a letter (R575); `job` is of a context's turnout record; `gone` of a job that has ended. -/
inductive ReqKind where
  | watch
  | unwatch
  | postbox (p : Nat)
  | token (p : Nat)
  | buffer
  | job (p ctx ordinal : Nat)
  | gone
  deriving DecidableEq, Repr, Inhabited

/-- The paddock inside which a request waits (R551). -/
def ReqKind.pad : ReqKind → Option Nat
  | .postbox p | .token p | .job p _ _ => some p
  | _ => none

/-- A request of a context's job. -/
def ReqKind.ofJob (p c : Nat) : ReqKind → Bool
  | .job q d _ => q == p && d == c
  | _ => false

/-- A request that holds no tag (R424). -/
def noTag : Nat := 4096

/-- A module request that has not been answered: its message, with granules minus 1, and the granules that follow it (R424, R425), when it was made, whether it has been sent, and whether it is to be sent again and when (R432). -/
structure McReq where
  rtag : Nat
  kind : ReqKind
  addr : Nat
  waits : Bool
  op : Nat
  count : Nat
  aux : Nat
  data : List (List Byte)
  since : Nat
  sent : Bool
  again : Nat
  deriving DecidableEq, Repr, Inhabited

/-- Its message (R424). -/
def McReq.msg (r : McReq) : McMsg := ⟨r.op, r.count, r.rtag, r.addr, 0, r.aux⟩

/-- Bytes that it moves (R551). -/
def McReq.bytes (r : McReq) : Nat := 64 * (r.count + 1)

/-- MCL (R422-R432). `began` says that it has trained since the start, `heardAt` when a codeword last came, `windowAt` when the window of R417 began (R17); `granted` is the credit that the companion holds: request slots, data units, invalidation slots (R429); `cseqIn` is the next codeword expected, `cseqOut` the next to send, `held` the codewords in the replay buffer, `unsent` the units of those that wait for room in it; `retry` the cseq that RETRY last named and how often in a row; `again` the codewords last sent again; `reply` the last data answer sent. -/
structure Mcl where
  trained : Bool
  began : Bool
  heardAt : Nat
  windowAt : Nat
  active : List Nat
  retired : List Nat
  counts : List LaneCount
  cseqIn : Nat
  cseqOut : Nat
  held : List McWord
  unsent : List (List McUnit)
  retry : Nat × Nat
  again : List Nat
  asksRetry : Bool
  reqCredit : Nat
  dataCredit : Nat
  granted : Nat × Nat × Nat
  watched : List Nat
  requests : List McReq
  nextTag : Nat
  reply : List Byte
  replyStatus : Nat
  deriving DecidableEq, Repr, Inhabited

def Mcl.reset : Mcl := ⟨false, false, 0, 0, [], [], [], 0, 0, [], [], (0, 0), [], false, 0, 0, (0, 0, 0), [], [], 0, [], 0⟩
def Mcl.retrain (m : Mcl) : Mcl := { m with trained := false }

/-- MCL runs on 8 lanes (R43, R568). -/
def Mcl.narrow (m : Mcl) : Bool := m.active.length == 8

/-- The lanes that training makes active: the lowest 16 good lanes that are not retired, or the lowest 8 (R431). -/
def Mcl.pick (m : Mcl) (good : Nat) : List Nat :=
  let ls := (bitsSet 18 good).filter fun l => !m.retired.contains l
  if 16 ≤ ls.length then ls.take 16 else ls.take 8

/-- Training reaches DONE: lanes fixed, credit granted afresh to both ends (R429, R431). -/
def Mcl.trainedWith (m : Mcl) (good now : Nat) : Mcl :=
  { m with
    trained := true, began := true, heardAt := now, windowAt := now, active := m.pick good, counts := [], reqCredit := 256, dataCredit := 1024
    granted := (256, 1024, 64), retry := (0, 0), asksRetry := false }

/-- The bridge: retired lane groups of each direction as direction * 256 + group, what the windows count, and when the window of each direction began (R31, R417). -/
structure Bridge where
  retired : List Nat
  counts : List LaneCount
  windowAt : Nat × Nat
  deriving DecidableEq, Repr, Inhabited

def Bridge.reset : Bridge := ⟨[], [], (0, 0)⟩

end Sys2Proof.Machine
end

