-- ==== Sys2Proof/Machine/Codeword.lean ====
section
/-!
DEFINITION. What travels on the links and on MCL: codewords and their code (R410,
R422), link codewords with their cells (R411), frames (R412, R441, R442, R458, R462,
R464), and the DATA codewords of MCL (R423, R424).
-/

namespace Sys2Proof.Machine

/-! ### Reed-Solomon (544, 514) over 10-bit symbols (R410; log 130) -/

/-- Double an element of GF(2^10), modulo x^10 + x^3 + 1. -/
def symDouble (a : Nat) : Nat := if 2 * a < 1024 then 2 * a else 2 * a ^^^ 0x409

def symMul (a b : Nat) : Nat :=
  ((List.range 10).foldl (fun (s : Nat × Nat) i => (if bitOf b i then s.1 ^^^ s.2 else s.1, symDouble s.2)) (0, a)).1

/-- A polynomial, highest power first, times x + r. -/
def timesRoot (g : List Nat) (r : Nat) : List Nat := ((g ++ [0]).zip (0 :: g.map (symMul r))).map fun (ab : Nat × Nat) => ab.1 ^^^ ab.2

/-- The generator polynomial: its roots are the first 30 powers of x. -/
def rsGenerator : List Nat :=
  ((List.range 30).foldl (fun (s : List Nat × Nat) _ => (timesRoot s.1 s.2, symDouble s.2)) ([1], 1)).1

/-- The 30 check symbols of 514 symbols: the remainder on division by the generator. -/
def rsCheck (ms : List Nat) : List Nat :=
  ms.foldl (fun rem m =>
    let f := m ^^^ rem.headD 0
    ((rem.drop 1 ++ [0]).zip (rsGenerator.drop 1)).map fun (ab : Nat × Nat) => ab.1 ^^^ symMul f ab.2) (List.replicate 30 0)

/-- The low n symbols of a number, least significant first. -/
def symbolsOf : Nat → Nat → List Nat
  | 0, _ => []
  | n + 1, v => v % 1024 :: symbolsOf n (v / 1024)

/-- The 544 symbols of a codeword: header, payload, check symbols (R410). -/
def codeword (header : Nat) (payload : List Byte) : List Nat :=
  let ms := symbolsOf 514 (header + leVal (payload.take 640) * 2 ^ 20)
  ms ++ rsCheck ms

/-- Positions of a codeword whose symbol arrived changed. -/
def errored (es : List (Nat × Nat)) : List Nat := ((es.filter fun e => decide (e.1 < 544) && e.2 % 1024 != 0).map (·.1)).eraseDups

/-- The code corrects up to 15 symbol errors (R410). -/
def corrects (es : List (Nat × Nat)) : Bool := decide ((errored es).length ≤ 15)

/-- Symbol n travels on active lane n mod the number of active lanes (R410, R422). -/
def laneOf (active : List Nat) (n : Nat) : Nat := active.getD (n % max 1 active.length) 0

/-- Errored symbols that a lane carried (R417). -/
def laneErrors (active : List Nat) (es : List (Nat × Nat)) (lane : Nat) : Nat :=
  ((errored es).filter fun n => laneOf active n == lane).length

/-- The lane in which the errored symbols mostly lie: more than half of them (R417). -/
def mostLane (active : List Nat) (es : List (Nat × Nat)) : Option Nat :=
  active.find? fun l => decide ((errored es).length < 2 * laneErrors active es l)

/-! ### Link codewords (R411) -/

inductive CodeType where
  | data
  | idle
  | hold
  | train
  deriving DecidableEq, Repr, Inhabited

def CodeType.code : CodeType → Nat
  | .data => 0
  | .idle => 1
  | .hold => 2
  | .train => 3

/-- A codeword of a link port: of DATA, five cells with those that begin a frame and those that are fill; IDLE and HOLD carry none (R411). -/
structure LinkWord where
  ctype : CodeType
  start : Nat
  fill : Nat
  index : Nat
  cells : List (List Byte)
  deriving DecidableEq, Repr, Inhabited

/-- The 20 header bits (R411). -/
def LinkWord.header (w : LinkWord) : Nat :=
  w.ctype.code * 2 ^ 18 + w.start % 32 * 2 ^ 13 + w.fill % 32 * 2 ^ 8 + w.index % 16 * 2 ^ 4

def LinkWord.symbols (w : LinkWord) : List Nat := codeword w.header w.cells.flatten

/-! ### Frames (R412) -/

/-- CRC-32C of bytes (R412). -/
def crc32c (bs : List Byte) : Nat :=
  (bs.foldl (fun c b => (List.range 8).foldl (fun c _ => if c % 2 = 1 then c / 2 ^^^ 0x82F63B78 else c / 2) (c ^^^ b.toNat)) 0xFFFFFFFF)
    ^^^ 0xFFFFFFFF

/-- A block (R442). -/
def GBlock.bytes (g : GBlock) : List Byte :=
  (g.q.map fun q => leBytes 5 (unsignedOf 40 q)).flatten ++
    leBytes 8 (bit g.bad * 2 ^ 53 + bit g.sat * 2 ^ 52 + bit g.nf * 2 ^ 51 + g.members * 2 ^ 32 + g.blkSeal)

/-- Bytes of a seal record and of a CLOSE record (R458, R462). -/
def sealSize (r : SealRec) : Nat := 96 + 4 * r.nclass
def closeSize (r : CloseRec) : Nat := 32 + ceilDiv (ceilDiv r.nlayer 8) 4 * 4

def sealBytes (r : SealRec) : List Byte :=
  leBytes 8 r.step ++ leBytes 4 r.epoch ++ leBytes 1 r.attempt ++ leBytes 1 r.votes ++ leBytes 2 r.nclass ++ leBytes 16 r.nsq ++
    r.setdig ++ r.coefdig ++ (r.amax.map fun v => leBytes 4 v.toNat).flatten

def closeBytes (r : CloseRec) : List Byte :=
  leBytes 8 r.step ++ leBytes 4 r.epoch ++ leBytes 1 r.attempt ++ leBytes 1 r.votes ++ leBytes 2 0 ++ leBytes 4 r.nlayer ++
    List.replicate 12 0 ++ leBytes (closeSize r - 32) r.live

/-- Payload bytes of a full frame, and cells of a frame with a payload (R464; of XFER, log 54). -/
def framePayload : Nat := 2016
def cellsFor (bytes : Nat) : Nat := ceilDiv (32 + bytes) 128

/-- A record in segments of up to 2,016 bytes, each after its header: total length, offset and attempt (R458; log 55). -/
def recordSegments (attempt : Nat) (bs : List Byte) : List (List Byte) :=
  (chunksOf framePayload (ceilDiv bs.length framePayload) bs).zipIdx.map fun bi =>
    leBytes 4 bs.length ++ leBytes 4 (framePayload * bi.2) ++ leBytes 1 attempt ++ List.replicate 7 0 ++ bi.1

/-- Cells of the frames that carry a record or a stream in segments of up to 2,016 bytes, summed (R458; log 55). -/
def recCells (size : Nat) : Nat := ((List.range (ceilDiv size framePayload)).map fun i => cellsFor (min framePayload (size - i * framePayload))).sum

/-- The type byte of a frame (R412). -/
def FrameBody.type : FrameBody → Nat
  | .grad _ _ => 1
  | .sealed _ => 2
  | .close _ => 3
  | .param _ _ => 4
  | .xfer _ _ _ _ _ => 5
  | .epoch _ => 6
  | .link _ => 16

/-- Frames that a body takes: the segments of a record, else one (R458). -/
def FrameBody.frames : FrameBody → Nat
  | .sealed r => ceilDiv (sealSize r) framePayload
  | .close r => ceilDiv (closeSize r) framePayload
  | _ => 1

/-- What follows the header in each of its frames; the layouts of XFER, EPOCH and LINK are not described (R441, R458, R462, R464; log 55). -/
def FrameBody.parts : FrameBody → List (List Byte)
  | .grad h bs => [leBytes 3 h.bucket ++ leBytes 1 bs.length ++ leBytes 4 h.block ++ leBytes 1 (unsignedOf 8 h.exp) ++ leBytes 1 h.attempt ++
      leBytes 2 h.epoch ++ leBytes 4 h.step ++ bs.flatMap GBlock.bytes]
  | .sealed r => recordSegments r.attempt (sealBytes r)
  | .close r => recordSegments r.attempt (closeBytes r)
  | .param h bs => [leBytes 3 h.bucket ++ leBytes 1 h.kind ++ leBytes 4 h.offset ++ leBytes 4 bs.length ++ leBytes 4 h.step ++ bs]
  | .xfer dest src number offset bs => [(List.range 16).map (Config.frameBody [5, dest, src, number, offset, bs.length]) ++ bs]
  | .epoch r => [(List.range 64).map (Config.frameBody ([6, r.epoch, r.step, bit r.differs] ++ r.roleDigest.map (·.toNat)))]
  | .link i => [(List.range (32 + 16 * i.credits.length)).map (Config.frameBody
      ([16, i.acked.getD (2 ^ 32), i.resend.getD (2 ^ 32), i.serial, i.postcode] ++ i.credits.flatMap fun c => [c.1, c.2]))]

/-- A frame in cells: header with its check, then its part, then zeros (R412). -/
def frameCells (type tree tag lseq : Nat) (part : List Byte) : List (List Byte) :=
  let cells := ceilDiv (16 + part.length) 128
  let head := leBytes 1 type ++ leBytes 1 cells ++ leBytes 2 tree ++ leBytes 4 tag ++ leBytes 4 lseq
  let rest := part ++ List.replicate (128 * cells - 16 - part.length) 0
  chunksOf 128 cells (head ++ leBytes 4 (crc32c (head ++ [0, 0, 0, 0] ++ rest)) ++ rest)

/-- The cells of a sent entry, each with whether it begins a frame (R411, R412). -/
def SentFrame.cellsOf (f : SentFrame) : List (Bool × List Byte) :=
  f.body.parts.zipIdx.flatMap fun pi =>
    (frameCells f.body.type f.tree f.tag (f.lseq + pi.2) pi.1).zipIdx.map fun ci => (ci.2 == 0, ci.1)

/-- A DATA codeword of up to five cells; the rest is fill (R411). -/
def dataWord (index : Nat) (cs : List (Bool × List Byte)) : LinkWord :=
  { ctype := .data, index := index % 16
    start := (cs.zipIdx.map fun ci => bit ci.1.1 * 2 ^ ci.2).sum
    fill := 31 - (2 ^ min 5 cs.length - 1)
    cells := cs.map (·.2) ++ List.replicate (5 - cs.length) (List.replicate 128 0) }

/-- The codewords that carry a sent entry, from a codeword of its own on (R411; log 55). -/
def SentFrame.words (f : SentFrame) : List LinkWord :=
  (chunksOf 5 (ceilDiv f.cells 5) f.cellsOf).zipIdx.map fun ci => dataWord (f.index + ci.2) ci.1

/-! ### Codewords of MCL (R423, R424) -/

/-- A message slot (R424). -/
def McMsg.bytes (m : McMsg) : List Byte :=
  leBytes 1 m.op ++ leBytes 1 m.count ++ leBytes 2 m.rtag ++ leBytes 6 m.addr ++ leBytes 1 m.status ++ [0] ++ leBytes 4 m.aux

/-- A unit: four slots, those without a message empty, or a granule (R423). -/
def McUnit.bytes : McUnit → List Byte
  | .messages ms => ((ms.flatMap McMsg.bytes) ++ List.replicate 64 0).take 64
  | .granule bs => (bs ++ List.replicate 64 0).take 64

def McUnit.isMessages : McUnit → Bool
  | .messages _ => true
  | .granule _ => false

/-- Header bits of a DATA codeword: ctype 0, cseq, umask (R423). -/
def McWord.header (w : McWord) : Nat := w.cseq * 2 ^ 10 + (w.units.zipIdx.map fun u => bit u.1.isMessages * 2 ^ u.2).sum

/-- The header of an IDLE codeword, which carries no units, and of a TRAIN codeword (R423). -/
def idleHeader : Nat := 2 ^ 18
def trainHeader : Nat := 3 * 2 ^ 18

/-- A TRAIN codeword of a lane (R431): step 1 LOCK, 2 EQUALISE, 3 MAP, 4 DONE; the request to and the answer for the far transmitter; active lanes, width, the last cseq taken, whether that means something, and who sends. -/
structure TrainWord where
  step : Nat
  lane : Nat
  req : Nat
  resp : Nat
  active : Nat
  width : Nat
  taken : Nat
  valid : Bool
  serial : Nat
  deriving DecidableEq, Repr, Inhabited

/-- Its payload (R431). -/
def TrainWord.bytes (w : TrainWord) : List Byte :=
  [0x50, 0x58, 0x4D, 0x4C] ++ leBytes 1 w.step ++ leBytes 1 w.lane ++ leBytes 1 w.req ++ leBytes 1 w.resp ++ leBytes 4 w.active ++
    leBytes 1 w.width ++ leBytes 1 w.taken ++ leBytes 1 (bit w.valid) ++ [0] ++ leBytes 8 w.serial ++ List.replicate 616 0

def TrainWord.symbols (w : TrainWord) : List Nat := codeword trainHeader w.bytes

def McWord.symbols (w : McWord) : List Nat := codeword w.header (w.units.flatMap McUnit.bytes)

end Sys2Proof.Machine
end

