-- ==== Sys2Proof/Machine/Records.lean ====
section
/-!
DEFINITION. Parcels as typed data: the header (R587), stream descriptors (R113,
R588) and the records (R589-R593), and how each is read from its bytes (R574,
R590). The limits that later rules set are checked elsewhere.
-/

namespace Sys2Proof.Machine

/-- One loop of a stream descriptor (R113, R588). -/
structure Loop where
  count : Nat
  stride : Int
  lo : Nat
  hi : Nat
  deriving DecidableEq, Repr, Inhabited

/-- A stream descriptor (R113, R588); `loops` innermost first. `sbase` is the scale base of an MX descriptor (R194). -/
structure Desc where
  base : Nat
  mx : Bool
  sbase : Nat
  loops : List Loop
  deriving DecidableEq, Repr, Inhabited

/-- A record's rtype decides which of these it holds; the header of R589. -/
structure RecHead where
  tag : Nat
  side : Nat
  sampling : Bool
  rows : Nat
  grain : Nat
  lstable : Nat
  deriving DecidableEq, Repr, Inhabited

/-- The K.CONV fields of R591 (R115). -/
structure ConvFields where
  fh : Nat
  fw : Nat
  strideH : Nat
  strideW : Nat
  dilH : Nat
  dilW : Nat
  padTop : Nat
  padBottom : Nat
  padLeft : Nat
  padRight : Nat
  width : Nat
  groups : Nat
  deriving DecidableEq, Repr, Inhabited

/-- A KERNEL record (R591). Descriptor numbers of 0xFFFF mean none. -/
structure KernelRec where
  kop : Nat
  fmtA : Nat
  fmtB : Nat
  fmtC : Nat
  m : Nat
  k : Nat
  n : Nat
  aDesc : Nat
  bDesc : Nat
  cDesc : Nat
  preDesc : Nat
  rowMask : Nat
  scaleA : Int
  scaleB : Int
  scaleC : Int
  chunk : Nat
  mode : Nat
  esize : Nat
  partialOff : Nat
  srefA : Nat
  srefB : Nat
  srefC : Nat
  srTag : Nat
  micro : Nat
  conv : ConvFields
  progBlob : Nat
  progOff : Nat
  progLen : Nat
  gdesc : List Nat
  deriving DecidableEq, Repr, Inhabited

/-- A BRANCH record (R592). -/
structure BranchRec where
  src : Nat
  comb : Nat
  cond : Nat
  isUnsigned : Bool
  value : Nat
  target : Nat
  other : Nat
  limit : Nat
  deriving DecidableEq, Repr, Inhabited

/-- The fields of S.MV (R276). -/
structure MvRec where
  n : Nat
  k : Nat
  nv : Nat
  fmtW : Nat
  fmtV : Nat
  fmtC : Nat
  wBase : Nat
  sBase : Nat
  vDesc : Nat
  cDesc : Nat
  scaleW : Int
  scaleV : Int
  scaleC : Int
  deriving DecidableEq, Repr, Inhabited

/-- The fields of S.ATTN (R280). -/
structure AttnRec where
  kvList : Nat
  nblk : Nat
  valid : Nat
  seglen : Nat
  d : Nat
  g : Nat
  fmtKv : Nat
  fmtQ : Nat
  qDesc : Nat
  sc : Int
  qkScale : W32
  final : Bool
  outDesc : Nat
  fmtOut : Nat
  deriving DecidableEq, Repr, Inhabited

/-- The fields of S.ACOMB (R283). -/
structure AcombRec where
  shed : Nat
  partials : Nat
  segments : Nat
  d : Nat
  g : Nat
  fmtOut : Nat
  outDesc : Nat
  deriving DecidableEq, Repr, Inhabited

/-- The fields of S.COPY (R285). -/
structure CopyRec where
  base : Nat
  length : Nat
  pen : Nat
  toPen : Bool
  deriving DecidableEq, Repr, Inhabited

/-- The fields of S.FILL (R286). -/
structure FillRec where
  base : Nat
  length : Nat
  keyed : Bool
  deriving DecidableEq, Repr, Inhabited

/-- A TURNOUT record (R590, R294). -/
structure TurnRec where
  xpose : Bool
  esize : Nat
  rows : Nat
  cols : Nat
  src : Nat
  dst : Nat
  deriving DecidableEq, Repr, Inhabited

/-- A STEP_BEGIN record (R335). -/
structure StepBeginRec where
  step : Nat
  micro : Nat
  repeatLimit : Nat
  lossRec : Nat
  lossReg : Nat
  norm : W32
  tLo : Nat
  tHi : Nat
  balance : Bool
  collectTimeout : Nat
  inputs : List Nat
  deriving DecidableEq, Repr, Inhabited

/-- One override of R377. -/
structure CoefOver where
  cls : Nat
  field : Nat
  value : W32
  deriving DecidableEq, Repr, Inhabited

/-- A step coefficient record (R377). -/
structure StepCoef where
  lr : W32
  gscale : W32
  clipNorm : W32
  driftLo : W32
  driftHi : W32
  overrides : List CoefOver
  deriving DecidableEq, Repr, Inhabited

/-- A schedule in place of a record's fields (R593). -/
structure Schedule where
  blobOff : Nat
  blobLen : Nat
  base : Nat
  count : Nat
  deriving DecidableEq, Repr, Inhabited

/-- A class coefficient record (R376). -/
structure ClassCoef where
  cls : Nat
  a1 : W32
  b1 : W32
  a2 : W32
  b2 : W32
  c1 : W32
  c2 : W32
  eps : W32
  e : W32
  wd : W32
  colInit : W32
  psi : Nat
  bias : Nat
  factored : Bool
  engineShed : Bool
  silentLimit : Nat
  deriving DecidableEq, Repr, Inhabited

/-- A layer declaration record (R372). -/
structure LayerRec where
  layer : Nat
  cls : Nat
  frozen : Bool
  rows : Nat
  cols : Nat
  hiBase : Nat
  rBase : Nat
  s1Base : Nat
  s2Base : Nat
  rowBase : Nat
  bstride : Nat
  n0 : Nat
  stage : Nat
  deriving DecidableEq, Repr, Inhabited

/-- A SCALE record (R590, R223). Target 0 means WIRE. -/
structure ScaleRec where
  cls : Nat
  target : Nat
  shared : Bool
  fallback : Int
  deriving DecidableEq, Repr, Inhabited

/-- A pigeonhole record (R316). -/
structure PhRec where
  handle : Nat
  full : Bool
  k : Nat
  vocab : Nat
  tcode : Nat
  slots : Nat
  base : Nat
  letters : Nat
  tokenMap : Nat
  occupancy : Bool
  deriving DecidableEq, Repr, Inhabited

/-- A save record (R349). -/
structure SaveRec where
  tensor : Nat
  mode : Nat
  fmt : Nat
  home : Nat
  writer : Nat
  reader : Nat
  far : Nat
  outAt : Nat
  backAt : Nat
  deriving DecidableEq, Repr, Inhabited

/-- A collection record (R434). -/
structure CollectionRec where
  tag : Nat
  members : Nat
  role : Nat
  buckets : Nat
  sealLog : Nat
  deriving DecidableEq, Repr, Inhabited

/-- A bucket record (R435). -/
structure BucketRec where
  bucket : Nat
  layer : Nat
  row0 : Nat
  rows : Nat
  cls : Nat
  tree : Nat
  owner : Nat
  grad : Nat
  deriving DecidableEq, Repr, Inhabited

/-- A tree record (R436). `downPeer` pairs each port of the down mask with its child's role. -/
structure TreeRec where
  tree : Nat
  upPort : Nat
  finalPort : Nat
  upPeer : Nat
  downMask : Nat
  downPeer : List (Nat × Nat)
  below : Nat
  deriving DecidableEq, Repr, Inhabited

/-- A serving record (R483). -/
structure ServingRec where
  model : Nat
  chunk : Nat
  budget : Nat
  maxCtx : Nat
  heads : Nat
  queueLimit : Nat
  kvLayers : Nat
  kvHeads : Nat
  d : Nat
  fmtKv : Nat
  seglen : Nat
  kvPool : List Nat
  cBase : Nat
  cStream : Nat
  cChunk : Nat
  margin : W32
  swap : Bool
  deriving DecidableEq, Repr, Inhabited

/-- The body of a record, by its rtype (R590). -/
inductive RecBody where
  | kernel (r : KernelRec)
  | branch (r : BranchRec)
  | mv (r : MvRec)
  | attn (r : AttnRec)
  | acomb (r : AcombRec)
  | copy (r : CopyRec)
  | fill (r : FillRec)
  | turnout (r : TurnRec)
  | phase (ph first count : Nat)
  | stepBegin (r : StepBeginRec)
  | stepEnd
  | stepCoef (r : StepCoef)
  | stepCoefs (r : Schedule)
  | classCoef (r : ClassCoef)
  | layer (r : LayerRec)
  | scale (r : ScaleRec)
  | pigeonhole (r : PhRec)
  | save (r : SaveRec)
  | collection (r : CollectionRec)
  | bucket (r : BucketRec)
  | tree (r : TreeRec)
  | route (off len : Nat)
  | collSet (all : Bool) (off len : Nat)
  | collSets (r : Schedule)
  | roleTable (off len : Nat)
  | serving (r : ServingRec)
  | xferSend (role number src : Nat)
  | xferRecv (role number dst duration : Nat)
  deriving DecidableEq, Repr, Inhabited

/-- One record of a parcel. -/
structure Rec where
  head : RecHead
  body : RecBody
  deriving DecidableEq, Repr, Inhabited

/-- A parcel as PARCEL_LOAD leaves it in the context (R587). -/
structure Parcel where
  kind : Nat
  jobSeed : W64
  mclTimeout : Nat
  watchWarn : Nat
  watchHalt : Nat
  digest : List Byte
  recs : List Rec
  descs : List Desc
  blob : List Byte
  deriving DecidableEq, Repr, Inhabited

/-! ### Field packing (R574) -/

/-- A reader over the bytes of a letter or record: the bits that are left, how many bits were read, and whether a bit that must be zero was not. -/
structure Rd where
  v : Nat
  pos : Nat
  bad : Bool
  deriving DecidableEq, Repr, Inhabited

def rdOf (bs : List Byte) : Rd := ⟨leVal bs, 0, false⟩

/-- Skip `n` bits that must be zero. -/
def rdZero (n : Nat) (r : Rd) : Rd := ⟨r.v >>> n, r.pos + n, r.bad || r.v % 2 ^ n != 0⟩

/-- Start the next byte (R574). -/
def rdAlign (r : Rd) : Rd := if r.pos % 8 = 0 then r else rdZero (8 - r.pos % 8) r

/-- Take one field of `w` bits in the packing of R574. -/
def rdField (w : Nat) (r : Rd) : Nat × Rd :=
  let r := if w < 8 then (if 8 < r.pos % 8 + w then rdAlign r else r) else rdAlign r
  let v := r.v % 2 ^ w
  let r : Rd := ⟨r.v >>> w, r.pos + w, r.bad⟩
  (v, if w < 8 then r else rdAlign r)

/-- Take fields of the given widths in turn. -/
def rdFields : List Nat → Rd → List Nat × Rd
  | [], r => ([], r)
  | w :: ws, r =>
    let (v, r) := rdField w r
    let (vs, r) := rdFields ws r
    (v :: vs, r)

/-- A list of up to `n` entries of fields (R574): a 1-byte count, then n entries of which the unused are zero. None where the count exceeds n. -/
def rdList (n : Nat) (ws : List Nat) (r : Rd) : Option (List (List Nat)) × Rd :=
  let (c, r) := rdField 8 r
  let rec go : Nat → Rd → List (List Nat) × Rd
    | 0, r => ([], r)
    | k + 1, r =>
      let (e, r) := rdFields ws r
      let (es, r) := go k r
      (e :: es, r)
  let (es, r) := go n r
  let unusedBad := (es.drop c).any fun e => e.any (· != 0)
  (if n < c then none else some (es.take c), ⟨r.v, r.pos, r.bad || unusedBad⟩)

/-- The rest must be zero. -/
def rdEnd (r : Rd) : Bool := !r.bad && r.v == 0

/-- Element `i` of a list of fields. -/
def nth (l : List Nat) (i : Nat) : Nat := l.getD i 0

/-! ### Descriptors (R588) -/

def loopOf (v : Nat) : Loop :=
  ⟨bitsOf v 19 0 + 1, signedOf 32 (bitsOf v 51 20), bitsOf v 71 52, bitsOf v 91 72⟩

def loopEntry (bs : List Byte) (i : Nat) : Nat := leVal ((bs.drop (16 + 12 * i)).take 12)

/-- A descriptor's reserved fields and the entries at and above nloops are zero (R588). -/
def descReservedOk (bs : List Byte) : Bool :=
  let n := ((bs.drop 6).headD 0).toNat
  let flags := ((bs.drop 7).headD 0).toNat
  decide (flags ≤ 1) && leVal ((bs.drop 14).take 2) == 0 && leVal ((bs.drop 76).take 4) == 0 &&
  (List.range 5).all fun i =>
    let v := loopEntry bs i
    if i < n then bitsOf v 95 92 == 0 else v == 0

/-- The descriptor that 80 bytes spell. -/
def descOf (bs : List Byte) : Desc :=
  let n := ((bs.drop 6).headD 0).toNat
  let flags := ((bs.drop 7).headD 0).toNat
  ⟨leVal (bs.take 6), flags % 2 == 1, leVal ((bs.drop 8).take 6),
    (List.range (min n 5)).map fun i => loopOf (loopEntry bs i)⟩

/-- nloops and every loop are within the limits of R113 and R588, and an MX descriptor holds whole blocks in its innermost loop (R194). A loop whose lo lies above its hi is refused too, which is the model's choice: R113 only bounds both by the count (log 120). -/
def descLimitsOk (bs : List Byte) : Bool :=
  let n := ((bs.drop 6).headD 0).toNat
  decide (1 ≤ n ∧ n ≤ 5) && ((descOf bs).loops.all fun l => decide (l.hi < l.count ∧ l.lo ≤ l.hi)) &&
    (!(descOf bs).mx || (((descOf bs).loops.head?).map (·.count)).getD 0 % 32 == 0)

/-- The lowest and one past the highest byte that a descriptor's positions reach (R153). -/
def Desc.span (d : Desc) (bytes : Nat) : Nat × Nat :=
  let ext := d.loops.map fun l =>
    let top := l.stride * ((l.count - 1 : Nat) : Int)
    if top < 0 then (top, (0 : Int)) else (0, top)
  let lo := (ext.map (·.1)).foldl (· + ·) 0
  let hi := (ext.map (·.2)).foldl (· + ·) 0
  (((d.base : Int) + lo).toNat, ((d.base : Int) + hi).toNat + bytes)

/-! ### Records (R589-R592) -/

/-- Little-endian field at a fixed offset. -/
def fieldAt (bs : List Byte) (off n : Nat) : Nat := leVal ((bs.drop off).take n)

def kernelOf (bs : List Byte) : KernelRec × Bool :=
  let f := fieldAt bs
  let kop := f 16 1
  let m4 := f 20 4; let k4 := f 24 4; let n4 := f 28 4
  let isTopk := kop == 4
  let m := bitsOf m4 23 0
  let k := if isTopk then bitsOf k4 20 0 else bitsOf k4 16 0
  let n := if isTopk then bitsOf n4 10 0 else bitsOf n4 19 0
  let part := f 48 4
  let micro := f 60 2
  let conv : ConvFields := ⟨f 64 1, f 65 1, f 66 1, f 67 1, f 68 1, f 69 1, f 70 1, f 71 1, f 72 1, f 73 1,
    f 74 3, f 77 3 + 1⟩
  let nd := f 90 1
  let gd := (List.range 16).map fun i => f (92 + 2 * i) 2
  let reservedOk :=
    m4 == m && k4 == k && n4 == n && part == bitsOf part 20 0 && micro == bitsOf micro 11 0 &&
    f 62 2 == 0 && f 91 1 == 0 && f 124 4 == 0 && (kop == 2 || f 64 16 == 0)
  (⟨kop, f 17 1, f 18 1, f 19 1, m, k, n, f 32 2, f 34 2, f 36 2, f 38 2, f 40 2,
    signedOf 8 (f 42 1), signedOf 8 (f 43 1), signedOf 8 (f 44 1), f 45 1, f 46 1, f 47 1, bitsOf part 20 0,
    f 52 2, f 54 2, f 56 2, f 58 2, bitsOf micro 11 0, conv, f 80 4, f 84 4, f 88 2, gd.take nd⟩, reservedOk)

def branchOf (bs : List Byte) : BranchRec × Bool :=
  let f := fieldAt bs
  (⟨f 16 1, f 17 1, f 18 1, f 19 1 == 1, f 20 4, f 24 4, f 28 4, f 32 4⟩, (bs.drop 36).all (· == 0))

/-- What a record's bytes give: the body and whether its reserved bits are zero; none where a list count is out of range. -/
structure BodyRead where
  body : Option RecBody
  reservedOk : Bool
  deriving DecidableEq, Repr, Inhabited

def done (r : Rd) (b : RecBody) : BodyRead := ⟨some b, rdEnd r⟩

def w32 (n : Nat) : W32 := BitVec.ofNat 32 n

def shedOf (r : Rd) : BodyRead :=
  let (op, r) := rdField 8 r
  match op with
  | 1 =>
    let (l, r) := rdFields [24, 17, 4, 8, 8, 8, 48, 48, 16, 16, 8, 8, 8] r
    done r (.mv ⟨nth l 0, nth l 1, nth l 2, nth l 3, nth l 4, nth l 5, nth l 6, nth l 7, nth l 8, nth l 9,
      signedOf 8 (nth l 10), signedOf 8 (nth l 11), signedOf 8 (nth l 12)⟩)
  | 2 =>
    let (l, r) := rdFields [48, 24, 8, 8, 16, 8, 8, 8, 16, 8, 32, 8, 16, 8] r
    done r (.attn ⟨nth l 0, nth l 1, nth l 2, nth l 3, nth l 4, nth l 5, nth l 6, nth l 7, nth l 8,
      signedOf 8 (nth l 9), w32 (nth l 10), nth l 11 == 1, nth l 12, nth l 13⟩)
  | 3 =>
    let (l, r) := rdFields [8, 16, 24, 16, 8, 8, 16] r
    done r (.acomb ⟨nth l 0, nth l 1, nth l 2, nth l 3, nth l 4, nth l 5, nth l 6⟩)
  | 4 =>
    let (l, r) := rdFields [48, 48, 16, 8] r
    done r (.copy ⟨nth l 0, nth l 1, nth l 2, nth l 3 == 0⟩)
  | 5 =>
    let (l, r) := rdFields [48, 48, 8] r
    done r (.fill ⟨nth l 0, nth l 1, nth l 2 == 1⟩)
  | _ => ⟨none, true⟩

def scheduleOf (l : List Nat) : Schedule := ⟨nth l 0, nth l 1, nth l 2, nth l 3⟩

/-- The fields of R377 from offset 0 of the reader. -/
def stepCoefOf (r : Rd) : Option StepCoef × Rd :=
  let (l, r) := rdFields [32, 32, 32, 32, 32] r
  let (o, r) := rdList 8 [8, 8, 32] r
  (o.map fun es => ⟨w32 (nth l 0), w32 (nth l 1), w32 (nth l 2), w32 (nth l 3), w32 (nth l 4),
    es.map fun e => ⟨nth e 0, nth e 1, w32 (nth e 2)⟩⟩, r)

/-- The body of a record of the given rtype from its 112 bytes (R590). -/
def bodyOf (rtype : Nat) (bs : List Byte) : BodyRead :=
  let r := rdOf (bs.drop 16)
  match rtype with
  | 0x01 => let (k, ok) := kernelOf bs; ⟨some (.kernel k), ok⟩
  | 0x02 => let (b, ok) := branchOf bs; ⟨some (.branch b), ok⟩
  | 0x03 => shedOf r
  | 0x04 =>
    let (l, r) := rdFields [8, 8, 32, 32, 16, 16] r
    done r (.turnout ⟨nth l 0 == 1, nth l 1, nth l 2, nth l 3, nth l 4, nth l 5⟩)
  | 0x05 => let (l, r) := rdFields [8, 32, 16] r; done r (.phase (nth l 0) (nth l 1) (nth l 2))
  | 0x06 =>
    let (l, r) := rdFields [64, 12, 4, 16, 2, 32, 7, 7, 1, 48] r
    let (o, r) := rdList 8 [16] r
    match o with
    | none => ⟨none, true⟩
    | some ins => done r (.stepBegin ⟨nth l 0, nth l 1, nth l 2, nth l 3, nth l 4, w32 (nth l 5), nth l 6, nth l 7,
        nth l 8 == 1, nth l 9, ins.map (nth · 0)⟩)
  | 0x07 => done r .stepEnd
  | 0x08 =>
    let (form, r) := rdField 8 r
    if form = 1 then
      let (l, r) := rdFields [32, 32, 64, 32] r
      done r (.stepCoefs (scheduleOf l))
    else if form = 0 then
      let (c, r) := stepCoefOf r
      match c with
      | none => ⟨none, true⟩
      | some c => done r (.stepCoef c)
    else ⟨none, true⟩
  | 0x09 =>
    let (l, r) := rdFields [8, 32, 32, 32, 32, 32, 32, 32, 32, 32, 32, 2, 2, 1, 1, 16] r
    done r (.classCoef ⟨nth l 0, w32 (nth l 1), w32 (nth l 2), w32 (nth l 3), w32 (nth l 4), w32 (nth l 5),
      w32 (nth l 6), w32 (nth l 7), w32 (nth l 8), w32 (nth l 9), w32 (nth l 10), nth l 11, nth l 12,
      nth l 13 == 1, nth l 14 == 1, nth l 15⟩)
  | 0x0A =>
    let (l, r) := rdFields [16, 8, 1, 24, 24, 48, 48, 48, 48, 48, 48, 64, 16] r
    done r (.layer ⟨nth l 0, nth l 1, nth l 2 == 1, nth l 3, nth l 4, nth l 5, nth l 6, nth l 7, nth l 8, nth l 9,
      nth l 10, nth l 11, nth l 12⟩)
  | 0x0B =>
    let (l, r) := rdFields [16, 8, 1, 8] r
    done r (.scale ⟨nth l 0, nth l 1, nth l 2 == 1, signedOf 8 (nth l 3)⟩)
  | 0x0C =>
    let (l, r) := rdFields [6, 1, 11, 21, 8, 17, 48, 24, 16, 1] r
    done r (.pigeonhole ⟨nth l 0, nth l 1 == 1, nth l 2, nth l 3, nth l 4, nth l 5, nth l 6, nth l 7, nth l 8,
      nth l 9 == 1⟩)
  | 0x0D =>
    let (l, r) := rdFields [16, 2, 8, 16, 16, 16, 48, 16, 16] r
    done r (.save ⟨nth l 0, nth l 1, nth l 2, nth l 3, nth l 4, nth l 5, nth l 6, nth l 7, nth l 8⟩)
  | 0x0E =>
    let (l, r) := rdFields [32, 19, 18, 21, 16] r
    done r (.collection ⟨nth l 0, nth l 1, nth l 2, nth l 3, nth l 4⟩)
  | 0x0F =>
    let (l, r) := rdFields [20, 16, 24, 24, 12, 8, 18, 16] r
    done r (.bucket ⟨nth l 0, nth l 1, nth l 2, nth l 3, nth l 4, nth l 5, nth l 6, nth l 7⟩)
  | 0x10 =>
    let (l, r) := rdFields [8, 6, 5, 18, 32] r
    let (ps, r) := rdFields (List.replicate 32 18) r
    let (b, r) := rdField 19 r
    let ports := bitsSet 32 (nth l 4)
    let unusedOk := (ps.drop ports.length).all (· == 0)
    ⟨some (.tree ⟨nth l 0, nth l 1, nth l 2, nth l 3, nth l 4, ports.zip ps, b⟩), rdEnd r && unusedOk⟩
  | 0x11 => let (l, r) := rdFields [32, 32] r; done r (.route (nth l 0) (nth l 1))
  | 0x12 =>
    let (form, r) := rdField 8 r
    if form = 1 then
      let (l, r) := rdFields [32, 32, 64, 32] r
      done r (.collSets (scheduleOf l))
    else if form = 0 then
      let (l, r) := rdFields [8, 32, 32] r
      done r (.collSet (nth l 0 == 1) (nth l 1) (nth l 2))
    else ⟨none, true⟩
  | 0x13 => let (l, r) := rdFields [32, 32] r; done r (.roleTable (nth l 0) (nth l 1))
  | 0x14 =>
    let (l, r) := rdFields [8, 13, 16, 24, 3, 14, 16, 8, 16, 8, 8] r
    let (o, r) := rdList 24 [16] r
    let (m, r) := rdFields [48, 48, 48, 32, 1] r
    match o with
    | none => ⟨none, true⟩
    | some kv => done r (.serving ⟨nth l 0, nth l 1, nth l 2, nth l 3, nth l 4, nth l 5, nth l 6, nth l 7, nth l 8,
        nth l 9, nth l 10, kv.map (nth · 0), nth m 0, nth m 1, nth m 2, w32 (nth m 3), nth m 4 == 1⟩)
  | 0x15 => let (l, r) := rdFields [24, 24, 16] r; done r (.xferSend (nth l 0) (nth l 1) (nth l 2))
  | 0x16 => let (l, r) := rdFields [24, 24, 16, 48] r; done r (.xferRecv (nth l 0) (nth l 1) (nth l 2) (nth l 3))
  | _ => ⟨none, true⟩

/-- The record header (R589). -/
def recHeadOf (bs : List Byte) : RecHead :=
  let f := fieldAt bs
  ⟨f 1 1, f 2 1, f 3 1 % 2 == 1, f 8 4, f 12 2, f 14 2⟩

end Sys2Proof.Machine
end

