-- ==== Sys2Proof/Machine/StCompute.lean ====
section
/-!
DEFINITION. The state of a physical stable (R63-R146): its four ranks with row
registers, halo registers and checksum stall (R96, R97, R132), its feed controller,
rank pipeline and drain buffers (R98, R106, R108), its groom (R147-R182), the records
issued to it (R524), its ramp (R79-R82) and its diagnostic counters (R143); and of a
shed (R273).
-/

namespace Sys2Proof.Machine

/-- A row register (R97, R99): the pattern of each element of its window, none where nothing is read and exact zero stands (R113, R117); and the scale side store, the E8M0 byte of each block with the place of its first element. -/
structure Reg where
  elems : List (Option Nat)
  scales : List (Nat × Nat)
  deriving DecidableEq, Repr, Inhabited

/-- A row-register bank of a rank (R96, R97, R99): what it holds (block, window, group), and per logical stall its register, none for a masked one (R129). `low` is HL0-HL7, `high` is HR0-HR7 (R101). `inner` holds, by logical stall, the true input of masked stalls that lie before an unmasked one, for shifts (R118, R129; log 115). `sum1` and `sum2` are the checksum stall's row register (R132, R138). -/
structure Bank where
  holds : Option (Nat × Nat × Nat)
  low : List Reg
  rows : List (Option Reg)
  inner : List (Nat × Reg)
  high : List Reg
  sum1 : List Dy
  sum2 : List Dy
  deriving DecidableEq, Repr, Inhabited

/-- An accumulator: long, or the compensated pair of BF16 (R107, R211). -/
inductive Accum where
  | exact (a : Acc)
  | bf (b : BfAcc)
  deriving DecidableEq, Repr, Inhabited

/-- A rank (R96, R97, R132): its two banks and the checksum stall's accumulators, P1 and P2 in units of 2^-64, or for BF16 the compensated pair of P1 (R137). -/
structure Rank where
  bankA : Bank
  bankB : Bank
  p1 : Int
  p2 : Int
  pb : BfAcc
  deriving DecidableEq, Repr, Inhabited

/-- The feed controller's loop position (R112, R144). `event` is the event within the tile; `over` when the last tile has been fed. -/
structure FeedPos where
  block : Nat
  chunk : Nat
  window : Nat
  col : Nat
  event : Nat
  done : Bool
  deriving DecidableEq, Repr, Inhabited

/-- What the checksum stall of a rank takes in one event (R132, R137, R138): the additions to P1 and P2 in units of 2^-64, or the terms of P1 for BF16. -/
structure Predict where
  inc1 : Int
  inc2 : Int
  prods : List Ext
  deriving DecidableEq, Repr, Inhabited

/-- A stage of the rank pipeline (R106): the tile and its event, the terms of the event by stall, 128 per rank, none for a masked stall (R129), the additions of the checksum stalls, and the accumulators of the unmasked stalls once they have moved to the drain registers. -/
structure Stage where
  pos : FeedPos
  terms : List (Option (List Ext))
  preds : List Predict
  first : Bool
  last : Bool
  moved : Option (List (Option Accum))
  deriving DecidableEq, Repr, Inhabited

/-- The result of one completed run of a unit under duplicate execution (R139, R144): the accumulators of a tile, or the patterns that K.COMPACT or K.EXPAND writes, by position, with the count of active items. -/
inductive UnitRun where
  | tile (vals : List (Option Accum))
  | moves (items : List (Nat × Nat)) (active : Nat)
  deriving DecidableEq, Repr, Inhabited

/-- A value in a drain buffer (R108): row, column, value before its one rounding. -/
structure Drained where
  row : Nat
  col : Nat
  v : Accum
  deriving DecidableEq, Repr, Inhabited

/-- A rank inside K.TOPK (R123): the row it scans, how far, the queue of survivors and the sorted best list, as pairs of FP32 pattern and index; under duplicate execution the lists of the completed runs (R139), and whether the row's list stands. -/
structure TopRank where
  row : Nat
  scanned : Nat
  queue : List (W32 × Nat)
  best : List (W32 × Nat)
  runs : List (List (W32 × Nat))
  stands : Bool
  deriving DecidableEq, Repr, Inhabited

/-- A groom loop (R171): first and last word of its body, iterations left. -/
structure GLoop where
  first : Nat
  last : Nat
  left : Nat
  deriving DecidableEq, Repr, Inhabited

/-- The groom (R147): eight tile registers (elements past a list's end hold +0), the summary registers, the flag word, and what R182 saves: program position, loops, element position, descriptor positions; with the flag word of the instruction just before (R178) and the count of G.RAND issues (R217). -/
structure Groom where
  tiles : List (List W32)
  sums : List Nat
  flags : Nat
  last : Nat
  pc : Nat
  loops : List GLoop
  elem : Nat
  partFlags : Nat
  pos : List Nat
  rands : Nat
  deriving DecidableEq, Repr, Inhabited

/-- A kernel record issued to a stable (R524): whose it is, the rows bound to this stable (R343), how far it has come. `probing`: the first pass of R232, `probed` once it has ended, with the amax that it found. `written` lists the byte ranges that the K.* operation has written (R152). -/
structure Run where
  paddock : Nat
  ctx : Nat
  ordinal : Nat
  first : Nat
  count : Nat
  begun : Bool
  kdone : Bool
  gdone : Bool
  rerun : Bool
  probing : Bool
  probed : Bool
  probeAmax : W32
  parity : Nat
  kflags : Nat
  sk : Nat
  written : List (Nat × Nat)
  deriving DecidableEq, Repr, Inhabited

/-- A physical stable. `active` is the number of ranks that have ramped up (R81, R82); `failed` the times that the current tile has failed; `runs` the results of the completed runs of a unit under duplicate execution, and `held` what the present run of K.COMPACT or K.EXPAND is to write (R139); `stopped` a kernel that waits for a replacement (R136), `copying` the stable whose row store a replacement takes over (R136); `watch` the reference cycles that its ostler has counted without progress, `warned` whether STALL_LONG has been posted for this wait (R76, R77). -/
structure Stable where
  ranks : List Rank
  useB : Bool
  accs : List Accum
  best : List (Option (Accum × Nat))
  topk : List TopRank
  pipe : List (Option Stage)
  drains : List Drained
  pos : FeedPos
  groom : Groom
  queue : List Run
  active : Nat
  events : Nat
  failed : Nat
  runs : List UnitRun
  held : List (Nat × Nat)
  stopped : Bool
  copying : Option Nat
  suspects : List (Nat × Nat)
  diag : List Nat
  watch : Nat
  warned : Bool
  deriving DecidableEq, Repr, Inhabited

/-- A shed (R273, R288-R290): in service, its suspect lanes, whether spare lane 9 is in use; and what it holds (R273, R531): its vector store, its score buffer with the maximum and lsum of each head (R282), its accumulator file and its output buffer. -/
structure Shed where
  ok : Bool
  lanes : List Nat
  spareUsed : Bool
  vectors : List Reg
  scores : List (List W32)
  maxes : List W32
  lsum : List Fp.Pair
  accs : List Acc
  out : List Nat
  deriving DecidableEq, Repr, Inhabited

def Reg.empty : Reg := ⟨[], []⟩
def Bank.empty : Bank := ⟨none, [], [], [], [], [], []⟩
def Rank.empty : Rank := ⟨Bank.empty, Bank.empty, 0, 0, ⟨0, 0⟩⟩
def FeedPos.start : FeedPos := ⟨0, 0, 0, 0, 0, false⟩

/-- The groom at the start of every program (R149). -/
def Groom.start : Groom := ⟨List.replicate 8 [], [0, 0, 0, 0], 0, 0, 0, [], 0, 0, [], 0⟩

end Sys2Proof.Machine
end

