-- ==== Sys2Proof/Machine/StDevice.lean ====
section
/-!
DEFINITION. The state of the device outside its paddocks: OTP and flash (R647,
R656), the start (R605), dies, rails and cooling (R52-R55, R596-R623), the freeze
(R620-R635), ostlers (R25, R89), the remount map (R29), memory channels, sheds and
turnout (R242-R300), the post bus (R636-R645) and the TAP (R667).
-/

namespace Sys2Proof.Machine

/-- The OTP items that are read (R647). -/
structure Otp where
  serial : Nat
  gradeQ : Bool
  supplyT : Bool
  stepLetter : Nat
  stepDigit : Nat
  features : Nat
  floor : Nat
  badStables : List Nat
  badStalls : List Nat
  deriving DecidableEq, Repr, Inhabited

/-- A firmware slot (R651, R652): its header, and whether everything but svn was in order when it was last written. -/
structure FwSlot where
  whole : Bool
  header : List Byte
  deriving DecidableEq, Repr, Inhabited

/-- What the warm record holds for one retained paddock (R608, R665). -/
structure WarmPaddock where
  paddock : Nat
  handle : List Byte
  crypt : Bool
  packages : Nat
  deriving DecidableEq, Repr, Inhabited

/-- The warm record (R604, R608). -/
structure WarmRec where
  valid : Bool
  failures : Nat
  measurement : List Byte
  paddocks : List WarmPaddock
  canaries : List (Nat × List Byte)
  deriving DecidableEq, Repr, Inhabited

/-- The flash (R656): configuration record, warm record, certificate, slots and the two index copies as lists of reserved indices. -/
structure Flash where
  config : List Byte
  warm : WarmRec
  cert : List Byte
  slotA : FwSlot
  slotB : FwSlot
  idxA : List Nat
  idxB : List Nat
  deriving DecidableEq, Repr, Inhabited

/-- The configuration record in force (R603). -/
structure ConfigRec where
  rate : Nat
  ecc : Nat
  cmode : Nat
  enable : Nat
  vmin : Nat
  vmax : Nat
  digest : List Byte
  deriving DecidableEq, Repr, Inhabited

/-- The start in progress or completed (R605-R613). `fwWrite`: the image that a FIRMWARE_WRITE in progress puts into the other slot, with the ring, the tag and QUIET of its letter (R653). -/
structure Start where
  phase : Nat
  warm : Bool
  fault : Bool
  failCode : Nat
  risenAt : Nat
  phaseAt : Nat
  hello : Bool
  ready : Bool
  prepared : Bool
  failCount : Nat
  retained : List WarmPaddock
  slotB : Bool
  fullTrained : Nat
  handback : Option (Nat × Nat × Nat × Bool)
  handed : Bool
  indexNext : Nat
  indexRefused : Bool
  fwWrite : Option (FwSlot × Nat × Nat × Bool)
  goodWest : Nat
  goodEast : Nat
  certOk : Option Bool
  deriving DecidableEq, Repr, Inhabited

/-- One die (R25, R52, R55, R65, R619). `constraint`: 0 none, 1 module cap, 2 paddock cap, 3 Tj (R581). -/
structure Die where
  vcore : Nat
  tj : Int
  pace : Nat
  powerMw : Nat
  reported : Nat
  constraint : Nat
  capPaddock : Nat
  limited : Bool
  vctl : Option Nat
  deriving DecidableEq, Repr, Inhabited

/-- A rail (R596, R617): whether it is below its warning level, its lowest voltage there, since when, and when it last read so. -/
structure Rail where
  dipped : Bool
  lowest : Nat
  since : Nat
  last : Nat
  deriving DecidableEq, Repr, Inhabited

/-- Supply and pins (R599-R602, R618, R621, R624). `lost` holds the rails that have fallen below their reset level since the last BOOT (R600; log 161). -/
structure Power where
  rails : List Rail
  railsUp : Bool
  mreset : Bool
  thermtrip : Bool
  coolant : Nat
  inlet : Int
  outlet : Int
  moduleMw : Nat
  moduleCap : Nat
  lost : List Nat
  deriving DecidableEq, Repr, Inhabited

/-- The entry of one paddock in the freeze record (R634). -/
structure FreezeEntry where
  pstate : Nat
  running : Nat
  phase : Nat
  attempt : Nat
  micro : Nat
  step : Nat
  layer : Nat
  switching : Nat
  deriving DecidableEq, Repr, Inhabited

/-- The freeze record (R634). -/
structure FreezeRec where
  reason : Nat
  count : Nat
  cutAt : Nat
  duration : Nat
  vcoreW : Nat
  vcoreE : Nat
  tjW : Int
  tjE : Int
  held : Nat
  entry : Nat
  paddocks : List FreezeEntry
  deriving DecidableEq, Repr, Inhabited

/-- What freezes the module (R620, R625-R629). `cut` is the reference count at which the last freeze began, `heldFrom` that from which the module has been frozen without a break (R325, R329). -/
structure Freeze where
  pinLow : Bool
  halter : Bool
  acked : Bool
  thermal : Bool
  halterCut : Nat
  cut : Nat
  heldFrom : Nat
  count : Nat
  window : Bool
  raw : Bool
  record : Option FreezeRec
  deriving DecidableEq, Repr, Inhabited

/-- An ostler (R25, R29, R44-R46, R89): in service, the ostler it stands in for, whether its duties wait for a takeover, its reference counter. -/
structure Ostler where
  ok : Bool
  standsFor : Option Nat
  waits : Bool
  count : Nat
  deriving DecidableEq, Repr, Inhabited

/-- What a pending expiry ends (R92). -/
inductive ExpiryKind where
  | deadline (tag : Nat)
  | collect
  | sealing
  | broadcast
  | xfer (number : Nat)
  | agree
  deriving DecidableEq, Repr, Inhabited

/-- A pending expiry (R92): held as the count of the paddock's ostler at which it ends. -/
structure Expiry where
  paddock : Nat
  ctx : Nat
  kind : ExpiryKind
  endAt : Nat
  deriving DecidableEq, Repr, Inhabited

/-- An entry of the remount map (R579). -/
structure MapEntry where
  kind : Nat
  die : Nat
  unit : Nat
  replacement : Nat
  detail : Nat
  deriving DecidableEq, Repr, Inhabited

/-- The remount map (R27, R29, R579): bindings of the 64 logical stables, the other entries in the order made, groups out of service and good stables. -/
structure Remount where
  bind : List (Option Nat)
  entries : List MapEntry
  groupLost : List Nat
  good : List Nat
  deriving DecidableEq, Repr, Inhabited

/-- A row of the corrected-error table (R260, R261): row number, addresses of its corrected bursts. -/
structure RowErrors where
  row : Nat
  bursts : List Nat
  deriving DecidableEq, Repr, Inhabited

/-- A memory channel and its controller (R242-R264). `temp`: the package's temperature at training, in 0.25 C; `trainings` counts them, `refreshes` the refreshes made and `managed` those of refresh management (R243, R250), and `settings` holds those of a handed-back record (R247, R248); `resources`: repair resources left in each bank, rank * 16 + bank; `soft`: rows under sPPR, `hard`: rows under hPPR (R261). -/
structure Channel where
  retired : Bool
  trained : Bool
  selfRefresh : Bool
  hot : Bool
  fastRefresh : Bool
  refreshes : Nat
  managed : Nat
  temp : Int
  trainings : Nat
  settings : Option (List Byte)
  resources : List Nat
  soft : List Nat
  hard : List Nat
  rows : List RowErrors
  uncorrectableRows : List Nat
  repaired : Nat
  pages : List Nat
  scrubbed : Nat
  deriving DecidableEq, Repr, Inhabited

/-- A job of a turnout engine (R294-R299): whose record it is, whether it stands in the engine's queue or waits inside its paddock (R551), and whether it has been run to its end, with a status where it failed. -/
structure TurnJob where
  paddock : Nat
  ctx : Nat
  ordinal : Nat
  arrived : Bool
  copied : Bool
  status : Nat
  deriving DecidableEq, Repr, Inhabited

/-- The post bus (R637-R645): seat, arbitration pending, abandoned answers in a row, the answers sent, the arbitration bits driven. -/
structure Bus where
  seat : Option Nat
  segment : Option Nat
  calling : Bool
  abandoned : Nat
  answer : List Byte
  driven : List Bool
  withdrew : Bool
  deriving DecidableEq, Repr, Inhabited

/-- How a die's pins are driven (R667, R669). -/
inductive PinMode where
  | system
  | cells
  | highz
  | pulse
  | train
  deriving DecidableEq, Repr, Inhabited

/-- The test access port (R667-R669). Per die: the instruction register, the 32-bit data register selected by BYPASS or IDCODE, the sampled pins, the preloaded cells, how the pins are driven. READOUT: the address held and the granule captured. -/
structure Tap where
  ir : List Nat
  data : List Nat
  sampled : List Nat
  preload : List Nat
  pins : List PinMode
  readAddr : Nat
  readData : List Byte
  deriving DecidableEq, Repr, Inhabited

end Sys2Proof.Machine
end

