-- ==== Sys2Proof/Machine/StJob.lean ====
section
/-!
DEFINITION. The state of a job inside its context: pigeonholes (R316-R326), the
training step (R330-R365), layer states and block tables (R370-R375), the collection
(R433-R477), transfers (R467), the membership epoch (R468-R472) and serving
(R478-R512).
-/

namespace Sys2Proof.Machine

/-! ### Pigeonholes -/

/-- The states of R319 other than FREE. -/
inductive LetterState where
  | filling
  | ready
  | held
  deriving DecidableEq, Repr, Inhabited

/-- A letter that holds a slot: its ordinal, state, the positions written (part, index within the letter) and the record that holds it (R326). -/
structure Letter where
  ordinal : Nat
  state : LetterState
  written : List (Nat × Nat)
  holder : Option Nat
  deriving DecidableEq, Repr, Inhabited

/-- A pigeonhole (R316-R326): letters that hold slots, letters already freed, the occupancy integral of R325 and the count at which it was last brought up to date. -/
structure Pigeon where
  handle : Nat
  letters : List Letter
  freed : List Nat
  integral : Nat
  since : Nat
  deriving DecidableEq, Repr, Inhabited

/-! ### Layers -/

/-- A block-table entry (R374); FROZEN is the layer's. -/
structure Blk where
  last : Nat
  init : Bool
  owned : Bool
  pend : Bool
  bank : Bool
  deriving DecidableEq, Repr, Inhabited

/-- A layer state (R375) with its block table (R374) and the column statistic in both banks (R371). `silent`: SILENT_LAYER has been posted for this run of zeros (R405). -/
structure LayerSt where
  layer : Nat
  flip : Bool
  lbank : Bool
  cpend : Bool
  zrun : Nat
  last : Nat
  mu0 : W32
  mu1 : W32
  col0 : List W32
  col1 : List W32
  silent : Bool
  blocks : List Blk
  deriving DecidableEq, Repr, Inhabited

/-! ### Collection -/

/-- What an attempt does with one touched bucket: seals of its local and reduced blocks (R474), the blocks whose reduction has passed or failed its checks (R450), its update's non-finite mark, live bit and partial column sums (R383, R393, R403). -/
structure BucketRun where
  bucket : Nat
  own : Nat
  ownNf : Bool
  reduced : Nat
  done : List Nat
  nf : Bool
  sat : Bool
  failed : Bool
  late : Bool
  updated : Bool
  bad : Bool
  live : Bool
  nsq : Acc
  columns : List Fp.Pair
  deriving DecidableEq, Repr, Inhabited

/-- How an attempt ended (R355, R460, R463). -/
inductive Verdict where
  | commit
  | counters
  | failed (status : Nat)
  | lossNf
  | gradNf
  | late
  | mismatch
  deriving DecidableEq, Repr, Inhabited

/-- The collection of an attempt (R444-R463). `owed` lists blocks that the local stages have not entered; the seal and CLOSE records combined so far with the ports they came from; what was sent and what was agreed; column partials by bucket as they arrive at a lead. -/
structure Coll where
  owed : List (Nat × Nat)
  buckets : List BucketRun
  sealIn : Option SealRec
  sealFrom : List Nat
  sealSent : Bool
  agreed : Option SealRec
  recompute : Bool
  closeIn : Option CloseRec
  closeFrom : List Nat
  closeSent : Bool
  closed : Option CloseRec
  lateVote : Bool
  leadNf : Bool
  partials : List (Nat × List Byte)
  columnsDone : List Nat
  paramGot : List (Nat × Nat)
  deriving DecidableEq, Repr, Inhabited

/-! ### Transfers and epochs -/

/-- A receiving transfer (R467): the record, the source role and number, bytes received. -/
structure XferRx where
  ordinal : Nat
  role : Nat
  number : Nat
  got : Nat
  deriving DecidableEq, Repr, Inhabited

/-- A member in a role table (R468): role, physical postcode, die serial. -/
structure Role where
  role : Nat
  postcode : Nat
  serial : Nat
  deriving DecidableEq, Repr, Inhabited

/-- A proposed epoch that was accepted (R469, R471): its letter's tag and QUIET flag, the role table, the checkpoint, and whether this module's subtree has gone up. -/
structure Proposal where
  tag : Nat
  quiet : Bool
  epoch : Nat
  roles : List Role
  checkpoint : Desc
  step : Nat
  sent : Bool
  deriving DecidableEq, Repr, Inhabited

/-- A replay in progress (R475-R477): its letter's tag and QUIET flag, mode OWNER, the role that the parcel itself has, and the seal log. -/
structure Replay where
  tag : Nat
  quiet : Bool
  owner : Bool
  ownRole : Nat
  log : Desc
  deriving DecidableEq, Repr, Inhabited

/-! ### Training -/

/-- The training part of a context (R330-R361). `phase` by R634. `cur` is the next record to issue, `pass` the micro-batch pass; the repeat budgets of R358; the running loss (R347); the step's flags (R177); input digests (R336); the teacher stables t and the occupancy of the steps since the last move (R59, R341), and the logical stables that LOAD binds the step's records to (R343); the turnout records that a phase has still to issue before it starts (R362); scale exponents of the step (R228); c and c_prev (R389, R392); the epoch in effect and its roles, epochs accepted, the round of a proposal with the EPOCH records that have come by port (R468-R471); a replay (R475). -/
structure Train where
  phase : Nat
  gen : Nat
  cur : Nat
  attempt : Nat
  micro : Nat
  nfLeft : Nat
  otherLeft : Nat
  nfAttempts : Nat
  loss : Fp.Pair
  flags : Nat
  digests : List (List Byte)
  inputs : Option (Nat × List (List Byte))
  split : Option Nat
  bound : List Nat
  pre : List Nat
  occupancy : List Nat
  meanNum : Nat
  meanDen : Nat
  forwardAt : Nat
  startAt : Nat
  scales : List (Nat × Int)
  amax : List (Nat × W32)
  shift : Nat
  c : W32
  cPrev : W32
  votes : Nat
  verdict : Option Verdict
  layers : List LayerSt
  coll : Coll
  epoch : Nat
  roles : List Role
  accepted : List Nat
  proposal : Option Proposal
  epochIn : List (Nat × EpochRec)
  replay : Option Replay
  xfers : List XferRx
  summaries : List (Nat × List (List Nat))
  deriving DecidableEq, Repr, Inhabited

/-! ### Serving -/

/-- A request that has been admitted to the queue or to a slot (R478-R487). `seq` is its place in the order of reading over the paddock; `chunk` what the step's batch gives it: none when left out, 0 for a stream in DECODE; `timed`: it has a deadline, held as an expiry (R482); `kvTable` the address of its KV block list; `ended` its terminal status once decided and not yet delivered; `fresh` the tokens of the step, each with its accepted bit; `text` the prompt tokens that its chunks have read, then the tokens delivered. -/
structure Stream where
  tag : Nat
  seq : Nat
  cls : Nat
  model : Nat
  spec : Nat
  slot : Option Nat
  pend : Nat
  cancel : Bool
  late : Bool
  seed : Nat
  n : Nat
  done : Nat
  kvLen : Nat
  maxNew : Nat
  delivered : Nat
  steps : Nat
  stop : List Nat
  prompt : Nat
  out : Nat
  need : Nat
  guesses : List Nat
  accepted : Nat
  param : List W32
  timed : Bool
  kvTable : Nat
  decode : Bool
  chunk : Option Nat
  fresh : List (Nat × Bool)
  text : List Nat
  ended : Option Nat
  deriving DecidableEq, Repr, Inhabited

/-- What the main head has sampled after a text under a seed and parameters (R493): the token, none where it was no valid one. -/
structure HeadToken where
  text : List Nat
  seed : Nat
  param : List W32
  token : Option Nat
  deriving DecidableEq, Repr, Inhabited

/-- The serving part of a context (R483-R512). `phase` by R634; requests queued in order of reading, live streams in order of admission, tags retired since the load, seed and token position of each sampling row of the step (R492). `active`: the paddock serves the variant (R511); `loading`: a swap brings its weights in, in place of those of the variant named (R512). `bound`: the step's batch stands, which a repeat of the step keeps (R509). `record`: the commit record, each stream as DELIVER is to leave it, from the commit point to the end of DELIVER (R484); `streams` are the slot records as written. `heads`: the model's own record of what each text has sampled with the weights now loaded, which R493 makes a function (log 70). -/
structure Serve where
  phase : Nat
  cur : Nat
  step : Nat
  queue : List Stream
  streams : List Stream
  retired : List Nat
  rows : List (Nat × Nat)
  loading : Option Nat
  toLoad : List Nat
  active : Bool
  bound : Bool
  record : Option (List Stream)
  heads : List HeadToken
  deriving DecidableEq, Repr, Inhabited

def Coll.none : Coll :=
  ⟨[], [], Option.none, [], false, Option.none, false, Option.none, [], false, Option.none, false, false, [], [], []⟩

/-- A training context before its first step: c_prev is 1 (R390). -/
def Train.start : Train :=
  { phase := 0, gen := 0, cur := 0, attempt := 0, micro := 0, nfLeft := 1, otherLeft := 0, nfAttempts := 0, loss := ⟨0, 0⟩, flags := 0,
    digests := [], inputs := Option.none, split := none, bound := [], pre := [], occupancy := [], meanNum := 0, meanDen := 0, forwardAt := 0, startAt := 0, scales := [],
    amax := [], shift := 0, c := 0x3F800000, cPrev := 0x3F800000, votes := 0, verdict := none,
    layers := [], coll := Coll.none, epoch := 0, roles := [], accepted := [], proposal := none, epochIn := [], replay := none, xfers := [], summaries := [] }

def Serve.start : Serve := ⟨0, 0, 0, [], [], [], [], Option.none, [], true, false, Option.none, []⟩

end Sys2Proof.Machine
end

