-- ==== Sys2Proof/Machine/StPaddock.lean ====
section
/-!
DEFINITION. The state of a paddock (R513-R522): its postbox ring (R554-R560), its
units, its contexts with their translation tables (R541-R547), save and swap images
(R529, R538) and records in flight (R523).
-/

namespace Sys2Proof.Machine

/-- A letter on its way out, less its sequence (R570, R571, R580): the bytes from offset 16. -/
structure OutLetter where
  kind : Nat
  tag : Nat
  body : List Byte
  deriving DecidableEq, Repr, Inhabited

/-- A postbox ring (R554-R560, R569). `waiting` holds replies and terminal letters, `events` at most 4,096 event letters. -/
structure Ring where
  en : Bool
  base : Nat
  expected : Nat
  consumer : Nat
  producer : Nat
  outSeq : Nat
  waiting : List OutLetter
  events : List OutLetter
  dropped : Nat
  stalled : Bool
  deriving DecidableEq, Repr, Inhabited

/-- A range of a translation table (R541). For kind 2 `dbase` is the offset within the row store of logical stable `lstable`, and `phys` the physical stable whose base the last build of the table added (R542, R544). `holes` holds the device bases of retired 16 KiB pages that the build left out (R262). -/
structure Range where
  pbase : Nat
  dbase : Nat
  length : Nat
  kind : Nat
  access : Nat
  lstable : Nat
  phys : Nat
  holes : List Nat
  deriving DecidableEq, Repr, Inhabited

/-- A rebuild of a translation table (R545-R548): the next table, whether it is built and the switch raised. -/
structure Rebuild where
  table : List Range
  raised : Bool
  deriving DecidableEq, Repr, Inhabited

/-- What one unit of a context runs a record on (R523). -/
inductive UnitId where
  | stable (phys : Nat)
  | shed (channel : Nat)
  | engine (e : Nat)
  deriving DecidableEq, Repr, Inhabited

/-- A record in flight (R523): its ordinal, the units it runs on, those that have ended, what each stable handed over (R179: S0-S3, SK, groom and K.* flag words, by first row), whether the work that holds no unit has ended; and for a record on sheds the boundaries that it has passed, the flags raised and the failures met so far (R293). -/
structure Flight where
  ordinal : Nat
  units : List UnitId
  ended : List UnitId
  results : List (Nat × List Nat)
  fin : Bool
  pos : Nat
  flags : Nat
  fails : List ShedFail
  deriving DecidableEq, Repr, Inhabited

/-- Save images of a pre-empted context (R529-R531): each stable's units by logical stable, row-store bytes at logical stable * 2 MiB + offset with the words among them that cannot be corrected (R309), and each shed's by device channel. -/
structure Image where
  stables : List (Nat × Stable)
  rows : List (Nat × Byte)
  spoilt : List Nat
  sheds : List (Nat × Shed)
  deriving DecidableEq, Repr, Inhabited

/-- The states of R525. -/
inductive CtxState where
  | running
  | ready
  | blocked
  | idle
  | halted
  deriving DecidableEq, Repr, Inhabited

/-- A context (R522-R548) of paddock `home`. -/
structure Ctx where
  home : Nat
  parcel : Parcel
  priority : Nat
  state : CtxState
  since : Nat
  status : Nat
  haltAfter : Option Nat
  resident : Bool
  pens : List Nat
  swapImage : List (Nat × Byte)
  swapBad : List Nat
  saveBytes : Nat
  swapBytes : Nat
  parcelBytes : Nat
  reserve : Nat
  image : Option Image
  counter : Nat
  stepsLeft : Nat
  inStep : Bool
  stopAsked : Bool
  table : List Range
  rebuild : Option Rebuild
  merged : Option (List Range)
  ended : List Nat
  flights : List Flight
  jumps : List (Nat × Nat)
  pigeons : List Pigeon
  tr : Train
  sv : Serve
  deriving DecidableEq, Repr, Inhabited

/-- The states of R513. -/
inductive PdState where
  | closed
  | opening
  | opened
  | closing
  deriving DecidableEq, Repr, Inhabited

/-- A letter whose reply waits for its action (R571): tag and whether it was QUIET. -/
structure Owed where
  tag : Nat
  quiet : Bool
  deriving DecidableEq, Repr, Inhabited

/-- The units of R40 as a paddock owns them: masks for groups, packages and pens, the slot blocks in grant order, scoreboard entries in units of 256. -/
structure Owned where
  groups : Nat
  packages : Nat
  pens : Nat
  blocks : List Nat
  entries : Nat
  deriving DecidableEq, Repr, Inhabited

/-- A resize that waits for its reply (R521): what is removed, and what is added, which is usable only then. -/
structure Resizing where
  owed : Owed
  removed : Owned
  added : Owned
  deriving DecidableEq, Repr, Inhabited

/-- How far a switch has come (R528, R529, R532). -/
inductive SwitchStage where
  | requested
  | saving
  | resuming
  deriving DecidableEq, Repr, Inhabited

/-- switch(c, b) in progress (R527-R532): the pre-empted context, the chosen one. -/
structure Switching where
  victim : Option Nat
  chosen : Nat
  stage : SwitchStage
  deriving DecidableEq, Repr, Inhabited

/-- A paddock (R513-R552). `probe`: the classes in scale probe (R232); `retained`: it was opened on a warm start's packages (R517). -/
structure Paddock where
  state : PdState
  owned : Owned
  cryptAsked : Bool
  crypt : Bool
  key : Option (List Byte)
  retained : Bool
  cap : Option Nat
  powerMw : Nat
  slice : Nat
  blockAfter : Nat
  histN : Nat
  histNext : Nat
  hist : List (Nat × List W32)
  probe : List Nat
  overrun : Nat
  opening : Option (Owed × List Nat)
  closing : Option Owed
  resizing : Option Resizing
  entriesUsed : Nat
  running : Option Nat
  ranSince : Nat
  waited : Nat
  sliceOver : Bool
  switching : Option Switching
  due : Option Nat
  swappingIn : Option Nat
  ring : Ring
  ctxs : List (Option Ctx)
  deriving DecidableEq, Repr, Inhabited

end Sys2Proof.Machine
end

