-- ==== Sys2Proof/Machine/State.lean ====
section
/-!
DEFINITION. The state of the module, its faults and refusals, and the state after
reset: power applied, MRESET_N low, phase 0 (R605).
-/

namespace Sys2Proof.Machine

/-- Bytes by device address (R34), in canonical form: addresses strictly rising, no byte zero. -/
abbrev Memory := List Host.Cell

/-- The module. `mem` holds what a package's cells read as under the key in effect; for the packages of `foreign`, what they read as under the key named there (none: as stored), under which they were written (R265, R517). -/
structure State where
  pending : List Instr
  free : Nat
  otp : Otp
  flash : Flash
  cfg : ConfigRec
  start : Start
  grant : Nat
  dies : List Die
  power : Power
  freeze : Freeze
  deferred : List (Nat × OutLetter)
  ostlers : List Ostler
  expiries : List Expiry
  remount : Remount
  channels : List Channel
  sheds : List Shed
  turnout : List (List TurnJob)
  scrubHours : Nat
  bus : Bus
  tap : Tap
  stables : List Stable
  mem : Memory
  bad : List Nat
  flips : List (Nat × Nat)
  foreign : List (Nat × Option (List Byte))
  pads : List Paddock
  ports : List Port
  mcl : Mcl
  bridge : Bridge
  deriving DecidableEq, Repr

/-- How the block stops. -/
inductive Fault where
  /-- An operand names a unit that the module does not have (R25, R34). Raised by every meaning on an operand that WellFormed refuses. Safe. -/
  | noSuchUnit
  deriving DecidableEq, Repr

/-- What the model does not give a meaning. -/
inductive Refusal where
  /-- A command without a meaning yet, by its mnemonic. Raised by exec alone. Safe. -/
  | notModelled (mnemonic : String)
  deriving DecidableEq, Repr

/-! ### Reset -/

/-- The configuration defaults of R603: rate code 0xFF, ECC on every package, every feature enabled. -/
def ConfigRec.defaults : ConfigRec :=
  ⟨0xFF, 0x00FFFFFF, 0, 0xFFFF, 550, 850, List.replicate 32 0⟩

def Otp.made : Otp :=
  ⟨Config.serial, Config.gradeQ, Config.supplyT, Config.stepLetter, Config.stepDigit, Config.featureFuses, 0, [], []⟩

/-- Header of the image in slot A as delivered: svn 0, build 0, interface 1.0 (log 6). -/
def FwSlot.delivered : FwSlot :=
  ⟨true, [0x50, 0x58, 0x46, 0x57, 1, 0, 0, 0, 0, 0, 0, 0, 1, 0, 0, 0, 1, 0, 0, 0] ++ List.replicate 236 0⟩

def Flash.delivered : Flash :=
  ⟨List.replicate 256 0xFF, ⟨false, 0, [], [], []⟩, [], FwSlot.delivered, ⟨false, []⟩, [], []⟩

def Start.none : Start :=
  { phase := 0, warm := false, fault := false, failCode := 0, risenAt := 0, phaseAt := 0, hello := false,
    ready := false, prepared := false, failCount := 0, retained := [], slotB := false, fullTrained := 0,
    handback := Option.none, handed := false, indexNext := 0, indexRefused := false, fwWrite := Option.none,
    goodWest := 0, goodEast := 0, certOk := Option.none }

def Die.reset : Die := ⟨750, 0, 0, 0, 750, 0, 0, false, none⟩

def Rail.good : Rail := ⟨false, 0, 0, 0⟩

def Power.reset : Power :=
  ⟨List.replicate 9 Rail.good, true, false, false, 0, 0, 0, 0, 2400, []⟩

def Freeze.none : Freeze := ⟨false, false, false, false, 0, 0, 0, 0, false, false, Option.none⟩

def Ostler.reset : Ostler := ⟨true, Option.none, false, 0⟩

def Remount.empty : Remount := ⟨List.replicate 64 Option.none, [], [], []⟩

def Channel.reset : Channel :=
  { retired := false, trained := false, selfRefresh := false, hot := false, fastRefresh := false, refreshes := 0, managed := 0, temp := 0, trainings := 0
    settings := none, resources := List.replicate 32 Config.repairRows, soft := [], hard := [], rows := [], uncorrectableRows := []
    repaired := 0, pages := [], scrubbed := 0 }

def Shed.reset : Shed := ⟨true, [], false, [], [], [], [], [], []⟩

def Bus.reset : Bus := ⟨Option.none, Option.none, false, 0, [], [], false⟩

/-- IDCODE is selected after Test-Logic-Reset (R667). -/
def Tap.reset : Tap := ⟨[1, 1], [0, 0], [0, 0], [0, 0], [.system, .system], 0, []⟩

/-- Ranks gated, nothing issued, counters zero (R81, R143; log 7). -/
def Stable.reset : Stable :=
  { ranks := List.replicate 4 Rank.empty, useB := false, accs := [], best := [], topk := [], pipe := [], drains := [],
    pos := FeedPos.start, groom := Groom.start, queue := [], active := 0, events := 0, failed := 0, runs := [], held := [], stopped := false,
    copying := Option.none, suspects := [], diag := List.replicate 6 0, watch := 0, warned := false }

def Ring.off : Ring := ⟨false, 0, 0, 0, 0, 0, [], [], 0, false⟩

def Owned.none : Owned := ⟨0, 0, 0, [], 0⟩

/-- A paddock after a start (R513), with the defaults of R224, R526, R527. -/
def Paddock.closed : Paddock :=
  { state := .closed, owned := Owned.none, cryptAsked := false, crypt := false, key := Option.none, retained := false,
    cap := Option.none, powerMw := 0, slice := 2000000, blockAfter := 50000, histN := 16, histNext := 16, hist := [], probe := [],
    overrun := 0, opening := Option.none, closing := Option.none, resizing := Option.none, entriesUsed := 0,
    running := Option.none, ranSince := 0, waited := 0, sliceOver := false, switching := Option.none, due := Option.none,
    swappingIn := Option.none, ring := Ring.off, ctxs := List.replicate 8 Option.none }

/-- Power applied and MRESET_N low (R605). -/
def State.reset : State :=
  { pending := [], free := 0, otp := Otp.made, flash := Flash.delivered, cfg := ConfigRec.defaults,
    start := Start.none, grant := 0, dies := List.replicate 2 Die.reset, power := Power.reset,
    freeze := Freeze.none, deferred := [], ostlers := List.replicate 20 Ostler.reset, expiries := [],
    remount := Remount.empty, channels := List.replicate 192 Channel.reset, sheds := List.replicate 192 Shed.reset,
    turnout := [[], []], scrubHours := 24, bus := Bus.reset, tap := Tap.reset,
    stables := List.replicate 72 Stable.reset, mem := [], bad := [], flips := [], foreign := [], pads := List.replicate 16 Paddock.closed,
    ports := List.replicate 32 Port.down, mcl := Mcl.reset, bridge := Bridge.reset }

end Sys2Proof.Machine
end

