-- ==== Sys2Proof/Machine/Ops.lean ====
section
/-!
DEFINITION. The named operations that meanings share: units by number, memory
(R34-R37, R263, R305), reference counters (R89, R92), letters out (R559-R561,
R571, R580) and letters in (R556-R573, R584, R606, R513).
-/

namespace Sys2Proof.Machine

/-- What every meaning answers. -/
abbrev Out := Host.Outcome State Fault Refusal

/-- A command whose operands name units that exist goes on to its next state. -/
def onUnit (exists_ : Bool) (s : State) : Out := if exists_ then .next s else .fault .noSuchUnit

/-! ### Units by number -/

def State.pd (s : State) (p : Nat) : Paddock := s.pads.getD p Paddock.closed
def State.modPd (s : State) (p : Nat) (f : Paddock → Paddock) : State := { s with pads := s.pads.modify p f }
def Paddock.ctx (d : Paddock) (c : Nat) : Option Ctx := d.ctxs.getD c none
def Paddock.setCtx (d : Paddock) (c : Nat) (x : Option Ctx) : Paddock := { d with ctxs := d.ctxs.set c x }
def Paddock.modCtx (d : Paddock) (c : Nat) (f : Ctx → Ctx) : Paddock :=
  { d with ctxs := d.ctxs.modify c (Option.map f) }
def State.ctx (s : State) (p c : Nat) : Option Ctx := (s.pd p).ctx c
def State.modCtx (s : State) (p c : Nat) (f : Ctx → Ctx) : State := s.modPd p (·.modCtx c f)
def State.modRing (s : State) (p : Nat) (f : Ring → Ring) : State := s.modPd p fun d => { d with ring := f d.ring }
def State.die (s : State) (d : Nat) : Die := s.dies.getD d Die.reset
def State.modDie (s : State) (d : Nat) (f : Die → Die) : State := { s with dies := s.dies.modify d f }
def State.ostler (s : State) (o : Nat) : Ostler := s.ostlers.getD o Ostler.reset
def State.modOstler (s : State) (o : Nat) (f : Ostler → Ostler) : State := { s with ostlers := s.ostlers.modify o f }
def State.channel (s : State) (c : Nat) : Channel := s.channels.getD c Channel.reset
def State.modChannel (s : State) (c : Nat) (f : Channel → Channel) : State := { s with channels := s.channels.modify c f }
def State.shed (s : State) (c : Nat) : Shed := s.sheds.getD c Shed.reset
def State.modShed (s : State) (c : Nat) (f : Shed → Shed) : State := { s with sheds := s.sheds.modify c f }
def State.stable (s : State) (n : Nat) : Stable := s.stables.getD n Stable.reset
def State.modStable (s : State) (n : Nat) (f : Stable → Stable) : State := { s with stables := s.stables.modify n f }
def State.port (s : State) (n : Nat) : Port := s.ports.getD n Port.down
def State.modPort (s : State) (n : Nat) (f : Port → Port) : State := { s with ports := s.ports.modify n f }

/-- Die of a paddock: the die that holds its paddock ostler (R25, R52). -/
def dieOfPaddock (p : Nat) : Nat := if p < 8 then 0 else 1
/-- Die of a physical stable (R25). -/
def dieOfStable (n : Nat) : Nat := if n < 36 then 0 else 1
/-- Die of a stable group (R25). -/
def dieOfGroup (g : Nat) : Nat := if g < 8 then 0 else 1
/-- Die of a pen (R25). -/
def dieOfPen (n : Nat) : Nat := if n < 48 then 0 else 1
/-- Die of a channel (R25). -/
def dieOfChannel (c : Nat) : Nat := if c < 96 then 0 else 1
/-- Die of a link port (R25). -/
def dieOfPort (n : Nat) : Nat := if n < 16 then 0 else 1

/-- A stable whose ranks have ramped down (R81, R84). -/
def Stable.gate (x : Stable) : Stable := { x with active := 0 }

/-- What a resume makes of a stable: the image's units, or zero state; what belongs to the physical stable stays, its ramp with it (R82, R529, R532). -/
def Stable.resumed (old : Stable) (im : Option Stable) : Stable :=
  { im.getD Stable.reset with suspects := old.suspects, diag := old.diag, active := old.active, stopped := old.stopped }

/-- A shed takes the contents of another, of an image or zero state, and keeps its own lanes and service (R289, R290, R531). -/
def Shed.resumed (old : Shed) (im : Option Shed) : Shed :=
  { im.getD Shed.reset with ok := old.ok, lanes := old.lanes, spareUsed := old.spareUsed }

/-- The module is frozen by a halter or by a thermal freeze (R620, R626). -/
def State.frozen (s : State) : Bool := s.freeze.halter || s.freeze.thermal

/-- A step of the module's own work happens only while it runs: phase 7, not frozen, not tripped (R605, R621, R627). -/
def State.running (s : State) : Bool :=
  s.start.phase == 7 && !s.frozen && !s.power.thermtrip && !s.start.fault && !s.start.prepared

/-! ### Time (R89, R92) -/

/-- The ostler that does the duties of ostler `o`: itself, the one that stands in, or for a device ostler the one that does its partner's (R29, R45, R48). -/
def State.serving (s : State) (o : Nat) : Nat :=
  let own (q : Nat) : Option Nat :=
    if (s.ostler q).ok then some q
    else if (s.ostler 18).standsFor = some q then some 18
    else if (s.ostler 19).standsFor = some q then some 19
    else none
  (own o).getD (if o = 16 then (own 17).getD o else if o = 17 then (own 16).getD o else o)

/-- The reference count of a paddock's ostler. -/
def State.now (s : State) (p : Nat) : Nat := (s.ostler (s.serving p)).count

/-- The ostler of a paddock is in service, or another stands in for it; without one the paddock's units withhold their requests (R46). -/
def State.served (s : State) (p : Nat) : Bool := (s.ostler (s.serving p)).ok

/-- A paddock's work goes on. -/
def State.runs (s : State) (p : Nat) : Bool := s.running && s.served p

/-- The reference count of device ostler 16, by which the model dates module events. -/
def State.now16 (s : State) : Nat := (s.ostler (s.serving 16)).count

/-- R91: no limit. -/
def noLimit : Nat := 0xFFFFFFFFFFFF

/-- Hold an expiry `d` from now (R92); a duration of no limit holds none. -/
def State.addExpiry (s : State) (p c : Nat) (k : ExpiryKind) (d : Nat) : State :=
  if d = noLimit then s else { s with expiries := s.expiries ++ [⟨p, c, k, s.now p + d⟩] }

def State.dropExpiries (s : State) (f : Expiry → Bool) : State := { s with expiries := s.expiries.filter fun e => !f e }

def State.hasExpiry (s : State) (p c : Nat) (k : ExpiryKind) : Bool :=
  s.expiries.any fun e => e.paddock == p && e.ctx == c && e.kind == k

/-- An expiry that has been reached is taken; none where it is not held or not due (R92). -/
def State.takeExpiry (s : State) (p c : Nat) (k : ExpiryKind) : Option State :=
  let hit (e : Expiry) : Bool := e.paddock == p && e.ctx == c && e.kind == k
  if s.runs p && (s.expiries.any fun e => hit e && decide (e.endAt ≤ s.now p)) then some (s.dropExpiries hit) else none

/-! ### Free values (log 1) -/

/-- The next free value and the state that has drawn it. -/
def State.draw (s : State) : Nat × State := (Config.freeValue s.free, { s with free := s.free + 1 })

/-! ### Memory (R34-R37) -/

/-- The byte at an address; an unlisted address reads as 0 (R286, R304, R308; log 3). -/
def memGet : Memory → Nat → Byte
  | [], _ => 0
  | (a, b) :: m, x => if x < a then 0 else if x = a then b else memGet m x

/-- Write one byte, keeping the canonical form. -/
def memSet : Memory → Nat → Byte → Memory
  | [], x, v => if v = 0 then [] else [(x, v)]
  | (a, b) :: m, x, v =>
    if x < a then (if v = 0 then (a, b) :: m else (x, v) :: (a, b) :: m)
    else if x = a then (if v = 0 then m else (a, v) :: m)
    else (a, b) :: memSet m x v

/-- The canonical form: addresses strictly rising, no byte zero. -/
def Memory.wfFrom : Nat → Memory → Bool
  | _, [] => true
  | lo, (a, b) :: m => decide (lo ≤ a) && b != 0 && Memory.wfFrom (a + 1) m

def Memory.wf (m : Memory) : Bool := Memory.wfFrom 0 m

def memRead (m : Memory) (a : Nat) : Nat → List Byte
  | 0 => []
  | n + 1 => memGet m a :: memRead m (a + 1) n

def memWrite (m : Memory) (a : Nat) : List Byte → Memory
  | [] => m
  | b :: bs => memWrite (memSet m a b) (a + 1) bs

/-- Zero the range [lo, lo + len) (R286, R304, R308). -/
def memZero (m : Memory) (lo len : Nat) : Memory := m.filter fun c => !(decide (lo ≤ c.1) && decide (c.1 < lo + len))

def State.rd (s : State) (a n : Nat) : List Byte := memRead s.mem a n
def State.wr (s : State) (a : Nat) (bs : List Byte) : State := { s with mem := memWrite s.mem a bs }
def State.zero (s : State) (a len : Nat) : State :=
  { s with
    mem := memZero s.mem a len, bad := s.bad.filter fun b => !(decide (a ≤ b) && decide (b < a + len))
    flips := s.flips.filter fun f => !(decide (a ≤ f.1) && decide (f.1 < a + len)) }

/-- Package p lies at p * 0x10_0000_0000 (R34). -/
def packageBase (p : Nat) : Nat := p * 0x1000000000
def packageSize : Nat := 0x1000000000
/-- Pen n (R34). -/
def penBase (n : Nat) : Nat := 0x20000000000 + n * 0x800000
def penSize : Nat := 0x800000
/-- Row store of physical stable s (R34). -/
def rowStoreBase (n : Nat) : Nat := 0x21000000000 + n * 0x200000
def rowStoreSize : Nat := 0x200000
/-- The companion window (R34, R37). -/
def windowBase : Nat := 0x100000000000
def windowSize : Nat := 0x100000000000

/-- What lies at a device address (R34). -/
inductive Where where
  | package (p off : Nat)
  | pen (n off : Nat)
  | row (n off : Nat)
  | companion (addr : Nat)
  | unmapped
  deriving DecidableEq, Repr, Inhabited

/-- The region of a device address (R34); the check-data reserve is not addressable (R35). -/
def State.whereIs (s : State) (a : Nat) : Where :=
  if a < 24 * packageSize then
    let p := a / packageSize
    let off := a % packageSize
    if bitOf s.cfg.ecc p && decide (0xF80000000 ≤ off) then .unmapped else .package p off
  else if 0x20000000000 ≤ a ∧ a < 0x20000000000 + 96 * penSize then
    .pen ((a - 0x20000000000) / penSize) ((a - 0x20000000000) % penSize)
  else if 0x21000000000 ≤ a ∧ a < 0x21000000000 + 72 * rowStoreSize then
    .row ((a - 0x21000000000) / rowStoreSize) ((a - 0x21000000000) % rowStoreSize)
  else if windowBase ≤ a ∧ a < windowBase + windowSize then .companion (a - windowBase)
  else .unmapped

/-- The channel of a package offset: every 2 KiB hold one 256-byte granule of each of the 8 channels (R50, R253). -/
def channelOf (p off : Nat) : Nat := 8 * p + off / 256 % 8

/-- Whether a companion range lies below 16 TiB (R37). -/
def inWindow (a len : Nat) : Bool := decide (a + len ≤ windowSize)

/-- Read and write companion memory by its own address (R37). -/
def State.rdComp (s : State) (a n : Nat) : List Byte := s.rd (windowBase + a) n
def State.wrComp (s : State) (a : Nat) (bs : List Byte) : State := s.wr (windowBase + a) bs

/-! ### Requests over MCL (R424, R429, R432) -/

/-- Credit that the messages of a codeword give: request slots, data units, invalidation slots (R425, R429). -/
def creditIn (us : List McUnit) : Nat × Nat × Nat :=
  let cs := (us.flatMap fun | .messages ms => ms | .granule _ => []).filter (·.op == 0x30)
  ((cs.map fun m => m.aux % 2 ^ 12).sum, (cs.map fun m => m.aux / 2 ^ 12 % 2 ^ 12).sum, (cs.map fun m => m.aux / 2 ^ 24 % 2 ^ 8).sum)

/-- Send a DATA codeword: it waits in a training and where the replay buffer holds 128, behind those that wait (R430, R431). -/
def Mcl.sendWord (m : Mcl) (us : List McUnit) : Mcl :=
  if m.trained && m.unsent.isEmpty && decide (m.held.length < 128) then
    let g := creditIn us
    { m with
      held := m.held ++ [⟨m.cseqOut, us⟩], cseqOut := (m.cseqOut + 1) % 256
      granted := (m.granted.1 + g.1, m.granted.2.1 + g.2.1, m.granted.2.2 + g.2.2) }
  else { m with unsent := m.unsent ++ [us] }

/-- Send a message with the granules that follow it, in codewords of its own: its message unit, then its data units (R423, R426; log 27). -/
def Mcl.sendMessage (m : Mcl) (msg : McMsg) (data : List (List Byte)) : Mcl :=
  (chunksOf 10 (ceilDiv (data.length + 1) 10) (.messages [msg] :: data.map McUnit.granule)).foldl Mcl.sendWord m

/-- A request goes out while MCL is trained, under credit for it and its data units (R429, R431). -/
def Mcl.mayRequest (m : Mcl) (r : McReq) : Bool := m.trained && decide (1 ≤ m.reqCredit) && decide (r.data.length ≤ m.dataCredit)

/-- The first free tag from one on (R424). -/
def Mcl.tagFrom (m : Mcl) : Nat → Nat → Option Nat
  | 0, _ => none
  | n + 1, t => if m.requests.any (·.rtag == t) then m.tagFrom n ((t + 1) % noTag) else some t

/-- Bytes of requests that a paddock has outstanding at most (R551). -/
def padRequests : Nat := 65536

/-- A request finds room beside those that its paddock has outstanding (R551). -/
def Mcl.fits (m : Mcl) (r : McReq) : Bool :=
  match r.kind.pad with
  | none => true
  | some p => decide (((m.requests.filter fun q => q.sent && q.kind.pad == some p).map McReq.bytes).sum + r.bytes ≤ padRequests)

/-- The request that goes next: the first that has not been sent, of those that wait inside no paddock (R428, R551). -/
def Mcl.nextOf (m : Mcl) (blocked : List (Option Nat)) : List McReq → Option McReq
  | [] => none
  | r :: rs =>
    if r.sent || blocked.contains r.kind.pad then m.nextOf blocked rs
    else if m.fits r then some r
    else m.nextOf (r.kind.pad :: blocked) rs

/-- Give the first of the requests like one its tag: it has been sent. -/
def sendFirst (r : McReq) (t : Nat) : List McReq → List McReq
  | [] => []
  | q :: qs => if q = r then { q with sent := true, rtag := t } :: qs else q :: sendFirst r t qs

def Mcl.sendRequest (m : Mcl) (r : McReq) (t : Nat) : Mcl :=
  ({ m with
    reqCredit := m.reqCredit - 1, dataCredit := m.dataCredit - r.data.length, nextTag := (t + 1) % noTag
    requests := sendFirst r t m.requests } : Mcl).sendMessage { r.msg with rtag := t } r.data

/-- Up to n requests that have not been sent go out, in the order in which they were made, each under a free tag (R424, R428, R429). -/
def Mcl.pump : Nat → Mcl → Mcl
  | 0, m => m
  | n + 1, m =>
    match m.nextOf [] m.requests, m.tagFrom noTag m.nextTag with
    | some r, some t => if m.mayRequest r then (m.sendRequest r t).pump n else m
    | _, _ => m

/-- Every request that may go out does. -/
def Mcl.flow (m : Mcl) : Mcl := m.pump m.requests.length

/-- Make a request (R424). -/
def Mcl.request (m : Mcl) (k : ReqKind) (op addr count aux : Nat) (data : List (List Byte)) (now : Nat) : Mcl :=
  ({ m with requests := m.requests ++ [⟨noTag, k, addr, false, op, count, aux, data, now, false, 0⟩] } : Mcl).flow

/-- A job has ended: what it has not sent is forgotten, and the answers to the rest do nothing (R357, R562). -/
def Mcl.dropJob (m : Mcl) (p c : Nat) : Mcl :=
  { m with requests := (m.requests.filter fun r => r.sent || !r.kind.ofJob p c).map fun r =>
      if r.kind.ofJob p c then { r with kind := .gone } else r }

def State.modMcl (s : State) (f : Mcl → Mcl) : State := { s with mcl := f s.mcl }
def State.request (s : State) (k : ReqKind) (op addr count aux : Nat) (data : List (List Byte)) : State :=
  s.modMcl (·.request k op addr count aux data s.now16)

/-- RD_WATCH and UNWATCH of a granule (R425, R427). -/
def State.watch (s : State) (a : Nat) : State := s.request .watch 0x02 a 0 0 []
def State.unwatch (s : State) (a : Nat) : State :=
  (s.modMcl fun m => { m with watched := m.watched.filter (· != a) }).request .unwatch 0x03 a 0 0 []

/-- Granules in runs of up to 32 that cross no 4 KiB boundary: the first of each and how many follow it (R424). -/
def granuleRuns : List Nat → List (Nat × Nat)
  | [] => []
  | g :: gs =>
    match granuleRuns gs with
    | [] => [(g, 0)]
    | (h, n) :: rs => if h = g + 1 ∧ h % 64 ≠ 0 ∧ n < 31 then (g, n + 1) :: rs else (g, 0) :: (h, n) :: rs

/-- Read granules of companion memory for a job: RD for each run (R425). -/
def State.readComp (s : State) (k : ReqKind) (gs : List Nat) : State :=
  (granuleRuns gs).foldl (fun (s : State) (r : Nat × Nat) => s.request k 0x01 (64 * r.1) r.2 0 []) s

/-- The words of a granule that hold a byte of those covered, as WR_PART's aux (R425). -/
def wordMask (g : Nat) (covers : Nat → Bool) : Nat :=
  ((List.range 16).map fun j => bit ((List.range 4).any fun b => covers (64 * g + 4 * j + b)) * 2 ^ j).sum

/-- Write a granule as companion memory now holds it, where the covered bytes have been put: WR where it is covered whole, WR_PART otherwise (R425, R426; log 27). -/
def State.writeGranule (s : State) (k : ReqKind) (covers : Nat → Bool) (g : Nat) : State :=
  let mask := wordMask g covers
  s.request k (if mask = 65535 then 0x04 else 0x05) (64 * g) 0 (if mask = 65535 then 0 else mask) [s.rdComp (64 * g) 64]

/-- Write bytes through MCL, granule by granule (R425, R426, R428). -/
def State.sendComp (s : State) (k : ReqKind) (a : Nat) (bs : List Byte) : State :=
  if bs.isEmpty then s
  else (span (a / 64) ((a + bs.length - 1) / 64 - a / 64 + 1)).foldl
    (fun s g => s.writeGranule k (fun b => decide (a ≤ b) && decide (b < a + bs.length)) g) (s.wrComp a bs)

/-! ### Letters out (R559-R561, R570-R571, R580) -/

/-- Slots that a letter takes: 1 to 8 (R570). -/
def OutLetter.slots (l : OutLetter) : Nat := min 8 (max 1 (ceilDiv (16 + l.body.length) 64))

/-- The bytes of a letter with its sequence (R570, R574). -/
def OutLetter.bytes (l : OutLetter) (seq : Nat) : List Byte :=
  let raw := leBytes 2 l.kind ++ [0] ++ leBytes 1 l.slots ++ leBytes 4 seq ++ leBytes 8 l.tag ++ l.body
  (raw ++ List.replicate (64 * l.slots - raw.length) 0).take (64 * l.slots)

/-- The outbound consumer index as the driver has written it (R554, R555). -/
def State.outConsumer (s : State) (r : Ring) : Nat := leVal (s.rdComp (r.base + 0x80C0) 4)

/-- Free slots of the outbound ring (R555, R556). -/
def State.outRoom (s : State) (r : Ring) : Nat :=
  256 - min 256 ((r.producer + 2 ^ 32 - s.outConsumer r) % 2 ^ 32)

/-- Slots that a letter needs, with the PAD that keeps it from wrapping past slot 255 (R556, R559). -/
def padFor (producer slots : Nat) : Nat := if 256 < producer % 256 + slots then 256 - producer % 256 else 0

/-- Write a letter's slots, a PAD before it where it would wrap, then advance the producer line (R556, R559). -/
def State.putLetter (s : State) (p : Nat) (l : OutLetter) : State :=
  let r := (s.pd p).ring
  let pad := padFor r.producer l.slots
  let padBytes := if pad = 0 then [] else
    leBytes 2 0 ++ [0] ++ leBytes 1 pad ++ List.replicate (64 * pad - 4) 0
  let s1 := s.sendComp (.postbox p) (r.base + 0x4000 + 64 * (r.producer % 256)) padBytes
  let at' := (r.producer + pad) % 2 ^ 32
  let s2 := s1.sendComp (.postbox p) (r.base + 0x4000 + 64 * (at' % 256)) (l.bytes r.outSeq)
  let next := (at' + l.slots) % 2 ^ 32
  (s2.sendComp (.postbox p) (r.base + 0x8080) (leBytes 4 next)).modRing p fun q =>
    { q with producer := next, outSeq := (q.outSeq + 1) % 2 ^ 32 }

/-- There is room for a letter now (R560). -/
def State.fits (s : State) (p : Nat) (l : OutLetter) : Bool :=
  let r := (s.pd p).ring
  r.en && decide (padFor r.producer l.slots + l.slots ≤ s.outRoom r)

/-- An event letter (R580): one slot; subj, ctx, aux, v0 and up to v5. -/
def event (kind : Nat) (tag subj ctx aux v0 : Nat) (vs : List Nat) : OutLetter :=
  ⟨kind, tag, leBytes 2 subj ++ leBytes 1 ctx ++ leBytes 1 aux ++ leBytes 4 v0 ++
    ((List.range 5).map fun i => leBytes 8 (nth vs i)).flatten⟩

/-- EVENTS_LOST (R581). -/
def eventsLost (n : Nat) : OutLetter := event 0x00D9 0 0 0xFF 0 n []

/-- Post what waits while there is room: replies and terminal letters first, then EVENTS_LOST after a drop, then events (R560). -/
def State.flush : Nat → Nat → State → State
  | 0, _, s => s
  | n + 1, p, s =>
    let r := (s.pd p).ring
    match r.waiting with
    | l :: ls =>
      if s.fits p l then State.flush n p ((s.putLetter p l).modRing p fun q => { q with waiting := ls }) else s
    | [] =>
      if r.dropped ≠ 0 then
        if s.fits p (eventsLost r.dropped) then
          State.flush n p ((s.putLetter p (eventsLost r.dropped)).modRing p fun q => { q with dropped := 0 })
        else s
      else match r.events with
        | [] => s
        | l :: ls =>
          if s.fits p l then State.flush n p ((s.putLetter p l).modRing p fun q => { q with events := ls }) else s

/-- The outbound consumer line of a ring is watched while letters wait for room, and no longer (R427). -/
def State.tendWatch (s : State) (p : Nat) : State :=
  let r := (s.pd p).ring
  let a := r.base + 0x80C0
  let full := !r.waiting.isEmpty || !r.events.isEmpty || decide (r.dropped ≠ 0)
  let opened := s.mcl.watched.contains a || s.mcl.requests.any fun q => q.kind == .watch && q.addr == a
  if full && r.en && !opened then s.watch a
  else if !full && s.mcl.watched.contains a then s.unwatch a
  else s

/-- Flush everything that waits in ring p, as far as there is room. -/
def State.flushRing (s : State) (p : Nat) : State :=
  let r := (s.pd p).ring
  (s.flush (r.waiting.length + r.events.length + 1) p).tendWatch p

/-- An event letter joins its paddock's queue; the oldest is dropped when 4,096 wait (R560). -/
def Ring.pushEvent (r : Ring) (l : OutLetter) : Ring :=
  if 4096 ≤ r.events.length then { r with events := r.events.drop 1 ++ [l], dropped := r.dropped + 1 }
  else { r with events := r.events ++ [l] }

/-- Post an event letter to paddock p; a letter that falls due in a freeze is posted after it (R635); a ring that is not served drops it. -/
def State.postEvent (s : State) (p : Nat) (l : OutLetter) : State :=
  if !(s.pd p).ring.en then s
  else if s.frozen then { s with deferred := s.deferred ++ [(p, l)] }
  else (s.modRing p (·.pushEvent l)).flushRing p

/-- Post a reply or a terminal letter: never dropped (R560, R561). -/
def State.postSure (s : State) (p : Nat) (l : OutLetter) : State :=
  if !(s.pd p).ring.en then s
  else (s.modRing p fun r => { r with waiting := r.waiting ++ [l] }).flushRing p

/-- The paddocks that are OPEN. -/
def State.openPads (s : State) : List Nat := (List.range 16).filter fun p => (s.pd p).state == .opened

/-- An event about a shared unit: to every OPEN paddock; when none is OPEN, to the enabled ring with the lowest number (R550, R561). -/
def State.postShared (s : State) (l : OutLetter) : State :=
  match s.openPads with
  | [] =>
    match (List.range 16).find? fun p => (s.pd p).ring.en with
    | none => s
    | some p => s.postEvent p l
  | ps => ps.foldl (fun s p => s.postEvent p l) s

/-- An event about a unit: to the OPEN paddock that owns it, else as a shared one (R550, R561). -/
def State.postOwned (s : State) (owns : Paddock → Bool) (l : OutLetter) : State :=
  match s.openPads.find? fun p => owns (s.pd p) with
  | some p => s.postEvent p l
  | none => s.postShared l

def ownsPackage (k : Nat) (d : Paddock) : Bool := bitOf d.owned.packages k
def ownsPen (n : Nat) (d : Paddock) : Bool := bitOf d.owned.pens n
def ownsGroup (g : Nat) (d : Paddock) : Bool := bitOf d.owned.groups g

/-- Letters deferred by a freeze are posted in the order they fell due (R635). -/
def State.undefer (s : State) : State :=
  s.deferred.foldl (fun s (pl : Nat × OutLetter) => s.postEvent pl.1 pl.2) { s with deferred := [] }

/-! ### Letters in (R556-R558, R571-R573, R584, R606, R513) -/

/-- A reply (R571): status, six reserved bytes, payload. -/
def replyLetter (kind tag status : Nat) (payload : List Byte) : OutLetter :=
  ⟨kind + 0x8000, tag, leBytes 2 status ++ List.replicate 6 0 ++ payload⟩

/-- Post the reply to a letter unless it was QUIET and the status is OK (R570, R571). -/
def State.reply (s : State) (p kind : Nat) (o : Owed) (status : Nat) (payload : List Byte) : State :=
  if o.quiet && status == 0 then s else s.postSure p (replyLetter kind o.tag status payload)

/-- What a letter's action answers when it is taken up: a reply now, or one that is owed until the action completes (R571, R572). -/
structure Taken where
  s : State
  now : Option (Nat × List Byte)
  waits : Bool

def Taken.refuse (s : State) (status : Nat) : Taken := ⟨s, some (status, []), false⟩
def Taken.ok (s : State) (payload : List Byte) : Taken := ⟨s, some (0, payload), false⟩
def Taken.later (s : State) : Taken := ⟨s, none, false⟩

/-- An access of the letter waits for a table switch: the letter is not taken yet (R545). -/
def Taken.hold (s : State) : Taken := ⟨s, none, true⟩

/-- A rail is in a dip (R617). -/
def State.railLow (s : State) (r : Nat) : Bool := (s.power.rails.getD r Rail.good).dipped

/-- A rail of the packages is in a dip: memory controllers issue no new command, but refresh (R617). -/
def State.memoryLow (s : State) : Bool := s.railLow 5 || s.railLow 6 || s.railLow 7

/-- Kinds that are device letters (R513). -/
def isDeviceKind (k : Nat) : Bool := decide (1 ≤ k ∧ k ≤ 0x1F)

/-- Kinds taken before phase 7 (R606): HELLO, FEATURES, REMOUNT_MAP, WARM_HANDBACK, TRAINING_READ, CONFIG_READ. -/
def beforePhase7 (k : Nat) : Bool := [0x0001, 0x0002, 0x0005, 0x0011, 0x0012, 0x0013].contains k

/-- An ostler watches ring p (R557): the device ostler of its die while the paddock is CLOSED, its paddock ostler from OPENING on. -/
def State.watched (s : State) (p : Nat) : Bool :=
  let o := if (s.pd p).state == .closed then 16 + dieOfPaddock p else p
  (s.ostler (s.serving o)).ok

/-- Letters of ring p are being taken (R2, R557, R560, R569, R608, R620, R624). -/
def State.takesLetters (s : State) (p : Nat) : Bool :=
  let r := (s.pd p).ring
  r.en && s.mcl.trained && s.start.ready && !s.start.fault && !s.start.prepared && !s.frozen && !s.power.thermtrip &&
    r.waiting.isEmpty && s.watched p

/-- Advance the inbound consumer line past a letter (R557). -/
def State.consume (s : State) (p slots : Nat) : State :=
  let r := (s.pd p).ring
  let next := (r.consumer + slots) % 2 ^ 32
  (s.sendComp (.postbox p) (r.base + 0x8040) (leBytes 4 next)).modRing p fun q =>
    { q with consumer := next }

/-- The status with which a letter is refused before its own rules are reached, if any (R513, R558, R573, R584, R606). `need` is the payload's length in bytes. -/
def State.letterCheck (s : State) (p kind need : Nat) (h : LetterHead) : Option Nat :=
  if h.length = 0 ∨ 8 < h.length then some 0x0101
  else if h.sequence % 2 ^ 32 ≠ (s.pd p).ring.expected then some 0x0102
  else if h.unlisted.isSome then some 0x0001
  else if 64 * h.length < 16 + need ∨ 2 ≤ h.flags ∨ h.reserved ≠ 0 then some 0x0101
  else if !s.start.hello && kind != 0x0001 then some 0x0003
  else if s.start.phase != 7 && !beforePhase7 kind then some 0x0003
  else if isDeviceKind kind then none
  else if kind = 0x0020 then (if (s.pd p).state = .closed then none else some 0x0801)
  else if (s.pd p).state = .opened then none else some 0x0801

/-- Take up one letter of ring p: consume its slots, check it, run its action, reply (R557, R558, R571-R573). A letter that is not being taken changes nothing. -/
def State.takeLetter (s : State) (p kind need : Nat) (h : LetterHead) (act : State → Taken) : State :=
  if !s.takesLetters p then s
  else
    let slots := if h.length = 0 ∨ 8 < h.length then 1 else h.length
    let refused := s.letterCheck p kind need h
    let kind := h.unlisted.getD kind
    let s1 := (s.consume p slots).modRing p fun r => { r with expected := (h.sequence + 1) % 2 ^ 32 }
    let o : Owed := ⟨h.tag, h.flags % 2 == 1⟩
    match refused with
    | some st => s1.reply p kind o st []
    | none =>
      let t := act s1
      if t.waits then s else
      match t.now with
      | some (st, payload) => t.s.reply p kind o st payload
      | none => t.s

/-- The letter's owed reply, to be posted when its action completes (R571). -/
def owedOf (h : LetterHead) : Owed := ⟨h.tag, h.flags % 2 == 1⟩

/-- A bulk read (R575): 0x0104 for a bad address, 0x0105 when the buffer is too short; else the bytes are written and their number replied, with `extra` after it. -/
def State.bulk (s : State) (b : Bulk) (bytes : List Byte) (extra : List Byte) : Taken :=
  if b.addr % 64 ≠ 0 ∨ inWindow b.addr b.len = false then Taken.refuse s 0x0104
  else if b.len < bytes.length then ⟨s, some (0x0105, leBytes 4 bytes.length), false⟩
  else Taken.ok (s.sendComp .buffer b.addr bytes) (leBytes 4 bytes.length ++ extra)

end Sys2Proof.Machine
end

