-- ==== Sys2Proof/Machine/IdBlock.lean ====
section
/-!
DEFINITION. The ID block (R563-R569), the running firmware image (R651, R652), the
remount map's bytes (R579), the configuration record (R603) and the training
records (R247): what letters, the post bus and MCL read of the device.
-/

namespace Sys2Proof.Machine

/-- The slot that runs (R652). -/
def State.image (s : State) : FwSlot := if s.start.slotB then s.flash.slotB else s.flash.slotA
/-- The slot that does not run (R653). -/
def State.spare (s : State) : FwSlot := if s.start.slotB then s.flash.slotA else s.flash.slotB

/-- Header fields of a firmware image (R651). -/
def FwSlot.svn (f : FwSlot) : Nat := fieldAt f.header 6 1
def FwSlot.build (f : FwSlot) : Nat := fieldAt f.header 8 4
def FwSlot.bodyLen (f : FwSlot) : Nat := fieldAt f.header 12 4
def FwSlot.ifMajor (f : FwSlot) : Nat := fieldAt f.header 16 2
def FwSlot.ifMinor (f : FwSlot) : Nat := fieldAt f.header 18 2
/-- The firmware measurement (R652). -/
def FwSlot.measurement (f : FwSlot) : List Byte := sha256 (f.header.take 256)

/-- PXID (R564). -/
def State.pxid (s : State) : Nat :=
  0x5058 * 2 ^ 48 + 0x4824 * 2 ^ 32 + (if s.otp.gradeQ then 0x51 else 0x4A) * 2 ^ 24 +
    (if s.otp.supplyT then 0x54 else 0x44) * 2 ^ 16 + (s.image.ifMajor % 256) * 256 + s.image.ifMinor % 256

/-- PXSTEP (R565). -/
def State.pxstep (s : State) : Nat := (s.otp.stepLetter % 256) * 256 + s.otp.stepDigit % 256

/-- FEATCAP0 (R566); FEATCAP1 to 3 are reserved. -/
def State.featcap (s : State) : Nat := s.otp.features % 2 ^ 16

/-- The module holds both parts of its postcode (R645). -/
def Bus.valid (b : Bus) : Bool := b.seat.isSome && b.segment.isSome
/-- The physical postcode, segment * 64 + seat (R645). -/
def Bus.code (b : Bus) : Nat := (b.segment.getD 0) * 64 + b.seat.getD 0
/-- POSTCODE (R567). -/
def Bus.register (b : Bus) : Nat := bit b.valid * 2 ^ 31 + b.code

/-- HEALTH (R568). -/
def State.health (s : State) : Nat :=
  s.start.phase * 2 ^ 12 + bit s.start.warm * 2 ^ 11 + bit (s.dies.any (·.limited)) * 2 ^ 10 +
    bit s.mcl.narrow * 2 ^ 9 + bit (s.freeze.halter && s.freeze.acked) * 2 ^ 8 +
    bit (s.pads.any (·.ring.stalled)) * 2 ^ 7 + bit s.start.fault * 2 + bit s.start.ready

/-- PBXBASEp (R569). -/
def Ring.register (r : Ring) : Nat := bit r.en * 2 ^ 63 + bitsOf r.base 43 16 * 2 ^ 16

/-- A register of MCL configuration space (R563, R632); every other offset reads as zero. -/
def State.configReg (s : State) (off : Nat) : Nat :=
  if off = 0x1000 then s.pxid
  else if off = 0x1008 then s.pxstep
  else if off = 0x1010 then s.featcap
  else if off = 0x1030 then s.grant
  else if off = 0x1050 then s.bus.register
  else if off = 0x1058 then s.health
  else if 0x1080 ≤ off ∧ off ≤ 0x10F8 ∧ off % 8 = 0 then (s.pd ((off - 0x1080) / 8)).ring.register
  else if off = 0x1100 then bit s.freeze.raw
  else 0

/-- The module's own name in LINK frames (R419). -/
def State.linkName (s : State) : Nat × Nat := (s.otp.serial, s.bus.code)

/-- Post POSTCODE when VALID or the postcode has changed from an earlier bus state (R645, R671). -/
def State.postcodeEvent (s : State) (before : Bus) (cause : Nat) : State :=
  if before.valid = s.bus.valid ∧ before.code = s.bus.code then s
  else s.postShared (event 0x00E8 0 0 0xFF (bit s.bus.valid) s.bus.code [cause])

/-- A feature bit of FEATGRANT0 (R566, R586). -/
def State.granted (s : State) (b : Nat) : Bool := bitOf s.grant b

/-! ### Remount map (R579) -/

def MapEntry.bytes (e : MapEntry) : List Byte :=
  leBytes 1 e.kind ++ leBytes 1 e.die ++ [0, 0] ++ leBytes 4 e.unit ++ leBytes 4 e.replacement ++ leBytes 4 e.detail

def MapEntry.of (bs : List Byte) : MapEntry :=
  ⟨fieldAt bs 0 1, fieldAt bs 1 1, fieldAt bs 4 4, fieldAt bs 8 4, fieldAt bs 12 4⟩

/-- The bindings as entries of kind 1. -/
def Remount.bindings (r : Remount) : List MapEntry :=
  (r.bind.zipIdx.filterMap fun bl => bl.1.map fun phys => ⟨1, dieOfStable phys, bl.2, phys, 0⟩)

def Remount.map (r : Remount) : List MapEntry := r.bindings ++ r.entries
def Remount.bytes (r : Remount) : List Byte := (r.map.map MapEntry.bytes).flatten

/-- No replacement (R579). -/
def noUnit : Nat := 0xFFFFFFFF

/-- Add an entry to the map. -/
def State.mapAdd (s : State) (e : MapEntry) : State :=
  { s with remount := { s.remount with entries := s.remount.entries ++ [e] } }

/-! ### Configuration record (R603) -/

/-- Magic, version, digest and reserved bytes are right (R603). The reserved bits of ecc and halter_win count as reserved bytes: DEDUCED (log 18). -/
def configOk (bs : List Byte) : Bool :=
  bs.length == 256 && bs.take 4 == [0x50, 0x58, 0x43, 0x46] && fieldAt bs 4 2 == 1 && fieldAt bs 7 1 == 0 &&
    fieldAt bs 11 1 == 0 && decide (fieldAt bs 52 1 ≤ 1) && ((bs.drop 53).take 171).all (· == 0) &&
    sha256 (bs.take 224) == bs.drop 224

/-- The grade's highest rate code: 0 for Q, 2 for J (R9, R244, R247). -/
def bestRate (gradeQ : Bool) : Nat := if gradeQ then 0 else 2

/-- The rate code in force: 0xFF, a code above the grade's limit and a code that the table lacks select the grade's highest rate (R10, R603). -/
def rateOf (gradeQ : Bool) (code : Nat) : Nat := if code < bestRate gradeQ ∨ 4 < code then bestRate gradeQ else code

/-- The settings that a cold start takes (R603). A set-point limit outside its range is held to the range (log 18). -/
def configOf (bs : List Byte) : ConfigRec :=
  if configOk bs then
    let lo := max 550 (min 850 (fieldAt bs 48 2))
    ⟨fieldAt bs 6 1, fieldAt bs 8 4, fieldAt bs 12 4, fieldAt bs 16 8, lo, max lo (min 850 (fieldAt bs 50 2)), bs.drop 224⟩
  else ConfigRec.defaults

/-- halter_win takes effect at each start (R603). -/
def halterWinOf (bs : List Byte) : Bool := if configOk bs then fieldAt bs 52 1 == 1 else true

/-! ### Training records (R247) -/

def State.trainingRecord (s : State) (c : Nat) : List Byte :=
  let x := s.channel c
  let body := leBytes 2 1 ++ leBytes 1 c ++ leBytes 1 (rateOf s.otp.gradeQ s.cfg.rate) ++ leBytes 2 (unsignedOf 16 x.temp) ++
    [0, 0] ++ leBytes 8 s.otp.serial ++
    ((x.settings.getD (Config.trainedSettings c x.trainings) ++ List.replicate 208 0).take 208)
  body ++ sha256 body

/-- A handed-back record passes the checks of R248 that its bytes decide. -/
def State.recordOk (s : State) (c : Nat) (bs : List Byte) : Bool :=
  fieldAt bs 0 2 == 1 && fieldAt bs 2 1 == c && fieldAt bs 3 1 == rateOf s.otp.gradeQ s.cfg.rate &&
    fieldAt bs 8 8 == s.otp.serial && sha256 (bs.take 224) == (bs.drop 224).take 32

/-! ### Freeze record (R634) -/

def FreezeEntry.bytes (e : FreezeEntry) : List Byte :=
  leBytes 1 e.pstate ++ leBytes 1 e.running ++ leBytes 1 e.phase ++ leBytes 1 e.attempt ++ leBytes 2 e.micro ++ [0, 0] ++
    leBytes 8 e.step ++ leBytes 4 e.layer ++ leBytes 1 e.switching ++ List.replicate 11 0

def FreezeRec.bytes (r : FreezeRec) : List Byte :=
  [0x50, 0x58, 0x46, 0x52] ++ leBytes 2 1 ++ leBytes 1 r.reason ++ [0] ++ leBytes 8 r.count ++ leBytes 8 r.cutAt ++
    leBytes 8 r.duration ++ leBytes 2 r.vcoreW ++ leBytes 2 r.vcoreE ++ leBytes 2 (unsignedOf 16 r.tjW) ++
    leBytes 2 (unsignedOf 16 r.tjE) ++ leBytes 4 r.held ++ leBytes 4 r.entry ++ List.replicate 16 0 ++
    (r.paddocks.map FreezeEntry.bytes).flatten

/-- pstate of R634 and R661. -/
def PdState.code : PdState → Nat
  | .closed => 0
  | .opening => 1
  | .opened => 2
  | .closing => 3

end Sys2Proof.Machine
end

