-- ==== Sys2Proof/Machine/Store.lean ====
section
/-!
DEFINITION. What a parcel's records declare, and the memory that its addresses reach:
code units and bytes as stored (R257, R262-R267, R305, R309), banked tensors
(R370-R374), translation (R36, R541, R543), reads and writes, and the seal log
(R474). A halt writes the log, so all of this stands before Jobs.lean.
-/

namespace Sys2Proof.Machine

/-! ### Records of a parcel -/

def Parcel.bodies {α : Type} (x : Parcel) (f : RecBody → Option α) : List α := x.recs.filterMap fun r => f r.body

/-- Bodies of records tagged LOAD (R331). -/
def Parcel.loadBodies {α : Type} (x : Parcel) (f : RecBody → Option α) : List α := x.recs.filterMap fun r => if r.head.tag = 1 then f r.body else none

def Parcel.layers (x : Parcel) : List LayerRec := x.bodies fun | .layer l => some l | _ => none
def Parcel.coefs (x : Parcel) : List ClassCoef := x.bodies fun | .classCoef c => some c | _ => none
def Parcel.scaleRecs (x : Parcel) : List ScaleRec := x.bodies fun | .scale c => some c | _ => none
def Parcel.pigeonRecs (x : Parcel) : List PhRec := x.bodies fun | .pigeonhole c => some c | _ => none
def Parcel.bucketRecs (x : Parcel) : List BucketRec := x.bodies fun | .bucket c => some c | _ => none
def Parcel.treeRecs (x : Parcel) : List TreeRec := x.bodies fun | .tree c => some c | _ => none
def Parcel.saveRecs (x : Parcel) : List SaveRec := x.bodies fun | .save c => some c | _ => none
def Parcel.collection (x : Parcel) : Option CollectionRec := (x.bodies fun | .collection c => some c | _ => none).head?
def Parcel.servingRec (x : Parcel) : Option ServingRec := (x.bodies fun | .serving c => some c | _ => none).head?
def Parcel.stepBegin (x : Parcel) : Option StepBeginRec := (x.bodies fun | .stepBegin c => some c | _ => none).head?

/-- Members of the job (R434). -/
def Parcel.members (x : Parcel) : Nat := match x.collection with | some c => c.members | none => 1
/-- The role postcode in every key (R218). -/
def Parcel.role (x : Parcel) : Nat := match x.collection with | some c => c.role | none => 0

/-- A parcel registers a collection tag (R434). -/
def Parcel.hasTag (x : Parcel) (tag : Nat) : Bool := match x.collection with | some r => r.tag == tag | none => false

def Parcel.layer? (x : Parcel) (n : Nat) : Option LayerRec := x.layers.find? (·.layer == n)
def Parcel.coef? (x : Parcel) (cls : Nat) : Option ClassCoef := x.coefs.find? (·.cls == cls)
/-- Highest declared layer number + 1. -/
def Parcel.nlayer (x : Parcel) : Nat := (x.layers.map fun l => l.layer + 1).foldl max 0

/-- Layer numbers in increasing order. -/
def Parcel.layerOrder (x : Parcel) : List Nat := (List.range x.nlayer).filter fun n => (x.layer? n).isSome

def Parcel.frozen (x : Parcel) (layer : Nat) : Bool := match x.layer? layer with | some l => l.frozen | none => false

/-- The layer's silent_limit; 0 is off (R376). -/
def Parcel.silentLimit (x : Parcel) (n : Nat) : Nat :=
  match x.layer? n with
  | some l => match x.coef? l.cls with | some k => k.silentLimit | none => 0
  | none => 0

def Parcel.bucket? (x : Parcel) (n : Nat) : Option BucketRec := x.bucketRecs.find? (·.bucket == n)
def Parcel.tree? (x : Parcel) (n : Nat) : Option TreeRec := x.treeRecs.find? (·.tree == n)
def Parcel.desc (x : Parcel) (n : Nat) : Desc := x.descs.getD n ⟨0, false, 0, []⟩

def Ctx.layerSt (x : Ctx) (n : Nat) : Option LayerSt := x.tr.layers.find? (·.layer == n)
def Ctx.modTr (x : Ctx) (f : Train → Train) : Ctx := { x with tr := f x.tr }
def Ctx.modSv (x : Ctx) (f : Serve → Serve) : Ctx := { x with sv := f x.sv }
def Ctx.modColl (x : Ctx) (f : Coll → Coll) : Ctx := x.modTr fun t => { t with coll := f t.coll }
def Ctx.modLayer (x : Ctx) (n : Nat) (f : LayerSt → LayerSt) : Ctx :=
  x.modTr fun t => { t with layers := t.layers.map fun l => if l.layer = n then f l else l }

/-- What children have sent of the seal round before this member's LOAD, or before a re-run of it, stays (R47, R457). -/
def Coll.early (k : Coll) : Coll :=
  if k.sealFrom.contains 32 then Coll.none else { Coll.none with sealIn := k.sealIn, sealFrom := k.sealFrom }

/-- The step of the attempt in progress: after COMMIT the counter is one ahead (R334, R338). -/
def Ctx.stepNow (x : Ctx) : Nat :=
  if (x.tr.phase = 8 ∨ x.tr.phase = 9) ∧ x.tr.verdict = some .commit then x.counter - 1 else x.counter

/-! ### What stops an access -/

/-- The cause 0x0302 with the address that was read, above the 16 bits of the status. -/
def badRead (dev : Nat) : Nat := 0x0302 + (dev + 1) * 65536

/-- The cause of an access that does not fail but waits for a table switch (R545, R546). No status is 0xFFFF. -/
def awaitsSwitch : Nat := 0xFFFF

/-! ### Code units -/

/-- Size of the unit that one code word of check bits covers: a burst of LPDDR5X, or a word of a pen or row store (R257, R305, R309). -/
def codeUnit (dev : Nat) : Nat := if dev < 24 * packageSize then 64 else 8

/-- The unit of an address. -/
def unitOf (dev : Nat) : Nat := dev / codeUnit dev * codeUnit dev

/-- Bits of a unit that have flipped since it was last written or scrubbed. -/
def State.flipsOf (s : State) (u : Nat) : List Nat := (s.flips.filter (·.1 == u)).map (·.2)

/-- A unit cannot be corrected: it was found so, or at least two of its bits have flipped (R257, R305). More than two flips outside one beat the code need not detect: DESIGN CHOICE (log 125), they are taken as detected. -/
def State.spoilt (s : State) (u : Nat) : Bool := s.bad.contains u || decide (2 ≤ (s.flipsOf u).length)

/-- A unit has been found uncorrectable. -/
def State.spoil (s : State) (u : Nat) : State :=
  { s with bad := if s.bad.contains u then s.bad else s.bad ++ [u], flips := s.flips.filter (·.1 != u) }

/-- The pen bytes of a context. -/
def State.penImage (s : State) (x : Ctx) : List (Nat × Byte) :=
  s.mem.filter fun c => x.pens.any fun n => decide (penBase n ≤ c.1) && decide (c.1 < penBase (n + 1))

/-- Words of a context's pens that cannot be corrected (R305). -/
def State.penSpoilt (s : State) (x : Ctx) : List Nat :=
  (s.bad ++ s.flips.map (·.1)).eraseDups.filter fun u => s.spoilt u && x.pens.any fun n => decide (penBase n ≤ u) && decide (u < penBase (n + 1))

/-- A corrected unit has been written back (R260, R305). -/
def State.unflip (s : State) (u : Nat) : State := { s with flips := s.flips.filter (·.1 != u) }

/-- A bit of a unit flips; a second flip of the same bit undoes the first. -/
def State.flipBit (s : State) (u b : Nat) : State :=
  { s with flips := if s.flips.contains (u, b) then s.flips.filter (· != (u, b)) else s.flips ++ [(u, b)] }

/-! ### Bytes as stored (R265-R267) -/

/-- The XTS key under which a package's data is encrypted: the owning paddock's, or the retained one's while its handle is kept (R664-R666). -/
def State.packageKey (s : State) (k : Nat) : Option (List Byte) :=
  match (List.range 16).find? fun p => bitOf (s.pd p).owned.packages k with
  | some p => if (s.pd p).crypt then some (paddockKey Config.kdev ((s.pd p).key.getD []) s.otp.serial p) else none
  | none =>
    (s.start.retained.find? fun w => w.crypt && bitOf w.packages k).map fun w => paddockKey Config.kdev w.handle s.otp.serial w.paddock

/-- The key under which `mem` gives a package's bytes; none: as stored. -/
def State.viewKey (s : State) (k : Nat) : Option (List Byte) :=
  match s.foreign.find? (·.1 == k) with
  | some e => e.2
  | none => s.packageKey k

/-- A burst as stored under a key, and a stored burst as a key reads it (R265). -/
def storeAs (key : Option (List Byte)) (u : Nat) (bs : List Byte) : List Byte := match key with | some k => encryptBurst k u bs | none => bs
def readAs (key : Option (List Byte)) (u : Nat) (bs : List Byte) : List Byte := match key with | some k => decryptBurst k u bs | none => bs

/-- The 64 bytes of a burst as its package stores them (R265, R266). -/
def State.storedBurst (s : State) (dev : Nat) : List Byte :=
  let u := dev / 64 * 64
  storeAs (s.viewKey (u / packageSize)) u (s.rd u 64)

/-- What `mem` is to hold for a burst that is stored so. -/
def State.viewOf (s : State) (u : Nat) (stored : List Byte) : List Byte := readAs (s.viewKey (u / packageSize)) u stored

/-- The 64 bytes of a burst as its package's paddock reads them (R265). -/
def State.burstRead (s : State) (dev : Nat) : List Byte :=
  let u := dev / 64 * 64
  readAs (s.packageKey (u / packageSize)) u (s.storedBurst u)

/-- Whether a byte lies in a package whose cells another key has written. -/
def State.isForeign (s : State) (dev : Nat) : Bool := s.foreign.any (·.1 == dev / packageSize)

/-- The byte that a read at a device address gives (R265, R266). -/
def State.byteAt (s : State) (dev : Nat) : Byte := if s.isForeign dev then (s.burstRead dev).getD (dev % 64) 0 else memGet s.mem dev

/-- Memory after bytes have been written as the key in effect stores them (R265, R266). -/
def State.setBytes (s : State) (cells : List (Nat × Byte)) : Memory :=
  let m := (cells.filter fun c => !s.isForeign c.1).foldl (fun m (c : Nat × Byte) => memSet m c.1 c.2) s.mem
  let far := cells.filter fun c => s.isForeign c.1
  ((far.map (·.1 / 64 * 64)).eraseDups).foldl (fun m u =>
    let bs := (span u 64).map fun a => match far.reverse.find? (·.1 == a) with | some c => c.2 | none => s.byteAt a
    memWrite m u (s.viewOf u (storeAs (s.packageKey (u / packageSize)) u bs))) m

/-- The keys in effect have changed from those of `was`: the cells of these packages stay as they were stored (R517). -/
def State.rekey (s was : State) (ks : List Nat) : State :=
  ks.foldl (fun s k =>
    let others := s.foreign.filter (·.1 != k)
    { s with foreign := if was.viewKey k = s.packageKey k then others else others ++ [(k, was.viewKey k)] }) s

/-! ### Retired pages (R262) -/

/-- A row of a channel as R579 numbers it: rank * 2^21 + bank * 2^17 + row, of a package offset (R253). -/
def rowCode (off : Nat) : Nat :=
  let ca := off / 2048 * 256 + off % 256
  bitsOf ca 32 32 * 2 ^ 21 + (bitsOf ca 14 11 ^^^ bitsOf ca 18 15) * 2 ^ 17 + bitsOf ca 31 15

/-- A package offset lies in a retired page: the 16 KiB whose granules on some channel fall in the row that was given up. -/
def State.pageRetired (s : State) (k off : Nat) : Bool :=
  (span (8 * k) 8).any fun ch => (s.channel ch).pages.contains (rowCode off)

/-! ### Banked tensors (R370-R374) -/

def LayerRec.elems (l : LayerRec) : Nat := l.rows * l.cols
/-- Parameter blocks of a layer: runs of 2,048 elements (R370). -/
def LayerRec.blocks (l : LayerRec) : Nat := ceilDiv l.elems 2048
def Parcel.factored (x : Parcel) (l : LayerRec) : Bool := match x.coef? l.cls with | some c => c.factored | none => false

/-- Bytes of a shed-striped array of n items of z bytes, and the offset of byte k of item i (R255). -/
def stripedBytes (n z : Nat) : Nat := ceilDiv n 8 * (z * 8)
def stripedOff (z i k : Nat) : Nat := (i / 8 * (z / 256) + k / 256) * 2048 + i % 8 * 256 + k % 256

/-- A layer updated by SHED holds its hi, r, s1 and s2 shed-striped, one row an item (R368). -/
def Parcel.striped (x : Parcel) (l : LayerRec) : Bool := match x.coef? l.cls with | some c => c.engineShed | none => false

/-- Item of a striped tensor with elements of z bytes: a row, which is whole granules (R255, R368). -/
def LayerRec.item (l : LayerRec) (z : Nat) : Nat := l.cols * z

/-- Offset of element e of a tensor with elements of z bytes (R368, R370). -/
def LayerRec.elemOff (striped : Bool) (l : LayerRec) (z e : Nat) : Nat :=
  if striped then stripedOff (l.item z) (e / l.cols) (e % l.cols * z) else z * e

/-- Bytes that a tensor takes in one bank. -/
def LayerRec.tensorBytes (striped : Bool) (l : LayerRec) (z : Nat) : Nat :=
  if striped then stripedBytes l.rows (l.item z) else 2048 * z * l.blocks

/-- The parameter block that offset o of a tensor belongs to. -/
def LayerRec.blockOf (striped : Bool) (l : LayerRec) (z o : Nat) : Nat :=
  if striped then
    let n := l.item z / 256
    let row := o / 2048 / n * 8 + o % 2048 / 256
    (row * l.cols + min ((o / 2048 % n * 256 + o % 256) / z) (l.cols - 1)) / 2048
  else o / (2048 * z)

/-- The effective bank of a block (R374). -/
def LayerSt.effective (l : LayerSt) (b : Nat) : Bool :=
  match l.blocks[b]? with
  | some k => k.bank != (k.pend && l.flip)
  | none => false

/-- The parameter block that holds byte `a` of a layer's tensors, if any (R370, R371). -/
def Parcel.blockAt (x : Parcel) (l : LayerRec) (a : Nat) : Option Nat :=
  let inside (base size : Nat) : Bool := decide (base ≤ a) && decide (a < base + size)
  let st := x.striped l
  let fac := x.factored l
  if inside l.hiBase (l.tensorBytes st 2) then some (l.blockOf st 2 (a - l.hiBase))
  else if l.frozen then none
  else if inside l.rBase (l.tensorBytes st 2) then some (l.blockOf st 2 (a - l.rBase))
  else if inside l.s1Base (l.tensorBytes st 4) then some (l.blockOf st 4 (a - l.s1Base))
  else if !fac && inside l.s2Base (l.tensorBytes st 4) then some (l.blockOf st 4 (a - l.s2Base))
  else if fac && inside l.rowBase (4 * l.rows) then some ((a - l.rowBase) / 4 * l.cols / 2048)
  else none

/-- The byte of bank 0 and the block that an address of a layer's tensors names, in either bank (R372, R373). -/
def Parcel.bankedAt (x : Parcel) (l : LayerRec) (a : Nat) : Option (Nat × Nat) :=
  match x.blockAt l a with
  | some b => some (a, b)
  | none => if a < l.bstride then none else (x.blockAt l (a - l.bstride)).map fun b => (a - l.bstride, b)

/-- An access to a banked tensor reaches the effective bank of the addressed block, whichever bank the address lies in (R373; log 155). -/
def Ctx.resolve (x : Ctx) (a : Nat) : Nat :=
  let hit := x.parcel.layers.findSome? fun l => (x.parcel.bankedAt l a).map fun b => (l, b)
  match hit with
  | none => a
  | some (l, a0, b) =>
    match x.layerSt l.layer with
    | some st => if st.effective b then a0 + l.bstride else a0
    | none => a

/-! ### Translation (R541, R543) -/

def Range.covers (r : Range) (a : Nat) : Bool := decide (r.pbase ≤ a) && decide (a < r.pbase + r.length)

/-- The range of the current table that holds an address (R543). -/
def Ctx.rangeAt (x : Ctx) (a : Nat) : Option Range := x.table.find? (·.covers a)

/-- A run of paddock addresses lies whole in ranges of the table of some kinds: its first byte and each byte after the end of a range do. -/
def Ctx.liesIn (x : Ctx) (ok : Range → Bool) (a b : Nat) : Bool :=
  decide (b ≤ a) || (a :: x.table.map fun r => r.pbase + r.length).all fun n =>
    decide (n < a ∨ b ≤ n) || x.table.any fun r => ok r && r.covers n

/-- An address lies only in the list of the table that is being built (R543, R545). -/
def Ctx.onlyNext (x : Ctx) (a : Nat) : Bool :=
  (x.rangeAt a).isNone && match x.rebuild with
    | some b => b.table.any (·.covers a)
    | none => false

/-- The switch of a table is raised: the translation units withhold every new translation (R546). -/
def Ctx.withholds (x : Ctx) : Bool := x.rebuild.any (·.raised)

/-- A run of addresses has a page that lies only in the table that is being built (R545), or no address is translated now (R546). -/
def Ctx.awaits (x : Ctx) (a b : Nat) : Bool :=
  x.withholds || x.rebuild.isSome && (span (a / 4096) (ceilDiv b 4096 - a / 4096)).any fun n => x.onlyNext (4096 * n)

/-- The context as a unit sees it that has no path to every kind of range: a range out of its reach permits it no access (R103; log 114). -/
def Ctx.reach (x : Ctx) (ok : Range → Bool) : Ctx :=
  let cut (l : List Range) : List Range := l.map fun r => if ok r then r else { r with access := 0 }
  { x with table := cut x.table, rebuild := x.rebuild.map fun b => { b with table := cut b.table } }

/-- What a stable or shed reaches: no companion window (R103, R528). -/
def Ctx.offMcl (x : Ctx) : Ctx := x.reach fun r => r.kind != 3

/-- Device address of a paddock address, not resolved for banks; an address of the next table alone waits (R545), and every one waits while a switch is raised (R546); 0x0301 where no range permits the access (R543), in a retired page that the table leaves out (R262), or where the range points into a row store that a resize has taken from the paddock (R39, R41). -/
def State.placeRaw (s : State) (x : Ctx) (write : Bool) (a : Nat) : Except Nat Nat :=
  if x.withholds then .error awaitsSwitch else
  match x.rangeAt a with
  | none => .error (if x.onlyNext a then awaitsSwitch else 0x0301)
  | some r =>
    if !bitOf r.access (if write then 1 else 0) then .error 0x0301
    else if r.kind = 2 then
      if r.phys < 72 && bitOf (s.pd x.home).owned.groups (r.lstable / 4) then .ok (rowStoreBase r.phys + r.dbase + (a - r.pbase))
      else .error 0x0301
    else if r.holes.contains ((r.dbase + (a - r.pbase)) / 16384 * 16384) then .error 0x0301
    else .ok (r.dbase + (a - r.pbase))

/-- Both banks of every tensor that a layer declares. -/
def Parcel.bankedSpans (x : Parcel) : List (Nat × Nat) :=
  x.layers.flatMap fun l =>
    let st := x.striped l
    let parts := (l.hiBase, l.tensorBytes st 2) :: (if l.frozen then [] else
      [(l.rBase, l.tensorBytes st 2), (l.s1Base, l.tensorBytes st 4),
        if x.factored l then (l.rowBase, 4 * l.rows) else (l.s2Base, l.tensorBytes st 4)])
    parts.flatMap fun r => [(r.1, r.1 + r.2), (r.1 + l.bstride, r.1 + r.2 + l.bstride)]

/-- A device address lies in a banked tensor of this context. -/
def Ctx.banksAt (x : Ctx) (dev : Nat) : Bool :=
  x.table.any fun r =>
    let base := if r.kind = 2 then rowStoreBase r.phys + r.dbase else r.dbase
    decide (base ≤ dev ∧ dev < base + r.length) &&
      x.parcel.bankedSpans.any fun e => decide (e.1 ≤ r.pbase + (dev - base) ∧ r.pbase + (dev - base) < e.2)

/-- A device address lies in a banked tensor of another job of the paddock (R373). -/
def State.othersBank (s : State) (x : Ctx) (dev : Nat) : Bool :=
  (List.range 8).any fun c => match s.ctx x.home c with
    | some y => !y.parcel.layers.isEmpty && y.parcel.digest != x.parcel.digest && y.banksAt dev
    | none => false

/-- Device address of a paddock address as a record names it: in the effective bank, and 0x0202 where it is a banked tensor of another job (R373; log 155). -/
def State.place (s : State) (x : Ctx) (write : Bool) (a : Nat) : Except Nat Nat :=
  match s.placeRaw x write (x.resolve a) with
  | .error e => .error e
  | .ok dev => if s.othersBank x dev then .error 0x0202 else .ok dev

/-- The status that stops an access to a device address because of what lies there (R50, R262). -/
def State.gone (s : State) (dev : Nat) : Option Nat :=
  match s.whereIs dev with
  | .unmapped => some 0x0301
  | .package k off =>
    if (s.channel (channelOf k off)).retired || s.pageRetired k off then some 0x0303 else none
  | _ => none

/-- Byte by byte device addresses of a run of paddock addresses. -/
def State.places (s : State) (x : Ctx) (write : Bool) (a : Nat) : Nat → Except Nat (List Nat)
  | 0 => .ok []
  | n + 1 =>
    match s.place x write a with
    | .error e => .error e
    | .ok d =>
      match s.gone d with
      | some e => .error e
      | none => match s.places x write (a + 1) n with
        | .error e => .error e
        | .ok ds => .ok (d :: ds)

/-- Read device bytes, corrected: 0x0302 where a unit is uncorrectable (R260, R263, R305, R309). -/
def State.readDevs (s : State) (ds : List Nat) : Except Nat (List Byte) :=
  match ds.find? fun d => s.spoilt (unitOf d) with
  | none => .ok (ds.map s.byteAt)
  | some d => .error (badRead d)

/-- Write device bytes. A unit that is uncorrectable takes only a write of the whole of it, which removes the error; a flipped bit goes with any write (R259, R263, R305). -/
def State.writeDevs (s : State) (ds : List Nat) (bs : List Byte) : Except Nat State :=
  let us := (ds.map unitOf).eraseDups
  let hit := us.filter s.spoilt
  match hit.find? fun u => !((span u (codeUnit u)).all ds.contains) with
  | some u => .error (badRead u)
  | none =>
    .ok { s with mem := s.setBytes (ds.zip bs), bad := s.bad.filter fun u => !hit.contains u, flips := s.flips.filter fun f => !us.contains f.1 }

/-- Read n bytes at a paddock address. -/
def State.load (s : State) (x : Ctx) (a n : Nat) : Except Nat (List Byte) :=
  match s.places x false a n with
  | .error e => .error e
  | .ok ds => s.readDevs ds

/-- Read the bytes that a write of part of a unit keeps (R313). -/
def State.peek (s : State) (x : Ctx) (a n : Nat) : Except Nat (List Byte) :=
  match s.places x true a n with
  | .error e => .error e
  | .ok ds => s.readDevs ds

/-- Write bytes at a paddock address. -/
def State.store (s : State) (x : Ctx) (a : Nat) (bs : List Byte) : Except Nat State :=
  match s.places x true a bs.length with
  | .error e => .error e
  | .ok ds => s.writeDevs ds bs

/-- Device addresses of bytes at paddock addresses of any order. -/
def State.placesOf (s : State) (x : Ctx) (write : Bool) : List Nat → Except Nat (List Nat)
  | [] => .ok []
  | a :: as =>
    match s.places x write a 1 with
    | .error e => .error e
    | .ok ds => match s.placesOf x write as with
      | .error e => .error e
      | .ok es => .ok (ds ++ es)

/-- Write bytes at paddock addresses of any order as one write: units that are written whole lose their error (R263, R305). -/
def State.storeAll (s : State) (x : Ctx) (abs : List (Nat × Byte)) : Except Nat State :=
  match s.placesOf x true (abs.map (·.1)) with
  | .error e => .error e
  | .ok ds => s.writeDevs ds (abs.map (·.2))

/-! ### The seal log (R474) -/

/-- This module owns a bucket (R435); it owns all where it is the only member. -/
def Parcel.owns (x : Parcel) (b : BucketRec) : Bool := x.collection.isNone || b.owner == x.role

/-- The context without its declarations: addresses reach the bank that they name. -/
def Ctx.plain (x : Ctx) : Ctx := { x with parcel := { x.parcel with recs := [] } }

/-- Shared and WIRE classes in increasing number (R458). -/
def Parcel.agreedClasses (x : Parcel) : List Nat :=
  ((List.range 4096).filter fun n => x.scaleRecs.any fun r => r.cls == n && (r.shared || r.target == 0))

/-- Entry of a role table in 16 bytes: role, physical postcode, die serial (R468). -/
def Role.bytes (r : Role) : List Byte := leBytes 4 r.role ++ leBytes 4 r.postcode ++ leBytes 8 r.serial
def rolesBytes (rs : List Role) : List Byte := (rs.map Role.bytes).flatten

/-- Entry of the seal log for one bucket (R474). -/
def BucketRun.logEntry (r : BucketRun) (owned : Bool) : List Byte :=
  leBytes 4 r.bucket ++ leBytes 4 (r.own + (bit r.ownNf) * 2 ^ 31) ++ leBytes 4 (if owned then r.reduced else 0) ++
    leBytes 4 (bit owned * 2 ^ 31 + bit r.late * 2 ^ 30 + bit (owned && r.failed) * 2 ^ 29)

/-- Sizes of the agreed records by a parcel's own tables (R458, R462). -/
def Parcel.sealLen (x : Parcel) : Nat :=
  96 + 4 * ((List.range 4096).filter fun n => x.scaleRecs.any fun r => r.cls == n && (r.shared || r.target == 0)).length
def Parcel.closeLen (x : Parcel) : Nat := 32 + ceilDiv (ceilDiv ((x.layers.map fun l => l.layer + 1).foldl max 0) 8) 4 * 4

/-- The seal log of an attempt (R474). A record that was never agreed holds the free values `v` and `w`. -/
def Ctx.sealLog (x : Ctx) (v w : Nat) : List Byte :=
  let head := leBytes 8 x.stepNow ++ leBytes 1 x.tr.attempt ++ leBytes 1 x.tr.nfAttempts ++ List.replicate 6 0 ++
    sha256 (rolesBytes x.tr.roles) ++ List.replicate 16 0
  head ++ (match x.tr.coll.agreed with | some r => sealBytes r | none => leBytes x.parcel.sealLen v) ++
    (match x.tr.coll.closed with | some r => closeBytes r | none => leBytes x.parcel.closeLen w) ++
    (x.tr.coll.buckets.map fun r => r.logEntry (match x.parcel.bucket? r.bucket with | some b => x.parcel.owns b | none => false)).flatten

end Sys2Proof.Machine
end

