-- ==== Sys2Proof/Machine/Jobs.lean ====
section
/-!
DEFINITION. Halting a job (R357, R507, R691) and retiring a channel (R50): what the
causes of every chapter share.
-/

namespace Sys2Proof.Machine

/-! ### Occupancy (R325, R326) -/

/-- Bring an occupancy integral up to date: slots in use for every reference cycle since (R325). -/
def Pigeon.settle (now : Nat) (g : Pigeon) : Pigeon :=
  { g with integral := (g.integral + g.letters.length * (now - g.since)) % 2 ^ 64, since := now }

/-- Bring a context's integrals up to date; they advance only in FORWARD (R325). -/
def Ctx.settle (x : Ctx) (now : Nat) : Ctx := if x.tr.phase = 2 then { x with pigeons := x.pigeons.map (Pigeon.settle now) } else x

/-- The integrals go on from now: what passed since does not count (R326, R329). -/
def Ctx.restamp (x : Ctx) (now : Nat) : Ctx := { x with pigeons := x.pigeons.map fun g => { g with since := now } }

/-- The state of the step in progress by the codes of R634. -/
def Ctx.phaseCode (x : Ctx) : Nat := if x.parcel.kind = 1 then x.sv.phase else x.tr.phase

/-! ### States and the decision (R525-R527) -/

/-- Enter a state; the moment is recorded (R526). -/
def Ctx.enter (x : Ctx) (st : CtxState) (now : Nat) : Ctx :=
  if x.state = st then x else { x with state := st, since := now }

/-- The span that the context is inside, if any (R535): 0 training, 1 serving, 2 table switch (R581). -/
def Ctx.spanCode (x : Ctx) : Option Nat :=
  if x.phaseCode = 5 ∨ x.phaseCode = 6 ∨ x.phaseCode = 7 then some 0
  else if x.phaseCode = 18 ∨ x.phaseCode = 19 then some 1
  else match x.rebuild with
    | some r => if r.raised then some 2 else none
    | none => none

/-- Candidates of a kind, with their numbers. -/
def Paddock.withCtx (d : Paddock) (f : Ctx → Bool) : List (Nat × Ctx) :=
  (List.range 8).filterMap fun c => match d.ctx c with
    | some x => if f x then some (c, x) else none
    | none => none

/-- a comes before b: higher priority, then earlier entry, then lower number (R527). -/
def beforeByPriority (a b : Nat × Ctx) : Bool :=
  if a.2.priority ≠ b.2.priority then decide (a.2.priority < b.2.priority)
  else if a.2.since ≠ b.2.since then decide (a.2.since < b.2.since)
  else decide (a.1 < b.1)

def bestBy (before : Nat × Ctx → Nat × Ctx → Bool) : List (Nat × Ctx) → Option (Nat × Ctx)
  | [] => none
  | a :: as => match bestBy before as with
    | none => some a
    | some b => some (if before a b then a else b)

/-- The choice of decide() (R527): the context that the running one is switched for. -/
def Paddock.choice (d : Paddock) : Option Nat :=
  match bestBy beforeByPriority (d.withCtx fun x => x.resident && x.state == .ready) with
  | none => none
  | some (b, y) =>
    match d.running.bind fun c => (d.ctx c).map fun x => (c, x) with
    | none => some b
    | some (_, x) =>
      if x.state ≠ .running then some b
      else if y.priority < x.priority then some b
      else if d.sliceOver && decide (y.priority ≤ x.priority) then some b
      else none

/-- decide() (R527). Inside a span the pre-emption falls due and waits (R535). A context chosen again runs on. -/
def Paddock.reschedule (d : Paddock) (now : Nat) : Paddock :=
  if d.switching.isSome then d
  else match d.choice with
    | none => d
    | some b =>
      let inSpan : Bool := match d.running.bind d.ctx with
        | some x => x.spanCode.isSome && x.state == .running
        | none => false
      if inSpan then { d with due := some (d.due.getD now) }
      else if d.running = some b then
        { d.modCtx b (·.enter .running now) with sliceOver := false, ranSince := now }
      else { d with switching := some ⟨d.running, b, .requested⟩ }

def State.reschedule (s : State) (p : Nat) : State := s.modPd p (·.reschedule (s.now p))

/-- A context enters a state and the ostler decides (R527). -/
def State.enterState (s : State) (p c : Nat) (st : CtxState) : State :=
  (s.modCtx p c (·.enter st (s.now p))).reschedule p

/-- A context that has become able to issue: READY unless it runs (R525, R527). -/
def State.makeReady (s : State) (p c : Nat) : State :=
  match s.ctx p c with
  | some x =>
    if x.state = .running ∨ x.state = .halted then s
    else s.enterState p c .ready
  | none => s

/-- Slots of the paddock that hold a live stream (R482, R487). -/
def Paddock.liveSlots (d : Paddock) : List Nat :=
  (d.withCtx fun _ => true).flatMap fun cx => cx.2.sv.streams.filterMap (·.slot)

/-! ### Reports and terminal letters (R337, R480, R488, R582) -/

/-- The step loss: the running loss times norm (R347). -/
def Ctx.stepLoss (x : Ctx) : Fp.Pair :=
  match x.parcel.stepBegin with
  | some b => (Wide.mul (Wide.ofPair x.tr.loss) (Wide.of32 b.norm)).p
  | none => ⟨0, 0⟩

/-- STEP_REPORT (R582); a refused step has run no attempt, and only a halt has a status. -/
def Ctx.report (x : Ctx) (c outcome status : Nat) (step : Nat) (loss : Fp.Pair) (cycles : Nat) : OutLetter :=
  ⟨0x00C0, 0, leBytes 1 c ++ leBytes 1 outcome ++ leBytes 1 (if outcome = 2 then 0 else x.tr.attempt + 1) ++ leBytes 1 x.tr.nfAttempts ++
    leBytes 2 (if outcome = 1 then status else 0) ++ leBytes 1 (x.tr.flags % 64) ++ leBytes 1 x.tr.votes ++ leBytes 8 step ++
    leBytes 4 loss.hi.toNat ++ leBytes 4 loss.lo.toNat ++ leBytes 4 x.tr.c.toNat ++ leBytes 4 0 ++ leBytes 8 cycles⟩

/-- Header line of a token buffer (R480); state 3 once retired. -/
def Stream.header (r : Stream) (status step : Nat) : List Byte :=
  leBytes 4 r.delivered ++ leBytes 2 status ++
    leBytes 1 (if status ≠ 0 then 3 else if r.slot.isNone then 0 else if r.decode then 2 else 1) ++
    leBytes 1 (bit r.late) ++ leBytes 8 step ++ List.replicate 48 0

/-- Write a request's header line through MCL (R481). -/
def State.writeHeader (s : State) (p : Nat) (r : Stream) (status step : Nat) : State :=
  s.sendComp (.token p) r.out (r.header status step)

/-- The one terminal letter of a request (R488): LATE, or STREAM_END. -/
def Stream.terminal (r : Stream) (c status : Nat) : OutLetter :=
  event (if status = 0x0711 then 0x00C4 else 0x00C3) r.tag 0 c 0 status [r.delivered, r.accepted, bit r.late]

/-- A token's entry: the token, and bit 31 where it confirmed a guess (R480). -/
def entryBytes (t : Nat × Bool) : List Byte := leBytes 4 (t.1 % 2 ^ 20 + bit t.2 * 2 ^ 31)

/-- Write the entries of the tokens that the step delivers (R480, R481). -/
def State.writeEntries (s : State) (p : Nat) (r : Stream) : State :=
  if r.fresh.isEmpty then s
  else
    let at_ := r.out + 64 + 4 * (r.delivered - r.fresh.length)
    s.sendComp (.token p) at_ (r.fresh.map entryBytes).flatten

/-- The last writes of a request: entries, then the header line, then its terminal letter (R481, R488). -/
def State.retireStream (s : State) (p c : Nat) (r : Stream) (status step : Nat) : State :=
  ((s.writeEntries p r).writeHeader p r status step).postSure p (r.terminal c status)

/-- The requests of a halting job with their terminal statuses: those that the commit point has retired keep theirs, the others retire FAILED from what their slot records hold (R487, R507). -/
def Serve.lastOf (v : Serve) (status : Nat) : List (Stream × Nat) :=
  let gone := (v.record.getD []).filter (·.ended.isSome)
  ((v.queue ++ v.streams).map fun r => match gone.find? (·.tag == r.tag) with
    | some q => (q, q.ended.getD status)
    | none => (r, status))

/-! ### The end of a replay (R475-R477) -/

/-- A parcel with another role postcode in its collection record (R475). -/
def Parcel.withRole (x : Parcel) (role : Nat) : Parcel :=
  { x with recs := x.recs.map fun r => match r.body with
      | .collection c => { r with body := .collection { c with role := role } }
      | _ => r }

/-- A replay is over: the parcel has its own role again. -/
def Ctx.endReplay (x : Ctx) : Ctx :=
  match x.tr.replay with
  | none => x
  | some r => { x with parcel := x.parcel.withRole r.ownRole, tr := { x.tr with replay := none } }

/-- A replay whose job halts is answered with the status (R571). -/
def State.failReplay (s : State) (p : Nat) (x : Ctx) (status : Nat) : State :=
  match x.tr.replay with
  | none => s
  | some r => s.reply p 0x0081 ⟨r.tag, r.quiet⟩ status []

/-! ### Halting (R357, R507, R691) -/

/-- Drop a job's runs from a stable; a stable that ran it stands idle (R357). One that has failed is replaced all the same (R43, R136). -/
def Stable.dropJob (p c : Nat) (x : Stable) : Stable :=
  let q := x.queue.filter fun r => r.paddock != p || r.ctx != c
  if (x.queue.head?.map fun r => r.paddock == p && r.ctx == c) = some true then
    { x with queue := q, best := [], topk := [], pipe := [], drains := [], pos := FeedPos.start, groom := Groom.start
             failed := 0, runs := [], held := [], watch := 0, warned := false }
  else { x with queue := q }

/-- Every block's PEND and every layer's CPEND become 0 (R399). -/
def LayerSt.unpend (l : LayerSt) : LayerSt := { l with cpend := false, blocks := l.blocks.map fun b => { b with pend := false } }

/-- What a halt leaves of a context (R339, R357). -/
def Ctx.halted (x : Ctx) (status now : Nat) : Ctx :=
  let x := x.endReplay.enter .halted now
  { x with
    status := status, haltAfter := none, inStep := false, stepsLeft := 0, flights := [], jumps := [], pigeons := [], image := none
    tr := { x.tr with phase := 0, gen := 0, pre := [], layers := x.tr.layers.map LayerSt.unpend, coll := Coll.none, verdict := none, xfers := []
                      amax := [], digests := [], summaries := [] }
    sv := { x.sv with phase := 0, queue := [], streams := [], bound := false, record := none, loading := none, toLoad := []
                      retired := x.sv.retired ++ (x.sv.queue ++ x.sv.streams).map (·.tag) } }

/-- Adders drop the open blocks of a job's collection, and what waits to enter them frees its credit (R414, R449). -/
def State.dropBlocks (s : State) (x : Ctx) : State :=
  match x.parcel.collection with
  | none => s
  | some c =>
    let freed := s.ports.flatMap fun q => q.inputs.filter (·.tag == c.tag)
    let s := { s with ports := s.ports.map fun (q : Port) =>
      { q with adder := q.adder.filter (·.tag != c.tag), inputs := q.inputs.filter (·.tag != c.tag) } }
    freed.foldl (fun (s : State) w => s.modPort w.src fun q => q.giveBack w.tree w.cells) s

/-- PREEMPT_OVERRUN for a pre-emption that waited, then the decision (R535, R537). -/
def State.overran (s : State) (p c span : Nat) : State :=
  match (s.pd p).due with
  | none => s.reschedule p
  | some t =>
    let late := s.now p - t
    let s := s.modPd p fun d => { d with due := none, overrun := (d.overrun + late) % 2 ^ 48 }
    (s.postEvent p (event 0x00D6 0 0 c span 0 [late])).reschedule p

/-- The seal log of an attempt that a halt ends before its DRAIN; where its range cannot be written the log stays as it is (R474; log 157). -/
def State.logHalt (s : State) (x : Ctx) : State :=
  match x.parcel.collection with
  | none => s
  | some col =>
    if col.sealLog = 0xFFFF || x.tr.phase = 0 || x.tr.phase = 9 then s
    else
      let (v, s) := s.draw
      let (w, s) := s.draw
      match s.store x.plain (x.parcel.desc col.sealLog).base (x.sealLog v w) with
      | .error _ => s
      | .ok s => s

/-- Halt a job at once with a status: a step in progress leaves its seal log and is reported HALTED, its requests retire FAILED, its units and entries are released, and a span that it ends is reported where a pre-emption waited (R357, R474, R507, R523, R537). -/
def State.haltNow (s : State) (p c status : Nat) : State :=
  match s.ctx p c with
  | none => s
  | some x =>
    if x.state = .halted then s
    else
      let now := s.now p
      let held := (x.flights.map fun f => f.units.length).sum
      let wasIn := (s.pd p).running = some c
      let s := if x.inStep then s.logHalt x else s
      let s := { s with stables := s.stables.map (Stable.dropJob p c)
                        turnout := s.turnout.map fun (q : List TurnJob) => q.filter fun j => j.paddock != p || j.ctx != c }
      let s := (s.dropBlocks x).modMcl (·.dropJob p c)
      let s := s.dropExpiries fun e => e.paddock == p && e.ctx == c
      let s := s.modPd p fun d =>
        { d.modCtx c (·.halted status now) with entriesUsed := if wasIn then d.entriesUsed - held else d.entriesUsed }
      let s := if x.inStep && decide (x.parcel.kind ≠ 1) then
          s.postEvent p (x.report c 1 status x.stepNow x.stepLoss (now - x.tr.startAt)) else s
      let s := (x.sv.lastOf status).foldl (fun s e => s.retireStream p c e.1 e.2 x.sv.step) s
      let s := s.failReplay p x status
      match x.spanCode with
      | some n => if wasIn then s.overran p c n else s.reschedule p
      | none => s.reschedule p

/-! ### A proposed epoch ends (R469-R471) -/

/-- Payload of MEMBERSHIP's reply: 0 in effect, 1 refused by R470, 2 refused by R471 (R576). -/
def outcomePayload (n : Nat) : List Byte := leBytes 1 n

/-- The proposal is refused by R471, if there is one: the reply goes out and the job stays halted. -/
def State.refuseEpoch (s : State) (p c : Nat) : State :=
  match s.ctx p c with
  | none => s
  | some x =>
    match x.tr.proposal with
    | none => s
    | some q =>
      let s := s.dropExpiries fun e => e.paddock == p && e.ctx == c && e.kind == .agree
      let s := s.modCtx p c fun x => x.modTr fun t => { t with proposal := none, epochIn := [] }
      s.reply p 0x0080 ⟨q.tag, q.quiet⟩ 0x0606 (outcomePayload 2)

/-- The end of a span: a halt that waited takes place (R535, R691), then the pre-emption that waited. -/
def State.spanEnds (s : State) (p c span : Nat) : State :=
  let s := match (s.ctx p c).bind (·.haltAfter) with
    | some st => s.haltNow p c st
    | none => s
  s.overran p c span

/-- Halt a job for what happened to its paddock; inside COLLECT, SEAL, COMMIT or a serving commit the halt waits for the end of that span (R535, R691, R518). -/
def State.haltPlain (s : State) (p c status : Nat) : State :=
  match s.ctx p c with
  | none => s
  | some x =>
    if x.spanCode.isSome then s.modCtx p c fun x => { x with haltAfter := some (x.haltAfter.getD status) }
    else s.haltNow p c status

/-- Halt a job for a failure of its own: at once, save that a COMMIT that has begun ends first (R357, R359, R396). -/
def State.haltFailed (s : State) (p c status : Nat) : State :=
  match s.ctx p c with
  | none => s
  | some x => if x.phaseCode = 7 then s.haltPlain p c status else s.haltNow p c status

/-- Every loaded context of a paddock whose job has not halted halts with a status. -/
def State.haltAll (s : State) (p status : Nat) : State :=
  (List.range 8).foldl (fun s c =>
    match s.ctx p c with
    | some x => if x.state = .halted then s else s.haltPlain p c status
    | none => s) s

/-- A range of the table reaches a package (R50). -/
def Range.reachesPackage (k : Nat) (r : Range) : Bool :=
  r.kind == 0 && decide (r.dbase < packageBase (k + 1)) && decide (packageBase k < r.dbase + r.length)

/-- A channel is retired: its range is unmapped, its shed leaves service, the jobs that point into the package halt with 0x0303, and CHANNEL_RETIRED is posted (R43, R50, R581). -/
def State.retireChannel (s : State) (ch : Nat) : State :=
  if (s.channel ch).retired then s
  else
    let s := (s.modChannel ch fun c => { c with retired := true }).modShed ch fun x => { x with ok := false }
    let s := s.mapAdd ⟨10, dieOfChannel ch, ch, noUnit, 0⟩
    let s := (List.range 16).foldl (fun s p => (List.range 8).foldl (fun s c =>
      match s.ctx p c with
      | some x => if x.state ≠ .halted ∧ x.table.any (·.reachesPackage (ch / 8)) then s.haltFailed p c 0x0303 else s
      | none => s) s) s
    s.postOwned (ownsPackage (ch / 8)) (event 0x00CA 0 ch 0xFF 2 0 [])

/-! ### Sheds out of service (R289, R290) -/

def shedFault (ch : Nat) : OutLetter := event 0x00CB 0 ch 0xFF 0 0 []

/-- A shed leaves service and SHED_FAULT is posted (R290). -/
def State.shedFails (s : State) (ch : Nat) : State :=
  (s.modShed ch fun x => { x with ok := false }).postOwned (ownsPackage (ch / 8)) (shedFault ch)

/-- REMOUNT for a vector lane: R579 lists no kind for it, so what names the unit is free (log 52). -/
def State.laneRemount (s : State) (ch : Nat) : State :=
  let k := s.draw
  let u := k.2.draw
  u.2.postOwned (ownsPackage (ch / 8)) (event 0x00C8 0 (k.1 % 65536) 0xFF (dieOfChannel ch) (u.1 % 2 ^ 32) [9])

/-- The boundary before an operation: the spare lane takes a suspect's place; a further suspect takes the shed out of service (R289, R290). -/
def State.shedBoundary (s : State) (ch : Nat) : State :=
  let x := s.shed ch
  if x.lanes.isEmpty || !x.ok then s
  else if x.spareUsed || decide (2 ≤ x.lanes.length) then s.shedFails ch
  else (s.modShed ch fun x => { x with spareUsed := true, lanes := [] }).laneRemount ch

/-! ### Uncorrectable reads (R263) -/

/-- A row gives an uncorrectable error; a second row within the scrub period retires the channel (R263). -/
def State.noteRow (s : State) (ch row : Nat) : State :=
  if (s.channel ch).uncorrectableRows.contains row then s
  else
    let s := s.modChannel ch fun x => { x with uncorrectableRows := x.uncorrectableRows ++ [row] }
    if 2 ≤ (s.channel ch).uncorrectableRows.length then s.retireChannel ch else s

/-- CHANNEL_RETIRED with a row or a page named (R261, R262, R581). -/
def State.postRow (s : State) (ch aux row : Nat) : State := s.postOwned (ownsPackage (ch / 8)) (event 0x00CA 0 ch 0xFF aux 0 [row])

/-- The row is in the remount map already. -/
def Remount.hasRow (r : Remount) (ch row : Nat) : Bool := r.entries.any fun e => (e.kind == 8 || e.kind == 9) && e.unit == ch && e.detail == row

/-- The bank of a row, as the list of resources counts banks: rank * 16 + bank (R579). -/
def bankOf (row : Nat) : Nat := row / 2 ^ 17

/-- The bank of a row has a repair resource left (R262). -/
def Channel.canRepair (x : Channel) (row : Nat) : Bool := decide (0 < x.resources.getD (bankOf row) 0)

/-- sPPR of a row takes one of its bank's resources (R261). -/
def Channel.repairs (x : Channel) (row : Nat) : Channel :=
  { x with repaired := x.repaired + 1, soft := x.soft ++ [row], resources := x.resources.modify (bankOf row) (· - 1) }

/-! ### Rebuilds (R262, R544-R547) -/

/-- Device base of a retired page: 16 KiB of a package whose granules on a channel fall in a row (R253, R262, R579). -/
def pageBase (ch row : Nat) : Nat :=
  let r := row % 2 ^ 17
  packageBase (ch / 8) + 8 * (row / 2 ^ 21 * 2 ^ 32 + r * 2 ^ 15 + (row / 2 ^ 17 % 16 ^^^ r % 16) * 2 ^ 11)

/-- Retired pages by their device bases (R262). -/
def Remount.pages (m : Remount) : List Nat := (m.entries.filter (·.kind == 9)).map fun e => pageBase e.unit e.detail

/-- A range as a build of a table makes it: the base of the physical row store that the remount map binds to its stable is added, and retired pages are left out (R262, R542, R544). -/
def Remount.bound (m : Remount) (r : Range) : Range :=
  if r.kind = 2 then { r with phys := (m.bind.getD r.lstable none).getD noUnit }
  else if r.kind = 0 then { r with holes := (m.pages.filter fun a => decide (a < r.dbase + r.length ∧ r.dbase < a + 16384)).eraseDups }
  else r

/-- Start a rebuild with a new table, or merge it into the next one (R545, R547). -/
def Ctx.retable (x : Ctx) (t : List Range) : Ctx :=
  match x.rebuild with
  | none => { x with rebuild := some ⟨t, false⟩ }
  | some _ => { x with merged := some t }

/-- The table that the last trigger leads to. -/
def Ctx.lastTable (x : Ctx) : List Range :=
  match x.merged, x.rebuild with
  | some t, _ => t
  | none, some r => r.table
  | none, none => x.table

def Paddock.mapCtxs (d : Paddock) (f : Ctx → Ctx) : Paddock := { d with ctxs := d.ctxs.map (Option.map f) }
def State.mapCtxs (s : State) (f : Ctx → Ctx) : State := { s with pads := s.pads.map (·.mapCtxs f) }

/-- A table that reaches a retired page is rebuilt around it (R262, R544). -/
def Ctx.retablePage (m : Remount) (a : Nat) (x : Ctx) : Ctx :=
  if x.lastTable.any (fun r => r.kind == 0 && decide (a < r.dbase + r.length) && decide (r.dbase < a + 16384)) then x.retable (x.lastTable.map m.bound) else x

/-! ### Row repair (R261-R263) -/

/-- A row is repaired by sPPR, or its page is retired where the bank has no resource left (R261, R262). A row that the map lists is repaired once more only where it has failed `again`; it keeps its entry (log 49). -/
def State.repairRow (s : State) (ch row : Nat) (again : Bool) : State :=
  if (s.remount.hasRow ch row && !again) || (s.channel ch).pages.contains row || (s.channel ch).retired then s
  else if (s.channel ch).canRepair row then
    let s := s.modChannel ch (·.repairs row)
    (if s.remount.hasRow ch row then s else s.mapAdd ⟨8, dieOfChannel ch, ch, noUnit, row⟩).postRow ch 0 row
  else
    let s := (s.modChannel ch fun x => { x with pages := x.pages ++ [row] }).mapAdd ⟨9, dieOfChannel ch, ch, noUnit, row⟩
    (s.mapCtxs (Ctx.retablePage s.remount (pageBase ch row))).postRow ch 1 row

/-- The channel of a burst that could not be corrected repairs its row (R261), and learns of the row (R263). -/
def State.gaveBad (s : State) (dev : Nat) : State :=
  match s.whereIs dev with
  | .package k off =>
    let u := dev / 64 * 64
    ((s.spoil u).repairRow (channelOf k off) (rowCode off) (!s.bad.contains u)).noteRow (channelOf k off) (rowCode off)
  | _ => s

/-- Halt a job for a cause: a status, or 0x0302 with the address of an uncorrectable burst (R263, R357). For an access that waits nothing happens yet (R545). -/
def State.haltJob (s : State) (p c cause : Nat) : State :=
  if cause = awaitsSwitch then s else
  let s := s.haltFailed p c (cause % 65536)
  if cause / 65536 = 0 then s else s.gaveBad (cause / 65536 - 1)

end Sys2Proof.Machine
end

