-- ==== Sys2Proof/Machine/Ecc.lean ====
section
/-!
DEFINITION. Errors of memory: cells that flip (R264, R266), the check bits of a burst
(R254, R257), training (R246, R249), and what corrected and uncorrectable bursts do to
their rows and channels (R260, R261, R263, R305, R309).
-/

namespace Sys2Proof.Machine

/-! ### Cells that flip -/

/-- A cell of memory flips. Without inline ECC nothing guards it and the stored bit changes, which in encrypted data reaches its 16-byte block (R264, R266); elsewhere the unit's code judges its next read. -/
def State.cellFlips (s : State) (dev b : Nat) : State :=
  let u := unitOf dev
  match s.whereIs dev with
  | .package k _ =>
    if bitOf s.cfg.ecc k then s.flipBit u (b % 528)
    else s.wr u (s.viewOf u ((s.storedBurst u).modify (b % 512 / 8) (· ^^^ ((1 : Byte) <<< (b % 8)))))
  | .pen _ _ => s.flipBit u (b % 72)
  | .row _ _ => s.flipBit u (b % 72)
  | _ => s

/-! ### Check bits (R254, R257) -/

/-- The check bits of bits from number i on: each bit that is 1 adds its column, so the code is linear (R257). -/
def checkFrom (i : Nat) : List Byte → BitVec 16
  | [] => 0
  | b :: bs => ((List.range 8).foldl (fun (a : BitVec 16) (j : Nat) => if b.getLsbD j then a ^^^ Config.eccColumn (i + j) else a) 0) ^^^ checkFrom (i + 8) bs

def checkBits (bs : List Byte) : BitVec 16 := checkFrom 0 bs

/-! ### Training (R246, R249) -/

/-- A channel has been trained at a package temperature: new settings replace those of a record. -/
def Channel.train (temp : Int) (c : Channel) : Channel :=
  { c with trained := true, temp := temp, trainings := c.trainings + 1, settings := none }

/-! ### Corrected and uncorrectable bursts (R260, R261, R263) -/

/-- Device address of a channel byte address (R253). -/
def deviceOf (ch ca : Nat) : Nat := packageBase (ch / 8) + ca / 256 * 2048 + ch % 8 * 256 + ca % 256

/-- The row of a channel byte address as R579 numbers it. -/
def rowAt (ca : Nat) : Nat := rowCode (ca / 256 * 2048 + ca % 256)

/-- A corrected error enters the table of 64 rows, the oldest evicted first (R260). -/
def countCorrected (rows : List RowErrors) (row burst : Nat) : List RowErrors :=
  match rows.find? (·.row == row) with
  | some _ => rows.map fun r => if r.row = row ∧ !r.bursts.contains burst then { r with bursts := r.bursts ++ [burst] } else r
  | none => (rows ++ [(⟨row, [burst]⟩ : RowErrors)]).drop (rows.length + 1 - 64)

/-- Different bursts of a row with corrected errors in this period. -/
def burstsOf (rows : List RowErrors) (row : Nat) : Nat := match rows.find? (·.row == row) with | some r => r.bursts.length | none => 0

/-- Channel byte address of a package offset (R253). -/
def channelAddr (off : Nat) : Nat := off / 2048 * 256 + off % 256

/-- A burst with a corrected error: it is written back corrected, and the third of a row repairs it, which begins its count anew (R260, R261; log 49). -/
def State.corrects (s : State) (ch ca : Nat) : State :=
  let row := rowAt ca
  let s := (s.unflip (unitOf (deviceOf ch ca))).modChannel ch fun x => { x with rows := countCorrected x.rows row (ca / 64) }
  if 3 ≤ burstsOf (s.channel ch).rows row then
    (s.modChannel ch fun x => { x with rows := x.rows.filter (·.row != row) }).repairRow ch row true
  else s

/-- A burst that cannot be corrected: it stays so, its row is repaired where the burst has failed anew, and a second row retires the channel (R261, R263; log 49). -/
def State.loses (s : State) (ch ca : Nat) : State :=
  let u := unitOf (deviceOf ch ca)
  ((s.spoil u).repairRow ch (rowAt ca) (!s.bad.contains u)).noteRow ch (rowAt ca)

/-- A unit whose read has been corrected is written back; a channel counts it (R260, R305, R309). -/
def State.correctUnit (s : State) (u : Nat) : State :=
  match s.whereIs u with
  | .package k off => s.corrects (channelOf k off) (channelAddr off)
  | _ => s.unflip u

/-- What a reader has read of the units with a flipped bit is written back corrected (R260, R305, R309; log 125). -/
def State.readBack (s : State) (reads : Nat → Bool) : State :=
  (((s.flips.map (·.1)).eraseDups).filter fun u => reads u && !s.spoilt u).foldl State.correctUnit s

end Sys2Proof.Machine
end

