-- ==== Sys2Proof/Machine/Sched.lean ====
section
/-!
DEFINITION. Scheduling of a paddock's contexts (R522-R537): states, decide, the
switch with its save and resume, swapping (R538-R540), and the rebuild and switch of
translation tables (R541-R548).
-/

namespace Sys2Proof.Machine

/-! ### Slices and blocking (R526, R527) -/

/-- The running context has run for its slice (R17, R91, R527). -/
def sliceExpires (p : Nat) (s : State) : State :=
  if s.runs p && (s.pd p).running.isSome && (s.pd p).slice != noLimit && decide ((s.pd p).ranSince + (s.pd p).slice ≤ s.now p) then
    (s.modPd p fun d => { d with sliceOver := true }).reschedule p
  else s

def execSliceExpiry (p : Nat) (s : State) : Out := onUnit (p < 16) (sliceExpires p s)

/-- The footprint of a descriptor, of elements of `bytes` bytes, meets ranges of a kind. -/
def Ctx.descMeets (x : Ctx) (kind dn bytes : Nat) : Bool :=
  match x.parcel.descs[dn]? with
  | some d =>
    let e := d.span bytes
    x.table.any fun r => r.kind == kind && decide (r.pbase < e.2) && decide (e.1 < r.pbase + r.length)
  | none => false

/-- A descriptor lies in ranges of the companion window (R525). -/
def Ctx.reachesCompanion (x : Ctx) (dn : Nat) : Bool := x.descMeets 3 dn 1

/-- A record waits on an external source: a turnout job to or from the companion window, or an XFER receive (R525). -/
def Ctx.externalRec (x : Ctx) (ordinal : Nat) : Bool :=
  match (x.parcel.recs[ordinal]?).map Rec.body with
  | some (.turnout r) => x.reachesCompanion r.src || x.reachesCompanion r.dst
  | some (.xferRecv _ _ _ _) => true
  | _ => false

/-- Every record in flight of the context waits on an external source (R526). -/
def Ctx.waitsOutside (x : Ctx) : Bool := !x.flights.isEmpty && x.flights.all fun f => x.externalRec f.ordinal

/-! ### The switch (R528-R534) -/

/-- Logical stables of a paddock that are bound and in service, with their physical stables (R27, R691). -/
def State.stablesOf (s : State) (p : Nat) : List (Nat × Nat) :=
  (List.range 64).filterMap fun l =>
    if bitOf (s.pd p).owned.groups (l / 4) && !s.remount.groupLost.contains (l / 4) then
      (s.remount.bind.getD l none).map fun phys => (l, phys)
    else none

/-- The kernel record of an ordinal. -/
def Parcel.kernel? (x : Parcel) (ordinal : Nat) : Option KernelRec :=
  match (x.recs[ordinal]?).map Rec.body with
  | some (.kernel k) => some k
  | _ => none

/-- The operation runs tiles (R105). -/
def KernelRec.tiled (k : KernelRec) : Bool := k.kop == 1 || k.kop == 2 || k.kop == 3

/-- A pre-emption of a context has been requested and waits for its units (R144, R528). -/
def State.preempts (s : State) (p c : Nat) : Bool :=
  match (s.pd p).switching with
  | some w => w.stage == .requested && w.victim == some c
  | none => false

/-- Every tile that was fed has left the pipeline, or has reached the drain in this event (R106). -/
def Stable.drained (x : Stable) : Bool := (x.pipe.take 6).all (·.isNone)

/-- The feed controller stands at a tile boundary, and the tile that was fed last waits for its check, or none is to run again (R144). -/
def Stable.betweenTiles (x : Stable) : Bool :=
  x.pos.event == 0 && ((x.pipe.take 4).any (·.isSome) || (x.failed == 0 && x.runs.isEmpty))

/-- A stable inside a tiled operation has reached its point: every tile that was fed has passed its check and drained (R144). -/
def Stable.atPoint (x : Stable) : Bool := (x.pos.done || x.betweenTiles) && x.drained

/-- The operation that a stable is inside, by its record. -/
def State.insideTiled (s : State) (x : Stable) : Bool :=
  match x.queue with
  | [] => false
  | r :: _ => r.begun && !r.kdone && match (s.ctx r.paddock r.ctx).bind fun y => y.parcel.kernel? r.ordinal with
    | some k => k.tiled
    | none => false

/-- A stable stands between two kernel records (R141). -/
def Stable.atBoundary (x : Stable) : Bool := match x.queue with | [] => true | r :: _ => !r.begun

/-- A replacement of the stable or of its stalls is due, and takes effect before a pre-emption does (R51, R136, R141). A record that is to run again starts before its boundary. -/
def Stable.replacementDue (x : Stable) : Bool :=
  x.stopped || (x.atBoundary && !x.suspects.isEmpty && !(x.queue.take 1).any (·.rerun))

/-- Every stable of the paddock stands at its point with no replacement due: one inside K.MM, K.CONV or K.DIST at a tile boundary, its tiles checked and drained; any other where it is (R51, R144, R528). Grooms, sheds and pigeonhole accesses stand between two commands at theirs. -/
def State.unitsAtPoints (s : State) (p : Nat) : Bool :=
  (s.stablesOf p).all fun l =>
    let x := s.stable l.2
    !x.replacementDue && (x.copying.isSome || !s.insideTiled x || x.atPoint)

/-- Device channels of a paddock's packages, each with a shed (R242, R273). -/
def Paddock.channels (d : Paddock) : List Nat := (bitsSet 24 d.owned.packages).flatMap fun k => span (8 * k) 8

/-- Words of a row store that cannot be corrected, by offset (R309). -/
def State.storeSpoilt (s : State) (phys : Nat) : List Nat :=
  ((s.bad ++ s.flips.map (·.1)).eraseDups.filter fun u => s.spoilt u && decide (rowStoreBase phys ≤ u) && decide (u < rowStoreBase (phys + 1))).map (· - rowStoreBase phys)

/-- The units' state of a paddock as save images (R529-R531). -/
def State.capture (s : State) (p : Nat) : Image :=
  let ls := s.stablesOf p
  ⟨ls.map fun x => (x.1, s.stable x.2),
    ls.flatMap fun x => (s.mem.filter fun c =>
      decide (rowStoreBase x.2 ≤ c.1) && decide (c.1 < rowStoreBase (x.2 + 1))).map fun c =>
        (x.1 * rowStoreSize + (c.1 - rowStoreBase x.2), c.2),
    ls.flatMap fun x => (s.storeSpoilt x.2).map (x.1 * rowStoreSize + ·),
    (s.pd p).channels.map fun ch => (ch, s.shed ch)⟩

/-- Put images back into the paddock's units; what an image lacks is zero state, and a word that could not be corrected stays so (R309, R532). -/
def State.putBack (s : State) (p : Nat) (im : Image) : State :=
  let ls := s.stablesOf p
  let s := ls.foldl (fun s x =>
    (s.zero (rowStoreBase x.2) rowStoreSize).modStable x.2 fun old =>
      Stable.resumed old ((im.stables.find? (·.1 == x.1)).map (·.2))) s
  let s := (s.pd p).channels.foldl (fun s ch => s.modShed ch fun old => old.resumed ((im.sheds.find? (·.1 == ch)).map (·.2))) s
  let at_ (n : Nat) : Option Nat := (ls.find? (·.1 == n / rowStoreSize)).map fun x => rowStoreBase x.2 + n % rowStoreSize
  let s := im.rows.foldl (fun s rb => match at_ rb.1 with | some a => s.wr a [rb.2] | none => s) s
  im.spoilt.foldl (fun s u => match at_ u with | some a => s.spoil a | none => s) s

/-- Scoreboard entries that a context's records hold (R523). -/
def Ctx.entriesHeld (x : Ctx) : Nat := (x.flights.map fun f => f.units.length).sum

/-! ### Swapping (R538-R540) -/

/-- Jobs of a paddock that stand in an engine's queue. -/
def arrivedOf (p : Nat) (q : List TurnJob) : Nat := (q.filter fun j => j.paddock == p && j.arrived).length

/-- A job enters an engine's queue, or waits inside its paddock while two of its jobs are outstanding there (R551). -/
def State.enqueue (s : State) (e p c i : Nat) : State :=
  { s with turnout := s.turnout.modify e fun (q : List TurnJob) => q ++ [⟨p, c, i, decide (arrivedOf p q < 2), false, 0⟩] }

/-- The job moves granules of a swap and belongs to no record (R291). -/
def TurnJob.ofSwap (j : TurnJob) : Bool := j.ordinal == 0xFFFFFFFF

/-- Dies on which a shed of the paddock is out of service. -/
def State.deadDies (s : State) (p : Nat) : List Nat := ((((s.pd p).channels).filter fun ch => !(s.shed ch).ok).map dieOfChannel).eraseDups

/-- The granules of a context's swap on channels whose shed is out of service go by a MOVE job on each such die (R291, R540). -/
def State.swapJobs (s : State) (p c : Nat) : State := (s.deadDies p).foldl (fun s e => s.enqueue e p c 0xFFFFFFFF) s

/-- A swap of the paddock still has a MOVE job to end (R291, R540). -/
def State.swapMoves (s : State) (p : Nat) : Bool := s.turnout.any fun q => q.any fun j => j.paddock == p && j.ofSwap

/-- Pens that a context's table reaches. -/
def Ctx.tablePens (x : Ctx) : List Nat :=
  (x.table.filter (·.kind == 1)).flatMap fun r =>
    span ((r.dbase - penBase 0) / penSize) (ceilDiv ((r.dbase - penBase 0) % penSize + r.length) penSize)

/-- Pens in use by resident contexts. -/
def Paddock.usedPens (d : Paddock) : List Nat := (d.withCtx (·.resident)).flatMap fun cx => cx.2.pens

/-- Pens of the paddock that no resident context holds. -/
def Paddock.freePens (d : Paddock) : List Nat := (bitsSet 96 d.owned.pens).filter fun n => !d.usedPens.contains n

/-- The source or destination of a turnout record of the context lies in its pens; so do those of a MOVE job that stands for sheds out of service (R291, R540). -/
def Ctx.movesPens (x : Ctx) (ordinal : Nat) : Bool :=
  match (x.parcel.recs[ordinal]?).map Rec.body with
  | some (.turnout r) => x.descMeets 1 r.src (max 1 r.esize) || x.descMeets 1 r.dst (max 1 r.esize)
  | _ => true

/-- The source or destination of a turnout record lies in a row store. -/
def Ctx.movesRows (x : Ctx) (ordinal : Nat) : Bool :=
  match (x.parcel.recs[ordinal]?).map Rec.body with
  | some (.turnout r) => x.descMeets 2 r.src (max 1 r.esize) || x.descMeets 2 r.dst (max 1 r.esize)
  | _ => false

/-- A turnout job of the context that reaches a row store has not run yet: the store is not saved before it has (R299, R534; log 158). -/
def State.rowJob (s : State) (p c : Nat) (x : Ctx) : Bool :=
  s.turnout.any fun q => q.any fun j => j.paddock == p && j.ctx == c && !j.copied && x.movesRows j.ordinal

/-- A turnout job of the context that reaches its pens is queued or running (R540). -/
def State.hasTurnoutJob (s : State) (p c : Nat) (x : Ctx) : Bool :=
  s.turnout.any fun q => q.any fun j => j.paddock == p && j.ctx == c && x.movesPens j.ordinal

/-! ### Rebuild and switch of a table (R545-R548) -/

/-- The new table becomes current; a merged trigger starts the next rebuild (R546, R547). -/
def Ctx.switchTable (x : Ctx) : Ctx :=
  match x.rebuild with
  | none => x
  | some r => { x with table := r.table, rebuild := x.merged.map fun t => ⟨t, false⟩, merged := none }

/-- TABLE_REBUILD_DONE: the switch is raised; with no access in flight it switches at once (R545, R547). A pre-emption that was asked for before comes first (R51, R528; log 158). -/
def rebuildDone (p c : Nat) (s : State) : State :=
  if !s.runs p then s
  else match s.ctx p c with
    | some x =>
      match x.rebuild with
      | some r =>
        if r.raised then s
        else if s.preempts p c then s
        else if x.state = .running then s.modCtx p c fun x => { x with rebuild := some { r with raised := true } }
        else s.modCtx p c Ctx.switchTable
      | none => s
    | none => s

def execTableRebuildDone (p ctx : Nat) (s : State) : Out := onUnit (p < 16 ∧ ctx < 8) (rebuildDone p ctx s)

/-- TABLE_SWITCH: every translation unit has answered (R546). The withholding window is a span (R535). -/
def tableSwitches (p c : Nat) (s : State) : State :=
  if !s.runs p then s
  else match s.ctx p c with
    | some x =>
      match x.rebuild with
      | some r => if r.raised then (s.modCtx p c Ctx.switchTable).spanEnds p c 2 else s
      | none => s
    | none => s

def execTableSwitch (p ctx : Nat) (s : State) : Out := onUnit (p < 16 ∧ ctx < 8) (tableSwitches p ctx s)

end Sys2Proof.Machine
end

