-- ==== Sys2Proof/Machine/LettersDev.lean ====
section
/-!
DEFINITION. The letters of the device (R576, R584, R585, R615, R670) and the letters
that read it (R89, R143, R634): each meaning takes up one letter of a ring.
-/

namespace Sys2Proof.Machine

/-! ### PAD, HELLO, FEATURES, POWER_CAP, SCRUB_SET, REMOUNT_MAP -/

/-- PAD fills the ring up to slot 255 and is skipped without a reply (R556). -/
def padLetter (p : Nat) (h : LetterHead) (s : State) : State :=
  if s.takesLetters p then s.consume p (if h.length = 0 ∨ 8 < h.length then 1 else h.length) else s

def execPad (p : Nat) (h : LetterHead) (s : State) : Out := onUnit (p < 16) (padLetter p h s)

/-- Mask of the paddocks that a start retained (R608, R610). -/
def State.retainedMask (s : State) : Nat := s.start.retained.foldl (fun m w => m + 2 ^ w.paddock) 0

/-- Reply of HELLO (R576). -/
def State.helloPayload (s : State) : List Byte :=
  leBytes 2 s.image.ifMajor ++ leBytes 2 s.image.ifMinor ++ leBytes 2 s.pxstep ++ leBytes 1 (bit s.start.warm) ++
    leBytes 2 s.retainedMask ++ leBytes 1 s.start.goodWest ++ leBytes 1 s.start.goodEast ++ leBytes 8 s.otp.serial

/-- HELLO opens the exchange (R584). -/
def actHello (s : State) : Taken :=
  let s := { s with start := { s.start with hello := true } }
  Taken.ok s s.helloPayload

def execHello (p : Nat) (h : LetterHead) (_ifMajor _ifMinor : Nat) (s : State) : Out :=
  onUnit (p < 16) (s.takeLetter p 0x0001 4 h actHello)

/-- Every paddock is CLOSED. -/
def State.allClosed (s : State) : Bool := s.pads.all (·.state == .closed)

/-- FEATURES grants requested AND FEATCAP AND the enable mask, while every paddock is CLOSED (R585). -/
def actFeatures (requested : List Nat) (s : State) : Taken :=
  if !s.allClosed then Taken.refuse s 0x0003
  else
    let g := (nth requested 0 &&& s.featcap) &&& s.cfg.enable
    Taken.ok { s with grant := g } (leBytes 8 g ++ List.replicate 24 0)

def execFeatures (p : Nat) (h : LetterHead) (requested : List Nat) (s : State) : Out :=
  onUnit (p < 16) (s.takeLetter p 0x0002 32 h (actFeatures requested))

/-- POWER_CAP sets the module cap, 800 to 2,400 W (R53); outside, 0x0902 (R573). -/
def actPowerCap (watts : Nat) (s : State) : Taken :=
  if watts < 800 ∨ 2400 < watts then Taken.refuse s 0x0902
  else Taken.ok { s with power := { s.power with moduleCap := watts } } []

def execPowerCap (p : Nat) (h : LetterHead) (watts : Nat) (s : State) : Out :=
  onUnit (p < 16) (s.takeLetter p 0x0003 2 h (actPowerCap watts))

/-- SCRUB_SET sets the scrub period, 1 to 168 hours (R264, R573). -/
def actScrubSet (hours : Nat) (s : State) : Taken :=
  if hours < 1 ∨ 168 < hours then Taken.refuse s 0x0101 else Taken.ok { s with scrubHours := hours } []

def execScrubSet (p : Nat) (h : LetterHead) (hours : Nat) (s : State) : Out :=
  onUnit (p < 16) (s.takeLetter p 0x0004 1 h (actScrubSet hours))

/-- REMOUNT_MAP reads the map (R579). -/
def actRemountMap (b : Bulk) (s : State) : Taken := s.bulk b s.remount.bytes []

def execRemountMap (p : Nat) (h : LetterHead) (b : Bulk) (s : State) : Out :=
  onUnit (p < 16) (s.takeLetter p 0x0005 12 h (actRemountMap b))

/-! ### Warm start letters (R608, R611-R613) -/

/-- A context does not hold back WARM_PREPARE (R608). -/
def Ctx.quiet (c : Ctx) : Bool := c.state == .idle || c.state == .halted

/-- WARM_PREPARE is accepted: every retained paddock is OPEN and every context idle, halted or unloaded (R608). -/
def State.canPrepare (s : State) (retained : Nat) : Bool :=
  (bitsSet 16 retained).all (fun p => (s.pd p).state == .opened) &&
    s.pads.all fun d => d.ctxs.all fun c => match c with | none => true | some c => c.quiet

/-- Address of the last 64-byte burst of a package's window (R608; log 19). -/
def lastBurst (k : Nat) : Nat := packageBase k + (packageSize - 64)

/-- The packages of the retained paddocks. -/
def State.warmPackages (s : State) (retained : Nat) : List Nat :=
  (bitsSet 16 retained).flatMap fun p => bitsSet 24 (s.pd p).owned.packages

/-- An all-bank refresh of both ranks, then self-refresh (R243, R608). -/
def Channel.sleep (c : Channel) : Channel := { c with refreshes := c.refreshes + 32, selfRefresh := true }

/-- Steps 1 to 5 of R608. -/
def prepareWarm (retained : Nat) (s : State) : State :=
  let pks := s.warmPackages retained
  let saved := pks.map fun k => (k, s.rd (lastBurst k) 64)
  let rec' : WarmRec := ⟨true, s.flash.warm.failures, s.image.measurement,
    (bitsSet 16 retained).map fun p =>
      ⟨p, (s.pd p).key.getD [], (s.pd p).crypt, (s.pd p).owned.packages⟩, saved⟩
  let s := pks.foldl (fun s k => s.wr (lastBurst k) ((Config.canary k).take 64)) s
  { s with
    start := { s.start with prepared := true }
    flash := { s.flash with warm := rec' }
    channels := s.channels.map Channel.sleep }

def actWarmPrepare (retained : Nat) (s : State) : Taken :=
  if !s.canPrepare retained then Taken.refuse s 0x0003 else Taken.ok (prepareWarm retained s) []

def execWarmPrepare (p : Nat) (h : LetterHead) (retained : Nat) (s : State) : Out :=
  onUnit (p < 16) (s.takeLetter p 0x0010 2 h (actWarmPrepare retained))

/-- A warm start that falls back continues as a cold start from phase 2, with the settings of the configuration record, and posts WARM_FALLBACK; the failure stays counted (R603, R613, R635). -/
def State.warmFallback (s : State) (cause : Nat) : State :=
  let s := { s with
    cfg := configOf s.flash.config
    start := { s.start with warm := false, phase := 2, retained := [], handback := none, handed := false } }
  s.postShared (event 0x00E1 0 0 0xFF cause s.flash.warm.failures [])

/-- Entries of a handed-back map (R579, R611). -/
def mapEntries (n : Nat) (bs : List Byte) : List MapEntry := (chunksOf 16 n bs).map MapEntry.of

/-- An entry names a unit that the fuses know (R613): in the ranges of R579, and a binding to a stable that the fuses accept on the logical stable's die (R27). -/
def State.entryKnown (s : State) (e : MapEntry) : Bool :=
  match e.kind with
  | 1 => decide (e.unit < 64 ∧ e.replacement < 72) && dieOfGroup (e.unit / 4) == dieOfStable e.replacement &&
      !s.otp.badStables.contains e.replacement
  | 2 => decide (e.unit / 1024 < 72 ∧ e.unit % 1024 / 256 < 4 ∧ e.unit % 256 < 136)
  | 3 => decide (e.unit < 72)
  | 4 => decide (e.unit < 20)
  | 5 => decide (e.unit < 256)
  | 6 => decide (e.unit < 18)
  | 7 => decide (e.unit / 256 < 2 ∧ e.unit % 256 < 68)
  | 8 => decide (e.unit < 192)
  | 9 => decide (e.unit < 192)
  | 10 => decide (e.unit < 192)
  | _ => false

/-- Bindings of a map. -/
def bindsOf (es : List MapEntry) : List (Option Nat) :=
  (List.range 64).map fun l => (es.find? fun e => e.kind == 1 && e.unit == l).map (·.replacement)

/-- The handed-back map is accepted (R613): every unit known, every group with four good stables, no stable bound twice. -/
def State.mapOk (s : State) (len : Nat) (es : List MapEntry) : Bool :=
  let bs := (bindsOf es).filterMap id
  let retired := (es.filter (·.kind == 3)).map (·.unit)
  len % 16 == 0 && es.all s.entryKnown && bs.length == 64 && bs.eraseDups.length == 64 && bs.all fun b => !retired.contains b

/-- Apply a handed-back map (R605 phase 4, R611), beside the ostlers that failed in this start; a remount ostler that it names goes on to stand in (R29). Its link lanes take effect as the ports train in phase 6. -/
def State.applyMap (s : State) (es : List MapEntry) : State :=
  let rest := es.filter (·.kind != 1)
  let of k := (rest.filter (·.kind == k)).map (·.unit)
  { s with
    remount := { s.remount with
      bind := bindsOf es, entries := rest ++ s.remount.entries.filter (fun e => e.kind == 4 && !rest.contains e), groupLost := []
      good := s.remount.good.filter fun g => !(of 3).contains g }
    channels := s.channels.zipIdx.map fun ci =>
      { ci.1 with
        retired := ci.1.retired || (of 10).contains ci.2
        pages := (rest.filter fun e => e.kind == 9 && e.unit == ci.2).map (·.detail) }
    sheds := s.sheds.zipIdx.map fun ci => if (of 10).contains ci.2 then { ci.1 with ok := false } else ci.1
    mcl := { s.mcl with retired := (s.mcl.retired ++ of 6).eraseDups }
    bridge := { s.bridge with retired := of 7 }
    ostlers := s.ostlers.zipIdx.map fun oi =>
      if (of 4).contains oi.2 then { oi.1 with ok := false }
      else { oi.1 with standsFor := if 18 ≤ oi.2 then ((rest.find? fun e => e.kind == 4 && e.replacement == oi.2).map (·.unit)).or oi.1.standsFor else none } }

/-- WARM_HANDBACK in phase 4 (R611-R613). The reply of an accepted one follows in phase 5 (R614). -/
def actWarmHandback (p : Nat) (h : LetterHead) (count map mapLen records : Nat) (s : State) : Taken :=
  if s.start.phase ≠ 4 then Taken.refuse s 0x0003
  else if 2 ≤ max count s.start.failCount then ⟨s.warmFallback 4, some (0x0903, []), false⟩
  else if inWindow map mapLen = false ∨ inWindow records 49152 = false then Taken.refuse s 0x0104
  else
    let es := mapEntries (mapLen / 16) (s.rdComp map mapLen)
    if !s.mapOk mapLen es then ⟨s.warmFallback 1, some (0x0901, []), false⟩
    else
      let s := s.applyMap es
      Taken.later { s with start := { s.start with
        phase := 5, handed := true, handback := some (p, h.tag, records, h.flags % 2 == 1) } }

def execWarmHandback (p : Nat) (h : LetterHead) (count map mapLen records : Nat) (s : State) : Out :=
  onUnit (p < 16) (s.takeLetter p 0x0011 21 h (actWarmHandback p h count map mapLen records))

/-- TRAINING_READ (R247, R615). -/
def actTrainingRead (b : Bulk) (s : State) : Taken :=
  s.bulk b ((List.range 192).map s.trainingRecord).flatten []

def execTrainingRead (p : Nat) (h : LetterHead) (b : Bulk) (s : State) : Out :=
  onUnit (p < 16) (s.takeLetter p 0x0012 12 h (actTrainingRead b))

/-- CONFIG_READ reads the record that the flash holds (R615). -/
def actConfigRead (b : Bulk) (s : State) : Taken := s.bulk b s.flash.config []

def execConfigRead (p : Nat) (h : LetterHead) (b : Bulk) (s : State) : Out :=
  onUnit (p < 16) (s.takeLetter p 0x0013 12 h (actConfigRead b))

/-- CONFIG_WRITE writes a right record to the flash while every paddock is CLOSED (R616). -/
def actConfigWrite (src : Nat) (s : State) : Taken :=
  if !s.allClosed then Taken.refuse s 0x0003
  else if inWindow src 256 = false then Taken.refuse s 0x0104
  else
    let bs := s.rdComp src 256
    if !configOk bs then Taken.refuse s 0x0101
    else Taken.ok { s with flash := { s.flash with config := bs } } []

def execConfigWrite (p : Nat) (h : LetterHead) (src : Nat) (s : State) : Out :=
  onUnit (p < 16) (s.takeLetter p 0x0014 8 h (actConfigWrite src))

/-! ### Trust letters (R649-R662, R670) -/

/-- At its first use the certificate's key is compared with the computed key (R649). -/
def State.checkCert (s : State) : Bool × State :=
  match s.start.certOk with
  | some b => (b, s)
  | none =>
    let b := ((s.flash.cert.drop 16).take 60) == Config.deviceKey
    (b, { s with start := { s.start with certOk := some b } })

/-- Indices of the one-time signature (R658). -/
def indexCount : Nat := 2 ^ 25

/-- The entry of a paddock in an attestation report (R661). -/
def State.reportEntry (s : State) (requester p : Nat) : List Byte :=
  let d := s.pd p
  if p ≠ requester then leBytes 1 d.state.code ++ List.replicate 63 0
  else
    let loaded := (List.range 8).filter fun c => (d.ctx c).isSome
    let digests := (loaded.map fun c => match d.ctx c with | some x => x.parcel.digest | none => []).flatten
    leBytes 1 d.state.code ++ leBytes 1 (bit d.crypt) ++ leBytes 1 (loaded.foldl (fun m c => m + 2 ^ c) 0) ++
      leBytes 1 d.owned.blocks.length ++ leBytes 2 d.owned.groups ++ [0, 0] ++ leBytes 4 d.owned.packages ++
      List.replicate 4 0 ++ leBytes 12 d.owned.pens ++ List.replicate 4 0 ++
      (if loaded.isEmpty then List.replicate 32 0 else sha256 digests)

/-- The body of an attestation report, 1,216 bytes (R661). -/
def State.reportBody (s : State) (requester q : Nat) (nonce : List Byte) : List Byte :=
  [0x50, 0x58, 0x41, 0x54] ++ leBytes 2 1 ++ leBytes 1 requester ++ leBytes 1 (bit s.start.warm) ++
    leBytes 8 s.otp.serial ++ leBytes 8 s.pxid ++ leBytes 8 s.pxstep ++ leBytes 4 s.bus.register ++ leBytes 4 q ++
    ((nonce ++ List.replicate 32 0).take 32) ++ s.image.measurement ++ leBytes 1 s.image.svn ++ leBytes 1 s.otp.floor ++
    [0, 0] ++ leBytes 4 s.image.build ++ leBytes 8 s.featcap ++ leBytes 8 s.grant ++ s.cfg.digest ++
    sha256 s.remount.bytes ++ ((List.range 16).map (s.reportEntry requester)).flatten

/-- Reserve index q in both copies (R659). -/
def State.reserve (s : State) (q : Nat) : State :=
  { s with
    flash := { s.flash with idxA := q :: s.flash.idxA, idxB := q :: s.flash.idxB }
    start := { s.start with indexNext := q + 1 } }

/-- A bit of either copy that reads 0 reserves its index; after eight indices in a row whose bits neither copy takes, none is reserved until the next start (R659). -/
def State.programs (s : State) (unprogrammed : Nat) : Option Nat :=
  let q := s.start.indexNext + unprogrammed
  if 8 ≤ unprogrammed ∨ indexCount ≤ q then none else some q

/-- SIGNER_LOW is posted by the signature that leaves 1,048,576, 65,536 or 0 indices (R662). -/
def State.signerLow (s : State) : State :=
  let left := indexCount - s.start.indexNext
  if left = 1048576 ∨ left = 65536 ∨ left = 0 then s.postShared (event 0x00E9 0 0 0xFF 0 left []) else s

/-- ATTEST (R649, R658-R662). The buffer is checked before an index is reserved (log 20). `unprogrammed` tells how many indices in a row neither copy of the flash takes. -/
def actAttest (p : Nat) (nonce : List Byte) (b : Bulk) (unprogrammed : Nat) (s : State) : Taken :=
  let (ok, s) := s.checkCert
  if !ok then Taken.refuse s 0x0A01
  else if s.start.indexRefused ∨ indexCount ≤ s.start.indexNext then Taken.refuse s 0x0A02
  else if b.addr % 64 ≠ 0 ∨ inWindow b.addr b.len = false then Taken.refuse s 0x0104
  else if b.len < 6452 then ⟨s, some (0x0105, leBytes 4 6452), false⟩
  else match s.programs unprogrammed with
  | none => Taken.refuse { s with start := { s.start with indexRefused := decide (8 ≤ unprogrammed) } } 0x0A02
  | some q =>
    let s := s.reserve q
    let body := s.reportBody p q nonce
    let sig := ((Config.sign q body) ++ List.replicate 5236 0).take 5236
    let t := s.bulk b (body ++ sig) (leBytes 4 q)
    ⟨t.s.signerLow, t.now, t.waits⟩

def execAttest (p : Nat) (h : LetterHead) (nonce : List Byte) (b : Bulk) (unprogrammed : Nat) (s : State) : Out :=
  onUnit (p < 16) (s.takeLetter p 0x0018 44 h (actAttest p nonce b unprogrammed))

/-- Everything that R652 asks of an image but svn; SHA-256 of its key is the fused hash and its signature verifies. -/
def imageWhole (bs : List Byte) : Bool :=
  let hd := bs.take 256
  let n := fieldAt bs 8 4
  let body := (bs.drop 256).take n
  let sig := (bs.drop (256 + n)).take 3124
  let key := (bs.drop 20).take 60
  bs.take 4 == [0x50, 0x58, 0x46, 0x57] && fieldAt bs 4 2 == 1 && fieldAt bs 7 1 == 0 &&
    ((bs.drop 112).take 144).all (· == 0) && decide (fieldAt bs 6 1 ≤ 128) && decide (1 ≤ n ∧ n ≤ 0x7F0000) &&
    decide (256 + n + 3124 ≤ bs.length) && sha256 key == Config.fwKeyHash && Config.fwVerify key hd sig &&
    sha256 body == (bs.drop 80).take 32

/-- Put an image into the slot that is not running. -/
def State.putSpare (s : State) (slot : FwSlot) : State :=
  { s with flash := if s.start.slotB then { s.flash with slotA := slot } else { s.flash with slotB := slot } }

/-- FIRMWARE_WRITE into the slot that is not running: from here until the write ends that slot is not valid (R653). -/
def actFirmwareWrite (p : Nat) (h : LetterHead) (src length : Nat) (s : State) : Taken :=
  if s.start.fwWrite.isSome then Taken.refuse s 0x0003
  else if 0x800000 < length then Taken.refuse s 0x0101
  else if inWindow src length = false then Taken.refuse s 0x0104
  else
    let bs := s.rdComp src length
    if !imageWhole bs then Taken.refuse s 0x0A01
    else if fieldAt bs 6 1 < s.otp.floor then Taken.refuse s 0x0A04
    else
      Taken.later ({ s with start := { s.start with fwWrite := some (⟨true, bs.take 256⟩, p, h.tag, h.flags % 2 == 1) } }.putSpare ⟨false, []⟩)

def execFirmwareWrite (p : Nat) (h : LetterHead) (src length : Nat) (s : State) : Out :=
  onUnit (p < 16) (s.takeLetter p 0x0019 12 h (actFirmwareWrite p h src length))

/-- The write ends: the slot has been read back and is valid, the reply goes out, FIRMWARE_STAGED follows (R653). -/
def State.firmwareEnds (s : State) : State :=
  match s.start.fwWrite with
  | none => s
  | some (slot, p, tag, quiet) =>
    if s.frozen then s
    else
      let toB := !s.start.slotB
      let s := { s with start := { s.start with fwWrite := none } }.putSpare slot
      let s := s.reply p 0x0019 ⟨tag, quiet⟩ 0 (leBytes 1 (bit toB) ++ leBytes 1 slot.svn)
      s.postShared (event 0x00EA 0 0 0xFF (bit toB) slot.svn [slot.build])

/-- ROLLBACK_COMMIT raises the floor to svn (R655). -/
def actRollbackCommit (svn : Nat) (s : State) : Taken :=
  if s.image.svn < svn then Taken.refuse s 0x0A04
  else if svn ≤ s.otp.floor then Taken.ok s (leBytes 1 s.otp.floor)
  else
    let s := { s with otp := { s.otp with floor := svn } }
    Taken.ok (s.postShared (event 0x00EB 0 0 0xFF 0 svn [])) (leBytes 1 svn)

def execRollbackCommit (p : Nat) (h : LetterHead) (svn : Nat) (s : State) : Out :=
  onUnit (p < 16) (s.takeLetter p 0x001A 1 h (actRollbackCommit svn))

/-- SEGMENT_SET sets the segment (R645, R670). -/
def actSegmentSet (segment : Nat) (s : State) : Taken :=
  if 4095 < segment then Taken.refuse s 0x0101
  else
    let before := s.bus
    let s := { s with bus := { s.bus with segment := some segment } }
    Taken.ok (s.postcodeEvent before 3) (leBytes 4 s.bus.register)

def execSegmentSet (p : Nat) (h : LetterHead) (segment : Nat) (s : State) : Out :=
  onUnit (p < 16) (s.takeLetter p 0x001B 2 h (actSegmentSet segment))

/-- IDENTITY_READ reads the certificate after the check of R649. -/
def actIdentityRead (b : Bulk) (s : State) : Taken :=
  let (ok, s) := s.checkCert
  if !ok then Taken.refuse s 0x0A01 else s.bulk b ((s.flash.cert ++ List.replicate 3204 0).take 3204) []

def execIdentityRead (p : Nat) (h : LetterHead) (b : Bulk) (s : State) : Out :=
  onUnit (p < 16) (s.takeLetter p 0x001C 12 h (actIdentityRead b))

/-! ### Letters that read counters (R89, R634) -/

/-- REFCOUNT returns an ostler's reference counter (R89, R573). -/
def actRefcount (o : Nat) (s : State) : Taken :=
  if 19 < o then Taken.refuse s 0x0101 else Taken.ok s (leBytes 8 (s.ostler o).count)

def execRefcount (p : Nat) (h : LetterHead) (ostler : Nat) (s : State) : Out :=
  onUnit (p < 16) (s.takeLetter p 0x00A1 1 h (actRefcount ostler))

/-- FREEZE_INFO returns the last freeze record; nothing before any freeze (R634; log 9). -/
def actFreezeInfo (b : Bulk) (s : State) : Taken :=
  s.bulk b (match s.freeze.record with | none => [] | some r => r.bytes) []

def execFreezeInfo (p : Nat) (h : LetterHead) (b : Bulk) (s : State) : Out :=
  onUnit (p < 16) (s.takeLetter p 0x00A2 12 h (actFreezeInfo b))

end Sys2Proof.Machine
end

