-- ==== Sys2Proof/Machine/Ports.lean ====
section
/-!
DEFINITION. What a link port does by itself: frames that wait for credit, codewords
and sequence numbers, the replay buffer, LINK frames and training (R411-R414, R416,
R418-R420, R551).
-/

namespace Sys2Proof.Machine

/-! ### Sending (R411-R414, R551) -/

/-- Stages of a receiving module that take frames: the adder of a tree by its number, the update path, the memory writer, and a transfer of a job by tag, source role and number (R414, R467; log 54). -/
def pathStage : Nat := 2 ^ 16
def writerStage : Nat := 2 ^ 16 + 1
def xferStage (tag src number : Nat) : Nat := 2 ^ 96 + tag * 2 ^ 64 + src * 2 ^ 32 + number

/-- The stage that takes a frame (R414). -/
def SentFrame.stage (f : SentFrame) : Nat :=
  match f.body with
  | .grad _ _ => f.tree
  | .sealed _ | .close _ | .epoch _ | .link _ => pathStage
  | .param _ _ => writerStage
  | .xfer _ src number _ _ => xferStage f.tag src number

/-- Cells of credit that the port holds at a stage: 32 at an adder at first, none elsewhere until the peer grants some (R414, R447, R467; log 54). -/
def Port.creditFor (x : Port) (stage : Nat) : Int := ((x.credit.find? (·.1 == stage)).map (·.2)).getD (if stage < pathStage then 32 else 0)

def Port.setCredit (x : Port) (stage : Nat) (cells : Int) : Port := { x with credit := (stage, cells) :: x.credit.filter (·.1 != stage) }

/-- Bytes that the replay buffer keeps (R413). -/
def replayBytes : Nat := 262144

/-- The replay buffer has room for a frame; one that is not acknowledged is never dropped (R413, R418). -/
def Port.keeps (x : Port) (f : SentFrame) : Bool := x.replay.isEmpty || decide (128 * ((x.replay.map (·.cells)).sum + f.cells) ≤ replayBytes)

/-- A frame may go: the port carries frames, none of its stage waits before it, and there is credit for it, of a record for its first frame (R413, R414, R416; log 54). -/
def Port.clear (x : Port) (f : SentFrame) : Bool :=
  x.carries && !(x.queue.any (·.stage == f.stage)) && decide ((min 16 f.cells : Int) ≤ x.creditFor f.stage) && x.keeps f

/-- Codewords that carry a number of cells (R411). -/
def wordsFor (cells : Nat) : Nat := ceilDiv cells 5

/-- The frame goes out in the next codewords: it stays in the replay buffer until it is acknowledged (R411, R413). -/
def Port.emit (x : Port) (f : SentFrame) : Port :=
  { x with
    lseqOut := (x.lseqOut + f.body.frames) % 2 ^ 32, wordOut := (x.wordOut + wordsFor f.cells) % 16
    replay := x.replay ++ [{ f with lseq := x.lseqOut, index := x.wordOut }] }

/-- It spends its credit (R414). -/
def Port.spend (x : Port) (f : SentFrame) : Port := x.setCredit f.stage (x.creditFor f.stage - f.cells)

/-- Frames of a paddock that a transmitter queues at once (R551). -/
def portFrames : Nat := 64

/-- Send a frame, or hold it until it may go: at the transmitter, or in its paddock where that has 64 there. Frames of one stage and of one paddock keep their order (R414, R447, R551). -/
def Port.offer (x : Port) (f : SentFrame) : Port :=
  if x.waiting.any (·.pad == f.pad) then { x with waiting := x.waiting ++ [f] }
  else if x.clear f then (x.spend f).emit f
  else if (x.queue.filter (·.pad == f.pad)).length < portFrames then { x with queue := x.queue ++ [f] }
  else { x with waiting := x.waiting ++ [f] }

/-- Frames that waited go out as far as they may. -/
def Port.pump (x : Port) : Port := (x.queue ++ x.waiting).foldl Port.offer { x with queue := [], waiting := [] }

/-- Frames sent again, from a codeword on; the next codeword (R411, R413). -/
def sendAgain (w : Nat) : List SentFrame → List SentFrame × Nat
  | [] => ([], w)
  | f :: fs =>
    let r := sendAgain ((w + wordsFor f.cells) % 16) fs
    ({ f with index := w } :: r.1, r.2)

/-- Every frame of the replay buffer from the n-th on is sent again, in order (R413, R418). -/
def Port.again (x : Port) (n : Nat) : Port :=
  let r := sendAgain x.wordOut (x.replay.drop n)
  { x with replay := x.replay.take n ++ r.1, wordOut := r.2 }

/-- Sequence numbers count modulo 2^32 (R412): how far one lies after another. -/
def seqFrom (a b : Nat) : Nat := (b + 2 ^ 32 - a % 2 ^ 32) % 2 ^ 32

/-- A number lies after another (R413). -/
def seqAfter (a b : Nat) : Bool := decide (0 < seqFrom a b ∧ seqFrom a b < 2 ^ 31)

/-- The LINK frame that is due: what has been taken in order, a resend where one is asked, the credit freed, and who the module is (R413, R414, R419). -/
def Port.linkInfo (x : Port) (serial postcode : Nat) : LinkInfo :=
  ⟨some ((x.lseqIn + 2 ^ 32 - 1) % 2 ^ 32), if x.asksResend then some x.lseqIn else none, x.returned, serial, postcode⟩

/-- Cells of a LINK frame (R412; log 55). -/
def linkCells (i : LinkInfo) : Nat := ceilDiv (48 + 16 * i.credits.length) 128

/-- The LINK frame goes out; it takes no sequence number and is not kept (R412, R413; log 55). -/
def Port.sayLink (x : Port) (serial postcode : Nat) : Port :=
  let i := x.linkInfo serial postcode
  { x with
    link := some ⟨16, x.lseqOut, x.wordOut, linkCells i, 0, 0, .link i⟩, wordOut := (x.wordOut + wordsFor (linkCells i)) % 16
    returned := [], owes := false }

/-- The state that a successful training reaches: SPARED when lane 4 is in use. The LINK frames are exchanged, the first with the cells that this module's stages hold, what was not acknowledged is sent again, and what waited goes out (R414, R416, R418, R419). -/
def Port.trained (x : Port) (own : Nat × Nat) (now serial postcode : Nat) : Port :=
  let fresh := if x.lseqIn = 0 ∧ x.link.isNone then (x.giveBack pathStage (Config.stageCells 0)).giveBack writerStage (Config.stageCells 1) else x
  ((({ fresh with
    state := if x.retired.isSome then .spared else .up, serial := serial, postcode := postcode, named := own.2, counts := []
    windowAt := now, heardAt := now, resent := (0, 0) } : Port).sayLink own.1 own.2).again 0).pump

/-- A training fails (R420). -/
def Port.fails (x : Port) (now : Nat) : Port := { x with state := .down, since := now }

/-- What phase 6 leaves of a port: trained with its peer, or DOWN (R416, R605). -/
def Port.started (x : Port) (own : Nat × Nat) (now : Nat) (up : Bool) (peer : Nat × Nat) : Port :=
  if up then x.trained own now peer.1 peer.2 else x.fails now

/-- Send a frame of n cells (R413, R414). -/
def Port.sendFrame (x : Port) (pad cells tree tag : Nat) (body : FrameBody) : Port := x.offer ⟨pad, 0, 0, cells, tree, tag, body⟩

/-! ### What the peer says, and the passing of time (R410-R413) -/

/-- Codewords of a reference cycle: 25 in every 16 (R17, R410). -/
def wordsIn (cycle : Nat) : Nat := 25 * (cycle + 1) / 16 - 25 * cycle / 16

/-- A reference cycle of a port: a LINK frame that is due goes out with the postcode of the port's last training (R646), unless a halter holds the port, and the codewords that carry no frame take their indices (R411, R413, R624; log 54). -/
def Port.cycle (own : Nat × Nat) (held : Bool) (now : Nat) (x : Port) : Port :=
  let x := if x.owes && x.carries && !held then x.sayLink own.1 x.named else x
  match x.state with
  | .down | .out => x
  | _ => { x with wordOut := (x.wordOut + wordsIn now) % 16 }

/-- The peer acknowledges frames up to one (R413). -/
def Port.acked (x : Port) (lseq : Option Nat) : Port :=
  match lseq with
  | none => x
  | some a => { x with replay := x.replay.filter fun f => seqAfter a (f.lseq + f.body.frames - 1) }

/-- The peer asks for a resend from a frame: it and those after it are sent again; the eighth for one frame retrains (R413, R420). -/
def Port.resends (x : Port) (lseq : Option Nat) : Port :=
  match lseq with
  | none => x
  | some a =>
    let n := if x.resent.1 = a then x.resent.2 + 1 else 1
    let x := { x with resent := (a, n) }
    if 8 ≤ n then x.retrain
    else x.again (x.replay.findIdx fun f => decide (seqFrom f.lseq a < f.body.frames))

/-- Credit comes back for a stage (R85, R414). -/
def Port.addCredit (x : Port) (stage cells : Nat) : Port := x.setCredit stage (x.creditFor stage + cells)

end Sys2Proof.Machine
end

