-- ==== Sys2Proof/Machine/Start.lean ====
section
/-!
DEFINITION. Rails and the start (R596-R618): the pins, the phases of R605 and the
warm start's checks.
-/

namespace Sys2Proof.Machine

/-- RAILOK of supply T: high while every rail is within its operating range (R602). -/
def State.railok (s : State) : Bool := s.otp.supplyT && s.power.railsUp && s.power.rails.all fun r => !r.dipped

/-- What a reset leaves of a channel: what its package holds, with the repairs made in it, and its training; the rest starts afresh. -/
def Channel.toReset (c : Channel) : Channel :=
  { Channel.reset with
    selfRefresh := c.selfRefresh, temp := c.temp, trainings := c.trainings, settings := c.settings
    resources := c.resources, soft := c.soft, hard := c.hard }

/-- What a reset leaves of a stable: its diagnostic counters, which only a cold start clears (R143). -/
def Stable.toReset (x : Stable) : Stable := { Stable.reset with diag := x.diag }

/-- What a reset leaves (R605 phase 0, R618, R641): every job, expiry and setting of the start is lost; OTP, flash, memory, pins, the record in force and the TAP stay, and what only a cold start clears: diagnostic counters and sheds out of service (R143, R290). -/
def State.toReset (s : State) : State :=
  { s with
    start := { Start.none with warm := s.start.warm }
    grant := 0
    power := { s.power with moduleCap := 2400 }
    dies := s.dies.map fun d => { Die.reset with tj := d.tj, powerMw := d.powerMw, pace := d.pace }
    freeze := { Freeze.none with pinLow := s.freeze.pinLow }
    deferred := []
    ostlers := List.replicate 20 Ostler.reset
    expiries := []
    remount := Remount.empty
    channels := s.channels.map Channel.toReset
    turnout := [[], []]
    scrubHours := 24
    bus := Bus.reset
    stables := s.stables.map Stable.toReset
    sheds := s.sheds.map fun x => x.resumed none
    pads := List.replicate 16 Paddock.closed
    ports := List.replicate 32 Port.down
    mcl := Mcl.reset
    bridge := Bridge.reset }

/-- The start begins with phase 1; reference counters start from zero (R89, R605). -/
def State.beginStart (s : State) : State :=
  let s := s.toReset
  { s with start := { s.start with phase := 1, warm := false } }

/-- A start fails: HEALTH.FAULT, the fail code, and it stays in its phase (R607, R639). -/
def State.startFails (s : State) (code : Nat) : State :=
  { s with start := { s.start with fault := true, failCode := code } }

/-- How the instruction in a die's register drives its pins while MRESET_N is low (R667, R669). -/
def pinModeOf (code : Nat) : PinMode :=
  match code with
  | 0x00 => .cells
  | 0x03 => .cells
  | 0x04 => .highz
  | 0x05 => .pulse
  | 0x06 => .train
  | _ => .system

/-- MRESET_N falls: the module enters RESET, ends any halter and gives up its seat, and a TAP instruction that drives pins takes effect (R605, R625, R641, R669). -/
def execMresetNFall (s : State) : Out :=
  .next (if s.power.mreset then
    let s := s.toReset
    { s with power := { s.power with mreset := false }, tap := { s.tap with pins := s.tap.ir.map pinModeOf } } else s)

/-- MRESET_N rises with the rails up: the start begins (R599, R605). -/
def execMresetNRise (s : State) : Out :=
  .next (if s.power.mreset || !s.power.railsUp || s.power.thermtrip then s
    else
      let s := s.beginStart
      { s with power := { s.power with mreset := true }, tap := { s.tap with pins := [.system, .system] } })

/-- Warning and reset levels of the rails in mV, by rail code (R596, R617). VSERDES has no reset level. -/
def warnLevel (r : Nat) : Nat := [500, 500, 740, 700, 820, 1010, 870, 470, 1700].getD r 0
def resetLevel (r : Nat) : Nat := [450, 450, 700, 650, 0, 980, 850, 450, 1620].getD r 0

def State.modRail (s : State) (r : Nat) (f : Rail → Rail) : State :=
  { s with power := { s.power with rails := s.power.rails.modify r f } }

/-- In a VSERDES dip every port that carried frames and MCL stop, to train again (R617, R88, R418). -/
def State.serdesRetrain (s : State) : State :=
  { s with
    ports := s.ports.map Port.retrain
    mcl := s.mcl.retrain }

/-- A rail reads below its warning level and not below its reset level: a dip begins or goes lower (R617). -/
def railDips (rail mv : Nat) (s : State) : State :=
  if s.start.phase = 0 ∨ warnLevel rail ≤ mv ∨ mv < resetLevel rail then s
  else
    let s := if rail = 4 then s.serdesRetrain else s
    s.modRail rail fun r => if r.dipped then { r with lowest := min r.lowest mv, last := s.now16 } else ⟨true, mv, s.now16, s.now16⟩

def execRailDip (rail mv : Nat) (s : State) : Out := onUnit (rail < 9) (railDips rail mv s)

/-- Die that SUPPLY_DIP names: east for VCORE_E, else west (log 22). -/
def railDie (rail : Nat) : Nat := if rail = 1 then 1 else 0

/-- The rail has been within range for 100 reference cycles (R17, R617). -/
def railRecovers (rail : Nat) (s : State) : State :=
  let r := s.power.rails.getD rail Rail.good
  if !r.dipped || decide (s.now16 < r.last + 100) then s
  else
    let s := s.modRail rail fun _ => Rail.good
    let s := if rail = 4 then s.serdesRetrain else s
    s.postShared (event 0x00CE 0 (railDie rail) 0xFF rail r.lowest [s.now16 - r.since - 100])

def execRailRecovered (rail : Nat) (s : State) : Out := onUnit (rail < 9) (railRecovers rail s)

/-- Every rail that has a reset level has fallen below it: power is lost (R600, R618; log 161). -/
def powerLost (lost : List Nat) : Bool := [0, 1, 2, 3, 5, 6, 7, 8].all lost.contains

/-- A rail falls below its reset level: the module resets, and starts again once every rail has been good for 1 ms (R618; log 162). A fall after a thermal trip is the removal of power (R621), and so is the fall of every rail (R600). VSERDES has no reset level. -/
def railResets (rail : Nat) (s : State) : State :=
  if rail = 4 then s
  else
    let lost := (rail :: s.power.lost).eraseDups
    let cold := s.power.thermtrip || powerLost lost
    let s := if s.power.mreset && s.power.railsUp then s.beginStart else s.toReset
    { s with
      power := { s.power with rails := List.replicate 9 Rail.good, thermtrip := false, lost := if cold then [] else lost }
      flash := if cold then { s.flash with warm := { s.flash.warm with valid := false } } else s.flash }

def execRailReset (rail : Nat) (s : State) : Out := onUnit (rail < 9) (railResets rail s)

/-- On supply T, 12 V in range for 1 ms with COOL_OK high: the module generates its rails (R602). -/
def execV12InputGood (coolOk : Bool) (s : State) : Out :=
  .next (if s.otp.supplyT && coolOk && !s.power.railsUp then
    let s := { s with power := { s.power with railsUp := true, thermtrip := false, rails := List.replicate 9 Rail.good } }
    if s.power.mreset then s.beginStart else s else s)

/-- On supply T, 12 V below 10.8 V: the rails are removed and the next start is cold (R600, R602). -/
def execV12InputLow (s : State) : Out :=
  .next (if s.otp.supplyT && s.power.railsUp then
    let s := s.toReset
    { s with
      power := { s.power with railsUp := false, thermtrip := false }
      flash := { s.flash with warm := { s.flash.warm with valid := false } } } else s)

/-! ### Phase 1, BOOT (R603, R610, R652, R660) -/

/-- The slot's order by R652: higher svn, then higher build, slot A on a tie. -/
def bBeats (a b : FwSlot) : Bool := decide (a.svn < b.svn) || (a.svn == b.svn && decide (a.build < b.build))

/-- The next one-time index (R660). -/
def nextIndex (f : Flash) : Nat := (f.idxA ++ f.idxB).foldl (fun m q => max m (q + 1)) 0

/-- The start kind is decided by the warm record alone (R610). -/
def State.isWarm (s : State) : Bool :=
  s.flash.warm.valid && s.flash.warm.measurement == s.image.measurement && decide (s.flash.warm.failures < 2)

def bootsWith (slotB : Bool) (s : State) : State :=
  let s := { s with start := { s.start with slotB := slotB } }
  let w := s.isWarm
  { s with
    power := { s.power with lost := [] }
    start := { s.start with
      phase := 2, warm := w, failCount := s.flash.warm.failures
      retained := if w then s.flash.warm.paddocks else []
      indexNext := nextIndex s.flash }
    flash := if w then s.flash else { s.flash with warm := { s.flash.warm with valid := false } }
    cfg := if w then s.cfg else configOf s.flash.config
    freeze := { s.freeze with window := halterWinOf s.flash.config } }

def boots (c : SlotCheck) (s : State) : State :=
  if s.start.phase ≠ 1 ∨ s.start.fault then s
  else
    let a := s.flash.slotA
    let b := s.flash.slotB
    let wholeA := c.aOk && a.whole
    let wholeB := c.bOk && b.whole
    let okA := wholeA && decide (s.otp.floor ≤ a.svn)
    let okB := wholeB && decide (s.otp.floor ≤ b.svn)
    if !okA && !okB then s.startFails (if wholeA || wholeB then 0x0A04 else 0x0A01)
    else bootsWith (okB && (!okA || bBeats a b)) s

def execBoot (c : SlotCheck) (s : State) : Out := .next (boots c s)

/-! ### Phase 2, REPAIR (R27-R29, R96, R605, R607) -/

/-- Unit number of a stall in the map (R579). -/
def stallUnit (st rank stall : Nat) : Nat := st * 1024 + rank * 256 + stall

/-- Bad stalls of a rank among those of the fuses and the scan. -/
def badIn (bad : List Nat) (st rank : Nat) : List Nat :=
  (bad.filter fun u => u / 1024 == st && u % 1024 / 256 == rank).map (· % 256)

/-- Good remount stalls of a rank, in order (R43: stalls 128-135). -/
def sparesOf (bad : List Nat) (st rank : Nat) : List Nat :=
  (span 128 8).filter fun x => !(badIn bad st rank).contains x

/-- Entries that retire the bad stalls of a rank: stalls 0-127 each to the next good remount stall, bad remount stalls to none (R29, R579). -/
def stallEntries (bad : List Nat) (st rank : Nat) : List MapEntry :=
  ((((List.range 128).filter fun x => (badIn bad st rank).contains x).zip (sparesOf bad st rank)).map fun br =>
    ⟨2, dieOfStable st, stallUnit st rank br.1, br.2, 0⟩) ++
  (((span 128 8).filter fun x => (badIn bad st rank).contains x).map fun b => ⟨2, dieOfStable st, stallUnit st rank b, noUnit, 0⟩)

/-- A stable is good when neither the fuses nor the scan name it and every rank's bad stalls have remount stalls. -/
def stableGood (badStables badStalls : List Nat) (st : Nat) : Bool :=
  !badStables.contains st && (List.range 4).all fun r =>
    decide (((badIn badStalls st r).filter (· < 128)).length ≤ (sparesOf badStalls st r).length)

/-- Bind the 32 logical stables of a die to its good stables in order; a group that cannot be bound whole is left unbound (R27, R607). -/
def bindDie (good : List Nat) : List (Option Nat) :=
  let whole := good.length / 4 * 4
  (List.range 32).map fun l => if l < whole then good[l]? else none

/-- Groups that have no four good stables (R607). -/
def lostGroups (bind : List (Option Nat)) : List Nat :=
  (List.range 16).filter fun g => (span (4 * g) 4).any fun l => (bind.getD l none).isNone

/-- The diagnostic counters are cleared at a cold start (R143). -/
def Stable.clearDiag (x : Stable) : Stable := { x with diag := List.replicate 6 0 }

def repairs (badStables badStalls : List Nat) (s : State) : State :=
  if s.start.phase ≠ 2 ∨ s.start.fault then s
  else
    let bs := s.otp.badStables ++ (if s.start.warm then [] else badStables)
    let bl := s.otp.badStalls ++ (if s.start.warm then [] else badStalls)
    let good := (List.range 72).filter (stableGood bs bl)
    let west := good.filter (· < 36)
    let east := good.filter fun g => !decide (g < 36)
    let bind := bindDie west ++ bindDie east
    let retired := (List.range 72).filter fun g => !good.contains g
    let es := retired.map (fun g => (⟨3, dieOfStable g, g, noUnit, 0⟩ : MapEntry)) ++
      (good.flatMap fun g => (List.range 4).flatMap fun r => stallEntries bl g r) ++ s.remount.entries.filter (4 ≤ ·.kind)
    let s := { s with
      remount := ⟨bind, es, lostGroups bind, good⟩
      start := { s.start with goodWest := west.length, goodEast := east.length }
      stables := if s.start.warm then s.stables else s.stables.map Stable.clearDiag
      sheds := if s.start.warm then s.sheds else List.replicate 192 Shed.reset }
    if (lostGroups bind).length = 16 then s.startFails 0
    else { s with start := { s.start with phase := 3 } }

def execRepair (badStables badStalls : List Nat) (s : State) : Out := .next (repairs badStables badStalls s)

/-! ### Phase 3, MCL (R431, R605, R607, R611) -/

def mclPhase (good : Nat) (s : State) : State :=
  if s.start.phase ≠ 3 ∨ s.start.fault then s
  else if (bitsSet 18 good).length < 8 then s.startFails 0
  else
    let s := { s with mcl := s.mcl.trainedWith good s.now16, start := { s.start with ready := true } }
    if s.start.warm then
      { s with
        start := { s.start with phase := 4, phaseAt := s.now16 }
        flash := { s.flash with warm := { s.flash.warm with failures := s.flash.warm.failures + 1 } } }
    else { s with start := { s.start with phase := 5 } }

def execMclPhase (good : Nat) (s : State) : Out := .next (mclPhase good s)

/-- WARM_HANDBACK has not arrived within 30 s of phase 4 (R613). -/
def handbackWait : Nat := 3000000000

def handbackExpires (s : State) : State :=
  if s.start.phase = 4 ∧ s.start.phaseAt + handbackWait ≤ s.now16 then s.warmFallback 3 else s

def execHandbackTimeout (s : State) : Out := .next (handbackExpires s)

/-! ### Phase 5, MEMORY (R246, R248, R605, R613, R614) -/

/-- Channels of retained packages and others alike check their handed-back records, by their bytes and by a test pattern, which those in `patternBad` fail; those that fail are trained in full (R248, R614). -/
def State.fallbacks (s : State) (patternBad : List Nat) : List Nat :=
  match s.start.handback with
  | some (_, _, records, _) =>
    (List.range 192).filter fun c => !s.recordOk c (s.rdComp (records + 256 * c) 256) || patternBad.contains c
  | none => List.range 192

/-- Mask of the packages that a start retained. -/
def State.retainedPackages (s : State) : Nat := s.start.retained.foldl (fun m w => m ||| w.packages) 0

/-- Train channels at their packages' temperatures; those in `failed` are retired (R246). -/
def State.trainChannels (s : State) (cs failed : List Nat) (temps : List Int) : State :=
  let s := { s with channels := s.channels.zipIdx.map fun cn => if cs.contains cn.2 then cn.1.train (temps.getD (cn.2 / 8) 0) else cn.1 }
  (cs.filter failed.contains).foldl State.retireChannel s

/-- A channel takes the settings of its handed-back record, with the temperature that it names (R247, R248). -/
def Channel.takeRecord (c : Channel) (bs : List Byte) : Channel :=
  { c with trained := true, temp := signedOf 16 (fieldAt bs 4 2), settings := some ((bs.drop 16).take 208) }

/-- Channels whose records were accepted take them. -/
def State.takeRecords (s : State) (fallback : List Nat) : State :=
  match s.start.handback with
  | some (_, _, records, _) =>
    { s with channels := s.channels.zipIdx.map fun cn =>
        if fallback.contains cn.2 then cn.1 else cn.1.takeRecord (s.rdComp (records + 256 * cn.2) 256) }
  | none => s

/-- hPPR of the rows that sPPR has repaired (R243, R261). -/
def Channel.hardRepair (c : Channel) : Channel := { c with hard := c.hard ++ c.soft, soft := [] }

/-- The reply that WARM_HANDBACK waits for (R571, R613, R614). -/
def State.answerHandback (s : State) (status : Nat) (payload : List Byte) : State :=
  match s.start.handback with
  | some (p, tag, _, quiet) =>
    { s with start := { s.start with handback := none } }.reply p 0x0011 ⟨tag, quiet⟩ status payload
  | none => s

/-- Restore the 64 saved bytes of each retained package (R614). -/
def State.restoreCanaries (s : State) : State :=
  s.flash.warm.canaries.foldl (fun s kb =>
    if bitOf s.retainedPackages kb.1 then s.wr (lastBurst kb.1) kb.2 else s) s

/-- A channel leaves self-refresh (R614). -/
def Channel.wake (c : Channel) : Channel := { c with selfRefresh := false }

def memoryPhase (failed patternBad : List Nat) (temps : List Int) (canaryBad : Nat) (s : State) : State :=
  if s.start.phase ≠ 5 ∨ s.start.fault then s
  else if s.start.warm then
    let fb := s.fallbacks patternBad
    let s := (s.takeRecords fb).trainChannels fb failed temps
    let s := { s with channels := s.channels.map Channel.wake }
    if s.retainedPackages &&& canaryBad ≠ 0 then (s.answerHandback 0x0901 []).warmFallback 2
    else
      let s := s.restoreCanaries
      let s := s.answerHandback 0 (leBytes 1 fb.length ++ leBytes 2 s.retainedMask)
      { s with start := { s.start with phase := 6, fullTrained := fb.length } }
  else
    let s := s.trainChannels (List.range 192) failed temps
    { s with
      channels := s.channels.map fun c => c.wake.hardRepair
      start := { s.start with phase := 6 } }

def execMemory (failed patternBad : List Nat) (temps : List Int) (canaryBad : Nat) (s : State) : Out :=
  .next (memoryPhase failed patternBad temps canaryBad s)

/-! ### Phase 6, FINISH (R304, R308, R605, R635, R662, R665, R666) -/

/-- Fill a package so that all of its window reads as zero: RAW where it is not encrypted, KEYED where it is (R286, R605). -/
def State.rawFill (s : State) (k : Nat) : State :=
  let s := s.zero (packageBase k) packageSize
  { s with foreign := s.foreign.filter (·.1 != k) }

/-- Zero every pen and every row store (R304, R308). -/
def State.zeroOnDie (s : State) : State :=
  (s.zero (penBase 0) (96 * penSize)).zero (rowStoreBase 0) (72 * rowStoreSize)

/-- A port as the remount map that a warm start applies leaves it: lane 4 in the place of a retired lane, OUT after a second one (R43, R605). -/
def Port.remounted (x : Port) (es : List MapEntry) : Port :=
  match es with
  | [] => x
  | [e] => { x with retired := some (e.unit % 8) }
  | e :: _ => { x with retired := some (e.unit % 8), state := .out }

/-- Link ports train in phase 6 (R605). -/
def State.startPorts (s : State) (portsUp : Nat) (peers : List (Nat × Nat)) : State :=
  { s with ports := s.ports.zipIdx.map fun x =>
      (Port.started x.1 s.linkName s.now16 (bitOf portsUp x.2) (peers.getD x.2 (0, 0))).remounted (s.remount.entries.filter fun e => e.kind == 5 && e.unit / 8 == x.2) }

end Sys2Proof.Machine
end

