-- ==== Sys2Proof/Machine/Paddocks.lean ====
section
/-!
DEFINITION. Opening, re-sizing and closing paddocks (R513-R521), translation ranges
(R541-R544), and the paddock's settings (R53, R224, R527): letters and the ends of
their work.
-/

namespace Sys2Proof.Machine

/-! ### Free units (R40, R515, R666) -/

/-- Units of two sets together. -/
def Owned.plus (a b : Owned) : Owned :=
  ⟨a.groups ||| b.groups, a.packages ||| b.packages, a.pens ||| b.pens, a.blocks ++ b.blocks, a.entries + b.entries⟩

/-- Units that a paddock owns, has not yet cleared, or is being given (R519, R521). -/
def Paddock.holds (d : Paddock) : Owned :=
  match d.resizing with
  | none => d.owned
  | some r => (d.owned.plus r.removed).plus r.added

def State.groupFree (s : State) (g : Nat) : Bool :=
  !(s.pads.any fun d => bitOf d.holds.groups g) && !s.remount.groupLost.contains g

/-- All eight channels of a package are retired (R50, R514). -/
def State.packageRetired (s : State) (k : Nat) : Bool := (span (8 * k) 8).all fun c => (s.channel c).retired

/-- A package is free for paddock p: nobody owns it, it is not retired, and no copy of another paddock's handle keeps it (R514, R666). -/
def State.packageFree (s : State) (p k : Nat) : Bool :=
  !(s.pads.any fun d => bitOf d.holds.packages k) && !s.packageRetired k &&
    !(s.start.retained.any fun w => w.paddock != p && bitOf w.packages k)

def State.penFree (s : State) (n : Nat) : Bool := !(s.pads.any fun d => bitOf d.holds.pens n)

/-- Slot blocks that nobody holds, in increasing number (R515). -/
def State.freeBlocks (s : State) : List Nat :=
  (List.range 64).filter fun b => !(s.pads.any fun d => d.holds.blocks.contains b)

/-- Units of 256 scoreboard entries that nobody holds. -/
def State.freeEntries (s : State) : Nat := 64 - (s.pads.map fun d => d.holds.entries).sum

/-- slot_base and slot_mask of a reply (R576). -/
def grantPayload (blocks : List Nat) : List Byte :=
  leBytes 2 (blocks.headD 0xFFFF) ++ leBytes 8 (blocks.foldl (fun m b => m + 2 ^ b) 0)

/-! ### PADDOCK_OPEN (R514-R517, R663) -/

/-- The status that refuses the units of an open (R514, R515, R607, R666). -/
def State.openCheck (s : State) (p : Nat) (u : Units) : Option Nat :=
  if u.groups = 0 ∨ u.packages = 0 ∨ u.pens = 0 ∨ 64 < u.slotBlocks ∨ u.entries = 0 ∨ 64 < u.entries then some 0x0803
  else if !((bitsSet 16 u.groups).all s.groupFree) || !((bitsSet 24 u.packages).all (s.packageFree p)) ||
      !((bitsSet 96 u.pens).all s.penFree) then some 0x0802
  else if s.freeBlocks.length < u.slotBlocks ∨ s.freeEntries < u.entries then some 0x0803
  else none

/-- The copy of what the start retained for a paddock (R666). -/
def State.retainedCopy (s : State) (p : Nat) : Option WarmPaddock := s.start.retained.find? (·.paddock == p)

/-- The sheds of a package fill it: a boundary of theirs, where a spare lane takes a suspect one's place, and the fill (R286, R289). -/
def State.shedFills (s : State) (k : Nat) : State := ((span (8 * k) 8).foldl State.shedBoundary s).rawFill k

/-- The copy is dropped; the retained packages are RAW-filled (R517, R666). -/
def State.dropCopy (s : State) (p : Nat) (fill : Bool) : State :=
  match s.retainedCopy p with
  | none => s
  | some w =>
    let s := { s with start := { s.start with retained := s.start.retained.filter (·.paddock != p) } }
    if fill then (bitsSet 24 w.packages).foldl State.shedFills s else s

/-- PADDOCK_OPEN is accepted: the paddock moves to OPENING with its units, ostler and key bound; what its packages hold stays as stored under the keys of `was` (R513, R516, R517). -/
def State.opening (s was : State) (p : Nat) (o : Owed) (u : Units) (crypt : Nat) (key : List Byte) (retained : Bool) : State :=
  let blocks := s.freeBlocks.take u.slotBlocks
  (s.modPd p fun d =>
    { Paddock.closed with
      state := .opening, owned := ⟨u.groups, u.packages, u.pens, blocks, u.entries⟩
      cryptAsked := crypt == 1, crypt := crypt == 1 && s.granted 10, key := some key
      opening := some (o, blocks), retained := retained, ring := d.ring }).rekey was (bitsSet 24 u.packages)

def actPaddockOpen (p : Nat) (h : LetterHead) (u : Units) (crypt retained : Nat) (drbgOk : Bool) (s : State) : Taken :=
  if retained = 1 then
    match s.retainedCopy p with
    | none => Taken.refuse s 0x0806
    | some w =>
      match s.openCheck p u with
      | some st => Taken.refuse (s.dropCopy p true) st
      | none =>
        if w.packages ≠ u.packages then Taken.refuse (s.dropCopy p true) 0x0806
        else Taken.later ((s.dropCopy p false).opening s p (owedOf h) u crypt w.handle true)
  else match s.openCheck p u with
    | some st => Taken.refuse s st
    | none =>
      if !drbgOk then Taken.refuse s 0x0A03
      else
        let s := s.dropCopy p true
        let key := (Config.drbg s.free ++ List.replicate 32 0).take 32
        Taken.later ({ s with free := s.free + 1 }.opening s p (owedOf h) u crypt key false)

def execPaddockOpen (p : Nat) (h : LetterHead) (u : Units) (crypt retained : Nat) (drbgOk : Bool) (s : State) : Out :=
  onUnit (p < 16) (s.takeLetter p 0x0020 20 h (actPaddockOpen p h u crypt retained drbgOk))

/-- Packages that a paddock with encryption has not held before are KEYED-filled, so that they read as zero; a retained paddock's are not (R269, R516). -/
def State.keyedFill (s : State) (p packages : Nat) : State :=
  if (s.pd p).crypt && !(s.pd p).retained then (bitsSet 24 packages).foldl State.shedFills s else s

/-- Every pen and row store of a set of units holds zero: memory lists no byte of them (R304, R308, R516). -/
def State.unitsZero (s : State) (u : Owned) : Bool :=
  let rows := ((bitsSet 16 u.groups).flatMap fun g => span (4 * g) 4).filterMap fun l => s.remount.bind.getD l none
  s.mem.all fun c =>
    !((bitsSet 96 u.pens).any fun n => decide (penBase n ≤ c.1) && decide (c.1 < penBase (n + 1))) &&
      !(rows.any fun n => decide (rowStoreBase n ≤ c.1) && decide (c.1 < rowStoreBase (n + 1)))

/-- OPENING_COMPLETE: every unit is prepared, its pens and row stores found zero; the reply goes out and the paddock is OPEN (R516). -/
def openingCompletes (p : Nat) (s : State) : State :=
  match (s.pd p).opening with
  | none => s
  | some (o, blocks) =>
    if s.frozen || (s.pd p).state != .opening || !s.unitsZero (s.pd p).owned then s
    else
      let s := s.keyedFill p (s.pd p).owned.packages
      let s := s.modPd p fun d => { d with state := .opened, opening := none }
      s.reply p 0x0020 o 0 (grantPayload blocks)

def execOpeningComplete (p : Nat) (s : State) : Out := onUnit (p < 16) (openingCompletes p s)

/-! ### Clearing and closing (R269, R304, R308, R518, R519) -/

/-- Clear units: RAW-fill packages, zero pens and the row stores of groups. -/
def State.clearUnits (s : State) (groups packages pens : Nat) : State :=
  let s := (bitsSet 24 packages).foldl State.shedFills s
  let s := ((bitsSet 24 packages).flatMap fun k => span (8 * k) 8).foldl (fun s ch => s.modShed ch fun x => x.resumed none) s
  let s := (bitsSet 96 pens).foldl (fun s n => s.zero (penBase n) penSize) s
  ((bitsSet 16 groups).flatMap fun g => span (4 * g) 4).foldl (fun s l =>
    match s.remount.bind.getD l none with
    | some phys => s.zero (rowStoreBase phys) rowStoreSize
    | none => s) s

/-- PADDOCK_CLOSE: every context halts with 0x0805, and the paddock is CLOSING (R513, R518). -/
def actPaddockClose (p : Nat) (h : LetterHead) (s : State) : Taken :=
  let s := s.haltAll p 0x0805
  Taken.later (s.modPd p fun d => { d with state := .closing, closing := some (owedOf h) })

def execPaddockClose (p : Nat) (h : LetterHead) (s : State) : Out :=
  onUnit (p < 16) (s.takeLetter p 0x0021 0 h (actPaddockClose p h))

/-- A resize ends: removed units are cleared, added ones are usable, and the reply goes out (R521). -/
def State.resizeEnds (s : State) (p : Nat) (r : Resizing) : State :=
  let s := s.clearUnits r.removed.groups r.removed.packages r.removed.pens
  let s := if (s.pd p).crypt then (bitsSet 24 r.added.packages).foldl State.shedFills s else s
  let s := s.modPd p fun d => { d with owned := d.owned.plus r.added, resizing := none }
  s.reply p 0x0022 r.owed 0 (grantPayload r.added.blocks)

/-- No context is still inside a span that the close waits for (R518). -/
def Paddock.allHalted (d : Paddock) : Bool := (d.withCtx fun x => x.state != .halted).isEmpty

/-- CLOSING_COMPLETE: everything is cleared, the key is destroyed, the units return, the reply goes out (R519, R665); a resize in progress ends first (log 137). -/
def closingCompletes (p : Nat) (s : State) : State :=
  match (s.pd p).closing with
  | none => s
  | some o =>
    if s.frozen || !(s.pd p).allHalted then s
    else
      let s := match (s.pd p).resizing with
        | some r => s.resizeEnds p r
        | none => s
      let w := (s.pd p).owned
      let s := (List.range 8).foldl (fun (s : State) (c : Nat) => s.refuseEpoch p c) s
      let s := s.clearUnits w.groups w.packages w.pens
      let s := s.dropExpiries (·.paddock == p)
      let s := s.modPd p fun d => { Paddock.closed with ring := d.ring }
      s.reply p 0x0021 o 0 []

def execClosingComplete (p : Nat) (s : State) : Out := onUnit (p < 16) (closingCompletes p s)

/-! ### PADDOCK_RESIZE (R520, R521) -/

/-- A removed group belongs to a context that is not IDLE or HALTED (R520). -/
def Paddock.busyCtx (d : Paddock) : Bool := !(d.withCtx fun x => !x.quiet).isEmpty

/-- Slot numbers of the last n blocks (R482). -/
def Paddock.lastSlots (d : Paddock) (n : Nat) : List Nat :=
  span ((d.owned.blocks.length - n) * 512) (n * 512)

/-- Bytes rounded up to 4 KiB. -/
def pageUp (n : Nat) : Nat := ceilDiv n 4096 * 4096

/-- Scale history of a paddock: of every class that a loaded parcel declares (R224, R306). -/
def Paddock.historyBytes (d : Paddock) : Nat :=
  pageUp ((((d.withCtx fun _ => true).flatMap fun cx => cx.2.parcel.scaleRecs.map (·.cls)).eraseDups).length * (64 + 4 * d.histN))

/-- Bytes of the reserved structures of R306 in the paddock's pens, from its lowest pen upward; those of a swapped context have left with its pens (R538). -/
def Paddock.penReserve (d : Paddock) : Nat :=
  131072 * d.owned.blocks.length + d.historyBytes + ((d.withCtx (·.resident)).map fun cx => cx.2.reserve).sum

/-- Pens that a reserved structure reaches (R306). -/
def Paddock.reservedPens (d : Paddock) : List Nat :=
  (bitsSet 96 d.owned.pens).take (ceilDiv d.penReserve penSize)

/-- A pen range from a device address on reaches the reserved structures (R306, R542). -/
def Paddock.reachesReservedPens (d : Paddock) (lo len : Nat) : Bool :=
  (d.reservedPens.zipIdx).any fun ni =>
    let used := min penSize (d.penReserve - ni.2 * penSize)
    decide (lo < penBase ni.1 + used) && decide (penBase ni.1 < lo + len)

/-- A resident context's table reaches the reserved structures in pens. -/
def Paddock.pensTaken (d : Paddock) : Bool :=
  !(d.withCtx fun x => x.resident && x.lastTable.any fun r => r.kind == 1 && d.reachesReservedPens r.dbase r.length).isEmpty

/-- The status that refuses a resize, in the order of R520. -/
def State.resizeCheck (s : State) (p : Nat) (a r : Units) : Option Nat :=
  let d := s.pd p
  let o := d.owned
  if 64 < a.slotBlocks ∨ 64 < a.entries ∨ 64 < r.slotBlocks ∨ 64 < r.entries then some 0x0803
  else if !((bitsSet 16 a.groups).all s.groupFree) || !((bitsSet 24 a.packages).all (s.packageFree p)) ||
      !((bitsSet 96 a.pens).all s.penFree) || decide (s.freeBlocks.length < a.slotBlocks) ||
      decide (s.freeEntries < a.entries) then some 0x0802
  else if r.groups &&& o.groups ≠ r.groups ∨ r.packages &&& o.packages ≠ r.packages ∨ r.pens &&& o.pens ≠ r.pens ∨
      o.blocks.length < r.slotBlocks ∨ o.entries < r.entries then some 0x0802
  else if (bitsSet 24 r.packages).any fun k => !(d.withCtx fun x => x.lastTable.any (·.reachesPackage k)).isEmpty then some 0x0802
  else if (bitsSet 96 r.pens).any fun n => d.usedPens.contains n || d.reservedPens.contains n then some 0x0802
  else if r.groups ≠ 0 ∧ d.busyCtx then some 0x0802
  else if (d.lastSlots r.slotBlocks).any d.liveSlots.contains then some 0x0802
  else if o.groups ||| a.groups = r.groups ∨ o.packages ||| a.packages = r.packages ∨ o.pens ||| a.pens = r.pens ∨
      o.entries + a.entries = r.entries ∨ 64 < o.entries + a.entries - r.entries ∨
      64 < o.blocks.length + a.slotBlocks - r.slotBlocks then some 0x0803
  else none

/-- A swap, a table rebuild or an earlier resize of the paddock is in progress. -/
def Paddock.inMotion (d : Paddock) : Bool :=
  d.resizing.isSome || d.swappingIn.isSome || !(d.withCtx fun x => x.rebuild.isSome).isEmpty

/-- PADDOCK_RESIZE waits, not taken yet, while a swap, a rebuild or an earlier resize is in progress; then it is refused whole, or the removed units leave and the reply is owed (R520, R521; log 137). -/
def actPaddockResize (p : Nat) (h : LetterHead) (a r : Units) (s : State) : Taken :=
  if (s.pd p).inMotion then Taken.hold s
  else match s.resizeCheck p a r with
    | some st => Taken.refuse s st
    | none =>
      let granted := s.freeBlocks.take a.slotBlocks
      Taken.later (s.modPd p fun d =>
        let o := d.owned
        let keep := o.blocks.take (o.blocks.length - r.slotBlocks)
        { d with
          owned := ⟨o.groups - r.groups, o.packages - r.packages, o.pens - r.pens, keep, o.entries - r.entries⟩
          resizing := some ⟨owedOf h, ⟨r.groups, r.packages, r.pens, o.blocks.drop (o.blocks.length - r.slotBlocks), r.entries⟩,
            ⟨a.groups, a.packages, a.pens, granted, a.entries⟩⟩ })

def execPaddockResize (p : Nat) (h : LetterHead) (add rem : Units) (s : State) : Out :=
  onUnit (p < 16) (s.takeLetter p 0x0022 38 h (actPaddockResize p h add rem))

/-- RESIZE_COMPLETE: added units are usable and removed ones cleared; waits for a swap or a rebuild (R521). -/
def resizeCompletes (p : Nat) (s : State) : State :=
  match (s.pd p).resizing with
  | none => s
  | some r =>
    let d := s.pd p
    if s.frozen || d.swappingIn.isSome || !(d.withCtx fun x => x.rebuild.isSome).isEmpty then s
    else s.resizeEnds p r

def execResizeComplete (p : Nat) (s : State) : Out := onUnit (p < 16) (resizeCompletes p s)

/-! ### PADDOCK_MAP (R541-R544) -/

/-- An entry of 32 bytes (R541), and whether its reserved parts are zero. -/
def rangeOf (bs : List Byte) : Range × Bool :=
  (⟨fieldAt bs 0 8, fieldAt bs 8 8, fieldAt bs 16 8, fieldAt bs 24 1, fieldAt bs 25 1, fieldAt bs 26 2, 0, []⟩,
    fieldAt bs 28 4 == 0)

/-- Alignment, length and layout of an entry, and the boundaries it may not cross (R541, R542). -/
def Range.layoutOk (r : Range) : Bool :=
  r.pbase % 4096 == 0 && decide (r.pbase < 2 ^ 48) && r.dbase % 4096 == 0 && r.length % 4096 == 0 &&
    decide (4096 ≤ r.length) && decide (r.kind ≤ 3) && decide (r.access ≤ 3) &&
    (if r.kind = 2 then decide (r.lstable < 64) else r.lstable == 0) &&
    decide (r.pbase + r.length ≤ 0xC00000000000) &&
    match r.kind with
    | 0 => decide (r.dbase + r.length ≤ 24 * packageSize) && r.dbase / packageSize == (r.dbase + r.length - 1) / packageSize
    | 1 => decide (penBase 0 ≤ r.dbase) && decide (r.dbase + r.length ≤ penBase 96) &&
        dieOfPen ((r.dbase - penBase 0) / penSize) == dieOfPen ((r.dbase + r.length - 1 - penBase 0) / penSize)
    | 2 => decide (r.dbase + r.length ≤ rowStoreSize)
    | _ => decide (windowBase ≤ r.dbase) && decide (r.dbase + r.length ≤ windowBase + windowSize)

def Range.overlaps (a b : Range) : Bool := decide (a.pbase < b.pbase + b.length) && decide (b.pbase < a.pbase + a.length)

/-- Usable bytes of a package window (R35). -/
def State.packageUsable (s : State) (k : Nat) : Nat := if bitOf s.cfg.ecc k then 0xF80000000 else packageSize

/-- Bytes of LPDDR5X that the module reserves for the paddock's contexts: save, swap and parcel areas and tables (R529, R538, R541, R587). -/
def Paddock.reservedBytes (d : Paddock) : Nat :=
  ((d.withCtx fun _ => true).map fun cx => cx.2.saveBytes + cx.2.swapBytes + cx.2.parcelBytes + 131072).sum

/-- The reserved range lies at the top of the paddock's packages, from the highest one downward (log 26): whether a device range reaches it. -/
def State.reachesReserved (s : State) (d : Paddock) (lo hi : Nat) : Bool :=
  let rec go : List Nat → Nat → Bool
    | [], _ => false
    | k :: ks, left =>
      let top := packageBase k + s.packageUsable k
      let here := min left (s.packageUsable k)
      (decide (0 < here) && decide (lo < top) && decide (top - here < hi)) || go ks (left - here)
  go (bitsSet 24 d.owned.packages).reverse d.reservedBytes

/-- A range stays in units of the paddock and off reserved ranges and the check-data reserve (R39, R542). -/
def State.rangeOwned (s : State) (p : Nat) (r : Range) : Bool :=
  let d := s.pd p
  match r.kind with
  | 0 =>
    let k := r.dbase / packageSize
    bitOf d.owned.packages k && decide (r.dbase % packageSize + r.length ≤ s.packageUsable k) &&
      !s.reachesReserved d r.dbase (r.dbase + r.length)
  | 1 =>
    let lo := (r.dbase - penBase 0) / penSize
    let hi := (r.dbase + r.length - 1 - penBase 0) / penSize
    (span lo (hi + 1 - lo)).all (fun n => bitOf d.owned.pens n) && !d.reachesReservedPens r.dbase r.length
  | 2 => bitOf d.owned.groups (r.lstable / 4)
  | _ => true

/-- A pen range reaches a pen of another resident context (R538; log 25). -/
def Paddock.meetsOthers (d : Paddock) (c : Nat) (r : Range) : Bool :=
  r.kind == 1 && (Ctx.tablePens { (default : Ctx) with table := [r] }).any fun n => (d.withCtx fun _ => true).any fun cx => cx.1 != c && cx.2.resident && cx.2.pens.contains n

/-- The status that refuses the entries to add, in list order (R542). -/
def State.mapCheck (s : State) (p : Nat) : List Range → List (Range × Bool) → Option Nat
  | _, [] => none
  | have_, (r, ok) :: rest =>
    if !ok || !r.layoutOk || have_.any r.overlaps then some 0x0803
    else if !s.rangeOwned p r then some 0x0804
    else s.mapCheck p (have_ ++ [r]) rest

def actPaddockMap (p ctx nadd nremove list : Nat) (s : State) : Taken :=
  match s.ctx p ctx with
  | none => Taken.refuse s 0x0003
  | some x =>
    if inWindow list (32 * nadd + 8 * nremove) = false then Taken.refuse s 0x0104
    else
      let adds := (chunksOf 32 nadd (s.rdComp list (32 * nadd))).map rangeOf
      let gone := (chunksOf 8 nremove (s.rdComp (list + 32 * nadd) (8 * nremove))).map leVal
      let last := x.lastTable
      let kept := last.filter fun r => !gone.contains r.pbase
      if gone.any fun b => !(last.any (·.pbase == b)) then Taken.refuse s 0x0803
      else match (s.modCtx p ctx fun x => { x with resident := true }).mapCheck p kept adds with
        | some st => Taken.refuse s st
        | none =>
          if x.resident && adds.any fun e => (s.pd p).meetsOthers ctx e.1 then Taken.refuse s 0x0804 else
          let t := (kept ++ adds.map (·.1)).map s.remount.bound
          if 4096 < t.length then Taken.refuse s 0x0803
          else Taken.ok (s.modCtx p ctx fun x =>
            let x := x.retable t
            { x with pens := (Ctx.tablePens { x with table := t }).eraseDups }) []

def execPaddockMap (p : Nat) (h : LetterHead) (ctx nadd nremove list : Nat) (s : State) : Out :=
  onUnit (p < 16) (s.takeLetter p 0x0023 13 h (actPaddockMap p ctx nadd nremove list))

/-! ### Settings (R53, R224, R526, R527) -/

/-- SCHED_SET: a field of 0 leaves its setting; below its minimum it is refused with 0x0101 (R527, R573). -/
def actSchedSet (p slice blockAfter : Nat) (s : State) : Taken :=
  if (slice ≠ 0 ∧ slice < 100000) ∨ (blockAfter ≠ 0 ∧ blockAfter < 1000) then Taken.refuse s 0x0101
  else Taken.ok (s.modPd p fun d =>
    { d with slice := if slice = 0 then d.slice else slice
             blockAfter := if blockAfter = 0 then d.blockAfter else blockAfter }) []

def execSchedSet (p : Nat) (h : LetterHead) (slice blockAfter : Nat) (s : State) : Out :=
  onUnit (p < 16) (s.takeLetter p 0x0024 10 h (actSchedSet p slice blockAfter))

/-- PADDOCK_POWER: 0 unsets, otherwise 50 to 2,400 W (R53); outside, 0x0902 (R573). -/
def actPaddockPower (p watts : Nat) (s : State) : Taken :=
  if watts ≠ 0 ∧ (watts < 50 ∨ 2400 < watts) then Taken.refuse s 0x0902
  else Taken.ok (s.modPd p fun d => { d with cap := if watts = 0 then none else some watts }) []

def execPaddockPower (p : Nat) (h : LetterHead) (watts : Nat) (s : State) : Out :=
  onUnit (p < 16) (s.takeLetter p 0x0025 2 h (actPaddockPower p watts))

/-- HISTORY_SET: N from 4 to 64, effective at the next LOAD (R224, R573). -/
def actHistorySet (p n : Nat) (s : State) : Taken :=
  if n < 4 ∨ 64 < n then Taken.refuse s 0x0101
  else Taken.ok (s.modPd p fun d => { d with histNext := n }) []

def execHistorySet (p : Nat) (h : LetterHead) (n : Nat) (s : State) : Out :=
  onUnit (p < 16) (s.takeLetter p 0x0026 1 h (actHistorySet p n))

end Sys2Proof.Machine
end

