-- ==== Sys2Proof/Machine/Rand.lean ====
section
/-!
DEFINITION. Seeded random words (R216-R218).
-/

namespace Sys2Proof.Machine

/-- mix64 of R216. -/
def mix64 (x0 : W64) : W64 :=
  let x1 := x0 ^^^ (x0 >>> 32)
  let x2 := x1 * 0x8C3F5A21D94E6B17#64
  let x3 := x2 ^^^ (x2 >>> 29)
  let x4 := x3 * 0xE7A13C590B8DF26B#64
  x4 ^^^ (x4 >>> 32)

/-- The key of R216. -/
def randKey (jobSeed step : W64) (postcode domain : Nat) (a b : W64) : W64 :=
  let k := mix64 (jobSeed ^^^ 0x5D2A81C437E9B06F#64)
  let k := mix64 (k ^^^ step)
  let k := mix64 (k ^^^ BitVec.ofNat 64 (postcode * 256 + domain))
  let k := mix64 (k ^^^ a)
  mix64 (k ^^^ b)

/-- word(k, i) of R216. -/
def randWord (k : W64) (i : Nat) : W64 := mix64 (k ^^^ BitVec.ofNat 64 i)

/-- Domains of R217. -/
def domWire : Nat := 1
def domDrain : Nat := 2
def domRand : Nat := 3

end Sys2Proof.Machine
end

