-- ==== Sys2Proof/Machine/Operands.lean ====
section
/-!
DEFINITION. Operands in memory: arrays of one package (R255, R276, R285, R286) and the
positions of a stream descriptor with the formats they hold (R113, R191, R194, R313).
-/

namespace Sys2Proof.Machine

/-! ### Arrays of one package (R255, R276, R285, R286) -/

/-- The package that a placed address lies in. -/
def State.packageAt (s : State) : Except Nat Nat → Except Nat Nat
  | .error e => .error e
  | .ok d => match s.whereIs d with
    | .package k _ => .ok k
    | _ => .error 0x0301

/-- Every range of the table that a run of addresses meets lies in one package, from an address that is aligned there too. -/
def Ctx.inPackage (x : Ctx) (k : Nat) (lo len : Nat) : Bool :=
  x.liesIn (fun r => r.kind == 0 && r.dbase / packageSize == k && r.dbase % 2048 == r.pbase % 2048) lo (lo + len)

/-- The package of an array or range that must stay in one: 0x0301 where it does not (log 127). -/
def State.packageOf (s : State) (x : Ctx) (write : Bool) (a len : Nat) : Except Nat Nat :=
  match s.packageAt (s.place x write a) with
  | .error e => .error e
  | .ok k => if x.inPackage k a len then .ok k else .error 0x0301

/-! ### Stream descriptors (R113) -/

/-- Positions of a descriptor. -/
def Desc.count (d : Desc) : Nat := (d.loops.map (·.count)).foldl (· * ·) 1

/-- The descriptor is a whole shed-striped array of items of z bytes, in the four loops of R255. -/
def Desc.stripes (d : Desc) (z : Nat) : Bool :=
  !d.mx && d.base % 2048 == 0 && (d.loops.all fun l => l.lo == 0 && l.hi == l.count - 1) &&
    (d.loops.map fun l => (l.count, l.stride)).take 3 == [(256, 1), (z / 256, 2048), (8, 256)] &&
    (d.loops.drop 3).map (·.stride) == [(8 * z : Int)]

/-- Loop indices of a position, innermost first (R194). -/
def loopIndices : List Loop → Nat → List Nat
  | [], _ => []
  | l :: ls, n => n % l.count :: loopIndices ls (n / l.count)

/-- A format whose elements are packed below a byte: the innermost loop steps through elements, not bytes (R191; BIT, log 28). -/
def packedFmt (fmt : Nat) : Bool := decide (fmtBits fmt < 8)

/-- Where a position lies: its address and first bit, or none outside the valid range (R113, R191). A position below address 0 is taken at 0, which is the model's choice (log 140). -/
def Desc.place (d : Desc) (fmt n : Nat) : Option (Nat × Nat) :=
  let is := loopIndices d.loops n
  let ok := (d.loops.zip is).all fun li => decide (li.1.lo ≤ li.2) && decide (li.2 ≤ li.1.hi)
  if !ok then none
  else
    let bits := if packedFmt fmt then (is.headD 0) * fmtBits fmt else 0
    let ls := if packedFmt fmt then (d.loops.zip is).drop 1 else d.loops.zip is
    let off : Int := (ls.map fun li => li.1.stride * (li.2 : Int)).foldl (· + ·) 0
    some (((d.base : Int) + off).toNat + bits / 8, bits % 8)

/-- Whole bytes that hold an element. -/
def elemBytes (fmt bit : Nat) : Nat := ceilDiv (bit + fmtBits fmt) 8

/-- The pattern in a format's bytes; the parts of a soft-target entry (R312). -/
def patternOf (fmt bit : Nat) (bs : List Byte) : Nat :=
  let v := leVal bs
  if fmt = 0x28 then v % 2 ^ 20 else if fmt = 0x29 then v >>> 20 % 2 ^ 28 else (v >>> bit) % 2 ^ fmtBits fmt

/-- Put a pattern into a format's bytes, keeping the rest (R312, R313). -/
def patternInto (fmt bit : Nat) (old : List Byte) (v : Nat) : List Byte :=
  let o := leVal old
  let n := old.length
  if fmt = 0x28 then leBytes n (o / 2 ^ 20 * 2 ^ 20 + v % 2 ^ 20)
  else if fmt = 0x29 then leBytes n (v % 2 ^ 28 * 2 ^ 20 + o % 2 ^ 20)
  else if bit = 0 ∧ fmtBits fmt % 8 = 0 then leBytes n v
  else leBytes n (o - (o >>> bit) % 2 ^ fmtBits fmt * 2 ^ bit + v % 2 ^ fmtBits fmt * 2 ^ bit)

/-- The pattern at a position; none outside the valid range. -/
def State.loadBits (s : State) (x : Ctx) (fmt : Nat) (d : Desc) (n : Nat) : Except Nat (Option Nat) :=
  match d.place fmt n with
  | none => .ok none
  | some (a, bit) =>
    match s.load x a (elemBytes fmt bit) with
    | .error e => .error e
    | .ok bs => .ok (some (patternOf fmt bit bs))

/-- The block scale of a position; 127 where the format has none (R193, R194). -/
def State.loadScale (s : State) (x : Ctx) (fmt : Nat) (d : Desc) (n : Nat) : Except Nat Nat :=
  if isMx fmt then
    match s.load x (d.sbase + n / 32) 1 with
    | .error e => .error e
    | .ok bs => .ok (leVal bs)
  else .ok 127

/-- The value at a position; exact zero outside the valid range (R113, R195). -/
def State.loadVal (s : State) (x : Ctx) (fmt : Nat) (d : Desc) (n : Nat) : Except Nat Ext :=
  match s.loadBits x fmt d n with
  | .error e => .error e
  | .ok none => .ok (.zero false)
  | .ok (some v) =>
    if isMx fmt then
      match s.loadScale x fmt d n with
      | .error e => .error e
      | .ok sc => .ok (scaledValue sc (elemValue fmt v))
    else .ok (elemValue fmt v)

/-- Values of positions in turn. -/
def State.loadVals (s : State) (x : Ctx) (fmt : Nat) (d : Desc) : List Nat → Except Nat (List Ext)
  | [] => .ok []
  | n :: ns =>
    match s.loadVal x fmt d n with
    | .error e => .error e
    | .ok v => match s.loadVals x fmt d ns with
      | .error e => .error e
      | .ok vs => .ok (v :: vs)

/-- Write a pattern at a position; nothing outside the valid range (R113). -/
def State.storeBits (s : State) (x : Ctx) (fmt : Nat) (d : Desc) (n v : Nat) : Except Nat State :=
  match d.place fmt n with
  | none => .ok s
  | some (a, bit) =>
    if bit = 0 ∧ fmtBits fmt % 8 = 0 ∧ fmt ≠ 0x28 ∧ fmt ≠ 0x29 then s.store x a (leBytes (fmtBits fmt / 8) v)
    else
      match s.peek x a (elemBytes fmt bit) with
      | .error e => .error e
      | .ok old => s.store x a (patternInto fmt bit old v)

/-- Distance in positions from one row to the next: the smallest product of leading loop counts that holds a row of k, where that many rows fit (R108, R130; log 31). -/
def Desc.pitch (d : Desc) (k rows : Nat) : Nat :=
  let ps := ((List.range d.loops.length).map fun i => ((d.loops.take (i + 1)).map (·.count)).foldl (· * ·) 1)
  match ps.find? (fun p => decide (k ≤ p)) with
  | some p => if p * rows ≤ d.count then p else k
  | none => k

/-- A descriptor whose outermost loop is restricted to `count` rows from `first` on (R343; log 29). -/
def Desc.rowsOf (d : Desc) (first count : Nat) : Desc :=
  match d.loops.getLast? with
  | none => d
  | some l =>
    let inner := ((d.loops.dropLast).map (·.count)).foldl (· * ·) 1
    let lo := l.lo - first
    let l' : Loop := if l.hi < first then ⟨count, l.stride, 1, 0⟩ else ⟨count, l.stride, lo, min (l.hi - first) (count - 1)⟩
    { d with
      base := ((d.base : Int) + l.stride * (first : Int)).toNat
      sbase := d.sbase + first * inner / 32
      loops := d.loops.dropLast ++ [l'] }

end Sys2Proof.Machine
end

