-- ==== Sys2Proof/Machine/Pigeon.lean ====
section
/-!
DEFINITION. Pigeonholes (R310-R329): letters in their slots, the port through which
groom reaches them, completion, release and freeing.
-/

namespace Sys2Proof.Machine

/-! ### Letters and slots (R310-R319) -/

/-- Bytes of a letter (R310). -/
def PhRec.letterBytes (r : PhRec) : Nat := if r.full then 32 + 2 * r.vocab else 32 + 6 * r.k

/-- A slot is its letter rounded up to a multiple of 64 bytes (R310). -/
def PhRec.slotBytes (r : PhRec) : Nat := ceilDiv r.letterBytes 64 * 64

/-- Paddock address of a letter's slot: letter L uses slot L mod S (R316, R319). -/
def PhRec.slotOf (r : PhRec) (letter : Nat) : Nat := r.base + letter % r.slots * r.slotBytes

/-- Positions of one letter in a part (R317); 0 where its kind has no such part. -/
def PhRec.perLetter (r : PhRec) (part : Nat) : Nat :=
  match part with
  | 0 => if r.full then 0 else r.k
  | 1 => if r.full then 0 else r.k
  | 2 => if r.full then 0 else 1
  | 3 => if r.full then r.vocab else 0
  | 4 => 8
  | _ => 0

/-- Positions that complete a letter (R318). -/
def PhRec.positions (r : PhRec) : Nat := r.perLetter 0 + r.perLetter 1 + r.perLetter 2 + r.perLetter 3

/-- The format in which a part is read and written (R317). -/
def partFmt (part : Nat) : Nat :=
  match part with
  | 0 => 0x28
  | 1 => 0x29
  | 2 => 0x01
  | 3 => 0x02
  | _ => 0x22

/-- Offset in a slot of position j of a part, and the bytes that hold it (R311, R312, R315). -/
def partAt (part j : Nat) : Nat × Nat :=
  match part with
  | 0 => (32 + 6 * j, 6)
  | 1 => (32 + 6 * j, 6)
  | 2 => (12, 4)
  | 3 => (32 + 2 * j, 2)
  | _ => (4 * j, 4)

/-- A place in a port: pigeonhole, part, position (R317). -/
structure PortAt where
  handle : Nat
  part : Nat
  pos : Nat
  deriving DecidableEq, Repr, Inhabited

/-- The port address space starts here (R317). -/
def portBase : Nat := 0xC00000000000

/-- What a port address names (R317). -/
def portAt (a : Nat) : Option PortAt :=
  if a < portBase ∨ portBase + 2 ^ 44 ≤ a then none
  else
    let o := a - portBase
    some ⟨o / 2 ^ 38, o / 2 ^ 35 % 8, o % 2 ^ 35 / 4⟩

def Parcel.pigeonRec? (x : Parcel) (handle : Nat) : Option PhRec := x.pigeonRecs.find? (·.handle == handle)
def Ctx.pigeon? (x : Ctx) (handle : Nat) : Option Pigeon := x.pigeons.find? (·.handle == handle)

/-- Change one pigeonhole; its occupancy is counted up to now first (R325). -/
def Ctx.modPigeon (x : Ctx) (handle now : Nat) (f : Pigeon → Pigeon) : Ctx :=
  let x := x.settle now
  { x with pigeons := x.pigeons.map fun g => if g.handle = handle then f g else g }

def Pigeon.letter? (g : Pigeon) (n : Nat) : Option Letter := g.letters.find? (·.ordinal == n)

/-- A letter has been complete: READY, HELD or freed (R318-R320). -/
def Pigeon.complete (g : Pigeon) (n : Nat) : Bool :=
  g.freed.contains n || (match g.letter? n with | some l => l.state != .filling | none => false)

/-- Every pigeonhole empty, the next letter 0 (R323). -/
def Parcel.emptyPigeons (x : Parcel) (now : Nat) : List Pigeon := x.pigeonRecs.map fun r => ⟨r.handle, [], [], 0, now⟩

/-- Every letter of every pigeonhole has been freed (R323). -/
def Ctx.allFreed (x : Ctx) : Bool :=
  x.parcel.pigeonRecs.all fun r => match x.pigeon? r.handle with
    | some g => g.freed.length == r.letters
    | none => true

/-! ### The port -/

/-- What a port access does: it is done, it is dropped (R180), it waits, or it halts the job with a status. -/
inductive PortOut (α : Type) where
  | done (a : α)
  | dropped
  | waits
  | halts (status : Nat)

/-- One more written position; a letter whose last position is written is READY (R318). -/
def Letter.write (l : Letter) (positions part j : Nat) : Letter :=
  let w := if l.written.contains (part, j) then l.written else (part, j) :: l.written
  if w.length = positions then { l with state := .ready, written := [] } else { l with written := w }

/-- The header of a letter, less its tail (R311). -/
def PhRec.header (r : PhRec) (letter position seqTag step : Nat) : List Byte × List Byte :=
  (leBytes 4 position ++ leBytes 4 seqTag ++ leBytes 4 letter,
    leBytes 2 (if r.full then 0 else r.k) ++ leBytes 1 (bit r.full) ++ leBytes 1 r.tcode ++ leBytes 4 r.vocab ++
      leBytes 4 step ++ leBytes 4 0)

/-- The letter's first write: its header from the declaration, the token map and the step; padding zero, the tail of a full letter +0 (R310, R311, R315). -/
def State.openLetter (s : State) (x : Ctx) (r : PhRec) (letter : Nat) : Except Nat State :=
  let slot := r.slotOf letter
  match (x.parcel.desc r.tokenMap).place 0x22 letter with
  | none => .error 0x0301
  | some (a, _) =>
    match s.load x a 8 with
    | .error e => .error e
    | .ok tm =>
      let h := r.header letter (leVal (tm.take 4)) (leVal (tm.drop 4)) x.counter
      match s.store x slot h.1 with
      | .error e => .error e
      | .ok s =>
        match s.store x (slot + 16) h.2 with
        | .error e => .error e
        | .ok s =>
          match s.store x (slot + r.letterBytes) (List.replicate (r.slotBytes - r.letterBytes) 0) with
          | .error e => .error e
          | .ok s => if r.full then s.store x (slot + 12) [0, 0, 0, 0] else .ok s

/-- A pattern goes to its place in a slot; an entry keeps its other part (R312). -/
def State.putPart (s : State) (x : Ctx) (r : PhRec) (letter part j bits : Nat) : Except Nat State :=
  let (off, n) := partAt part j
  let a := r.slotOf letter + off
  if part ≤ 1 then
    match s.peek x a n with
    | .error e => .error e
    | .ok old => s.store x a (patternInto (partFmt part) 0 old bits)
  else s.store x a (leBytes n bits)

/-- A write of one position through a port (R317-R322). `rerun`: the record runs again from its start, so letters that were released are not written (R180, R327). -/
def State.portWrite (s : State) (p c : Nat) (rerun : Bool) (at_ : PortAt) (bits : Nat) : PortOut State :=
  match s.ctx p c with
  | none => .halts 0x0204
  | some x =>
    match x.parcel.pigeonRec? at_.handle, x.pigeon? at_.handle with
    | some r, some g =>
      let per := r.perLetter at_.part
      if per = 0 ∨ at_.part = 4 then .halts 0x0204
      else
        let n := at_.pos / per
        let j := at_.pos % per
        if r.letters ≤ n then .halts 0x0204
        else if g.complete n then (if rerun then .dropped else .halts 0x0204)
        else if r.slots ≤ n ∧ !g.freed.contains (n - r.slots) then .waits
        else
          let isNew := (g.letter? n).isNone
          let opened := if isNew then s.openLetter x r n else .ok s
          match opened with
          | .error e => .halts e
          | .ok s =>
            match s.putPart x r n at_.part j bits with
            | .error e => .halts e
            | .ok s => .done (s.modCtx p c fun x => x.modPigeon at_.handle (s.now p) fun g =>
                let ls := if isNew then g.letters ++ [⟨n, .filling, [], none⟩] else g.letters
                { g with letters := ls.map fun l => if l.ordinal = n then l.write r.positions at_.part j else l })
    | _, _ => .halts 0x0204

/-- A read of one position through a port by a record: its pattern, with the letter HELD by the record (R317-R322). -/
def State.portRead (s : State) (p c ordinal : Nat) (at_ : PortAt) : PortOut (Nat × State) :=
  match s.ctx p c with
  | none => .halts 0x0204
  | some x =>
    match x.parcel.pigeonRec? at_.handle, x.pigeon? at_.handle with
    | some r, some g =>
      let per := r.perLetter at_.part
      if per = 0 then .halts 0x0204
      else
        let n := at_.pos / per
        let (off, len) := partAt at_.part (at_.pos % per)
        if r.letters ≤ n ∨ g.freed.contains n then .halts 0x0204
        else match g.letter? n with
          | none => .waits
          | some l =>
            if l.state = .filling then .waits
            else if l.state = .held ∧ l.holder ≠ some ordinal then .halts 0x0204
            else
              match s.load x (r.slotOf n + off) len with
              | .error e => .halts e
              | .ok bs => .done (patternOf (partFmt at_.part) 0 bs, s.modCtx p c fun x =>
                  x.modPigeon at_.handle (s.now p) fun g =>
                    { g with letters := g.letters.map fun l =>
                        if l.ordinal = n then { l with state := .held, holder := some ordinal } else l })
    | _, _ => .halts 0x0204

/-- Letters that a record holds are freed when it ends (R320). -/
def Pigeon.release (ordinal : Nat) (g : Pigeon) : Pigeon :=
  let mine := g.letters.filter fun l => l.state == .held && l.holder == some ordinal
  { g with letters := g.letters.filter fun l => !mine.contains l, freed := g.freed ++ mine.map (·.ordinal) }

/-- The letters of an ended record go free (R320). -/
def Ctx.releaseLetters (x : Ctx) (ordinal now : Nat) : Ctx :=
  let x := x.settle now
  { x with pigeons := x.pigeons.map (Pigeon.release ordinal) }

/-! ### Mean occupancy (R325) -/

/-- Numerator and denominator of a step's mean occupancy at the end of FORWARD: integrals, and slots times the reference cycles of FORWARD (R325; log 43). -/
def Ctx.meanOccupancy (x : Ctx) (cycles : Nat) : Nat × Nat :=
  let rs := x.parcel.pigeonRecs.filter (·.occupancy)
  ((rs.map fun r => match x.pigeon? r.handle with | some g => g.integral | none => 0).sum,
    (rs.map fun r => r.slots * cycles).sum)

end Sys2Proof.Machine
end

