-- ==== Sys2Proof/Machine/Ranks.lean ====
section
/-!
DEFINITION. The ranks and the feed controller of a stable: what one feed-rail event
does inside K.MM, K.CONV, K.DIST, K.TOPK, K.COMPACT and K.EXPAND (R96-R146), with
the drain (R108, R204, R214, R220), the checks (R132-R142) and the amax of a class
(R225).
-/

namespace Sys2Proof.Machine

/-! ### The record that a stable runs -/

/-- What a stable works on: the share at the head of its queue, its context and its record. -/
structure Kop where
  stable : Nat
  run : Run
  x : Ctx
  k : KernelRec
  deriving DecidableEq, Repr

/-- The share of a stable, if its context runs (R523). -/
def State.kop? (s : State) (n : Nat) : Option Kop :=
  match (s.stable n).queue with
  | [] => none
  | r :: _ =>
    match s.ctx r.paddock r.ctx with
    | none => none
    | some x =>
      if x.state ≠ .running ∨ !s.served r.paddock then none
      else match x.parcel.kernel? r.ordinal with
        | none => none
        | some k => some ⟨n, r, x.offMcl, k⟩

/-- What the feed controller of a share reaches: the pens and its own stable's row store (R103; log 114). -/
def Kop.feedReach (o : Kop) : Ctx :=
  o.x.reach fun r => r.kind == 1 || (r.kind == 2 && r.phys == o.stable)

/-- Change the share at the head of a stable's queue. -/
def Stable.modRun (x : Stable) (f : Run → Run) : Stable :=
  match x.queue with
  | [] => x
  | r :: rs => { x with queue := f r :: rs }

def State.modRun (s : State) (n : Nat) (f : Run → Run) : State := s.modStable n (·.modRun f)

def KernelRec.check (k : KernelRec) : Bool := bitOf k.mode 0
/-- 0 DOT, 1 L2SQ, 2 L1; DOT outside K.DIST (R591). -/
def KernelRec.metric (k : KernelRec) : Nat := if k.kop = 3 then bitsOf k.mode 2 1 else 0
/-- 0 NONE, 1 MIN, 2 MAX (R121, R591). -/
def KernelRec.select (k : KernelRec) : Nat := if k.kop = 3 then bitsOf k.mode 4 3 else 0
def KernelRec.asc (k : KernelRec) : Bool := bitOf k.mode 5
def KernelRec.zeroFill (k : KernelRec) : Bool := bitOf k.mode 6
def KernelRec.accumulates (k : KernelRec) : Bool := bitOf k.mode 7
/-- Columns per chunk (R111); a record that gives none is not loaded (R591). -/
def KernelRec.nc (k : KernelRec) : Nat := if k.chunk = 0 then 128 else k.chunk

/-- The descriptor that a field names, if any (R591). -/
def Kop.desc? (o : Kop) (n : Nat) : Option Desc := if n = 0xFFFF then none else some (o.x.parcel.desc n)
def Kop.a (o : Kop) : Desc := o.x.parcel.desc o.k.aDesc
def Kop.b (o : Kop) : Desc := o.x.parcel.desc o.k.bDesc
def Kop.c (o : Kop) : Desc := o.x.parcel.desc o.k.cDesc

/-! ### Formats of the ranks (R99, R100) -/

def isBf (fmt : Nat) : Bool := fmt == 0x02
def isFp4 (fmt : Nat) : Bool := fmt == 0x07 || fmt == 0x15
/-- Elements of a window (R99). -/
def windowOf (fmt : Nat) : Nat := if isBf fmt then 1024 else if isFp4 fmt then 4096 else 2048
/-- Depth per event (R99). -/
def depthOf (fmt : Nat) : Nat := if isBf fmt then 16 else if isFp4 fmt then 128 else 64

def Kop.exact (o : Kop) : Bool := !isBf o.k.fmtA

/-! ### Scale exponents (R111, R228, R229) -/

/-- The exponent that a class has in this step; outside a step the last one chosen, else 0, which is the model's choice (log 148). -/
def Ctx.scaleOf (x : Ctx) (cls : Nat) : Int := ((x.tr.scales.find? (·.1 == cls)).map (·.2)).getD 0

/-- A scale field: its literal, or the exponent of the class that its reference names, negated where it says so (R229, R591). -/
def Ctx.scaleField (x : Ctx) (lit : Int) (sref : Nat) : Int :=
  if !bitOf sref 15 then lit
  else
    let v := x.scaleOf (sref % 4096)
    if bitOf sref 14 then -v else v

def Kop.scaleAB (o : Kop) : Int := o.x.scaleField o.k.scaleA o.k.srefA + o.x.scaleField o.k.scaleB o.k.srefB
def Kop.scale (o : Kop) : Int := o.scaleAB + o.x.scaleField o.k.scaleC o.k.srefC
/-- The class that the drain names, 0 for none (R223, R229). -/
def Kop.drainClass (o : Kop) : Nat := if bitOf o.k.srefC 15 then o.k.srefC % 4096 else 0

/-! ### Geometry of K.CONV (R114-R119) -/

def convOut (size pad0 pad1 taps dil stride : Nat) : Nat := (size + pad0 + pad1 - (dil * (taps - 1) + 1)) / stride + 1

def KernelRec.outH (k : KernelRec) : Nat := convOut k.m k.conv.padTop k.conv.padBottom k.conv.fh k.conv.dilH k.conv.strideH
def KernelRec.outW (k : KernelRec) : Nat := convOut k.conv.width k.conv.padLeft k.conv.padRight k.conv.fw k.conv.dilW k.conv.strideW
def KernelRec.isConv (k : KernelRec) : Bool := k.kop == 2
def KernelRec.cinG (k : KernelRec) : Nat := k.k / k.conv.groups
def KernelRec.coutG (k : KernelRec) : Nat := k.n / k.conv.groups

/-- Phase of a tap column (R116). -/
def KernelRec.phaseOf (k : KernelRec) (tx : Nat) : Nat := tx * k.conv.dilW % k.conv.strideW

/-- Stacks: tap rows with the phases that some tap uses (R115). -/
def KernelRec.stacks (k : KernelRec) : List (Nat × Nat) :=
  let ps := (List.range k.conv.strideW).filter fun p => (List.range k.conv.fw).any fun tx => k.phaseOf tx == p
  (List.range k.conv.fh).flatMap fun ty => ps.map fun p => (ty, p)

/-- Channels of a group that one window holds (R115; log 32). -/
def KernelRec.channelsPerWindow (k : KernelRec) : Nat := max 1 (windowOf k.fmtA / max 1 k.stacks.length)

/-- qc centres the shifts (R116; log 30). -/
def KernelRec.centre (k : KernelRec) : Nat := (k.conv.fw - 1) * k.conv.dilW / k.conv.strideW / 2

/-- Shift of a tap column (R116). -/
def KernelRec.shift (k : KernelRec) (tx : Nat) : Int := (tx * k.conv.dilW / k.conv.strideW : Nat) - (k.centre : Int)

/-! ### Geometry of a tile -/

/-- Depth of a column of C: k, or taps times channels of a group. -/
def KernelRec.depth (k : KernelRec) : Nat := if k.isConv then k.conv.fh * k.conv.fw * k.cinG else k.k

/-- Rows of C over the whole record. -/
def KernelRec.rowsC (k : KernelRec) : Nat := if k.isConv then k.outH * k.outW else k.m

def KernelRec.windows (k : KernelRec) : Nat :=
  if k.isConv then ceilDiv k.cinG k.channelsPerWindow else ceilDiv k.k (windowOf k.fmtA)

/-- First depth position or channel of a window, and how many. -/
def KernelRec.windowSpan (k : KernelRec) (w : Nat) : Nat × Nat :=
  let (size, total) := if k.isConv then (k.channelsPerWindow, k.cinG) else (windowOf k.fmtA, k.k)
  (w * size, min size (total - w * size))

/-- Feeds of a tile over a window (R99, R119). -/
def KernelRec.feeds (k : KernelRec) (w : Nat) : Nat :=
  let sl := ceilDiv (k.windowSpan w).2 (depthOf k.fmtA)
  if k.isConv then k.stacks.length * k.conv.fw * sl else sl

/-- Passes over the output columns (R114). -/
def KernelRec.passes (k : KernelRec) : Nat := if k.outH = 1 then ceilDiv k.outW 512 else ceilDiv k.outW 128

/-- Blocks of 512 stalls (R112, R114). -/
def Kop.blocks (o : Kop) : Nat :=
  if o.k.isConv then (if o.k.outH = 1 then o.k.passes else ceilDiv o.run.count 4 * o.k.passes)
  else ceilDiv o.run.count 512

def Kop.chunks (o : Kop) : Nat := ceilDiv o.k.n o.k.nc

/-- Output position (h, w) of a stall, or none where it lies outside (R114, R128). The rows of a share are output image rows, which is the model's choice (log 141). -/
def Kop.outAt (o : Kop) (block rank stall : Nat) : Option (Nat × Nat) :=
  if o.k.outH = 1 then
    let w := block * 512 + 128 * rank + stall
    if w < o.k.outW then some (0, w) else none
  else
    let h := block / o.k.passes * 4 + rank
    let w := block % o.k.passes * 128 + stall
    if h < o.run.count ∧ o.run.first + h < o.k.outH ∧ w < o.k.outW then some (o.run.first + h, w) else none

/-- The row of C that a stall computes, before row_mask (R112, R128). -/
def Kop.rowAt (o : Kop) (block rank stall : Nat) : Option Nat :=
  if o.k.isConv then (o.outAt block rank stall).map fun hw => hw.1 * o.k.outW + hw.2
  else
    let r := block * 512 + rank * 128 + stall
    if r < o.run.count ∧ o.run.first + r < o.k.m then some (o.run.first + r) else none

/-- Column of C in a position, and its group (R112, R114). -/
def Kop.column (o : Kop) (q : FeedPos) : Nat := q.chunk * o.k.nc + q.col
def Kop.group (o : Kop) (q : FeedPos) : Nat := if o.k.isConv then o.column q / max 1 o.k.coutG else 0

/-- Snake order: windows in increasing depth, reversed in odd chunks of an exact class (R112). -/
def Kop.window (o : Kop) (q : FeedPos) : Nat :=
  if o.exact && q.chunk % 2 == 1 then o.k.windows - 1 - q.window else q.window

/-- A tile spills (R109). -/
def Kop.spills (o : Kop) (q : FeedPos) : Bool := decide (q.window + 1 < o.k.windows)

/-- Events of a tile: its feeds (R99, R119). The rail slots that R110 withholds are no events (R63; log 103). -/
def Kop.tileLen (o : Kop) (q : FeedPos) : Nat := o.k.feeds (o.window q)

/-- Columns of the chunk (R112). -/
def Kop.cols (o : Kop) (q : FeedPos) : Nat := min o.k.nc (o.k.n - q.chunk * o.k.nc)

/-- The tile after a tile in the loops of R112. -/
def Kop.nextTile (o : Kop) (q : FeedPos) : FeedPos :=
  let q := { q with event := 0 }
  if q.col + 1 < o.cols q then { q with col := q.col + 1 }
  else if q.window + 1 < o.k.windows then { q with col := 0, window := q.window + 1 }
  else if q.chunk + 1 < o.chunks then { q with col := 0, window := 0, chunk := q.chunk + 1 }
  else if q.block + 1 < o.blocks then ⟨q.block + 1, 0, 0, 0, 0, false⟩
  else { q with done := true }

/-- The next event of the loops of R112. -/
def Kop.next (o : Kop) (q : FeedPos) : FeedPos :=
  if q.event + 1 < o.tileLen q then { q with event := q.event + 1 } else o.nextTile q

/-- The first tile after those that run on a tile's window, block and group (R112). -/
def Kop.nextWindow (o : Kop) (q : FeedPos) : FeedPos :=
  let last := o.cols q - 1
  o.nextTile { q with
    col := if o.k.isConv then min last ((o.group q + 1) * max 1 o.k.coutG - 1 - q.chunk * o.k.nc) else last }

/-! ### Row registers (R99, R115, R117, R118, R128-R132) -/

/-- What a bank must hold for a tile. -/
def Kop.key (o : Kop) (q : FeedPos) : Nat × Nat × Nat := (q.block, o.window q, o.group q)

/-- row_mask: a 0 bit masks the row (R111, R128). -/
def State.unmasked (s : State) (o : Kop) (row : Nat) : Except Nat Bool :=
  match o.desc? o.k.rowMask with
  | none => .ok true
  | some d => do
    let v ← s.loadBits (o.feedReach) 0x23 d row
    pure (v.getD 0 != 0)

/-- The register of some positions of a descriptor in turn; the block scale is read with the first element of its block that is read (R113, R194). `blk` is the block whose scale stands. -/
def State.loadReg (s : State) (x : Ctx) (fmt : Nat) (d : Desc) (blk : Option Nat) (i : Nat) : List Nat → Except Nat Reg
  | [] => .ok Reg.empty
  | n :: ns => do
    let v ← s.loadBits x fmt d n
    let fresh := isMx fmt && v.isSome && blk != some (n / 32)
    let sc ← if fresh then (s.loadScale x fmt d n).map fun b => [(i, b)] else pure []
    let r ← s.loadReg x fmt d (if fresh then some (n / 32) else blk) (i + 1) ns
    pure ⟨v :: r.elems, sc ++ r.scales⟩

/-- One register after another in the same bank. -/
def Reg.append (a b : Reg) : Reg := ⟨a.elems ++ b.elems, a.scales ++ b.scales.map fun s => (a.elems.length + s.1, s.2)⟩

/-- Values of elements from place i on, under the block scales that begin there (R187, R193). -/
def regVals (fmt : Nat) : List (Nat × Nat) → Nat → Nat → List (Option Nat) → List Ext
  | _, _, _, [] => []
  | sc, cur, i, e :: es =>
    let now := match sc with
      | [] => (cur, [])
      | (at_, b) :: rest => if at_ = i then (b, rest) else (cur, sc)
    (match e with
      | none => Ext.zero false
      | some v => if isMx fmt then scaledValue now.1 (elemValue fmt v) else elemValue fmt v) :: regVals fmt now.2 now.1 (i + 1) es

def Reg.vals (fmt : Nat) (r : Reg) : List Ext := regVals fmt r.scales 127 0 r.elems

/-- The register for output row h at output column w: the stacks of a window, with channels of image row h * stride_h + ty * dil_h - pad_top and image column (w + qc) * stride_w + p - pad_left, exact zero outside the image (R115, R117). The shifts of R116 are less qc, so a register stands qc output columns further on than R115's formula has it: then a tap of shift 0 - qc at column w reads the input of column w (log 30). -/
def State.convReg (s : State) (o : Kop) (q : FeedPos) (h : Nat) (w : Int) : Except Nat Reg :=
  let k := o.k
  let (c0, cn) := k.windowSpan (o.window q)
  let d := o.a
  let regs := k.stacks.mapM fun (st : Nat × Nat) =>
    let y : Int := (h * k.conv.strideH + st.1 * k.conv.dilH : Nat) - (k.conv.padTop : Int)
    let xc : Int := (w + k.centre) * k.conv.strideW + st.2 - k.conv.padLeft
    if y < 0 ∨ (k.m : Int) ≤ y ∨ xc < 0 ∨ (k.conv.width : Int) ≤ xc then
      (pure ⟨List.replicate cn none, []⟩ : Except Nat Reg)
    else
      let base := (y.toNat * k.conv.width + xc.toNat) * k.k + o.group q * k.cinG + c0
      s.loadReg (o.feedReach) k.fmtA d none 0 (span base cn)
  regs.map fun l => l.foldl Reg.append Reg.empty

/-- The row register of a stall for a tile's window; none for a masked stall (R129). -/
def State.stallReg (s : State) (o : Kop) (q : FeedPos) (rank stall : Nat) : Except Nat (Option Reg) :=
  match o.rowAt q.block rank stall with
  | none => .ok none
  | some row => do
    let on ← s.unmasked o row
    if !on then pure none
    else if o.k.isConv then
      match o.outAt q.block rank stall with
      | none => pure none
      | some hw => (s.convReg o q hw.1 hw.2).map some
    else
      let (d0, dn) := o.k.windowSpan (o.window q)
      (s.loadReg (o.feedReach) o.k.fmtA o.a none 0 (span (row * o.a.pitch o.k.k o.k.rowsC + d0) dn)).map some

/-- One past the last unmasked stall of a rank (R101). -/
def lastOn (rows : List (Option Reg)) : Nat := (rows.reverse.dropWhile (·.isNone)).length

/-- The halo registers of a rank for K.CONV: HL0-HL7 before logical stall 0, HR0-HR7 after the last unmasked stall (R101, R118). -/
def State.halos (s : State) (o : Kop) (q : FeedPos) (rank last : Nat) : Except Nat (List Reg × List Reg) :=
  if !o.k.isConv || last == 0 then .ok ([], [])
  else match o.outAt q.block rank 0 with
    | none => .ok ([], [])
    | some hw => do
      let low ← (List.range 8).mapM fun (i : Nat) => s.convReg o q hw.1 ((hw.2 : Int) + i - 8)
      let high ← (List.range 8).mapM fun (i : Nat) => s.convReg o q hw.1 ((hw.2 : Int) + last + i)
      pure (low, high)

/-- A masked stall whose place an unmasked stall reads through some shift of the record's taps (R118, R129). -/
def KernelRec.reachedBy (k : KernelRec) (rows : List (Option Reg)) (i : Nat) : Bool :=
  (rows.getD i none).isNone && (List.range k.conv.fw).any fun tx =>
    let j : Int := i - k.shift tx
    decide (0 ≤ j) && (rows.getD j.toNat none).isSome

/-- True input for the masked stalls before the last unmasked one that shifts read (R118, R129; log 115). -/
def State.innerRegs (s : State) (o : Kop) (q : FeedPos) (rank : Nat) (rows : List (Option Reg)) : Except Nat (List (Nat × Reg)) :=
  if !o.k.isConv then .ok []
  else match o.outAt q.block rank 0 with
    | none => .ok []
    | some hw => ((List.range (lastOn rows)).filter (o.k.reachedBy rows)).mapM fun (i : Nat) =>
      (s.convReg o q hw.1 ((hw.2 : Int) + i)).map fun r => (i, r)

/-- Element by element sums of registers with weights by stall (R132). -/
def sumRows (weight : Nat → Nat) (rows : List (Nat × List Ext)) : List Dy :=
  let add (acc : List Dy) (row : List Dy) : List Dy :=
    (List.range (max acc.length row.length)).map fun i => Dyn.add (acc.getD i Dyn.zero) (row.getD i Dyn.zero)
  rows.foldl (fun acc (ri : Nat × List Ext) => add acc (ri.2.map fun v => Dyn.mul ⟨weight ri.1, 0⟩ (Extn.dy v))) []

/-- The values of the unmasked stalls with their numbers. -/
def valsOn (fmt : Nat) (rows : List (Option Reg)) : List (Nat × List Ext) :=
  rows.zipIdx.filterMap fun (ri : Option Reg × Nat) => ri.1.map fun r => (ri.2, r.vals fmt)

/-- S1 and S2 over the unmasked stalls; for L2SQ S1 and the sum of squares (R132, R138). -/
def rowSums (l2 : Bool) (vals : List (Nat × List Ext)) : List Dy × List Dy :=
  (sumRows (fun _ => 1) vals,
    if l2 then sumRows (fun _ => 1) (vals.map fun iv => (iv.1, iv.2.map fun v => Extn.ofDy (Dyn.mul (Extn.dy v) (Extn.dy v))))
    else sumRows (· + 1) vals)

/-- Load a bank of a rank (R112, R132). -/
def State.loadBank (s : State) (o : Kop) (q : FeedPos) (rank : Nat) : Except Nat Bank := do
  let rows ← (List.range 128).mapM (s.stallReg o q rank)
  let h ← s.halos o q rank (lastOn rows)
  let inner ← s.innerRegs o q rank rows
  let sums := rowSums (o.k.metric == 1) (valsOn o.k.fmtA rows)
  pure ⟨some (o.key q), h.1, rows, inner, h.2, sums.1, sums.2⟩

def Rank.bank (useB : Bool) (r : Rank) : Bank := if useB then r.bankB else r.bankA
def Rank.setBank (useB : Bool) (b : Bank) (r : Rank) : Rank := if useB then { r with bankB := b } else { r with bankA := b }

/-- A bank of every rank holds a window. -/
def Stable.holds (x : Stable) (key : Nat × Nat × Nat) (b : Bool) : Bool := x.ranks.all fun r => (r.bank b).holds == some key

/-- Load the idle bank of every rank (R112). -/
def State.fillIdle (s : State) (o : Kop) (q : FeedPos) : Except Nat State := do
  let bs ← (List.range 4).mapM (s.loadBank o q)
  pure (s.modStable o.stable fun x => { x with
    ranks := (x.ranks.zip bs).map fun (rb : Rank × Bank) => rb.1.setBank (!x.useB) rb.2 })

/-- A tile's first feed needs its window: the bank that holds it is taken; it is loaded where none does (R72, R112). -/
def State.needRows (s : State) (o : Kop) (q : FeedPos) : Except Nat State :=
  let x := s.stable o.stable
  let flip (s : State) : State := s.modStable o.stable fun x => { x with useB := !x.useB }
  if x.holds (o.key q) x.useB then .ok s
  else if x.holds (o.key q) (!x.useB) then .ok (flip s)
  else (s.fillIdle o q).map flip

/-- While a window runs the next one is loaded into the idle bank, at the first feed of a tile (R112; log 103). -/
def State.loadAhead (s : State) (o : Kop) (q : FeedPos) : Except Nat State :=
  let x := s.stable o.stable
  let n := o.nextWindow q
  if n.done || x.holds (o.key n) false || x.holds (o.key n) true then .ok s else s.fillIdle o n

/-! ### Feeds and terms (R98, R101, R116, R120, R130) -/

/-- The part of a row and of a column that one event pairs. -/
structure Slice where
  shift : Int
  row0 : Nat
  col0 : Nat
  len : Nat
  deriving DecidableEq, Repr, Inhabited

/-- The slice of an event of a tile; none where the stack has not the tap's phase (R116, R119). -/
def Kop.slice (o : Kop) (q : FeedPos) : Option Slice :=
  let k := o.k
  let w := o.window q
  let (d0, dn) := k.windowSpan w
  let dep := depthOf k.fmtA
  let sl := ceilDiv dn dep
  if k.isConv then
    let sc := q.event % sl
    let tx := q.event / sl % k.conv.fw
    let si := q.event / sl / k.conv.fw
    let st := k.stacks.getD si (0, 0)
    if k.phaseOf tx ≠ st.2 then none
    else some ⟨k.shift tx, si * dn + sc * dep, (st.1 * k.conv.fw + tx) * k.cinG + d0 + sc * dep, min dep (dn - sc * dep)⟩
  else some ⟨0, q.event * dep, d0 + q.event * dep, min dep (dn - q.event * dep)⟩

/-- The feed operand of an event (R98). -/
def State.feedOperand (s : State) (o : Kop) (q : FeedPos) : Except Nat (List Ext) :=
  match o.slice q with
  | none => .ok []
  | some sl => s.loadVals (o.feedReach) o.k.fmtB o.b (span (o.column q * o.b.pitch o.k.depth o.k.n + sl.col0) sl.len)

/-- The register that a stall reads through the shift path (R101, R118, R129). -/
def Bank.shifted (b : Bank) (stall : Nat) (shift : Int) : Reg :=
  let last := lastOn b.rows
  let i : Int := stall + shift
  if i < 0 then b.low.getD (i + 8).toNat Reg.empty
  else if last ≤ i.toNat then b.high.getD (i.toNat - last) Reg.empty
  else match b.rows.getD i.toNat none with
    | some r => r
    | none => ((b.inner.find? fun e => e.1 == i.toNat).map (·.2)).getD Reg.empty

/-- One term of a metric (R120, R198). -/
def metricTerm (metric : Nat) (a b : Ext) : Ext :=
  if metric = 1 then Long.sqDiff a b else if metric = 2 then Long.absDiff a b else Long.product a b

/-- An event's terms enter an accumulator (R199, R211); the flags that they raise. -/
def Accum.take (a : Accum) (ts : List Ext) : Accum × Nat :=
  match a with
  | .exact v =>
    let r := ts.foldl (fun (r : AccF) t => Long.take r (Long.term t)) ⟨v, 0⟩
    (.exact r.acc, r.flags)
  | .bf v =>
    let r := Bf.event v ts
    (.bf r.1, r.2)

/-- The stalls of four ranks in order: 128 per rank. -/
def allStalls : List (Nat × Nat) := (List.range 4).flatMap fun r => (List.range 128).map fun i => (r, i)

/-- The terms of a stall in an event; none for a masked stall (R98, R129). -/
def Kop.terms (o : Kop) (b : Bank) (sl : Slice) (feed : List Ext) (stall : Nat) : Option (List Ext) :=
  (b.rows.getD stall none).map fun _ =>
    (((((b.shifted stall sl.shift).vals o.k.fmtA).drop sl.row0).take sl.len).zip feed).map fun ab => metricTerm o.k.metric ab.1 ab.2

/-! ### What the checksum stall predicts (R132, R137, R138) -/

/-- A dyadic number in units of 2^-64. -/
def toUnits (d : Dy) : Int := Dyn.shiftFloor d.m (d.e + 64)

/-- What an underrange term gains by its rounding (R199): the sums that predict take it too, for they must equal sums of rounded terms (R201, R208; log 116). -/
def Long.gain : Ext → Dy
  | .fin d => if Dyn.le ⟨1, 46⟩ (Dyn.abs d) then Dyn.zero else Dyn.sub ⟨(Long.roundTerm d).1, -64⟩ d
  | _ => Dyn.zero

def sumDy (l : List Dy) : Dy := l.foldl Dyn.add Dyn.zero

/-- The sums S1 and S2 of the operands that the unmasked stalls read in an event: those stored, or for a shift those of the shifted operands (R132). -/
def Kop.sumsAt (o : Kop) (b : Bank) (shift : Int) : List Dy × List Dy :=
  if shift = 0 then (b.sum1, b.sum2)
  else rowSums false ((b.rows.zipIdx.filter (·.1.isSome)).map fun (ri : Option Reg × Nat) => (ri.2, (b.shifted ri.2 shift).vals o.k.fmtA))

/-- One position of the sum of distances: Q - 2 S1 f + N f² over N unmasked stalls (R138). -/
def l2Term (n : Nat) (s1 q : Dy) (f : Ext) : Ext :=
  if Extn.isFinite f then
    let d := Extn.dy f
    Extn.ofDy (Dyn.add (Dyn.sub q (Dyn.mul ⟨2, 0⟩ (Dyn.mul s1 d))) (Dyn.mul ⟨n, 0⟩ (Dyn.mul d d)))
  else .nan

/-- What the checksum stall of a rank takes in an event: S1·f and S2·f, or the distances of L2SQ (R132, R138). -/
def Kop.predict (o : Kop) (b : Bank) (sl : Slice) (feed : List Ext) (terms : List (Option (List Ext))) : Predict :=
  let cut (l : List Dy) : List Dy := (l.drop sl.row0).take sl.len
  let s12 := o.sumsAt b sl.shift
  let n := (terms.filter (·.isSome)).length
  let line1 : List Ext :=
    if o.k.metric = 1 then ((cut s12.1).zip ((cut s12.2).zip feed)).map fun p => l2Term n p.1 p.2.1 p.2.2
    else ((cut s12.1).zip feed).map fun p => Long.product (Extn.ofDy p.1) p.2
  let line2 : List Ext :=
    if o.k.metric = 1 then [] else ((cut s12.2).zip feed).map fun p => Long.product (Extn.ofDy p.1) p.2
  let gains (w : Nat → Nat) : Dy := sumDy (terms.zipIdx.map fun (ti : Option (List Ext) × Nat) =>
    Dyn.mul ⟨w ti.2, 0⟩ (sumDy ((ti.1.getD []).map Long.gain)))
  if o.exact then
    ⟨toUnits (Dyn.add (sumDy (line1.map Extn.dy)) (gains fun _ => 1)),
      toUnits (Dyn.add (sumDy (line2.map Extn.dy)) (gains (· + 1))), []⟩
  else ⟨0, 0, line1⟩

/-- A rank's part of a list with 128 entries per rank. -/
def ofRank {α : Type} (l : List α) (rank : Nat) : List α := (l.drop (128 * rank)).take 128

/-! ### Partials and preloads (R107, R109, R200) -/

/-- Device address of a stall's partial for a column of the chunk (R109): where in the partial area an entry lies is the model's choice, ((rank * 128 + stall) * Nc + column) * 16 (log 45). -/
def Kop.partialAt (o : Kop) (rank stall col : Nat) : Nat :=
  rowStoreBase o.stable + o.k.partialOff + ((rank * 128 + stall) * o.k.nc + col) * 16

def Accum.zero (exact : Bool) : Accum := if exact then .exact Long.zero else .bf ⟨0, 0⟩

/-- The 16 bytes of a spill (R109, R211). -/
def Accum.bytes : Accum → List Byte
  | .exact a => leBytes 16 (Long.toBits a)
  | .bf b => leBytes 16 (Bf.toBits b)

/-- The preload of a stall, with its flags (R109, R200). -/
def State.preloadOf (s : State) (o : Kop) (q : FeedPos) (rank stall : Nat) : Except Nat (Accum × Nat) :=
  if 0 < q.window then do
    let bs ← s.readDevs (span (o.partialAt rank stall q.col) 16)
    if o.exact then
      let r := Long.preload (leVal bs)
      pure (.exact r.acc, r.flags)
    else pure (.bf (Bf.ofBits (leVal bs)), 0)
  else match o.desc? o.k.preDesc, o.rowAt q.block rank stall with
    | some d, some row => do
      let v ← s.loadBits (o.feedReach) 0x20 d (row * d.pitch o.k.n o.k.rowsC + o.column q)
      match v with
      | none => pure (Accum.zero o.exact, 0)
      | some b =>
        let r := Long.preload b
        pure (.exact r.acc, r.flags)
    | _, _ => .ok (Accum.zero o.exact, 0)

/-- Weighted sum of finite accumulators in units of 2^-64, by stall of a rank (R133). -/
def sumAccs (w : Nat → Nat) (vs : List (Option Accum)) : Int :=
  (vs.zipIdx.map fun (v : Option Accum × Nat) => match v.1 with
    | some (.exact (.fin a)) => (w v.2 : Int) * a
    | _ => 0).sum

/-- The exact sum of BF16 accumulators of a rank (R133, R137). -/
def sumBf (vs : List (Option Accum)) : Ext :=
  vs.foldl (fun e v => match v with
    | some (.bf b) => Bf.sum2 e (Bf.value b)
    | _ => e) (.zero false)

/-- A value as a compensated pair (R137, R211; log 117). -/
def Bf.ofValue (v : Ext) : BfAcc :=
  let s := Bf.round32 v
  let rest := if Extn.isFinite (Fp.val32 s.v) then Bf.sum2 v (Extn.neg (Fp.val32 s.v)) else .zero false
  ⟨s.v, (Bf.round32 rest).v⟩

/-- P1 and P2 start from the same sums over the preload values, or from zero (R133). -/
def Rank.preload (exact : Bool) (pre : List (Option Accum)) (r : Rank) : Rank :=
  if exact then { r with p1 := sumAccs (fun _ => 1) pre, p2 := sumAccs (· + 1) pre } else { r with pb := Bf.ofValue (sumBf pre) }

/-- P1 and P2 take an event (R132, R137). -/
def Rank.predicted (exact : Bool) (p : Predict) (r : Rank) : Rank :=
  if exact then { r with p1 := r.p1 + p.inc1, p2 := r.p2 + p.inc2 }
  else if p.prods.isEmpty then r
  else { r with pb := (Bf.event r.pb p.prods).1 }

/-- What a stall's accumulator becomes in an event: the preload at a tile's first feed, then the event's terms; a masked stall's does not change (R106, R129). With the value before the terms, and the flags. -/
def State.stallUpdate (s : State) (o : Kop) (st : Stage) (ri : Nat × Nat) : Except Nat (Accum × Option Accum × Nat) :=
  let acc := (s.stable o.stable).accs.getD (ri.1 * 128 + ri.2) (Accum.zero o.exact)
  match st.terms.getD (ri.1 * 128 + ri.2) none with
  | none => .ok (acc, none, 0)
  | some ts => do
    let pre ← if st.first then s.preloadOf o st.pos ri.1 ri.2 else pure (acc, 0)
    let r := if ts.isEmpty then (pre.1, 0) else pre.1.take ts
    pure (r.1, some pre.1, flagOr pre.2 r.2)

/-- The update stage (R106): the accumulators of the unmasked stalls and the checksum stalls take the event. -/
def State.update (s : State) (o : Kop) (st : Stage) : Except Nat State := do
  let rs ← allStalls.mapM (s.stallUpdate o st)
  let fl := flagsAll (rs.map (·.2.2))
  let pre := rs.map (·.2.1)
  pure ((s.modStable o.stable fun x => { x with
      accs := rs.map (·.1)
      ranks := x.ranks.zipIdx.map fun (r : Rank × Nat) =>
        ((if st.first then r.1.preload o.exact (ofRank pre r.2) else r.1).predicted o.exact (st.preds.getD r.2 ⟨0, 0, []⟩)) }).modRun
    o.stable fun r => { r with kflags := flagOr r.kflags fl })

/-- Bits of an accumulator flip. -/
def Accum.flip (mask : Nat) : Accum → Accum
  | .exact a => .exact (Long.ofBits (Long.toBits a ^^^ mask))
  | .bf b => .bf (Bf.ofBits (Bf.toBits b ^^^ mask))

/-- An upset strikes what the ranks hold of the tile that has just been updated (log 37). -/
def Stable.struck (exact : Bool) (st : Stage) (u : Upset) (x : Stable) : Stable :=
  match u with
  | .none => x
  | .cell _ _ => x
  | .stall r i m =>
    if i < 128 ∧ (st.terms.getD (r * 128 + i) none).isSome then { x with accs := x.accs.modify (r * 128 + i) (Accum.flip m) } else x
  | .sums r d1 d2 => { x with ranks := x.ranks.modify r fun k =>
      if exact then { k with p1 := k.p1 + d1, p2 := k.p2 + d2 } else { k with pb := Bf.ofBits (Bf.toBits k.pb ^^^ d1.natAbs) } }

/-! ### Checks (R132-R140) -/

def Accum.isState : Accum → Bool
  | .exact a => Long.isState a
  | .bf _ => false

/-- The operation has a checksum: K.MM, K.CONV, K.DIST but for L1 (R132, R139). -/
def KernelRec.checksummed (k : KernelRec) : Bool := (k.kop == 1 || k.kop == 2 || k.kop == 3) && k.metric != 2
/-- Duplicate execution (R139). -/
def KernelRec.duplicated (k : KernelRec) : Bool := k.check && !k.checksummed

/-- What a comparison of a rank finds (R134, R140). -/
inductive RankCheck where
  | pass
  | skip
  | located (stall : Nat)
  | unlocated
  deriving DecidableEq, Repr, Inhabited

/-- C1 = P1 and C2 = P2, else the stall that the differences point at, if it is unmasked (R133, R134). For L2SQ only C1 is predicted, and no failure is located (R138). -/
def compareExact (l2 : Bool) (r : Rank) (vals : List (Option Accum)) : RankCheck :=
  let d1 := sumAccs (fun _ => 1) vals - r.p1
  let d2 := if l2 then 0 else sumAccs (· + 1) vals - r.p2
  if d1 = 0 ∧ d2 = 0 then .pass
  else if l2 then .unlocated
  else match (List.range 128).find? fun (i : Nat) => d1 != 0 && d2 == ((i : Int) + 1) * d1 && (vals.getD i none).isSome with
    | some i => .located i
    | none => .unlocated

/-- |C1 - P1| <= 2^-18 * (sum of |value|) + 2^-126 (R137). A rank in which a value or P1 is not finite is not compared (log 117). -/
def compareBf (r : Rank) (vals : List (Option Accum)) : RankCheck :=
  let vs := vals.filterMap fun v => match v with
    | some (.bf b) => some (Bf.value b)
    | _ => none
  let p := Bf.value r.pb
  if !(p :: vs).all Extn.isFinite then .skip
  else
    let off := Dyn.abs (Dyn.sub (sumDy (vs.map Extn.dy)) (Extn.dy p))
    let bound := Dyn.add (Dyn.scale (sumDy (vs.map fun v => Dyn.abs (Extn.dy v))) (-18)) ⟨1, -126⟩
    if Dyn.le off bound then .pass else .unlocated

/-- The comparison of a rank at a tile's drain: none for a gated rank, skipped where an unmasked stall holds a state code (R128, R134, R137, R138, R140, R206). -/
def Kop.verdict (o : Kop) (r : Rank) (vals : List (Option Accum)) : RankCheck :=
  if vals.all (·.isNone) then .pass
  else if vals.any fun v => (v.map Accum.isState).getD false then .skip
  else if o.exact then compareExact (o.k.metric == 1) r vals
  else compareBf r vals

/-- A diagnostic counter of 48 bits goes up (R143); past its largest value it begins again at 0, which is the model's choice (log 118). -/
def bumpDiag (x : Stable) (i n : Nat) : Stable := { x with diag := x.diag.modify i fun c => (c + n) % 2 ^ 48 }

/-- A failing rank: counters and the suspect mark (R135, R142, R143). -/
def Stable.failedRank (x : Stable) (rank : Nat) : RankCheck → Stable
  | .located i =>
    let x := bumpDiag x 1 1
    if x.suspects.contains (rank, i) then x else { x with suspects := x.suspects ++ [(rank, i)] }
  | .unlocated => bumpDiag x 2 1
  | _ => x

/-- What duplicate execution makes of one more completed run (R139): it runs again, its result stands, or the unit has failed twice; `differs` where the run matches no earlier one. -/
structure DupVerdict where
  again : Bool
  stands : Bool
  differs : Bool
  deriving DecidableEq, Repr, Inhabited

def dupVerdict {α : Type} [DecidableEq α] (runs : List α) (r : α) : DupVerdict :=
  if runs.contains r then ⟨false, true, false⟩ else ⟨decide (runs.length < 2), false, !runs.isEmpty⟩

/-- A discarded tile is fed again from its preload: its feeds and those that followed it leave the pipeline (R135). -/
def Stable.refeed (x : Stable) (q : FeedPos) : Stable :=
  { x with
    pos := { q with event := 0 }
    pipe := x.pipe.zipIdx.map fun (st : Option Stage × Nat) => if st.2 ≤ 4 then none else st.1 }

/-! ### Drains (R107, R108, R204, R214, R220, R225) -/

/-- The exact value of an accumulator, for comparison (R121, R211). -/
def Accum.value : Accum → Ext
  | .exact a => Long.value a
  | .bf b => Bf.value b

def Extn.scaled (v : Ext) (k : Int) : Ext :=
  match v with
  | .fin d => .fin (Dyn.scale d k)
  | x => x

/-- One value drained to a format that is neither MX nor accumulated (R107, R204). -/
def Kop.drainOne (o : Kop) (a : Accum) : Fp.Coded :=
  match a with
  | .exact v =>
    if o.k.fmtC = 0x20 then ⟨Long.toBits v, 0⟩
    else Long.drainTo ((elemFmt? o.k.fmtC).getD fmtFP32) v o.scale
  | .bf b => Fp.encode ((elemFmt? o.k.fmtC).getD fmtFP32) .rne (Fp.ofExt (Extn.scaled (Bf.value b) o.scale))

/-- One value as it enters an MX block (R204, R214). -/
def Kop.drainMx (o : Kop) (a : Accum) : BlockVal × Nat :=
  match a with
  | .exact v => Long.drainBlock v o.scale
  | .bf b =>
    match Extn.scaled (Bf.value b) o.scale with
    | .fin d => (.num (Fxn.ofDy d), 0)
    | .zero n => (.zero n, 0)
    | _ => (.special, 0)

/-- What enters the sum of an accumulate drain (R220). -/
def Kop.drainTerm (o : Kop) (a : Accum) : Ext × Nat :=
  match a with
  | .exact v =>
    match v with
    | .nan => (.nan, 0)
    | .inf n => (.inf n, 0)
    | .sat true false => (.fin (Fp.largest fmtFP32), flagSAT)
    | .sat false true => (.fin (Dyn.neg (Fp.largest fmtFP32)), flagSAT)
    | .sat _ _ => (.nan, flagINV)
    | .fin i => (Extn.ofDy ⟨i, o.scale - 64⟩, 0)
  | .bf b => (Extn.scaled (Bf.value b) o.scale, 0)

/-- The micro-batch number in keys: of the pass in a training step, else of the record (R217, R332; log 40). -/
def Kop.micro (o : Kop) : Nat := if o.x.parcel.kind = 0 ∨ o.x.parcel.kind = 2 then o.x.tr.micro else o.k.micro

/-- The step number in keys (R216, R364, R484). -/
def Ctx.keyStep (x : Ctx) : Nat := if x.parcel.kind = 1 then x.sv.step else x.counter

/-- The random word of an accumulate drain (R217). -/
def Kop.srWord (o : Kop) (row col : Nat) : Nat :=
  let key := randKey o.x.parcel.jobSeed (BitVec.ofNat 64 o.x.keyStep) o.x.parcel.role domDrain
    (BitVec.ofNat 64 o.k.srTag) (BitVec.ofNat 64 o.micro)
  (randWord key (row * o.k.n + col)).toNat % 2 ^ 32

/-- C_new of an accumulate drain (R220). -/
def Kop.accumulated (o : Kop) (old : Nat) (a : Accum) (row col : Nat) : Fp.Coded :=
  let c := Fp.decode fmtFP32 old
  let t := o.drainTerm a
  let sum := Bf.sum2 c t.1
  match sum with
  | .nan => ⟨Fp.nanCode fmtFP32, flagOr t.2 flagINV⟩
  | .inf n => ⟨Fp.infCode fmtFP32 n, t.2⟩
  | .zero n => ⟨Fp.signBit fmtFP32 n, t.2⟩
  | .fin d =>
    let r := roundSr32 d (o.srWord row col)
    ⟨r.v.toNat, flagOr t.2 r.flags⟩

/-- |v| rounded to FP32 with RU; the largest finite where that is infinite (R225). -/
def amaxOf (v : Ext) : W32 :=
  let r := Fp.toNarrow .ru (Fp.ofExt (Extn.abs v))
  if Extn.isFinite (Fp.val32 r.v) then r.v else BitVec.ofNat 32 (Fp.maxCode fmtFP32)

/-- The finite value that enters a class's amax: before the class's own exponent (R225). A saturated accumulator enters as 0, which is the model's choice (log 147). -/
def Kop.amaxTerm (o : Kop) (a : Accum) : W32 :=
  match a with
  | .exact (.fin i) => amaxOf (Extn.ofDy ⟨i, o.scaleAB - 64⟩)
  | .exact _ => 0
  | .bf b =>
    let v := Extn.scaled (Bf.value b) o.scaleAB
    if Extn.isFinite v then amaxOf v else 0

/-- The larger of two patterns that are not negative. -/
def maxW (a b : W32) : W32 := if a.toNat < b.toNat then b else a

/-- A class's step amax takes one more maximum (R225). -/
def Train.amaxIn (t : Train) (cls : Nat) (v : W32) : Train :=
  let old := ((t.amax.find? (·.1 == cls)).map (·.2)).getD 0
  { t with amax := (cls, maxW old v) :: t.amax.filter (·.1 != cls) }

/-- The amax of drained values goes to the class's step amax, and in a first pass of scale probe to the share (R225, R232). -/
def State.noteAmax (s : State) (o : Kop) (v : W32) : State :=
  if o.drainClass = 0 then s
  else if o.run.probing then s.modRun o.stable fun r => { r with probeAmax := maxW r.probeAmax v }
  else s.modCtx o.run.paddock o.run.ctx fun x => x.modTr (·.amaxIn o.drainClass v)

/-- Bytes that the K.* operation has written, joined to the range before them (R152). -/
def Run.wrote (lo len : Nat) (r : Run) : Run :=
  match r.written with
  | (a, b) :: ws => if b = lo then { r with written := (a, lo + len) :: ws } else { r with written := (lo, lo + len) :: (a, b) :: ws }
  | [] => { r with written := [(lo, lo + len)] }

/-- Write one pattern of the destination; a first pass of scale probe writes nothing (R232). -/
def State.putC (s : State) (o : Kop) (fmt : Nat) (d : Desc) (n bits : Nat) : Except Nat State :=
  if o.run.probing then .ok s
  else do
    let s ← s.storeBits (o.feedReach) fmt d n bits
    match d.place fmt n with
    | none => pure s
    | some (a, bit) => pure (s.modRun o.stable (Run.wrote a (elemBytes fmt bit)))

/-- The drained row segment of one row: values with their columns (R108). -/
def State.drainPlain (s : State) (o : Kop) (row : Nat) : List (Nat × Accum) → Except Nat State
  | [] => .ok s
  | (col, a) :: rest => do
    let d := o.c
    let n := row * d.pitch o.k.n o.k.rowsC + col
    let coded ←
      if o.k.accumulates then do
        let old ← s.loadBits (o.feedReach) 0x01 d n
        pure (o.accumulated (old.getD 0) a row col)
      else pure (o.drainOne a)
    let live := (d.place o.k.fmtC n).isSome
    let s := if live then (s.modRun o.stable fun r => { r with kflags := flagOr r.kflags coded.flags }).noteAmax o (o.amaxTerm a) else s
    let s ← s.putC o o.k.fmtC d n coded.bits
    s.drainPlain o row rest

/-- Write the elements of a block in turn. -/
def State.putElems (s : State) (o : Kop) (d : Desc) : List (Nat × Nat) → Except Nat State
  | [] => .ok s
  | (n, e) :: rest => do
    let s ← s.putC o o.k.fmtC d n e
    s.putElems o d rest

/-- One MX block: 32 positions from `first` on, none for padding (R108, R214). -/
def State.drainMxRun (s : State) (o : Kop) (first : Nat) (vals : List (Option Accum)) : Except Nat State :=
  let d := o.c
  let ins := vals.zipIdx.map fun (v : Option Accum × Nat) =>
    if (d.place o.k.fmtC (first + v.2)).isNone then (BlockVal.zero false, 0, (0 : W32))
    else match v.1 with
      | some a => let w := o.drainMx a; (w.1, w.2, o.amaxTerm a)
      | none => (BlockVal.zero false, 0, 0)
  let blk := mxConvert o.k.fmtC .rne (ins.map (·.1))
  let fl := flagOr blk.flags (flagsAll (ins.map (·.2.1)))
  let any := (List.range 32).any fun i => (d.place o.k.fmtC (first + i)).isSome
  if !any then .ok s
  else do
    let s := (s.modRun o.stable fun r => { r with kflags := flagOr r.kflags fl }).noteAmax o ((ins.map (·.2.2)).foldl maxW 0)
    let s ← if o.run.probing then pure s else s.store (o.feedReach) (d.sbase + first / 32) (leBytes 1 blk.scale)
    s.putElems o d (blk.elems.zipIdx.map fun (e : Nat × Nat) => (first + e.2, e.1))

/-- One MX block of 32 columns of a row (R108, R214): columns at and above n are padding. -/
def State.drainMxBlock (s : State) (o : Kop) (row b : Nat) (vals : List (Nat × Accum)) : Except Nat State :=
  s.drainMxRun o (row * o.c.pitch o.k.n o.k.rowsC + 32 * b)
    ((List.range 32).map fun i => (vals.find? (·.1 == 32 * b + i)).map (·.2))

def State.drainMxBlocks (s : State) (o : Kop) (row : Nat) (vals : List (Nat × Accum)) : List Nat → Except Nat State
  | [] => .ok s
  | b :: bs => do
    let s ← s.drainMxBlock o row b vals
    s.drainMxBlocks o row vals bs

/-- MX blocks of a segment that ends before column `last`; at the end of a row its padding blocks too (R108). -/
def Kop.blocksOf (o : Kop) (first last : Nat) : List Nat :=
  let stop := if last = o.k.n then max (ceilDiv last 32) ((((o.c.loops.head?).map (·.count)).getD 32) / 32) else ceilDiv last 32
  (List.range stop).filter fun b => decide (first ≤ 32 * b + 31)

/-- Write every row segment of the drain buffers (R108). -/
def State.flushRows (s : State) (o : Kop) (first last : Nat) : List Nat → Except Nat State
  | [] => .ok s
  | row :: rows => do
    let vals := ((s.stable o.stable).drains.filter (·.row == row)).map fun v => (v.col, v.v)
    let s ← if isMx o.k.fmtC then s.drainMxBlocks o row vals (o.blocksOf first last) else s.drainPlain o row vals
    s.flushRows o first last rows

/-- The block of 64 columns is complete, or the columns end: the segments are written (R108). -/
def State.flushDrains (s : State) (o : Kop) (col : Nat) : Except Nat State := do
  let rows := ((s.stable o.stable).drains.map (·.row)).eraseDups
  let s ← s.flushRows o (col / 64 * 64) (col + 1) rows
  pure (s.modStable o.stable fun x => { x with drains := [] })

/-! ### K.DIST with select (R121) -/

/-- v is better than the best so far. -/
def betterSel (isMax : Bool) (v best : Ext) : Bool :=
  if Extn.isNaN v then false
  else if Extn.isNaN best then true
  else if isMax then Extn.lt best v else Extn.lt v best

/-- Each stall keeps the better value and its column number (R121). -/
def Stable.keepBest (x : Stable) (isMax : Bool) (col : Nat) (vals : List (Option Accum)) : Stable :=
  { x with best := vals.zipIdx.map fun (vi : Option Accum × Nat) =>
      match vi.1, x.best.getD vi.2 none with
      | none, _ => none
      | some v, none => some (v, col)
      | some v, some b => if betterSel isMax v.value b.1.value then some (v, col) else some b }

/-- Positions of a row of an MX destination of K.DIST select: whole runs of its innermost loop (R108; log 33). -/
def Kop.selectRun (o : Kop) : Nat := ((o.c.loops.head?).map (·.count)).getD 32

/-- The rounded value of a row: plain at the row's position, or for MXFP8 at column 0 of the row's run, whose other positions are padding (R108, R121, R204, R214; log 33). The address past it. -/
def State.putBest (s : State) (o : Kop) (row : Nat) (v : Accum) : Except Nat (State × Option Nat) :=
  if isMx o.k.fmtC then do
    let n := o.selectRun
    let s ← (List.range (n / 32)).foldlM (fun (s : State) b =>
      s.drainMxRun o (row * n + 32 * b) ((List.range 32).map fun i => if b = 0 ∧ i = 0 then some v else none)) s
    pure (s, (o.c.place o.k.fmtC (row * n)).map fun a => a.1 + n)
  else
    match o.c.place o.k.fmtC row with
    | none => .ok (s, none)
    | some (a, bit) => do
      let coded := o.drainOne v
      let s := (s.modRun o.stable fun q => { q with kflags := flagOr q.kflags coded.flags }).noteAmax o (o.amaxTerm v)
      let s ← s.putC o o.k.fmtC o.c row coded.bits
      pure (s, some (a + elemBytes o.k.fmtC bit))

/-- Each row's one value and 32-bit column index (R121; log 33). -/
def State.writeBest (s : State) (o : Kop) (block : Nat) : List (Nat × Nat) → Except Nat State
  | [] => .ok s
  | (r, i) :: rest => do
    let s ← match (s.stable o.stable).best.getD (r * 128 + i) none, o.rowAt block r i with
      | some (v, col), some row => do
        let r ← s.putBest o row v
        match r.2 with
        | none => pure r.1
        | some a =>
          if o.run.probing then pure r.1
          else do
            let s ← r.1.store (o.feedReach) a (leBytes 4 col)
            pure (s.modRun o.stable (Run.wrote a 4))
      | _, _ => pure s
    s.writeBest o block rest

/-! ### One event of K.MM, K.CONV and K.DIST (R72, R98, R106) -/

/-- The accumulators of a tile's unmasked stalls (R129, R133). -/
def Stable.tileVals (x : Stable) (exact : Bool) (st : Stage) : List (Option Accum) :=
  st.terms.zipIdx.map fun (t : Option (List Ext) × Nat) => t.1.map fun _ => x.accs.getD t.2 (Accum.zero exact)

/-- One more run of a unit has completed: whether its result stands; a unit that has failed twice stops its kernel (R136, R139). A run that matches no earlier one counts as a mismatch, the third too (R143; log 118). -/
def Stable.dupRun (x : Stable) (r : UnitRun) : Stable × Bool :=
  let v := dupVerdict x.runs r
  let y := if v.differs then bumpDiag x 5 1 else x
  if v.stands then ({ y with runs := [] }, true)
  else if v.again then ({ (if v.differs then bumpDiag y 3 1 else y) with runs := x.runs ++ [r] }, false)
  else ({ y with runs := [], stopped := true }, false)

/-- The check of a tile in the event in which its accumulators would move (R106, R133-R140): whether it passes. A tile that fails is fed again; one that has failed twice stops its kernel (R135, R136). A tile that is fed again counts as checked again, and a skipped comparison counts for each rank (R143; log 118). -/
def Stable.checkTile (o : Kop) (st : Stage) (x : Stable) : Stable × Bool :=
  let vals := x.tileVals o.exact st
  if o.k.duplicated then
    let r := x.dupRun (.tile vals)
    (if r.2 then r.1 else r.1.refeed st.pos, r.2)
  else if !o.k.checksummed then (x, true)
  else
    let vs := x.ranks.zipIdx.map fun (r : Rank × Nat) => (r.2, o.verdict r.1 (ofRank vals r.2))
    let skipped := (vs.filter (·.2 == .skip)).length
    let x := bumpDiag (bumpDiag x 0 1) 4 skipped
    if vs.all fun v => v.2 == .pass || v.2 == .skip then ({ x with failed := 0 }, true)
    else
      let y := (vs.foldl (fun (x : Stable) v => x.failedRank v.1 v.2) x).refeed st.pos
      if x.failed = 0 then ({ bumpDiag y 3 1 with failed := 1 }, false) else ({ y with failed := 0, stopped := true }, false)

/-- Spill every unmasked stall's accumulator (R109). -/
def State.spill (s : State) (o : Kop) (q : FeedPos) (vals : List (Option Accum)) : List (Nat × Nat) → Except Nat State
  | [] => .ok s
  | (r, i) :: rest => do
    let s ← match vals.getD (r * 128 + i) none with
      | some a => s.writeDevs (span (o.partialAt r i q.col) 16) a.bytes
      | none => pure s
    s.spill o q vals rest

/-- Stage 4: the check; a tile that passes moves to the drain registers or spills, and its accumulators are empty (R106, R109, R144). -/
def State.moveStage (s : State) (o : Kop) : Except Nat State :=
  match ((s.stable o.stable).pipe.getD 4 none) with
  | none => .ok s
  | some st =>
    if !st.last then .ok s
    else
      let vals := (s.stable o.stable).tileVals o.exact st
      let r := (s.stable o.stable).checkTile o st
      let s := s.modStable o.stable fun _ => r.1
      if !r.2 then .ok s
      else do
        let s ← if o.spills st.pos then s.spill o st.pos vals allStalls else pure s
        pure (s.modStable o.stable fun x => { x with
          accs := x.accs.zipIdx.map fun (a : Accum × Nat) => if (vals.getD a.2 none).isSome then Accum.zero o.exact else a.1
          pipe := x.pipe.set 4 (some { st with moved := some vals }) })

/-- Stage 3: the update, and what an upset makes of it. -/
def State.updateStage (s : State) (o : Kop) (u : Upset) : Except Nat State :=
  match (s.stable o.stable).pipe.getD 3 none with
  | none => .ok s
  | some st => (s.update o st).map fun s => s.modStable o.stable (Stable.struck o.exact st u)

/-- The drain buffer takes a tile's values: one entry for each unmasked stall (R108). -/
def Kop.drained (o : Kop) (q : FeedPos) (vals : List (Option Accum)) : List Drained :=
  allStalls.filterMap fun ri =>
    match vals.getD (ri.1 * 128 + ri.2) none, o.rowAt q.block ri.1 ri.2 with
    | some v, some row => some ⟨row, o.column q, v⟩
    | _, _ => none

/-- Stage 6: values enter the drain buffer, or the select compares them; complete segments are written (R106, R108, R121). -/
def State.drainStage (s : State) (o : Kop) : Except Nat State :=
  match (s.stable o.stable).pipe.getD 6 none with
  | none => .ok s
  | some st =>
    match st.moved with
    | none => .ok s
    | some vals =>
      if o.spills st.pos then .ok s
      else
        let col := o.column st.pos
        let isEnd := decide (col + 1 = o.k.n)
        if o.k.select ≠ 0 then do
          let s := s.modStable o.stable fun x => x.keepBest (o.k.select == 2) col vals
          if isEnd then
            let s ← s.writeBest o st.pos.block allStalls
            pure (s.modStable o.stable fun x => { x with best := [] })
          else pure s
        else do
          let s := s.modStable o.stable fun x => { x with drains := x.drains ++ o.drained st.pos vals }
          if isEnd || col % 64 == 63 then s.flushDrains o col else pure s

/-- The feed controller starts no tile while a pre-emption waits for it (R144). -/
def State.holdsTile (s : State) (o : Kop) : Bool := s.preempts o.run.paddock o.run.ctx && (s.stable o.stable).betweenTiles

/-- Broadcast one feed and shift the pipeline (R98, R106). -/
def State.broadcast (s : State) (o : Kop) : Except Nat State :=
  let x := s.stable o.stable
  let shiftIn (st : Option Stage) (x : Stable) : Stable :=
    { x with pipe := (st :: (x.pipe ++ List.replicate 7 none)).take 7 }
  if x.pos.done || s.holdsTile o then .ok (s.modStable o.stable (shiftIn none))
  else do
    let q := x.pos
    let s ← if q.event = 0 then (do
      let s ← s.needRows o q
      s.loadAhead o q) else pure s
    let f ← s.feedOperand o q
    let x := s.stable o.stable
    let banks := x.ranks.map (Rank.bank x.useB)
    let ts := banks.flatMap fun b => (List.range 128).map fun i => match o.slice q with
      | some sl => o.terms b sl f i
      | none => (b.rows.getD i none).map fun _ => []
    let ps := banks.zipIdx.map fun (b : Bank × Nat) => match o.slice q with
      | some sl => if o.k.checksummed then o.predict b.1 sl f (ofRank ts b.2) else ⟨0, 0, []⟩
      | none => ⟨0, 0, []⟩
    let st : Stage := ⟨q, ts, ps, q.event == 0, q.event + 1 == o.tileLen q, none⟩
    pure (s.modStable o.stable fun x => { (shiftIn (some st) x) with pos := o.next q })

/-- The share's K.* operation has ended. -/
def State.endK (s : State) (n : Nat) : State :=
  (s.modStable n fun x => { x with best := [], topk := [], pipe := [], drains := [], held := [] }).modRun n fun r => { r with kdone := true }

/-- One event of a tiled operation. -/
def State.tileEvent (s : State) (o : Kop) (u : Upset) : Except Nat State := do
  let s ← s.broadcast o
  let s ← s.drainStage o
  let s ← s.moveStage o
  let s ← s.updateStage o u
  let x := s.stable o.stable
  if x.pos.done && x.drained then pure (s.endK o.stable) else pure s

/-! ### K.TOPK (R122-R124) -/

/-- (v, i) ranks better than (w, j) (R124). -/
def topBetter (asc : Bool) (a b : W32 × Nat) : Bool :=
  let x := Fp.val32 a.1
  let y := Fp.val32 b.1
  if Extn.eqv x y then decide (a.2 < b.2)
  else if asc then Extn.lt x y else Extn.lt y x

/-- Insert into the sorted list, keeping the k best (R123). -/
def topInsert (asc : Bool) (k : Nat) (e : W32 × Nat) (l : List (W32 × Nat)) : List (W32 × Nat) :=
  ((l.takeWhile fun b => !topBetter asc e b) ++ e :: l.dropWhile fun b => !topBetter asc e b).take k

/-- Whether a value passes the threshold (R123). -/
def topPasses (asc : Bool) (k : Nat) (e : W32 × Nat) (best : List (W32 × Nat)) : Bool :=
  if best.length < k then true
  else match best.getLast? with
    | some b => topBetter asc e b
    | none => false

/-- Up to n values are scanned while the queue has room; NaN is never selected and sets INV (R123, R124). -/
def TopRank.scan (asc : Bool) (k : Nat) : List (Option Ext) → TopRank → Nat → TopRank × Nat
  | [], t, f => (t, f)
  | v :: vs, t, f =>
    if 64 ≤ t.queue.length then (t, f)
    else
      let i := t.scanned
      let t := { t with scanned := i + 1 }
      match v with
      | some .nan => TopRank.scan asc k vs t (flagOr f flagINV)
      | some w =>
        let e := ((Fp.toNarrow .rne (Fp.ofExt w)).v, i)
        TopRank.scan asc k vs (if topPasses asc k e t.best then { t with queue := t.queue ++ [e] } else t) f
      | none => TopRank.scan asc k vs t f

/-- Two queued entries are inserted in each event (R123). -/
def TopRank.insert (asc : Bool) (k : Nat) (t : TopRank) : TopRank :=
  { t with queue := t.queue.drop 2, best := (t.queue.take 2).foldl (fun l e => topInsert asc k e l) t.best }

/-- The entries that a row writes: short rows end in NaN with index 0xFFFFFFFF (R124). -/
def TopRank.entries (k : Nat) (t : TopRank) : List (Nat × Nat) :=
  (t.best.map fun e => (e.1.toNat, e.2)) ++ List.replicate (k - t.best.length) (0x7FC00000, 0xFFFFFFFF)

/-- Rows of a round of K.TOPK (R123, R128): local numbers. -/
def Kop.topRows (o : Kop) (round : Nat) : List Nat :=
  (span (4 * round) 4).filter fun r => decide (r < o.run.count) && decide (o.run.first + r < o.k.m)

/-- A round starts with empty lists. -/
def Kop.topStart (o : Kop) (round : Nat) : List TopRank := (o.topRows round).map fun r => ⟨o.run.first + r, 0, [], [], [], false⟩

/-- A rank whose row has been scanned and whose last survivors are inserted takes its check: without duplicate execution the list stands; with it the row is one unit (R123, R139). Whether the row differs from an earlier run, runs again, and has failed twice. -/
def TopRank.settle (o : Kop) (t : TopRank) : TopRank × DupVerdict :=
  if t.stands || !(decide (o.k.k ≤ t.scanned) && t.queue.isEmpty) then (t, ⟨false, true, false⟩)
  else if !o.k.duplicated then ({ t with stands := true }, ⟨false, true, false⟩)
  else
    let v := dupVerdict t.runs t.best
    if v.stands then ({ t with stands := true, runs := [] }, v)
    else if v.again then ({ t with scanned := 0, queue := [], best := [], runs := t.runs ++ [t.best] }, v)
    else ({ t with runs := [] }, v)

/-- An upset strikes an entry of a rank's best list (log 37). -/
def topStruck (u : Upset) (ts : List TopRank) : List TopRank :=
  match u with
  | .stall r i m => ts.modify r fun t => { t with best := t.best.modify i fun e => (e.1 ^^^ BitVec.ofNat 32 m, e.2) }
  | _ => ts

/-- One scan and insertion event of every rank (R123). -/
def State.topScan (s : State) (o : Kop) : List TopRank → Except Nat (List TopRank × Nat)
  | [] => .ok ([], 0)
  | t :: ts => do
    if t.stands then
      let rest ← s.topScan o ts
      return (t :: rest.1, rest.2)
    let k := o.k.n
    let t := t.insert o.k.asc k
    let n := min (if o.k.fmtA = 0x01 then 32 else 64) (o.k.k - t.scanned)
    let vs ← s.loadVals (o.feedReach) o.k.fmtA o.a (span (t.row * o.a.pitch o.k.k o.k.m + t.scanned) n)
    let r := TopRank.scan o.k.asc k (vs.map some) t 0
    let rest ← s.topScan o ts
    pure (r.1 :: rest.1, flagOr r.2 rest.2)

/-- Write entries of 8 bytes at positions of the destination (R122). -/
def State.putEntries (s : State) (o : Kop) : List (Nat × Nat × Nat) → Except Nat State
  | [] => .ok s
  | (n, v, i) :: rest => do
    let s ← match o.c.place 0x01 n with
      | none => pure s
      | some (a, _) => do
        let s ← s.store (o.feedReach) a (leBytes 4 v ++ leBytes 4 i)
        pure (s.modRun o.stable (Run.wrote a 8))
    s.putEntries o rest

/-- Every rank's list stands. -/
def topDone (ts : List TopRank) : Bool := ts.all (·.stands)

/-- The entries of a round in order, with their positions. -/
def Kop.topWrites (o : Kop) (ts : List TopRank) : List (Nat × Nat × Nat) :=
  ts.flatMap fun t => (t.entries o.k.n).zipIdx.map fun (e : (Nat × Nat) × Nat) =>
    (t.row * o.c.pitch o.k.n o.k.m + e.2, e.1.1, e.1.2)

/-- Counters and the stop that the checks of a round lead to (R136, R139, R143). -/
def Stable.topChecked (vs : List DupVerdict) (x : Stable) : Stable :=
  let y := bumpDiag (bumpDiag x 5 (vs.filter (·.differs)).length) 3 (vs.filter fun v => v.differs && v.again).length
  if vs.any fun v => !v.stands && !v.again then { y with stopped := true } else y

/-- One event of K.TOPK: scan and insert, then write the lists at 512 bytes per event, then the next round (R123). -/
def State.topEvent (s : State) (o : Kop) (u : Upset) : Except Nat State :=
  let x := s.stable o.stable
  let q := x.pos
  let ts := if x.topk.isEmpty then o.topStart q.block else x.topk
  if !topDone ts then do
    let r ← s.topScan o ts
    let w := (topStruck u r.1).map (TopRank.settle o)
    pure ((s.modStable o.stable fun x => { (x.topChecked (w.map (·.2))) with topk := w.map (·.1) }).modRun o.stable
      fun z => { z with kflags := flagOr z.kflags r.2 })
  else
    do
      let ws := o.topWrites ts
      let s ← s.putEntries o ((ws.drop (64 * q.event)).take 64)
      if ws.length ≤ 64 * (q.event + 1) then
        if o.run.count ≤ 4 * (q.block + 1) then pure (s.endK o.stable)
        else pure (s.modStable o.stable fun x => { x with
          topk := o.topStart (q.block + 1), pos := { q with block := q.block + 1, event := 0 } })
      else pure (s.modStable o.stable fun x => { x with topk := ts, pos := { q with event := q.event + 1 } })

/-! ### K.COMPACT and K.EXPAND (R125-R127) -/

/-- Positions of the row-holding side that one item takes: a row, or one element (R125; log 47). -/
def Kop.itemLen (o : Kop) : Nat := if o.k.esize = 0 then (((if o.k.kop = 5 then o.a else o.c).loops.head?).map (·.count)).getD 1 else 1

/-- Elements of the descriptors that are moved: of esize bytes, or of fmt_a (log 47). -/
def KernelRec.itemFmt (k : KernelRec) : Nat :=
  match k.esize with
  | 0 => if fmtKnown k.fmtA then k.fmtA else 0x08
  | 1 => 0x08
  | 2 => 0x02
  | _ => 0x22

def Kop.moveFmt (o : Kop) : Nat := o.k.itemFmt

/-- Items of this stable's share: first and number. -/
def Kop.items (o : Kop) : Nat × Nat :=
  let per := if o.k.esize = 0 then 1 else (((if o.k.kop = 5 then o.a else o.c).loops.head?).map (·.count)).getD 1
  (o.run.first * per, o.run.count * per)

/-- One element of a moved item: written at once, or held until its run's check under duplicate execution (R139). -/
def State.putItem (s : State) (o : Kop) (dst v : Nat) : Except Nat State :=
  if o.k.duplicated then .ok (s.modStable o.stable fun x => { x with held := (dst, v) :: x.held })
  else s.putC o o.moveFmt o.c dst v

/-- Copy one item, element by element. -/
def State.copyItem (s : State) (o : Kop) (src dst : Nat) : Nat → Except Nat State
  | 0 => .ok s
  | n + 1 => do
    let v ← s.loadBits (o.feedReach) o.moveFmt o.a src
    let s ← s.putItem o dst (v.getD 0)
    s.copyItem o (src + 1) (dst + 1) n

/-- Fill one item with zero (R126). -/
def State.zeroItem (s : State) (o : Kop) (dst : Nat) : Nat → Except Nat State
  | 0 => .ok s
  | n + 1 => do
    let s ← s.putItem o dst 0
    s.zeroItem o (dst + 1) n

/-- Write what a run of K.COMPACT or K.EXPAND held. -/
def State.putHeld (s : State) (o : Kop) : List (Nat × Nat) → Except Nat State
  | [] => .ok s
  | (dst, v) :: rest => do
    let s ← s.putC o o.moveFmt o.c dst v
    s.putHeld o rest

/-- An upset strikes an item that is held (log 37): held is newest first. -/
def Stable.heldStruck (u : Upset) (x : Stable) : Stable :=
  match u with
  | .stall r i m => { x with held := (x.held.reverse.modify (r * 128 + i) fun e => (e.1, e.2 ^^^ m)).reverse }
  | _ => x

/-- One event moves up to 512 bytes and scans up to 4,096 mask bits (R127); in a record that is divided over stables the dense items of a share begin at the place of the share's first row, so that shares leave gaps between them, which is the model's choice (R125, R343; log 123): `pos.col` counts the items scanned, `pos.chunk` the active ones. -/
def State.moveItems (s : State) (o : Kop) : Nat → Nat → Except Nat State
  | 0, _ => .ok s
  | bits + 1, bytes => do
    let q := (s.stable o.stable).pos
    let (first, count) := o.items
    if count ≤ q.col then pure s
    else
      let i := first + q.col
      let len := o.itemLen
      let cost := len * (fmtBits o.moveFmt) / 8
      let m ← s.loadBits (o.feedReach) 0x23 o.b i
      let act := m.getD 0 != 0
      if act && decide (bytes < cost) && decide (bytes < 512) then pure s
      else do
        let dense := (first + q.chunk) * len
        let s ← if act then (if o.k.kop = 5 then s.copyItem o (i * len) dense len else s.copyItem o dense (i * len) len)
                else if o.k.kop = 6 && o.k.zeroFill then s.zeroItem o (i * len) len
                else pure s
        let s := s.modStable o.stable fun x => { x with pos := { q with col := q.col + 1, chunk := if act then q.chunk + 1 else q.chunk } }
        s.moveItems o bits (if act then bytes - cost else bytes)

/-- The present run of K.COMPACT or K.EXPAND ends: whether its result stands (R139). -/
def Stable.moveRun (o : Kop) (active : Nat) (x : Stable) : Stable × Bool :=
  if !o.k.duplicated then (x, true)
  else
    let r := x.dupRun (.moves x.held.reverse active)
    (if r.2 then r.1 else { r.1 with held := [], pos := FeedPos.start }, r.2)

/-- One event of K.COMPACT or K.EXPAND; at the end the count is SK, and K.COMPACT writes it (R125, R179). -/
def State.moveEvent (s : State) (o : Kop) (u : Upset) : Except Nat State := do
  let s ← s.moveItems o 4096 512
  let s := s.modStable o.stable (Stable.heldStruck u)
  let q := (s.stable o.stable).pos
  if q.col < o.items.2 then pure s
  else
    let d := (s.stable o.stable).moveRun o q.chunk
    let s := s.modStable o.stable fun _ => d.1
    if !d.2 then pure s
    else do
      let s ← s.putHeld o d.1.held.reverse
      let s ← if o.k.kop = 5 then s.writeDevs (span (rowStoreBase o.stable + o.k.partialOff) 4) (leBytes 4 q.chunk) else pure s
      pure ((s.endK o.stable).modRun o.stable fun r => { r with sk := q.chunk })

/-! ### One event of a stable -/

/-- One event of the K.* operation that a stable runs (R72, R98). -/
def State.kEvent (s : State) (o : Kop) (u : Upset) : Except Nat State :=
  match o.k.kop with
  | 4 => s.topEvent o u
  | 5 => s.moveEvent o u
  | 6 => s.moveEvent o u
  | _ => s.tileEvent o u

/-- A pre-emption waits for the stable, and the stable is at its point: it takes no event (R144). -/
def State.rests (s : State) (o : Kop) : Bool :=
  o.k.tiled && s.holdsTile o && (s.stable o.stable).atPoint && !(s.stable o.stable).pos.done

/-- The K.* operation of a stable can take an event: begun, not ended, not stopped, its ranks up, not at the point of a pre-emption (R72, R82, R136, R144). -/
def State.canFeed (s : State) (o : Kop) : Bool :=
  let x := s.stable o.stable
  o.run.begun && !o.run.kdone && !o.run.probed && !x.stopped && x.copying.isNone && x.active == 4 && !s.rests o

/-- One event, or the halt that a memory error makes (R262, R263, R305, R309). -/
def State.feed (s : State) (o : Kop) (u : Upset) : State :=
  match s.kEvent o u with
  | .ok s => s.modStable o.stable fun x => { x with events := x.events + 1, watch := 0, warned := false }
  | .error e => s.haltJob o.run.paddock o.run.ctx e

end Sys2Proof.Machine
end

