-- ==== Sys2Proof/Machine/Groom.lean ====
section
/-!
DEFINITION. The groom of a stable (R147-R182): instruction words, operands, results
and flags, loads and stores through descriptors and pigeonhole ports, loops, and the
meaning of every G.* instruction. A command G_X issues the next instruction of the
program that the stable runs, where that instruction is G.X; an instruction that
waits keeps its element position (R182) and goes on when the command comes again.
-/

namespace Sys2Proof.Machine

/-! ### Instruction words (R155, R156) -/

namespace GW
def op (w : Nat) : Nat := bitsOf w 63 56
def cnt (w : Nat) : Nat := bitsOf w 55 44 + 1
def wd (w : Nat) : Bool := bitOf w 43
def w1 (w : Nat) : Bool := bitOf w 42
def w2 (w : Nat) : Bool := bitOf w 41
def w3 (w : Nat) : Bool := bitOf w 40
def dst (w : Nat) : Nat := bitsOf w 39 37
def s1 (w : Nat) : Nat := bitsOf w 36 34
def b1 (w : Nat) : Nat := bitsOf w 33 32
def s2 (w : Nat) : Nat := bitsOf w 31 29
def b2 (w : Nat) : Nat := bitsOf w 28 27
def s3 (w : Nat) : Nat := bitsOf w 26 24
def b3 (w : Nat) : Nat := bitsOf w 23 22
def rnd (w : Nat) : Rnd := rndOf (bitsOf w 21 20)
def cond (w : Nat) : Nat := bitsOf w 19 17
/-- NCOL: 0 means 64. -/
def ncol (w : Nat) : Nat := if bitsOf w 5 0 = 0 then 64 else bitsOf w 5 0
def desc (w : Nat) : Nat := bitsOf w 21 18
def fmt (w : Nat) : Nat := bitsOf w 17 10
def follow (w : Nat) : Bool := bitOf w 9
def memRnd (w : Nat) : Rnd := rndOf (bitsOf w 1 0)
def stream (w : Nat) : Nat := bitsOf w 15 0
def kind (w : Nat) : Nat := bitsOf w 21 18
def sreg (w : Nat) : Nat := bitsOf w 17 16
def src (w : Nat) : Nat := bitsOf w 15 14
def fmask (w : Nat) : Nat := bitsOf w 5 0
def value (w : Nat) : W32 := BitVec.ofNat 32 (bitsOf w 31 0)
def iter (w : Nat) : Nat := bitsOf w 55 40 + 1
def len (w : Nat) : Nat := bitsOf w 39 34
end GW

/-! ### Tile registers and wide pairs (R147, R148, R157, R158) -/

/-- Element i of a tile register; past the list's end it holds +0. -/
def Groom.elemAt (g : Groom) (reg i : Nat) : W32 := (g.tiles.getD reg []).getD i 0

/-- A register with element i replaced. -/
def setElem : List W32 → Nat → W32 → List W32
  | [], 0, v => [v]
  | [], n + 1, v => 0 :: setElem [] n v
  | _ :: l, 0, v => v :: l
  | a :: l, n + 1, v => a :: setElem l n v

def Groom.putElem (g : Groom) (reg i : Nat) (v : W32) : Groom :=
  { g with tiles := g.tiles.modify reg fun t => setElem t i v }

/-- Write an element of a narrow register, or of a pair: hi then lo (R148). -/
def Groom.putPair (g : Groom) (wide : Bool) (reg i : Nat) (v : Fp.Pair) : Groom :=
  if wide then (g.putElem reg i v.hi).putElem (reg + 1) i v.lo else g.putElem reg i v.hi

/-- A narrow operand is the pair (value, +0) (R160). -/
def Groom.pairAt (g : Groom) (wide : Bool) (reg i : Nat) : Fp.Pair :=
  ⟨g.elemAt reg i, if wide then g.elemAt (reg + 1) i else 0⟩

def Groom.valAt (g : Groom) (wide : Bool) (reg i : Nat) : Ext :=
  if wide then Fp.valPair (g.pairAt true reg i) else Fp.val32 (g.elemAt reg i)

/-- The source element that a broadcast mode gives to destination element i (R157). -/
def broadcastIx (mode i : Nat) : Nat :=
  match mode with
  | 0 => i
  | 1 => i / 64
  | 2 => i % 64
  | _ => 0

def Groom.src1 (g : Groom) (w i : Nat) : Ext := g.valAt (GW.w1 w) (GW.s1 w) (broadcastIx (GW.b1 w) i)
def Groom.src2 (g : Groom) (w i : Nat) : Ext := g.valAt (GW.w2 w) (GW.s2 w) (broadcastIx (GW.b2 w) i)
def Groom.src3 (g : Groom) (w i : Nat) : Ext := g.valAt (GW.w3 w) (GW.s3 w) (broadcastIx (GW.b3 w) i)

/-- A result as its destination holds it, with its flags: the pair of R163, or one rounding to FP32 (R160). -/
def placed (wide : Bool) (mode : Rnd) (e : ERes) : Fp.WideRes :=
  if wide then let r := Fp.toWide e.r; ⟨r.v, flagOr e.flags r.flags⟩
  else let r := Fp.toNarrow mode e.r; ⟨⟨r.v, 0⟩, flagOr e.flags r.flags⟩

/-- Results go to elements 0, 1, ... of the destination; all sources were read before (R158, R161). -/
def Groom.putAll (g : Groom) (wide : Bool) (reg : Nat) (vs : List Fp.Pair) : Groom :=
  vs.zipIdx.foldl (fun g (vi : Fp.Pair × Nat) => g.putPair wide reg vi.2 vi.1) g

/-- An instruction ends: its flag word, the groom flag word, the next instruction (R171, R176-R178). -/
def loopBack (pc : Nat) : List GLoop → Nat × List GLoop
  | [] => (pc, [])
  | l :: ls =>
    if l.last + 1 ≠ pc then (pc, l :: ls)
    else if 0 < l.left then (l.first, { l with left := l.left - 1 } :: ls)
    else loopBack pc ls

def Groom.ends (g : Groom) (flags : Nat) : Groom :=
  let r := loopBack (g.pc + 1) g.loops
  { g with flags := flagOr g.flags flags, last := flags, pc := r.1, loops := r.2, elem := 0, partFlags := 0 }

/-- An element-wise instruction (R158-R165). -/
def Groom.elementwise (f : Groom → Nat → Nat → ERes) (mode : Rnd) (w : Nat) (g : Groom) : Groom :=
  let wide := GW.wd w
  let rs := (List.range (GW.cnt w)).map fun i => placed wide mode (f g w i)
  (g.putAll wide (GW.dst w) (rs.map (·.v))).ends (flagsAll (rs.map (·.flags)))

def un (f : Ext → ERes) (g : Groom) (w i : Nat) : ERes := f (g.src1 w i)
def bin (f : Ext → Ext → ERes) (g : Groom) (w i : Nat) : ERes := f (g.src1 w i) (g.src2 w i)
def tern (f : Ext → Ext → Ext → ERes) (g : Groom) (w i : Nat) : ERes := f (g.src1 w i) (g.src2 w i) (g.src3 w i)

/-- The mode in which an exact zero sum takes its sign: RND for a narrow destination, RNE for a wide one (R160). -/
def addMode (w : Nat) : Rnd := if GW.wd w then .rne else GW.rnd w

/-! ### Reductions (R166) -/

/-- Elements present along a row or a column of the source (R166). -/
def Groom.present (g : Groom) (w r c : Nat) : Option Fp.Pair :=
  let i := 64 * r + c
  if i < GW.cnt w ∧ c < GW.ncol w then some (g.pairAt (GW.w1 w) (GW.s1 w) i) else none

/-- A node of a reduction's tree, with its flags. -/
structure GNode where
  p : Fp.Pair
  f : Nat
  deriving DecidableEq, Repr, Inhabited

def GNode.val (n : GNode) : Ext := Fp.valPair n.p

/-- Combine two children: a pair, or an FP32 value (R163, R166). -/
def combineNode (wide : Bool) (mode : Rnd) (f : Ext → Ext → ERes) (a b : GNode) : GNode :=
  let r := placed wide mode (f a.val b.val)
  ⟨r.v, flagOr a.f (flagOr b.f r.flags)⟩

/-- One result over up to 64 present positions; a lone source is passed on, and reads its NaN (R166, R175); it is narrowed in RNE, which the model reads from R162 (log 145). -/
def reduceTo (wide isSum : Bool) (mode : Rnd) (f : Ext → Ext → ERes) (l : List (Option Fp.Pair)) : Fp.WideRes :=
  let leaf (p : Fp.Pair) : GNode := ⟨p, flagNaNRead [Fp.valPair p]⟩
  match Wide.tree64 (combineNode (wide || !isSum) mode f) (l.map fun o => o.map leaf) with
  | none => ⟨⟨0, 0⟩, 0⟩
  | some n =>
    let r := placed wide .rne (ERes.mk (Fp.ofExt n.val) 0)
    ⟨r.v, flagOr n.f r.flags⟩

/-- A reduction along rows or columns (R166); only a sum rounds as RND selects, and a narrow sum rounds each addition. A maximum or minimum is exact along its tree and is rounded once where it meets a narrow destination (R160, R162). -/
def Groom.reduction (rows isSum : Bool) (f : Rnd → Ext → Ext → ERes) (w : Nat) (g : Groom) : Groom :=
  let wide := GW.wd w
  let mode := if isSum then addMode w else .rne
  let n := if rows then ceilDiv (GW.cnt w) 64 else min (min (GW.cnt w) 64) (GW.ncol w)
  let rs := (List.range n).map fun k =>
    reduceTo wide isSum mode (f mode) ((List.range 64).map fun j => if rows then g.present w k j else g.present w j k)
  (g.putAll wide (GW.dst w) (rs.map (·.v))).ends (flagsAll (rs.map (·.flags)))

/-! ### G.REP and G.SCAL (R171, R178) -/

def Groom.rep (w : Nat) (g : Groom) : Groom :=
  { g with pc := g.pc + 1, loops := ⟨g.pc + 1, g.pc + GW.len w, GW.iter w - 1⟩ :: g.loops, last := 0, elem := 0, partFlags := 0 }

/-- Fold of a summary over pairs: NaN where any element is NaN (R178). -/
def summaryFold (better : Ext → Ext → Bool) (l : List Fp.Pair) : Fp.Pair :=
  if l.any fun p => Extn.isNaN (Fp.valPair p) then ⟨Fp.nan32, 0⟩
  else match l with
    | [] => ⟨0, 0⟩
    | p :: ps => ps.foldl (fun a b => if better (Fp.valPair b) (Fp.valPair a) then b else a) p

/-- A larger value, +0 above -0 (R165). -/
def isMore (a b : Ext) : Bool := Extn.lt b a || (Extn.isZero a && Extn.isZero b && Extn.isNeg b && !Extn.isNeg a)
def isLess (a b : Ext) : Bool := isMore b a

/-- The absolute value of a pair (R163). -/
def absPair (p : Fp.Pair) : Fp.Pair := (Fp.toWide (Fp.ofExt (Extn.abs (Fp.valPair p)))).v

/-- The 64-bit summary of R178; a broadcast mode on S1 is applied, which is the model's choice (log 144). -/
def Groom.summary (g : Groom) (w : Nat) : Nat :=
  let wide := GW.w1 w
  let at_ (i : Nat) : Fp.Pair := g.pairAt wide (GW.s1 w) (broadcastIx (GW.b1 w) i)
  let all := (List.range (GW.cnt w)).map at_
  let pair (p : Fp.Pair) : Nat := p.hi.toNat + (if wide then p.lo.toNat * 2 ^ 32 else 0)
  let count (f : Ext → Bool) : Nat := (all.filter fun p => f (Fp.valPair p)).length
  match GW.kind w with
  | 0 => pair (at_ 0)
  | 1 => pair (summaryFold isMore all)
  | 2 => pair (summaryFold isLess all)
  | 3 => pair (summaryFold isMore (all.map absPair))
  | 4 => count fun v => !Extn.isZero v
  | 5 => count Extn.isNaN
  | 6 => count Extn.isInf
  | _ => bit ((if GW.src w = 1 then g.last else g.flags) &&& GW.fmask w != 0)

/-- G.SCAL raises no flag (R178). -/
def Groom.scal (w : Nat) (g : Groom) : Groom := { g with sums := g.sums.set (GW.sreg w) (g.summary w) }.ends 0

/-! ### Conversions of loads and stores (R168, R213, R313, R314) -/

/-- A loaded value with the flags of its source: a LONG as R207, a NaN that is read as INV. -/
def loadedRes (fmt bits : Nat) (v : Ext) : ERes :=
  if fmt = 0x20 then let r := Long.loadRes bits; ⟨r.1, r.2⟩ else ⟨Fp.ofExt v, flagNaNRead [v]⟩

/-- idx of an entry: an integer below V, else 0 and INV (R313). -/
def storeIdx (v : Ext) (vocab : Nat) : Fp.Coded :=
  match v with
  | .zero _ => ⟨0, 0⟩
  | .fin d =>
    match Dyn.toInt? d with
    | some i => if 0 ≤ i ∧ i < (vocab : Int) then ⟨i.toNat, 0⟩ else ⟨0, flagINV⟩
    | none => ⟨0, flagINV⟩
  | _ => ⟨0, flagINV⟩

/-- nlp of an entry (R313). -/
def storeNlp (v : Ext) : Fp.Coded :=
  match v with
  | .nan => ⟨0x0FFFFFFF, flagINV⟩
  | .inf false => ⟨0x0FFFFFFF, flagINV⟩
  | .inf true => ⟨0x0FFFFFFE, flagSAT⟩
  | .zero _ => ⟨0, 0⟩
  | .fin d =>
    if Dyn.lt ⟨1, -21⟩ d then ⟨0, flagSAT⟩
    else
      let r := Fp.roundInt .rne (Fxn.ofDy (Dyn.scale (Dyn.neg d) 20))
      if 0x0FFFFFFE < r.1 then ⟨0x0FFFFFFE, flagSAT⟩ else ⟨r.1.toNat, flagIf r.2 flagINX⟩

/-- One stored element: INV where a NaN is read (R168, R175, R213, R313). -/
def storedCode (fmt : Nat) (mode : Rnd) (vocab : Nat) (v : Ext) : Fp.Coded :=
  let c : Fp.Coded :=
    match fmt with
    | 0x21 => Fp.encodeInt true mode (Fp.ofExt v)
    | 0x22 => Fp.encodeInt false mode (Fp.ofExt v)
    | 0x23 => ⟨bit (!Extn.isZero v), 0⟩
    | 0x28 => storeIdx v vocab
    | 0x29 => storeNlp v
    | _ => Fp.encode ((elemFmt? fmt).getD fmtFP32) mode (Fp.ofExt v)
  ⟨c.bits, flagOr c.flags (flagNaNRead [v])⟩

/-! ### The program of a share -/

/-- Instruction word at a program position, from the row store (R150, R591). -/
def State.groomWord (s : State) (o : Kop) (pc : Nat) : Except Nat Nat :=
  match s.readDevs (span (rowStoreBase o.stable + o.k.progOff + 8 * pc) 8) with
  | .error e => .error e
  | .ok bs => .ok (leVal bs)

/-- Descriptor Dn of the share: a divided record's outermost loop covers its rows (R343; log 29). -/
def Kop.groomDesc (o : Kop) (n : Nat) : Desc :=
  let d := o.x.parcel.desc (o.k.gdesc.getD n 0xFFFF)
  let divided := match o.x.parcel.recs[o.run.ordinal]? with | some r => r.head.rows != 0 | none => false
  if divided then d.rowsOf o.run.first o.run.count else d

/-- Current position of a descriptor (R168). -/
def Groom.posOf (g : Groom) (n : Nat) : Nat := g.pos.getD n 0
def Groom.advance (g : Groom) (n k : Nat) : Groom :=
  { g with pos := (g.pos ++ List.replicate (n + 1 - g.pos.length) 0).modify n (· + k) }

/-- A position has been released to a FOLLOW read: the K.* operation wrote it, or has ended (R152). A record without a K.* operation must not set FOLLOW, and no refusal is named for one that does: in the model it loads and its reads do not wait, as if its operation had ended (log 121). -/
def Run.released (r : Run) (a len : Nat) : Bool :=
  r.kdone || r.written.any fun w => decide (w.1 ≤ a) && decide (a + len ≤ w.2)

/-- What one element of a memory instruction comes to. -/
inductive Elem1 where
  | done (s : State) (flags : Nat)
  | waits
  | halts (status : Nat)

def State.modGroom (s : State) (n : Nat) (f : Groom → Groom) : State := s.modStable n fun x => { x with groom := f x.groom, watch := 0, warned := false }
def State.groom (s : State) (n : Nat) : Groom := (s.stable n).groom

/-- Place a loaded value in the destination (R160). -/
def State.landElem (s : State) (o : Kop) (w i : Nat) (mode : Rnd) (e : ERes) : Elem1 :=
  let r := placed (GW.wd w) mode e
  .done (s.modGroom o.stable fun g => g.putPair (GW.wd w) (GW.dst w) i r.v) r.flags

/-- Element i of a G.LD (R152, R168, R317). -/
def State.loadElem (s : State) (o : Kop) (w i : Nat) : Elem1 :=
  let d := o.groomDesc (GW.desc w)
  let n := (s.groom o.stable).posOf (GW.desc w) + i
  let fmt := GW.fmt w
  let mode := GW.memRnd w
  match d.place fmt n with
  | none => s.landElem o w i mode ⟨.zero false, 0⟩
  | some (a, bit) =>
    match portAt a with
    | some pa =>
      match s.portRead o.run.paddock o.run.ctx o.run.ordinal pa with
      | .waits => .waits
      | .dropped => .waits
      | .halts e => .halts e
      | .done (bits, s) => s.landElem o w i mode (loadedRes fmt bits (elemValue fmt bits))
    | none =>
      if GW.follow w && !o.run.released a (elemBytes fmt bit) then .waits
      else match s.loadBits o.x fmt d n, s.loadVal o.x fmt d n with
        | .ok bits, .ok v => s.landElem o w i mode (loadedRes fmt (bits.getD 0) v)
        | .error e, _ => .halts e
        | _, .error e => .halts e

/-- Element i of a G.ST outside MX (R168, R313, R317): through a port, as a pair, or converted. -/
def State.storeElem (s : State) (o : Kop) (w i : Nat) : Elem1 :=
  let d := o.groomDesc (GW.desc w)
  let g := s.groom o.stable
  let n := g.posOf (GW.desc w) + i
  let fmt := GW.fmt w
  let mode := GW.memRnd w
  let v := g.src1 w i
  match d.place fmt n with
  | none => .done s 0
  | some (a, _) =>
    match portAt a with
    | some pa =>
      let vocab := match o.x.parcel.pigeonRec? pa.handle with | some r => r.vocab | none => 0
      let c := storedCode fmt mode vocab v
      if o.run.probing then .done s c.flags
      else match s.portWrite o.run.paddock o.run.ctx o.run.rerun pa c.bits with
        | .waits => .waits
        | .dropped => .done s c.flags
        | .halts e => .halts e
        | .done s => .done s c.flags
    | none =>
      if o.run.probing then .done s 0
      else if fmt = 0x01 ∧ GW.w1 w then
        let p := g.pairAt true (GW.s1 w) (broadcastIx (GW.b1 w) i)
        match s.store o.x a (leBytes 4 (Fp.canon32 p.hi).toNat ++ leBytes 4 (Fp.canon32 p.lo).toNat) with
        | .ok s => .done s (flagNaNRead [v])
        | .error e => .halts e
      else
        let c := storedCode fmt mode (2 ^ 20) v
        match s.storeBits o.x fmt d n c.bits with
        | .ok s => .done s c.flags
        | .error e => .halts e

/-- An MX element of a block. -/
def blockVal : Ext → BlockVal
  | .fin d => .num (Fxn.ofDy d)
  | .zero n => .zero n
  | _ => .special

/-- The positions of an MX G.ST that one block holds, from element i on: one block is formed and written as a whole (R168, R214). -/
def State.storeBlock (s : State) (o : Kop) (w i : Nat) : Elem1 × Nat :=
  let d := o.groomDesc (GW.desc w)
  let g := s.groom o.stable
  let fmt := GW.fmt w
  let n := g.posOf (GW.desc w) + i
  let k := min (32 - n % 32) (GW.cnt w - i)
  let vs := (List.range k).map fun j => ((d.place fmt (n + j)).isSome, g.src1 w (i + j))
  let blk := mxConvert fmt (GW.memRnd w) (vs.map fun v => if v.1 then blockVal v.2 else .zero false)
  let live := vs.any (·.1)
  let fl := flagOr blk.flags (flagNaNRead ((vs.filter (·.1)).map (·.2)))
  if o.run.probing || !live then (.done s (if live then fl else 0), k)
  else
    let r : Except Nat State := do
      let s ← blk.elems.zipIdx.foldlM (fun s (e : Nat × Nat) => s.storeBits o.x fmt d (n + e.2) e.1) s
      s.store o.x (d.sbase + n / 32) (leBytes 1 blk.scale)
    match r with
    | .ok s => (.done s fl, k)
    | .error e => (.halts e, k)

/-- An index operand: an integer from 0 to the first loop's count minus 1 (R169). -/
def indexOf (v : Ext) (count : Nat) : Option Nat :=
  match v with
  | .zero _ => if 0 < count then some 0 else none
  | .fin d => match Dyn.toInt? d with
    | some i => if 0 ≤ i ∧ i < (count : Int) then some i.toNat else none
    | none => none
  | _ => none

def Desc.first (d : Desc) : Nat := ((d.loops.head?).map (·.count)).getD 1

/-- Walk position that element i of a gather or scatter names: row i div 64 from the current row (R169). -/
def gatherPos (d : Desc) (pos i x : Nat) : Nat := pos + i / 64 * d.first + x

/-- Element i of a G.GATH (R169). -/
def State.gatherElem (s : State) (o : Kop) (w i : Nat) : Elem1 :=
  let d := o.groomDesc (GW.desc w)
  let g := s.groom o.stable
  let fmt := GW.fmt w
  match indexOf (g.src1 w i) d.first with
  | none => s.landElem o w i .rne ⟨.nan, flagINV⟩
  | some x =>
    let n := gatherPos d (g.posOf (GW.desc w)) i x
    match s.loadBits o.x fmt d n, s.loadVal o.x fmt d n with
    | .ok none, _ => s.landElem o w i .rne ⟨.zero false, 0⟩
    | .ok (some bits), .ok v => s.landElem o w i .rne (loadedRes fmt bits v)
    | .error e, _ => .halts e
    | _, .error e => .halts e

/-- One scattered MX element under the stored scale of its block; a clamp sets SAT (R169). Under a scale of 0xFF a finite element is +0 with INV, which is the model's choice (log 143). -/
def scatterMx (fmt scale : Nat) (v : Ext) : Fp.Coded :=
  let f := (elemFmt? fmt).getD fmtE4M3
  match v with
  | .fin d =>
    if scale = 255 then ⟨0, flagINV⟩
    else
      let c := Fp.encodeNum f .rne (Fxn.ofDy (Dyn.scale d (127 - (scale : Int))))
      ⟨c.bits, c.flags⟩
  | x => Fp.encode f .rne (Fp.ofExt x)

/-- Element i of a G.SCAT (R169); a higher element is written last. That a wide S1 gives one FP32 element, and that a NaN beside an index that is not allowed sets INV, is the model's choice (log 143). -/
def State.scatterElem (s : State) (o : Kop) (w i : Nat) : Elem1 :=
  let d := o.groomDesc (GW.desc w)
  let g := s.groom o.stable
  let fmt := GW.fmt w
  let v := g.src1 w i
  let x := g.src2 w i
  match indexOf x d.first with
  | none => .done s (flagNaNRead [v, x])
  | some k =>
    let n := gatherPos d (g.posOf (GW.desc w)) i k
    match d.place fmt n with
    | none => .done s 0
    | some _ =>
      let coded : Except Nat Fp.Coded :=
        if isMx fmt then do
          let sc ← s.loadScale o.x fmt d n
          let c := scatterMx fmt sc v
          pure ⟨c.bits, flagOr c.flags (flagNaNRead [v])⟩
        else pure (storedCode fmt .rne (2 ^ 20) v)
      match coded with
      | .error e => .halts e
      | .ok c =>
        if o.run.probing then .done s c.flags
        else match s.storeBits o.x fmt d n c.bits with
          | .ok s => .done s c.flags
          | .error e => .halts e

/-! ### Memory instructions in turn (R168, R169, R182) -/

/-- Elements are carried out in turn from the saved element position; a wait keeps it, an error halts the job (R182). `step` answers an element and how many it covers. -/
def State.walkElems (s : State) (o : Kop) (w rows : Nat) (step : State → Nat → Elem1 × Nat) : Nat → State
  | 0 => s
  | n + 1 =>
    let g := s.groom o.stable
    if GW.cnt w ≤ g.elem then s.modGroom o.stable fun g => (g.advance (GW.desc w) rows).ends g.partFlags
    else match step s g.elem with
      | (.waits, _) => s
      | (.halts e, _) => s.haltJob o.run.paddock o.run.ctx e
      | (.done s f, k) =>
        (s.modGroom o.stable fun g => { g with elem := g.elem + max 1 k, partFlags := flagOr g.partFlags f }).walkElems o w rows step n

def State.gLoad (s : State) (o : Kop) (w : Nat) : State :=
  s.walkElems o w (GW.cnt w) (fun s i => (s.loadElem o w i, 1)) (GW.cnt w + 1)

def State.gStore (s : State) (o : Kop) (w : Nat) : State :=
  if isMx (GW.fmt w) then s.walkElems o w (GW.cnt w) (fun s i => s.storeBlock o w i) (GW.cnt w + 1)
  else s.walkElems o w (GW.cnt w) (fun s i => (s.storeElem o w i, 1)) (GW.cnt w + 1)

/-- Positions by which a gather or scatter advances: whole rows (R169). -/
def gatherRows (o : Kop) (w : Nat) : Nat := ceilDiv (GW.cnt w) 64 * (o.groomDesc (GW.desc w)).first

def State.gGather (s : State) (o : Kop) (w : Nat) : State :=
  s.walkElems o w (gatherRows o w) (fun s i => (s.gatherElem o w i, 1)) (GW.cnt w + 1)

def State.gScatter (s : State) (o : Kop) (w : Nat) : State :=
  s.walkElems o w (gatherRows o w) (fun s i => (s.scatterElem o w i, 1)) (GW.cnt w + 1)

/-! ### G.RAND (R170, R217, R492) -/

/-- k * 2^-24 in FP32, exact (R170). -/
def rand32 (word : W64) : W32 := (Fp.toNarrow .rne (Fp.ofFx (Fxn.ofDy ⟨(word.toNat / 2 ^ 40 : Nat), -24⟩))).v

/-- The key and the word index of element i of an issue: of the record, or in a sampling record of the row's stream and position (R217, R492; log 48). -/
def Kop.randElem (o : Kop) (w issue i : Nat) : W32 :=
  let issue := issue % 2 ^ 24
  let sampling := match o.x.parcel.recs[o.run.ordinal]? with | some r => r.head.sampling && o.x.parcel.kind == 1 | none => false
  if sampling then
    let sp := o.x.sv.rows.getD (o.run.first + i / 64) (0, 0)
    rand32 (randWord (randKey (BitVec.ofNat 64 sp.1) (BitVec.ofNat 64 sp.2) 0 domRand (BitVec.ofNat 64 (GW.stream w))
      (BitVec.ofNat 64 issue)) (i % 64))
  else
    rand32 (randWord (randKey o.x.parcel.jobSeed (BitVec.ofNat 64 o.x.keyStep) o.x.parcel.role domRand (BitVec.ofNat 64 (GW.stream w))
      (BitVec.ofNat 64 (o.run.ordinal * 2 ^ 24 + issue))) i)

def Groom.rand (o : Kop) (w : Nat) (g : Groom) : Groom :=
  let vs := (List.range (GW.cnt w)).map fun i => (⟨o.randElem w g.rands i, 0⟩ : Fp.Pair)
  { (g.putAll false (GW.dst w) vs) with rands := g.rands + 1 }.ends 0

/-- G.LDK writes VALUE (R156), a NaN as the canonical one (R188). -/
def Groom.ldk (w : Nat) (g : Groom) : Groom :=
  (g.putAll (GW.wd w) (GW.dst w) (List.replicate (GW.cnt w) ⟨Fp.canon32 (GW.value w), 0⟩)).ends 0

/-! ### Issue -/

/-- The groom of a stable can issue: its share has begun, its program has not ended (R150, R173). -/
def Kop.canIssue (o : Kop) (x : Stable) : Bool :=
  o.run.begun && !o.run.gdone && !o.run.probed && !x.stopped && x.copying.isNone && decide (x.groom.pc < o.k.progLen)

/-- The program has run past its last word (R174). -/
def State.groomEnds (s : State) (o : Kop) : State :=
  if o.k.progLen ≤ (s.groom o.stable).pc then s.modRun o.stable fun r => { r with gdone := true } else s

end Sys2Proof.Machine
end

