-- ==== Sys2Proof/Machine/Issue.lean ====
section
/-!
DEFINITION. Issue of records: the order of R331 and R524, the division of rows over
stables (R343), shares of a stable and their ends (R149, R179, R591), scale probe
(R228, R232), feed and ramp commands (R72, R81, R82), replacement at a kernel
boundary and at once (R43, R49, R136, R141, R691), parity (R181) and branches
(R592).
-/

namespace Sys2Proof.Machine

/-! ### The records that run now (R331, R362, R594) -/

/-- Records that are issued to units or evaluated; the others are declarations. -/
def RecBody.isRun : RecBody → Bool
  | .kernel _ => true
  | .branch _ => true
  | .mv _ => true
  | .attn _ => true
  | .acomb _ => true
  | .copy _ => true
  | .fill _ => true
  | .turnout _ => true
  | .xferSend _ _ _ => true
  | .xferRecv _ _ _ _ => true
  | _ => false

def RecBody.isPhase : RecBody → Bool
  | .phase _ _ _ => true
  | _ => false

def RecBody.isStepBegin : RecBody → Bool
  | .stepBegin _ => true
  | _ => false

def RecBody.isStepEnd : RecBody → Bool
  | .stepEnd => true
  | _ => false

def RecBody.isServing : RecBody → Bool
  | .serving _ => true
  | _ => false

/-- Ordinal of the first record at or after i with a property; the number of records where there is none. -/
def Parcel.seek (x : Parcel) (i : Nat) (f : RecBody → Bool) : Nat :=
  match (x.recs.zipIdx.drop i).find? fun r => f r.1.body with
  | some r => r.2
  | none => x.recs.length

/-- Ordinal of the PHASE record of a phase: 1 GENERATE, 2 SCORE, 3 LEARN (R362, R590). -/
def Parcel.phaseRec (x : Parcel) (gen : Nat) : Nat :=
  x.seek 0 fun b => match b with | .phase ph _ _ => ph + 1 == gen | _ => false

/-- The turnout records that a phase runs first (R362): first and count. -/
def Parcel.phasePre (x : Parcel) (gen : Nat) : Nat × Nat :=
  match (x.recs[x.phaseRec gen]?).map Rec.body with
  | some (.phase _ first count) => (first, count)
  | _ => (0, 0)

/-- First ordinal and end of the records that the context runs now (R594). -/
def Ctx.segment (x : Ctx) : Nat × Nat :=
  let p := x.parcel
  let stop := p.recs.length
  if p.kind = 1 then (p.seek 0 RecBody.isServing + 1, stop)
  else if p.kind = 3 then (p.seek 0 RecBody.isRun, stop)
  else if p.kind = 2 ∧ (x.tr.gen = 1 ∨ x.tr.gen = 2) then
    let i := p.phaseRec x.tr.gen + 1
    (i, p.seek i fun b => b.isPhase || b.isStepBegin)
  else
    let i := p.seek 0 RecBody.isStepBegin + 1
    (i, p.seek i RecBody.isStepEnd)

/-- The context issues records: in RUN, in a phase, or in LOAD to BACKWARD. -/
def Ctx.issues (x : Ctx) : Bool :=
  match x.parcel.kind with
  | 1 => x.sv.phase == 17
  | 3 => x.inStep
  | 2 => (x.tr.phase == 0 && (x.tr.gen == 1 || x.tr.gen == 2)) || decide (1 ≤ x.tr.phase ∧ x.tr.phase ≤ 4)
  | _ => decide (1 ≤ x.tr.phase ∧ x.tr.phase ≤ 4)

def Ctx.cursor (x : Ctx) : Nat := if x.parcel.kind = 1 then x.sv.cur else x.tr.cur
def Ctx.setCursor (i : Nat) (x : Ctx) : Ctx :=
  if x.parcel.kind = 1 then x.modSv fun v => { v with cur := i } else x.modTr fun t => { t with cur := i }

/-- Tag of a record in a step template: its own, or that of the nearest tagged record before it (R331). -/
def Parcel.tagAt (x : Parcel) (lo i : Nat) : Nat :=
  (((x.recs.take (i + 1)).drop lo).map fun r => r.head.tag).foldl (fun t u => if u = 0 then t else u) 1

/-- A turnout record that brings a variant's weights in (R512). -/
def Rec.isLoad (r : Rec) : Bool := r.head.tag == 1 && (match r.body with | .turnout _ => true | _ => false)

/-- A record of the present pass (R331); every record where the context's body has no tags, but the LOAD records of a variant that is swapped (R512; log 65). -/
def Ctx.inPass (x : Ctx) (lo i : Nat) : Bool :=
  if x.parcel.kind = 1 then
    match x.parcel.servingRec, x.parcel.recs[i]? with
    | some v, some r => !(v.swap && r.isLoad)
    | _, _ => true
  else x.tr.phase == 0 || x.parcel.kind == 3 || x.parcel.tagAt lo i == x.tr.phase

/-- A turnout record that the phase ran before it started (R362). -/
def Ctx.ranBefore (x : Ctx) (i : Nat) : Bool :=
  x.parcel.kind == 2 && x.tr.gen != 0 &&
    decide ((x.parcel.phasePre x.tr.gen).1 ≤ i ∧ i < (x.parcel.phasePre x.tr.gen).1 + (x.parcel.phasePre x.tr.gen).2)

/-- The next record to issue, with its ordinal (R524); none where the pass has issued all. -/
def Ctx.next? (x : Ctx) : Option (Nat × Rec) :=
  if !x.issues || !x.tr.pre.isEmpty || x.flights.any (fun f => x.ranBefore f.ordinal) then none
  else
    let (lo, hi) := x.segment
    let i0 := max lo x.cursor
    (((x.parcel.recs.zipIdx.take hi).drop i0).find? fun r => r.1.body.isRun && x.inPass lo r.2 && !x.ranBefore r.2).map fun r =>
      (r.2, r.1)

/-- Every record of the pass has ended. -/
def Ctx.passOver (x : Ctx) : Bool := x.issues && x.tr.pre.isEmpty && x.next?.isNone && x.flights.isEmpty

/-! ### Ranges that a record reads and writes (R153, R271, R524) -/

/-- Half-open ranges of paddock addresses. -/
abbrev Spans := List (Nat × Nat)

def Spans.meet (a b : Spans) : Bool := a.any fun u => b.any fun v => decide (u.1 < v.2) && decide (v.1 < u.2)

/-- Count of the innermost loop. -/
def Desc.firstCount (d : Desc) : Nat := match d.loops with | [] => 1 | l :: _ => l.count

/-- What the positions of a descriptor reach, with the scale bytes of an MX format; port addresses reach no memory (R153, R317). -/
def Desc.spans (d : Desc) (fmt extra : Nat) : Spans :=
  let data := if packedFmt fmt then
      { d with loops := d.loops.drop 1 }.span (ceilDiv (d.firstCount * fmtBits fmt) 8)
    else d.span (elemBytes fmt 0 + extra)
  (data :: (if isMx fmt then [(d.sbase, d.sbase + ceilDiv d.count 32)] else [])).filter fun r => decide (r.1 < portBase)

def Parcel.spansOf (x : Parcel) (n fmt extra : Nat) : Spans := if n = 0xFFFF then [] else (x.desc n).spans fmt extra

/-- Instruction words of a record's program (R150, R591). -/
def Parcel.programBytes (x : Parcel) (k : KernelRec) : List Byte := (x.blob.drop k.progBlob).take (8 * k.progLen)
def Parcel.words (x : Parcel) (k : KernelRec) : List Nat :=
  if k.progBlob = 0xFFFFFFFF then [] else (chunksOf 8 k.progLen (x.programBytes k)).map leVal

/-- Ranges of the program's loads and gathers, or of its stores and scatters; a wide source stored as FP32 takes 8 bytes (R168). -/
def Parcel.groomSpans (x : Parcel) (k : KernelRec) (a b : Nat) : Spans :=
  ((x.words k).filter fun w => GW.op w == a || GW.op w == b).flatMap fun w =>
    x.spansOf (k.gdesc.getD (GW.desc w) 0xFFFF) (GW.fmt w) (if GW.op w = 0x02 ∧ GW.fmt w = 0x01 ∧ GW.w1 w then 4 else 0)

/-- K.COMPACT or K.EXPAND. -/
def KernelRec.isMove (k : KernelRec) : Bool := k.kop == 5 || k.kop == 6

/-- Sources of the K.* operation (R153). -/
def Parcel.kReads (x : Parcel) (k : KernelRec) : Spans :=
  if k.kop = 0 then []
  else if k.isMove then x.spansOf k.aDesc k.itemFmt 0 ++ x.spansOf k.bDesc 0x23 0
  else x.spansOf k.aDesc k.fmtA 0 ++ (if k.kop = 4 then [] else x.spansOf k.bDesc k.fmtB 0 ++ x.spansOf k.preDesc 0x20 0) ++
    x.spansOf k.rowMask 0x23 0

/-- Destination of the K.* operation. -/
def Parcel.kWrites (x : Parcel) (k : KernelRec) : Spans :=
  if k.kop = 0 then []
  else if k.isMove then x.spansOf k.cDesc k.itemFmt 0
  else if k.kop = 4 then x.spansOf k.cDesc 0x01 4
  else x.spansOf k.cDesc k.fmtC (if k.select = 0 then 0 else 4)

/-- Size of a weight item, and of a scale item (R276). -/
def MvRec.itemBytes (r : MvRec) : Nat := ceilDiv (r.k * fmtBits r.fmtW) 2048 * 256
def MvRec.scaleBytes (r : MvRec) : Nat := ceilDiv (ceilDiv r.k 32) 256 * 256

/-- Formats of a turnout job's elements (R294): 4 bits, or bytes. -/
def elemCode (esize : Nat) : Nat :=
  match esize with
  | 0 => 0x07
  | 1 => 0x08
  | 2 => 0x02
  | 4 => 0x22
  | _ => 0x08

/-- A byte code with the further bytes of wider elements. -/
def Parcel.moveSpans (x : Parcel) (n esize : Nat) : Spans :=
  let d := x.desc n
  x.spansOf n (elemCode esize) (if esize = 8 ∨ esize = 16 then esize - 1 else 0) ++
    (if d.mx then [(d.sbase, d.sbase + ceilDiv d.count 32)] else [])

/-- What a record reads (R153, R271, R524). -/
def Parcel.reads (x : Parcel) : RecBody → Spans
  | .kernel k => x.kReads k ++ x.groomSpans k 0x01 0x05
  | .mv r => [(r.wBase, r.wBase + stripedBytes r.n r.itemBytes)] ++
      (if isMx r.fmtW then [(r.sBase, r.sBase + stripedBytes r.n r.scaleBytes)] else []) ++ x.spansOf r.vDesc r.fmtV 0
  | .attn r => [(r.kvList, r.kvList + 8 * r.nblk)] ++ x.spansOf r.qDesc r.fmtQ 0
  | .acomb r => x.spansOf r.partials 0x01 0
  | .copy r => if r.toPen then [(r.base, r.base + r.length)] else x.spansOf r.pen 0x08 0
  | .turnout r => x.moveSpans r.src r.esize
  | .xferSend _ _ src => x.spansOf src 0x08 0
  | _ => []

/-- What a record writes. -/
def Parcel.writes (x : Parcel) : RecBody → Spans
  | .kernel k => x.kWrites k ++ x.groomSpans k 0x02 0x06
  | .mv r => x.spansOf r.cDesc r.fmtC 0
  | .attn r => x.spansOf r.outDesc (if r.final then r.fmtOut else 0x01) 0
  | .acomb r => x.spansOf r.outDesc r.fmtOut 0
  | .copy r => if r.toPen then x.spansOf r.pen 0x08 0 else [(r.base, r.base + r.length)]
  | .fill r => [(r.base, r.base + r.length)]
  | .turnout r => x.moveSpans r.dst r.esize
  | .xferRecv _ _ dst _ => x.spansOf dst 0x08 0
  | _ => []

/-- Bytes of a KV block: K, V, and for MX formats the K and V scales (R279). -/
def AttnRec.blockBytes (r : AttnRec) : Nat := 128 * r.d + (if isMx r.fmtKv then 4 * r.d else 0)

/-- Paddock address of a block: its entry of the list (R280). -/
def State.kvAddr (s : State) (x : Ctx) (r : AttnRec) (b : Nat) : Except Nat Nat :=
  match s.load x (r.kvList + 8 * b) 8 with
  | .error e => .error e
  | .ok bs => .ok (leVal bs)

/-- What a record reads as the paddock's memory stands: an S.ATTN reads the blocks that its list names, too (R271, R280). -/
def State.readsOf (s : State) (x : Ctx) (b : RecBody) : Spans :=
  x.parcel.reads b ++ match b with
    | .attn r => (List.range r.nblk).flatMap fun b => match s.kvAddr x r b with
      | .ok a => (List.range (ceilDiv r.blockBytes 256)).map fun g => (a + 2048 * g, a + 2048 * g + 256)
      | .error _ => []
    | _ => []

/-- A later record must wait for an earlier one (R271, R524). -/
def State.holdsBack (s : State) (x : Ctx) (earlier later : Nat) : Bool :=
  match x.parcel.recs[earlier]?, x.parcel.recs[later]? with
  | some a, some b =>
    (x.parcel.writes a.body).meet (s.readsOf x b.body ++ x.parcel.writes b.body) || (s.readsOf x a.body).meet (x.parcel.writes b.body)
  | _, _ => false

/-- A record may start: entries are free and no record in flight holds it back (R523, R524). -/
def State.canStart (s : State) (p : Nat) (x : Ctx) (i entries : Nat) : Bool :=
  decide ((s.pd p).entriesUsed + entries ≤ 256 * (s.pd p).owned.entries) &&
    x.flights.all fun f => !s.holdsBack x f.ordinal i

/-- A record is in flight: its entries are held, the cursor passes it (R523). -/
def State.launch (s : State) (p c i : Nat) (units : List UnitId) (fin : Bool) : State :=
  s.modPd p fun d =>
    { d.modCtx c (fun x => (x.setCursor (i + 1)).settle (s.now p) |> fun x =>
        { x with flights := x.flights ++ [⟨i, units, [], [], fin, 0, 0, []⟩] }) with
      entriesUsed := d.entriesUsed + units.length, waited := 0 }

/-- Device addresses of a unit lie in what spans of paddock addresses reach, in either bank of a banked tensor (R373, R541). -/
def State.reaches (s : State) (x : Ctx) (es : Spans) (u : Nat) : Bool :=
  x.table.any fun r =>
    let base := if r.kind = 2 then rowStoreBase r.phys + r.dbase else r.dbase
    decide (base < u + codeUnit u ∧ u < base + r.length) &&
      (0 :: x.parcel.layers.map (·.bstride)).any fun b =>
        let a := r.pbase + u - base - b
        es.any fun e => decide (a < e.2 ∧ e.1 < a + codeUnit u) &&
          (span (max a e.1) (min (a + codeUnit u) e.2 - max a e.1)).any fun y => match s.place x false y with
            | .ok d => unitOf d == u
            | .error _ => false

/-- What a record, a job or a letter has read is written back where it was corrected (R260, R305; log 125). -/
def State.hasRead (s : State) (x : Ctx) (es : Spans) : State :=
  if s.flips.isEmpty then s else s.readBack (s.reaches x es)

/-- A context that can issue: resident, RUNNING, and the module runs. -/
def State.active? (s : State) (p c : Nat) : Option Ctx :=
  match s.ctx p c with
  | some x => if s.runs p && x.state == .running then some x else none
  | none => none

/-! ### Passes (R323, R325, R330, R332) -/

/-- A pass of FORWARD begins: every slot FREE, letters from 0 (R323, R332). -/
def Ctx.forward (x : Ctx) (micro now : Nat) : Ctx :=
  { x with
    pigeons := x.parcel.emptyPigeons now
    tr := { x.tr with phase := 2, micro := micro, cur := x.segment.1, forwardAt := now } }

/-! ### Turnout engines (R296, R299, R551) -/

/-- Die of a device address (R25, R34). -/
def dieOfDevice (s : State) (a : Nat) : Nat :=
  match s.whereIs a with
  | .package k _ => if k < 12 then 0 else 1
  | .pen n _ => dieOfPen n
  | .row n _ => dieOfStable n
  | _ => 0

/-- The engine that runs a job (R296). -/
def State.engineOf (s : State) (x : Ctx) (r : TurnRec) : Nat :=
  let at_ (write : Bool) (n : Nat) : Option Nat := match s.place x write (x.parcel.desc n).base with | .ok a => some a | .error _ => none
  match at_ true r.dst with
  | none => 0
  | some a =>
    match s.whereIs a with
    | .companion _ => match at_ false r.src with
      | some b => dieOfDevice s b
      | none => 0
    | _ => dieOfDevice s a

/-- Companion addresses of the bytes at the positions of a turnout record's descriptor, in the order of the positions. -/
def State.windowBytes (s : State) (x : Ctx) (write : Bool) (dn esize : Nat) : List Nat :=
  let d := x.parcel.desc dn
  (List.range d.count).flatMap fun n =>
    match d.place (if esize = 0 then 0x07 else 0x08) n with
    | none => []
    | some (a, _) => (span a (max 1 esize)).filterMap fun b => match s.place x write b with
      | .ok dev => if windowBase ≤ dev then some (dev - windowBase) else none
      | .error _ => none

/-- A turnout job that reads the companion window sends RD for what it reads (R425, R562; log 27). -/
def State.opensAccess (s : State) (p c i : Nat) : State :=
  match s.ctx p c with
  | none => s
  | some x =>
    match (x.parcel.recs[i]?).map Rec.body with
    | some (.turnout r) =>
      if x.reachesCompanion r.src then s.readComp (.job p c i) ((s.windowBytes x false r.src r.esize).map (· / 64)).eraseDups else s
    | _ => s

/-- The job of a record goes to an engine (R299). -/
def State.addJob (s : State) (e p c i : Nat) : State := (s.opensAccess p c i).enqueue e p c i

/-! ### Records that start by themselves -/

/-- The turnout record that a phase issues before it starts is in flight: the cursor stands at the phase's records (R362). -/
def Ctx.preIssued (rest : List Nat) (x : Ctx) : Ctx := (x.setCursor x.segment.1).modTr fun t => { t with pre := rest }

/-- Start what needs no command of its own: the turnout records that a phase names, turnout records as they come up, and FORWARD once LOAD has ended (R330, R362, R523, R524). -/
def State.pump (s : State) (p c : Nat) : Nat → State
  | 0 => s
  | n + 1 =>
    match s.active? p c with
    | none => s
    | some x =>
      match x.tr.pre with
      | i :: is =>
        match (x.parcel.recs[i]?).map Rec.body with
        | some (.turnout t) =>
          if s.canStart p x i 1 then
            let e := s.engineOf x t
            (((s.launch p c i [.engine e] true).addJob e p c i).modCtx p c (Ctx.preIssued is)).pump p c n
          else s
        | _ => (s.modCtx p c (Ctx.preIssued is)).pump p c n
      | [] => match x.next? with
      | some (i, r) =>
        match r.body with
        | .turnout t =>
          if s.canStart p x i 1 then
            let e := s.engineOf x t
            ((s.launch p c i [.engine e] true).addJob e p c i).pump p c n
          else s
        | _ => s
      | none =>
        if x.passOver && x.tr.phase == 1 && x.parcel.kind != 1 then
          (s.modCtx p c fun x => x.forward 0 (s.now p)).pump p c n
        else s

def State.runOn (s : State) (p c : Nat) : State :=
  match s.ctx p c with
  | some x => s.pump p c (x.parcel.recs.length + x.tr.pre.length + 2)
  | none => s

/-! ### Shares of a kernel record (R341, R343) -/

/-- Stables of a side in order of logical number: 1 TEACHER, 2 STUDENT, else every stable in service (R341-R343); from LOAD to BACKWARD those that LOAD has bound. -/
def State.sideOf (s : State) (p : Nat) (x : Ctx) (side : Nat) : List (Nat × Nat) :=
  let ls := (s.stablesOf p).filter fun l => !decide (1 ≤ x.tr.phase ∧ x.tr.phase ≤ 4) || x.tr.bound.contains l.1
  let t := x.tr.split.getD 0
  if side = 1 then ls.take t else if side = 2 then ls.drop t else ls

/-- Rows of a record that is not divided. -/
def KernelRec.allRows (k : KernelRec) : Nat := if k.kop = 0 then 1 else if k.isConv then k.outH else k.m

/-- Physical stable, first row and rows of each share (R343); 0x0202 where the record names a stable that is not there. -/
def State.shares (s : State) (p : Nat) (x : Ctx) (h : RecHead) (k : KernelRec) : Except Nat (List (Nat × Nat × Nat)) :=
  let ls := s.sideOf p x h.side
  if h.rows = 0 then
    let pick := if h.side = 1 ∨ h.side = 2 then ls[h.lstable]? else ls.find? (·.1 == h.lstable)
    match pick with
    | some l => .ok [(l.2, 0, k.allRows)]
    | none => .error 0x0202
  else if ls.isEmpty then .error 0x0202
  else
    let g := ceilDiv h.rows h.grain
    let n := ls.length
    .ok (ls.zipIdx.filterMap fun (li : (Nat × Nat) × Nat) =>
      let a := li.2 * g / n
      let b := (li.2 + 1) * g / n
      if b ≤ a then none else some (li.1.2, a * h.grain, min (b * h.grain) h.rows - a * h.grain))

/-- The class that a record drains is in probe, and is no WIRE class, which takes no extra pass (R232). -/
def Ctx.probes (x : Ctx) (d : Paddock) (k : KernelRec) : Bool :=
  let cls := k.srefC % 4096
  decide (1 ≤ k.kop ∧ k.kop ≤ 3) && bitOf k.srefC 15 && d.probe.contains cls &&
    x.parcel.scaleRecs.any fun r => r.cls == cls && r.target != 0

def Run.fresh (p c i : Nat) (sh : Nat × Nat × Nat) (probing : Bool) : Run :=
  { paddock := p, ctx := c, ordinal := i, first := sh.2.1, count := sh.2.2, begun := false, kdone := false, gdone := false
    rerun := false, probing := probing, probed := false, probeAmax := 0, parity := 0, kflags := 0, sk := 0, written := [] }

/-! ### The start of a share (R149, R591) -/

/-- The 80 bytes of a descriptor (R588). -/
def Loop.bytes (l : Loop) : List Byte :=
  leBytes 12 (l.count - 1 + unsignedOf 32 l.stride * 2 ^ 20 + l.lo * 2 ^ 52 + l.hi * 2 ^ 72)

def Desc.bytes (d : Desc) : List Byte :=
  leBytes 6 d.base ++ leBytes 1 d.loops.length ++ leBytes 1 (bit d.mx) ++ leBytes 6 d.sbase ++ [0, 0] ++
    (d.loops.map Loop.bytes).flatten ++ List.replicate (64 - 12 * d.loops.length) 0

/-- Program words and descriptors go to the stable's row store (R150, R591). -/
def State.placeProgram (s : State) (o : Kop) : Except Nat State :=
  if o.k.progBlob = 0xFFFFFFFF then .ok s
  else
    let bs := o.x.parcel.programBytes o.k ++ (o.k.gdesc.map fun n => (o.x.parcel.desc n).bytes).flatten
    s.writeDevs (span (rowStoreBase o.stable + o.k.progOff) bs.length) bs

/-- The stable as a record finds it: no bank valid, groom at its start (R149). -/
def Stable.startRecord (x : Stable) : Stable :=
  { x with
    ranks := x.ranks.map fun r => { r with bankA := { r.bankA with holds := none }, bankB := { r.bankB with holds := none } }
    best := [], topk := [], pipe := [], drains := [], pos := FeedPos.start, groom := Groom.start, failed := 0, runs := [], held := []
    watch := 0, warned := false }

/-- The head of a stable's queue starts, if nothing holds it: a suspect waits for its boundary unless the record runs again (R141, R181), and a pre-emption takes effect before the next kernel starts (R51). -/
def State.startShare (s : State) (n : Nat) : State :=
  match s.kop? n with
  | none => s
  | some o =>
    let x := s.stable n
    if o.run.begun || x.stopped || x.copying.isSome || (!x.suspects.isEmpty && !o.run.rerun) ||
        s.preempts o.run.paddock o.run.ctx then s
    else match s.placeProgram o with
      | .error e => s.haltJob o.run.paddock o.run.ctx e
      | .ok s => (s.modStable n Stable.startRecord).modRun n fun r =>
          { r with begun := true, kdone := o.k.kop == 0, gdone := o.k.progBlob == 0xFFFFFFFF, kflags := 0, sk := 0, written := [] }

/-! ### Scale exponents (R224, R228, R230, R232) -/

def clampExp (e : Int) : Int := max (-127) (min 127 e)

/-- Exponent of a class from the largest entry H (R228). -/
def ScaleRec.chosen (r : ScaleRec) (h : W32) : Int :=
  let d := Extn.dy (Fp.val32 h)
  clampExp (if r.target = 0 then (if d.m = 0 then r.fallback else Dyn.ceilLog2 d - 20)
    else (if d.m = 0 then 0 else (if r.target = 3 then 8 else 15) - Dyn.ceilLog2 d))

/-- An exponent after n repeats for non-finite values: s is lower, E higher, by 1 each, within the clamp (R228, R230). -/
def ScaleRec.shifted (r : ScaleRec) (n : Nat) (e : Int) : Int := clampExp (if r.target = 0 then e + n else e - n)

/-- Exponent of a class from the largest entry H, after `shift` repeats for non-finite values (R228, R230). -/
def ScaleRec.exponent (r : ScaleRec) (h : W32) (shift : Nat) : Int := r.shifted shift (r.chosen h)

/-- History of a class in a paddock (R224). -/
def Paddock.history (d : Paddock) (cls : Nat) : List W32 := ((d.hist.find? (·.1 == cls)).map (·.2)).getD []

def Train.setScale (cls : Nat) (e : Int) (t : Train) : Train :=
  { t with scales := (cls, e) :: t.scales.filter (·.1 != cls) }

/-! ### The end of a share (R179, R232) -/

/-- Every run of a record on the stables. -/
def State.runsOf (s : State) (p c i : Nat) : List Run :=
  s.stables.flatMap fun x => x.queue.filter fun r => r.paddock == p && r.ctx == c && r.ordinal == i

/-- The first pass of probe has ended on every stable: the exponent is chosen and the record runs again (R232). -/
def State.endProbe (s : State) (p c i : Nat) : State :=
  let runs := s.runsOf p c i
  if !(runs.all (·.probed)) then s
  else match s.ctx p c with
    | none => s
    | some x =>
      match x.parcel.kernel? i with
      | none => s
      | some k =>
        let cls := k.srefC % 4096
        let top := (runs.map (·.probeAmax)).foldl maxW (((s.pd p).history cls).foldl maxW 0)
        let s := match x.parcel.scaleRecs.find? (·.cls == cls) with
          | some r => s.modCtx p c fun x => x.modTr (·.setScale cls (r.exponent top x.tr.shift))
          | none => s
        { s with stables := s.stables.map fun (y : Stable) => { y with queue := y.queue.map fun (r : Run) =>
            if r.paddock = p ∧ r.ctx = c ∧ r.ordinal = i then { r with probing := false, probed := false, begun := false, rerun := true }
            else r } }

/-- What a stable hands over at a share's end (R179). -/
def Stable.summary (x : Stable) (r : Run) : List Nat := x.groom.sums ++ [r.sk, x.groom.flags, r.kflags]

/-- A flight learns that a unit has ended. -/
def Flight.unitEnds (u : UnitId) (res : List (Nat × List Nat)) (f : Flight) : Flight :=
  { f with ended := if f.ended.contains u then f.ended else f.ended ++ [u], results := f.results ++ res }

def Ctx.modFlight (x : Ctx) (i : Nat) (f : Flight → Flight) : Ctx :=
  { x with flights := x.flights.map fun g => if g.ordinal = i then f g else g }

/-- A share whose K.* operation and groom program have both ended leaves the stable, and the next share may start (R151, R179). -/
def State.shareEnds (s : State) (n : Nat) : State :=
  let x := s.stable n
  match x.queue with
  | [] => s
  | r :: rest =>
    if !(r.begun && r.kdone && r.gdone) then s
    else if r.probing then
      if r.probed then s
      else ((s.modRun n fun r => { r with probed := true }).endProbe r.paddock r.ctx r.ordinal).startShare n
    else
      let s := s.modStable n fun x => { x with queue := rest }
      (s.modCtx r.paddock r.ctx fun y => y.modFlight r.ordinal (Flight.unitEnds (.stable n) [(r.first, x.summary r)])).startShare n

/-- Shares that end as soon as they start end now: records with neither an operation nor a program. -/
def State.settleStable (s : State) (n : Nat) : Nat → State
  | 0 => s
  | k + 1 => ((s.startShare n).shareEnds n).settleStable n k

/-! ### KERNEL -/

/-- Bytes of the row store that a record's program, its partial sums and its count word take (R132, R125, R591). -/
def Parcel.rowAreas (x : Parcel) (k : KernelRec) : Spans × Spans :=
  (if (x.words k).isEmpty then [] else [(k.progOff, k.progOff + 8 * k.progLen + 80 * k.gdesc.length)],
    if k.isMove then [(k.partialOff, k.partialOff + 4)]
    else if decide (1 ≤ k.kop ∧ k.kop ≤ 3) && decide (1 < k.windows) then [(k.partialOff, k.partialOff + 512 * k.nc * 16)] else [])

/-- A unit lies in the program, the partial area or the count word of a kernel record in the row store of one of these stables. -/
def Parcel.inRowAreas (x : Parcel) (k : KernelRec) (units : List UnitId) (u : Nat) : Bool :=
  let areas := x.rowAreas k
  units.any fun w => match w with
    | .stable n => (areas.1 ++ areas.2).any fun e => decide (rowStoreBase n + e.1 < u + codeUnit u ∧ u < rowStoreBase n + e.2)
    | _ => false

/-- What a record that ends has read is written back where it was corrected (R260, R305, R309; log 125). -/
def State.recordRead (s : State) (x : Ctx) (f : Flight) : State :=
  if s.flips.isEmpty then s
  else match x.parcel.recs[f.ordinal]? with
    | none => s
    | some r =>
      let s := s.hasRead x (s.readsOf x r.body)
      match r.body with
      | .kernel k => s.readBack (x.parcel.inRowAreas k f.units)
      | _ => s

/-- What ranges of paddock addresses take of the row store of a physical stable, by offset (R541, R542). -/
def Ctx.rowPart (x : Ctx) (n : Nat) (es : Spans) : Spans :=
  x.table.flatMap fun r =>
    if r.kind = 2 ∧ r.phys = n then
      es.filterMap fun e =>
        let lo := max e.1 r.pbase
        let hi := min e.2 (r.pbase + r.length)
        if lo < hi then some (r.dbase + (lo - r.pbase), r.dbase + (hi - r.pbase)) else none
    else []

/-- On one of its stables the record writes into its program or its partial area, or its partial area lies in what it reads (R153). The parcel gives those areas as row-store offsets, so its addresses meet them only through the table (log 84). -/
def Ctx.rowHazard (x : Ctx) (k : KernelRec) (stables : List Nat) : Bool :=
  let areas := x.parcel.rowAreas k
  stables.any fun n =>
    (x.rowPart n (x.parcel.writes (.kernel k))).meet (areas.1 ++ areas.2) || areas.2.meet (x.rowPart n (x.parcel.reads (.kernel k)))

/-- KERNEL: the next record, a kernel record, starts on its stables (R343, R523, R524); one that would write what it reads halts the job (R153); a pre-emption that is due goes first (R51). -/
def kernelStarts (p c : Nat) (s : State) : State :=
  match s.active? p c with
  | none => s
  | some x =>
    if s.preempts p c then s else
    match x.next? with
    | some (i, ⟨h, .kernel k⟩) =>
      match s.shares p x h k with
      | .error e => s.haltJob p c e
      | .ok sh =>
        if x.rowHazard k (sh.map (·.1)) then s.haltJob p c 0x0203
        else if !s.canStart p x i sh.length then s
        else
          let pr := x.probes (s.pd p) k
          let s := s.launch p c i (sh.map fun u => .stable u.1) true
          let s := sh.foldl (fun (s : State) (u : Nat × Nat × Nat) =>
            s.modStable u.1 fun y => { y with queue := y.queue ++ [Run.fresh p c i u pr] }) s
          (sh.foldl (fun (s : State) (u : Nat × Nat × Nat) => s.settleStable u.1 2) s).runOn p c
    | _ => s

def execKernel (p ctx : Nat) (s : State) : Out := onUnit (p < 16 ∧ ctx < 8) (kernelStarts p ctx s)

/-! ### Feed events and whole operations (R72, R82) -/

/-- An upset of a memory cell (R257, R305, R309). -/
def State.strikes (s : State) (u : Upset) : State :=
  match u with
  | .cell dev b => s.cellFlips dev b
  | _ => s

/-- FEED_EVENT: with every feeder ready and every drain free, one event of the operation; otherwise the event is withheld (R72, R73). -/
def feeds (n : Nat) (ready : Bool) (u : Upset) (s : State) : State :=
  if !s.running then s
  else
    let s := (s.strikes u).startShare n
    match s.kop? n with
    | none => s
    | some o => if !ready || !s.canFeed o then s else (s.feed o u).shareEnds n

def execFeedEvent (stable : Nat) (ready : Bool) (u : Upset) (s : State) : Out := onUnit (stable < 72) (feeds stable ready u s)

/-- Events of an operation whose tiles pass their checks, bounded from above (R106, R110, R123, R127). -/
def Kop.eventBound (o : Kop) : Nat :=
  match o.k.kop with
  | 4 => 4 * (ceilDiv o.run.count 4 + 1) * (2 * o.k.k + 4 * o.k.n + 64)
  | 5 => 4 * (o.items.2 + 2)
  | 6 => 4 * (o.items.2 + 2)
  | _ => 4 * (o.blocks * o.k.windows * o.k.n * (8 + o.k.feeds 0) + 16)

/-- Events in turn until the operation ends. -/
def State.feedOn (s : State) (n : Nat) : Nat → State
  | 0 => s
  | k + 1 =>
    match s.kop? n with
    | none => s
    | some o => if !s.canFeed o then s else (s.feed o .none).feedOn n k

/-- A K.* command: the operation that the stable is to run, or is inside, runs to its end, from a ramp-up on (R82, R98). -/
def runsK (code n : Nat) (s : State) : State :=
  if !s.running then s
  else
    let s := s.startShare n
    match s.kop? n with
    | none => s
    | some o =>
      if o.k.kop ≠ code ∨ !o.run.begun then s
      else ((s.modStable n fun x => { x with active := 4 }).feedOn n o.eventBound).shareEnds n

def runsMm (n : Nat) (s : State) : State := runsK 1 n s
def runsConv (n : Nat) (s : State) : State := runsK 2 n s
def runsDist (n : Nat) (s : State) : State := runsK 3 n s
def runsTopk (n : Nat) (s : State) : State := runsK 4 n s
def runsCompact (n : Nat) (s : State) : State := runsK 5 n s
def runsExpand (n : Nat) (s : State) : State := runsK 6 n s

def execKMm (stable : Nat) (s : State) : Out := onUnit (stable < 72) (runsMm stable s)
def execKConv (stable : Nat) (s : State) : Out := onUnit (stable < 72) (runsConv stable s)
def execKDist (stable : Nat) (s : State) : Out := onUnit (stable < 72) (runsDist stable s)
def execKTopk (stable : Nat) (s : State) : Out := onUnit (stable < 72) (runsTopk stable s)
def execKCompact (stable : Nat) (s : State) : Out := onUnit (stable < 72) (runsCompact stable s)
def execKExpand (stable : Nat) (s : State) : Out := onUnit (stable < 72) (runsExpand stable s)

/-- RAMP_DOWN: a gap has lasted 64 dummy operations, and ranks 3, 2, 1 and 0 stop in turn; the command names how many still run them (R81). -/
def rampsDown (n ranks : Nat) (s : State) : State :=
  if s.running then s.modStable n fun x => { x with active := min x.active ranks } else s
/-- RAMP_UP: ranks 0 to 3 join in turn, from those still active; the command names how many have joined, and with all four the stable takes real work (R82). -/
def rampsUp (n ranks : Nat) (s : State) : State :=
  if s.running then s.modStable n fun x => { x with active := max x.active ranks } else s

def execRampDown (stable ranks : Nat) (s : State) : Out := onUnit (stable < 72 ∧ ranks < 4) (rampsDown stable ranks s)
def execRampUp (stable ranks : Nat) (s : State) : Out := onUnit (stable < 72 ∧ 1 ≤ ranks ∧ ranks ≤ 4) (rampsUp stable ranks s)

/-! ### Replacement (R43, R49, R136, R141, R142, R544, R691) -/

/-- The stall that stands in the place of a stall, by the map. -/
def Remount.stallNow (r : Remount) (n rank : Nat) : Nat → Nat → Nat
  | 0, i => i
  | k + 1, i =>
    match r.entries.find? fun e => e.kind == 2 && e.unit == stallUnit n rank i with
    | some e => if e.replacement = noUnit then i else r.stallNow n rank k e.replacement
    | none => i

/-- Remount stalls of a rank that are neither used nor retired (R43, R141). -/
def Remount.freeStalls (r : Remount) (n rank : Nat) : List Nat :=
  let es := r.entries.filter fun e => e.kind == 2 && e.unit / 256 == n * 4 + rank
  (span 128 8).filter fun i => !(es.any fun e => e.replacement == i || e.unit == stallUnit n rank i)

/-- REMOUNT (R581). -/
def remountEvent (kind die unit replacement : Nat) : OutLetter := event 0x00C8 0 kind 0xFF die unit [replacement]

/-- The logical stable of a physical one. -/
def Remount.logical (r : Remount) (n : Nat) : Option Nat := (List.range 64).find? fun l => r.bind.getD l none == some n

/-- The paddock that owns a group. -/
def State.ownerOfGroup (s : State) (g : Nat) : Option Nat := (List.range 16).find? fun p => bitOf (s.pd p).owned.groups g

/-- Rebuild the tables that reach a logical stable's row store, with the store that is bound now (R544). -/
def Ctx.retableStable (m : Remount) (l : Nat) (x : Ctx) : Ctx :=
  if x.lastTable.any (fun r => r.kind == 2 && r.lstable == l) then x.retable (x.lastTable.map m.bound) else x

def State.retableStable (s : State) (l : Nat) : State := s.mapCtxs (Ctx.retableStable s.remount l)

/-- A table of some context still names another row store for a logical stable: its switch is to come (R136, R547). -/
def Ctx.stale (m : Remount) (l : Nat) (x : Ctx) : Bool :=
  x.table.any fun r => r.kind == 2 && r.lstable == l && m.bound r != r

/-- One suspect takes a remount stall of its rank, the free one of the lowest number: which one is the model's choice (R141; log 119). -/
def State.swapStall (s : State) (n rank i : Nat) : State :=
  match (s.remount.freeStalls n rank).head? with
  | none => s
  | some sp =>
    let u := stallUnit n rank (s.remount.stallNow n rank 16 i)
    (s.mapAdd ⟨2, dieOfStable n, u, sp, 0⟩).postOwned
      (match s.remount.logical n with | some l => ownsGroup (l / 4) | none => fun _ => false)
      (remountEvent 2 (dieOfStable n) u sp)

/-- A unit's name moves from a failed stable to its replacement. -/
def UnitId.moved (a b : Nat) (u : UnitId) : UnitId := if u = .stable a then .stable b else u

def Flight.moved (a b : Nat) (f : Flight) : Flight :=
  { f with units := f.units.map (UnitId.moved a b), ended := f.ended.map (UnitId.moved a b) }

/-- The replacement takes over the records of a failed stable; the one in progress runs again from its start (R43, R136). -/
def Stable.takeOver (old new : Stable) (from_ : Nat) : Stable :=
  let q := match old.queue with
    | [] => []
    | r :: rs => (if r.begun then { r with begun := false, kdone := false, gdone := false, rerun := true } else r) :: rs
  { Stable.reset with queue := q, copying := some from_, diag := new.diag }

/-- What remains of a failed stable. -/
def Stable.retired (x : Stable) : Stable := { Stable.reset with diag := x.diag }

/-- Spare stables of a die (R28): good, in service, bound to no logical stable. Of these the lowest-numbered is bound first, which is the model's choice (R136; log 119). -/
def State.pool (s : State) (die : Nat) : List Nat :=
  s.remount.good.filter fun g => dieOfStable g == die && (s.remount.logical g).isNone

/-- Replacement waits while the paddock is inside COLLECT or COMMIT (R49). -/
def Paddock.collecting (d : Paddock) : Bool := !(d.withCtx fun x => x.tr.phase == 5 || x.tr.phase == 7).isEmpty

/-- Retire a stable and bind a spare of its die in its place; with none its group leaves service and its paddock's jobs halt with 0x0807 (R43, R136, R691). Use of the pool is reported to every OPEN paddock (R550). -/
def State.replaceStable (s : State) (n : Nat) : State :=
  let die := dieOfStable n
  let off (s : State) (repl : Nat) : State :=
    let s := { s with remount := { s.remount with good := s.remount.good.filter (· != n) } }
    let s := s.mapAdd ⟨3, die, n, noUnit, 0⟩
    if repl ≠ noUnit then s.postShared (remountEvent 3 die n repl)
    else s.postOwned (match s.remount.logical n with | some l => ownsGroup (l / 4) | none => fun _ => false) (remountEvent 3 die n repl)
  match s.remount.logical n with
  | none => (off s noUnit).modStable n Stable.retired
  | some l =>
    match s.ownerOfGroup (l / 4) with
    | some p =>
      if (s.pd p).collecting then s
      else match (s.pool die).head? with
        | some r =>
          let s := off s r
          let old := s.stable n
          let s := { s with remount := { s.remount with bind := s.remount.bind.set l (some r) } }
          let s := (s.modStable r fun y => old.takeOver y n).modStable n Stable.retired
          let s := s.modPd p (·.mapCtxs fun x => { x with flights := x.flights.map (Flight.moved n r) })
          s.retableStable l
        | none =>
          let s := off s noUnit
          let s := { s with remount := { s.remount with
            bind := s.remount.bind.set l none, groupLost := s.remount.groupLost ++ [l / 4] } }
          (s.modStable n Stable.retired).haltAll p 0x0807
    | none =>
      match (s.pool die).head? with
      | some r =>
        let s := off s r
        let s := { s with remount := { s.remount with bind := s.remount.bind.set l (some r) } }
        (s.modStable r fun y => Stable.takeOver Stable.reset y n).modStable n Stable.retired
      | none =>
        let s := off s noUnit
        { s with remount := { s.remount with
          bind := s.remount.bind.set l none, groupLost := s.remount.groupLost ++ [l / 4] } }.modStable n Stable.retired

/-- Suspects of a rank. -/
def Stable.suspectsOf (x : Stable) (rank : Nat) : List Nat := (x.suspects.filter (·.1 == rank)).map (·.2)

/-- Some rank has more suspects than free remount stalls (R141). -/
def State.outOfStalls (s : State) (n : Nat) : Bool :=
  (List.range 4).any fun r => decide ((s.remount.freeStalls n r).length < ((s.stable n).suspectsOf r).length)

/-- KERNEL_BOUNDARY: suspects are replaced, or the stable is retired; then the next record starts (R51, R141, R142). -/
def boundary (n : Nat) (s : State) : State :=
  if !s.running || !(s.stable n).atBoundary then s
  else if s.outOfStalls n then s.replaceStable n
  else
    let sus := (s.stable n).suspects
    let s := sus.foldl (fun (s : State) (u : Nat × Nat) => s.swapStall n u.1 u.2) s
    let s := s.modStable n fun x => { x with suspects := [] }
    let s := match s.remount.logical n with
      | some l => if sus.isEmpty then s else s.retableStable l
      | none => s
    s.settleStable n 2

def execKernelBoundary (stable : Nat) (s : State) : Out := onUnit (stable < 72) (boundary stable s)

/-- STABLE_REPLACEMENT: a tile that failed twice, a self-check failure, or a rank without a free remount stall at a boundary (R43, R136). -/
def replaces (n : Nat) (s : State) : State :=
  if s.running && ((s.stable n).stopped || ((s.stable n).atBoundary && s.outOfStalls n)) then s.replaceStable n else s

def execStableReplacement (stable : Nat) (s : State) : Out := onUnit (stable < 72) (replaces stable s)

/-- Copy a row store; a word that is uncorrectable stays so. -/
def State.copyRowStore (s : State) (src dst : Nat) : State :=
  let cells := s.mem.filter fun c => decide (rowStoreBase src ≤ c.1) && decide (c.1 < rowStoreBase (src + 1))
  cells.foldl (fun (s : State) (c : Host.Cell) => s.wr (rowStoreBase dst + (c.1 - rowStoreBase src)) [c.2]) (s.zero (rowStoreBase dst) rowStoreSize)

/-- The paddock that owns a stable, with its logical number. -/
def State.ownerOfStable (s : State) (n : Nat) : Option (Nat × Nat) :=
  (s.remount.logical n).bind fun l => (s.ownerOfGroup (l / 4)).map fun p => (p, l)

/-- The tables that reach a replaced stable's row store have switched (R136, R547). -/
def State.tablesFollow (s : State) (n : Nat) : Bool :=
  match s.ownerOfStable n with
  | some (p, l) => ((s.pd p).withCtx fun x => x.stale s.remount l).isEmpty
  | none => true

/-- The job that a row-store copy serves: that of the stable's record, else the one that its paddock runs. -/
def State.jobOfStable (s : State) (n : Nat) : Option (Nat × Nat) :=
  match (s.stable n).queue with
  | r :: _ => some (r.paddock, r.ctx)
  | [] => (s.ownerOfStable n).bind fun pl => ((s.pd pl.1).running).map fun c => (pl.1, c)

/-- Words of a row store that cannot be corrected (R309). -/
def State.rowSpoilt (s : State) (n : Nat) : List Nat :=
  (s.bad ++ s.flips.map (·.1)).eraseDups.filter fun u => s.spoilt u && decide (rowStoreBase n ≤ u) && decide (u < rowStoreBase (n + 1))

/-- STABLE_COPY_DONE, once the tables have switched: the row store has been copied, the replacement ramps up and its record runs from its start; an uncorrectable word halts the job with 0x0302 (R136). -/
def copyDone (n : Nat) (s : State) : State :=
  match (s.stable n).copying with
  | none => s
  | some src =>
    if !s.running || !s.tablesFollow n then s
    else
      let lost := s.rowSpoilt src
      let s := (s.copyRowStore src n).modStable n fun x => { x with copying := none, active := 4 }
      let s := { s with bad := s.bad ++ lost.map fun u => rowStoreBase n + (u - rowStoreBase src) }
      if lost.isEmpty then s.settleStable n 2
      else match s.jobOfStable n with
        | some pc => s.haltJob pc.1 pc.2 0x0302
        | none => s

def execStableCopyDone (stable : Nat) (s : State) : Out := onUnit (stable < 72) (copyDone stable s)

/-- GROOM_PARITY_ERROR: the record runs again from its start on the same stable; a second error in the same record replaces the stable (R180, R181). -/
def parityFails (n : Nat) (s : State) : State :=
  match s.kop? n with
  | none => s
  | some o =>
    if !s.running || !o.run.begun then s
    else if o.run.parity = 0 then
      (s.modRun n fun r => { r with begun := false, kdone := false, gdone := false, rerun := true, parity := 1 }).startShare n
    else (s.modStable n fun x => { x with stopped := true }).replaceStable n

def execGroomParityError (stable : Nat) (s : State) : Out := onUnit (stable < 72) (parityFails stable s)

/-! ### RECORD_END (R177, R179, R320, R523) -/

/-- Results in order of their first rows. -/
def insertResult (r : Nat × List Nat) : List (Nat × List Nat) → List (Nat × List Nat)
  | [] => [r]
  | a :: as => if r.1 < a.1 then r :: a :: as else a :: insertResult r as

def sortResults (rs : List (Nat × List Nat)) : List (Nat × List Nat) := rs.foldr insertResult []

/-- A record in flight is over: its units have ended, or its turnout job ended while the context did not run (R179, R299). -/
def Ctx.flightOver (x : Ctx) (f : Flight) : Bool :=
  f.fin && f.units.all fun u => f.ended.contains u || (match u with | .engine _ => x.ended.contains f.ordinal | _ => false)

/-- What the end of a record leaves in its context. -/
def Ctx.endFlight (x : Ctx) (f : Flight) (now : Nat) : Ctx :=
  let x := x.releaseLetters f.ordinal now
  let fl := flagsAll (f.results.map fun r => flagOr (nth r.2 5) (nth r.2 6))
  let sums := (f.ordinal, sortResults f.results |>.map (·.2))
  { x with
    flights := x.flights.filter (·.ordinal != f.ordinal)
    ended := x.ended.filter (· != f.ordinal)
    tr := { x.tr with flags := flagOr x.tr.flags fl
                      summaries := if f.results.isEmpty then x.tr.summaries else sums :: x.tr.summaries.filter (·.1 != f.ordinal) } }

/-- RECORD_END: corrected reads are written back, letters are freed, summaries and flags are handed over, entries are released, and what can start by itself starts. -/
def recordEnds (p c i : Nat) (s : State) : State :=
  match s.active? p c with
  | none => s
  | some x =>
    match x.flights.find? (·.ordinal == i) with
    | none => s
    | some f =>
      if !x.flightOver f then s
      else
        let s := s.recordRead x f
        let s := s.modPd p fun d =>
          { d.modCtx c (·.endFlight f (s.now p)) with entriesUsed := d.entriesUsed - f.units.length }
        s.runOn p c

def execRecordEnd (p ctx ordinal : Nat) (s : State) : Out := onUnit (p < 16 ∧ ctx < 8) (recordEnds p ctx ordinal s)

/-! ### BRANCH (R179, R592) -/

/-- Across the kernel's stables as FP32 values: first, maximum, minimum, exact sum, OR (R592). -/
def combineFp (comb : Nat) (vs : List Nat) : Ext :=
  let es := vs.map fun v => Fp.val32 (w32 v)
  let fold (f : Ext → Ext → Bool) : Ext :=
    if es.any Extn.isNaN then Ext.nan
    else match es with
      | [] => .zero false
      | e :: rest => rest.foldl (fun a b => if f a b then b else a) e
  match comb with
  | 0 => es.headD (Ext.zero false)
  | 1 => fold Extn.lt
  | 2 => fold (fun a b => Extn.lt b a)
  | 3 => es.foldl Bf.sum2 (.zero false)
  | _ => Fp.val32 (w32 (vs.foldl (· ||| ·) 0))

/-- The same over unsigned values. -/
def combineNat (comb : Nat) (vs : List Nat) : Nat :=
  match comb with
  | 0 => vs.headD 0
  | 1 => vs.foldl max 0
  | 2 => match vs with
    | [] => 0
    | v :: rest => rest.foldl min v
  | 3 => vs.sum
  | _ => vs.foldl (· ||| ·) 0

/-- The G.CMP conditions on unsigned numbers; UNORD never holds (R167, R592). -/
def comparesNat (cond a b : Nat) : Bool :=
  match cond with
  | 0 => a == b
  | 1 => a != b
  | 2 => decide (a < b)
  | 3 => decide (a ≤ b)
  | 4 => decide (b < a)
  | 5 => decide (b ≤ a)
  | _ => false

/-- The condition of a branch over what the stables handed over. -/
def BranchRec.holds (b : BranchRec) (results : List (List Nat)) : Bool :=
  let vs := results.map fun r => nth r b.src
  if b.isUnsigned then comparesNat b.cond (combineNat b.comb vs) b.value
  else El.compares b.cond (combineFp b.comb vs) (Fp.val32 (w32 b.value))

/-- Ordinal of the kernel record that a branch follows. -/
def Parcel.kernelBefore (x : Parcel) (i : Nat) : Option Nat :=
  ((List.range i).reverse).find? fun j => (x.kernel? j).isSome

/-- Backward jumps of a branch in this step. -/
def Ctx.jumpsOf (x : Ctx) (i : Nat) : Nat := ((x.jumps.find? (·.1 == i)).map (·.2)).getD 0

/-- BRANCH: the next record, a branch whose kernel has ended, is evaluated and the cursor moves; past its limit the job halts with 0x0202. -/
def branches (p c i : Nat) (s : State) : State :=
  match s.active? p c with
  | none => s
  | some x =>
    match x.next? with
    | some (j, ⟨_, .branch b⟩) =>
      if j ≠ i then s
      else
        match x.parcel.kernelBefore i with
        | none => s
        | some k =>
          if x.flights.any (·.ordinal == k) then s
          else
            let rs := ((x.tr.summaries.find? (·.1 == k)).map (·.2)).getD []
            let dest := if b.holds rs then b.target else if b.other = 0xFFFFFFFF then i + 1 else b.other
            let n := x.jumpsOf i
            if dest ≤ i ∧ b.limit ≤ n then s.haltJob p c 0x0202
            else
              let s := s.modCtx p c fun x => { (x.setCursor dest) with
                jumps := if dest ≤ i then (i, n + 1) :: x.jumps.filter (·.1 != i) else x.jumps }
              s.runOn p c
    | _ => s

def execBranch (p ctx ordinal : Nat) (s : State) : Out := onUnit (p < 16 ∧ ctx < 8) (branches p ctx ordinal s)

end Sys2Proof.Machine
end

