-- ==== Sys2Proof/Machine/Areas.lean ====
section
/-!
DEFINITION. The bytes of what the module keeps for itself: the structures in a
paddock's pens (R306: pigeonhole control, slot records, scale history, block tables
with layer states) and the save and swap areas in LPDDR5X (R529-R531, R538). The
state holds their contents as data; here they are laid out (logs 97, 129).
-/

namespace Sys2Proof.Machine

/-! ### Live streams (R482, R484, R487) -/

/-- A stream that has not retired (R487). -/
def Stream.isLive (r : Stream) : Bool := r.ended.isNone

/-- The streams as of the last commit point: from the commit record until DELIVER has written it (R484, R495). -/
def Serve.current (v : Serve) : List Stream := v.record.getD v.streams

/-- Live streams of a context. -/
def Serve.live (v : Serve) : List Stream := v.current.filter (·.isLive)

/-- The streams are changed, in their slot records and in a commit record that has not been written yet. -/
def Serve.modStreams (v : Serve) (f : List Stream → List Stream) : Serve := { v with streams := f v.streams, record := v.record.map f }

/-- The loaded serving contexts of a paddock. -/
def Paddock.servers (d : Paddock) : List (Nat × Ctx) := d.withCtx fun x => decide (x.parcel.kind = 1)

/-- Live streams of the paddock, with their contexts. -/
def Paddock.liveStreams (d : Paddock) : List (Ctx × Stream) := d.servers.flatMap fun cx => cx.2.sv.live.map fun r => (cx.2, r)

/-- The 256 bytes of a slot record (R482). -/
def Stream.record (r : Stream) : List Byte :=
  let packed := (r.stop.zipIdx.map fun e => e.1 % 2 ^ 20 * 2 ^ (20 * e.2)).sum
  leBytes 8 r.tag ++ leBytes 1 (if r.decode then 2 else 1) ++ leBytes 1 r.cls ++ leBytes 1 r.spec ++ leBytes 1 r.pend ++
    leBytes 4 (bit r.cancel + 2 * bit r.late) ++ leBytes 8 r.seed ++ leBytes 4 r.n ++ leBytes 4 r.done ++ leBytes 4 r.kvLen ++
    leBytes 4 r.maxNew ++ leBytes 4 r.delivered ++ leBytes 4 r.steps ++ leBytes 12 packed ++ leBytes 4 r.need ++
    leBytes 8 r.prompt ++ leBytes 8 r.out ++ leBytes 8 r.kvTable ++
    ((List.range 4).map fun i => leBytes 4 (nth (r.guesses.take r.pend) i)).flatten ++ leBytes 4 r.accepted ++
    ((List.range 4).map fun i => leBytes 4 (r.param.getD i 0).toNat).flatten ++ List.replicate 132 0

/-- Bytes of slot n: its stream's record as the last DELIVER left it, or zeros (R482, R484). -/
def Paddock.slotBytes (d : Paddock) (n : Nat) : List Byte :=
  match (d.servers.flatMap fun cx => cx.2.sv.streams).find? fun r => r.isLive && r.slot == some n with
  | some r => r.record
  | none => List.replicate 256 0

/-! ### Block tables and layer states (R374, R375) -/

/-- An entry of the block table (R374). -/
def Blk.bytes (frozen : Bool) (b : Blk) : List Byte :=
  leBytes 2 (bit b.bank + 16 * bit b.pend + 32 * bit b.owned + 64 * bit b.init + 128 * bit frozen) ++ leBytes 6 b.last

/-- A layer state (R375) with the addresses of its column statistic's two banks. -/
def LayerSt.bytes (cls col : Nat) (t : LayerSt) : List Byte :=
  leBytes 2 t.layer ++ leBytes 1 cls ++ leBytes 1 (bit t.flip + 2 * bit t.lbank + 4 * bit t.cpend) ++ leBytes 2 t.zrun ++ [0, 0] ++
    leBytes 8 t.last ++ leBytes 4 t.mu0.toNat ++ leBytes 4 t.mu1.toNat ++ leBytes 8 col ++ leBytes 8 (col + 4 * t.col0.length) ++
    List.replicate 216 0

/-- A byte list's byte at an offset. -/
def byteOf (bs : List Byte) (o : Nat) : Byte := bs.getD o 0

/-- The byte at an offset of areas that follow one another, each with its length and its bytes. -/
def areaByte : List (Nat × (Nat → Byte)) → Nat → Byte
  | [], _ => 0
  | (n, f) :: rest, o => if o < n then f o else areaByte rest (o - n)

/-- Words in order, as bytes. -/
def wordByte (ws : List W32) (o : Nat) : Byte := byteOf (leBytes 4 (ws.getD (o / 4) 0).toNat) (o % 4)

/-- Layers of a parcel in the order of their records, with their states. -/
def Ctx.layersIn (x : Ctx) : List LayerSt := x.parcel.layerOrder.filterMap x.layerSt

/-- The layer's state, its column statistic at the address that the module gives it (R371, R375; log 129). -/
def Ctx.layerBytes (x : Ctx) (p c : Nat) (t : LayerSt) : List Byte :=
  t.bytes (match x.parcel.layer? t.layer with | some l => l.cls | none => 0) (Config.columnAt p c t.layer)

/-- A context's part of the block tables: entries, layer states, column statistics (R371, R374, R375). -/
def Ctx.tableAreas (x : Ctx) (p c : Nat) : List (Nat × (Nat → Byte)) :=
  (x.layersIn.map fun t => (8 * t.blocks.length, fun o =>
    byteOf (((t.blocks[o / 8]?).map (Blk.bytes (x.parcel.frozen t.layer))).getD []) (o % 8))) ++
  (x.layersIn.map fun t => (256, byteOf (x.layerBytes p c t))) ++
  (x.layersIn.map fun t => (8 * t.col0.length, wordByte (t.col0 ++ t.col1)))

/-- Bytes of a context's part of the block tables, in whole pages (R306, R371, R374, R375). -/
def Parcel.tableBytes (x : Parcel) : Nat :=
  pageUp ((x.layers.map fun l => 8 * l.blocks + 256 + (if x.factored l then 8 * l.cols else 0)).sum)

/-! ### The reserved structures of a paddock's pens (R306, R329) -/

/-- A letter as the pigeonhole control holds it (R326). -/
def Letter.words (l : Letter) : List Nat :=
  [l.ordinal, match l.state with | .filling => 1 | .ready => 2 | .held => 3, (l.holder.map (· + 1)).getD 0, l.written.length] ++
    l.written.flatMap fun w => [w.1, w.2]

/-- A pigeonhole's control: its slots, the written positions of its letters, and its integral (R326, R329). -/
def Pigeon.words (g : Pigeon) : List Nat :=
  [g.handle, g.integral, g.letters.length] ++ g.letters.flatMap Letter.words ++ g.freed.length :: g.freed

/-- A commit record: each stream of the step with its outcome and its fresh tokens (R491, R510). -/
def Stream.outcome (r : Stream) : List Nat :=
  [r.tag, (r.ended.map (· + 1)).getD 0, r.delivered, r.done, r.kvLen, r.pend, r.accepted, r.fresh.length] ++ r.fresh.map fun e => 2 * e.1 + bit e.2

def Serve.outcomes (v : Serve) : List Nat := match v.record with | some rs => (rs.length + 1) :: rs.flatMap Stream.outcome | none => [0]

/-- The scale histories of a paddock, and what it keeps of a commit record (R226, R510). -/
def Paddock.historyWords (d : Paddock) : List Nat :=
  (d.hist.flatMap fun h => h.1 :: h.2.map (·.toNat)) ++ d.servers.flatMap fun cx => cx.1 :: cx.2.sv.outcomes

/-- The reserved structures in the order of R306's table. How a pigeonhole's control and the histories are laid out in their bytes the spec does not say (log 129). -/
def Paddock.penAreas (d : Paddock) (p : Nat) : List (Nat × (Nat → Byte)) :=
  let xs := d.withCtx (·.resident)
  (xs.flatMap fun cx => cx.2.parcel.pigeonRecs.map fun r =>
    (4096, Config.controlByte (match cx.2.pigeons.find? (·.handle == r.handle) with | some g => g.words | none => []))) ++
  [(131072 * d.owned.blocks.length, fun o => byteOf (d.slotBytes (o / 256)) (o % 256)),
   (d.historyBytes, Config.controlByte d.historyWords)] ++
  xs.flatMap fun cx => [(cx.2.parcel.tableBytes, areaByte (cx.2.tableAreas p cx.1))]

/-- A pen address inside a paddock's reserved structures: the paddock and the offset in them. -/
def State.reservedAt (s : State) (n off : Nat) : Option (Nat × Nat) :=
  (List.range 16).findSome? fun p =>
    let d := s.pd p
    let o := ((bitsSet 96 d.owned.pens).filter (· < n)).length * penSize + off
    if bitOf d.owned.pens n && decide (o < d.penReserve) then some (p, o) else none

/-- A granule of a pen as the window shows it (R306, R329). -/
def State.penGranule (s : State) (a n off : Nat) : List Byte :=
  match s.reservedAt n off with
  | some po => (span po.2 64).map (areaByte ((s.pd po.1).penAreas po.1))
  | none => s.rd a 64

/-! ### Save and swap areas (R529-R531, R538) -/

/-- A register's elements and scales, whose encoding in an image the spec does not give. -/
def Reg.words (g : Reg) : List Nat := g.elems.length :: (g.elems.map fun e => match e with | some v => v + 1 | none => 0) ++ g.scales.flatMap fun s => [s.1, s.2]

/-- The register of a rank's bank at a place of R530's order: the logical stalls, then HL0 to HL7, then HR0 to HR7. -/
def Bank.regAt (b : Bank) (k : Nat) : Reg :=
  if k < 128 then ((b.rows[k]?).join).getD Reg.empty else if k < 136 then b.low.getD (k - 128) Reg.empty else b.high.getD (k - 136) Reg.empty

/-- Bytes of one register of a rank: bank A, bank B, both side stores. -/
def Rank.regByte (r : Rank) (k o : Nat) : Byte :=
  if o < 2048 then Config.controlByte (r.bankA.regAt k).words o
  else if o < 4096 then Config.controlByte (r.bankB.regAt k).words (o - 2048)
  else Config.controlByte ((r.bankA.regAt k).words ++ (r.bankB.regAt k).words) o

def Dy.words (d : Dy) : List Nat := [unsignedOf 1024 d.m, unsignedOf 64 d.e]
def Accum.words (a : Accum) : List Nat :=
  match a with
  | .exact a => [Long.toBits a]
  | .bf b => [b.s.toNat, b.c.toNat]

/-- A rank's check area: the checksum stall's stored sums, P1 and P2 (R530). -/
def Rank.checkWords (r : Rank) : List Nat :=
  (r.bankA.sum1 ++ r.bankA.sum2 ++ r.bankB.sum1 ++ r.bankB.sum2).flatMap Dy.words ++ [unsignedOf 1024 r.p1, unsignedOf 1024 r.p2, r.pb.s.toNat, r.pb.c.toNat]

/-- The control area of a stable's image: feed and groom positions, K.DIST best values, summaries, flags (R530). -/
def Stable.controlWords (x : Stable) : List Nat :=
  [x.pos.block, x.pos.chunk, x.pos.window, x.pos.col, x.pos.event, bit x.pos.done] ++
    (x.best.flatMap fun b => match b with | some (a, j) => (j + 1) :: a.words | none => [0]) ++ x.groom.sums ++
    [x.groom.flags, x.groom.last, x.groom.pc, x.groom.elem, x.groom.partFlags, x.groom.rands] ++
    (x.groom.loops.flatMap fun l => [l.first, l.last, l.left]) ++ x.groom.pos ++
    x.queue.flatMap fun r => [r.ordinal, r.first, r.count, r.kflags, r.sk]

/-- A stable's save image by R530's table: the row store and the groom tiles byte by byte; how the others are encoded the spec does not say (log 97). -/
def Image.stableAreas (im : Image) (l : Nat) (x : Stable) : List (Nat × (Nat → Byte)) :=
  [(0x200000, fun o => ((im.rows.find? (·.1 == l * rowStoreSize + o)).map (·.2)).getD 0),
   (0x264000, fun o => (x.ranks.getD (o / (144 * 4352)) Rank.empty).regByte (o / 4352 % 144) (o % 4352)),
   (0x8000, fun o => Config.controlByte (x.ranks.getD (o / 8192) Rank.empty).checkWords (o % 8192)),
   (0x20000, Config.controlByte ((x.accs.flatMap Accum.words) ++ x.drains.flatMap fun d => d.row :: d.col :: d.v.words)),
   (0x20000, fun o => wordByte (x.groom.tiles.getD (o / 16384) []) (o % 16384)),
   (0x8000, Config.controlByte x.controlWords)]

/-- A shed's save image: vector store, score buffer, accumulators, output buffer, control (R531). -/
def Shed.areas (x : Shed) : List (Nat × (Nat → Byte)) :=
  [(0x40000, Config.controlByte (x.vectors.flatMap Reg.words)), (0x20000, wordByte x.scores.flatten),
   (0x9000, Config.controlByte (x.accs.map Long.toBits)), (0x4000, Config.controlByte x.out),
   (0x1000, Config.controlByte ((x.maxes.map (·.toNat)) ++ x.lsum.flatMap fun l => [l.hi.toNat, l.lo.toNat]))]

/-- A save area: stable images by logical stable, then shed images by channel (R529; log 97). -/
def Image.areas (im : Image) : List (Nat × (Nat → Byte)) :=
  (im.stables.map fun x => (0x4B4000, areaByte (im.stableAreas x.1 x.2))) ++ im.sheds.map fun x => (0x6E000, areaByte x.2.areas)

/-- A swap area: the bytes of a swapped context's pens, pen by pen (R538). -/
def Ctx.swapByte (x : Ctx) (o : Nat) : Byte :=
  match x.pens[o / penSize]? with
  | some n => ((x.swapImage.find? (·.1 == penBase n + o % penSize)).map (·.2)).getD 0
  | none => 0

/-- Number of a device byte in a paddock's reserved range, counted from its top (log 26). -/
def State.reservedNumber (s : State) (d : Paddock) (dev : Nat) : Option Nat :=
  let rec go : List Nat → Nat → Option Nat
    | [], _ => none
    | k :: ks, before =>
      let top := packageBase k + s.packageUsable k
      let here := min (d.reservedBytes - before) (s.packageUsable k)
      if top - here ≤ dev ∧ dev < top then some (before + (top - 1 - dev)) else go ks (before + here)
  go (bitsSet 24 d.owned.packages).reverse 0

/-- What a save or swap area holds at a number of the reserved range: each context's areas follow those of the one before, save area first (R529, R538; log 26). -/
def areaAt : List (Nat × Ctx) → Nat → Option Byte
  | [], _ => none
  | (_, x) :: xs, n =>
    let all := x.saveBytes + x.swapBytes + x.parcelBytes + 131072
    if n < x.saveBytes then x.image.map fun im => areaByte im.areas (x.saveBytes - 1 - n)
    else if n < x.saveBytes + x.swapBytes then (if x.resident then none else some (x.swapByte (x.saveBytes + x.swapBytes - 1 - n)))
    else if n < all then none
    else areaAt xs (n - all)

/-- The byte of a save or swap area at a device address, if one is there. -/
def State.areaByteAt (s : State) (dev : Nat) : Option Byte :=
  (List.range 16).findSome? fun p => (s.reservedNumber (s.pd p) dev).bind (areaAt ((s.pd p).withCtx fun _ => true))

/-- A burst of LPDDR5X as its owner reads it, the save and swap areas among the rest (R529, R538, R631). -/
def State.ownBurst (s : State) (a : Nat) : List Byte :=
  (s.burstRead a).zipIdx.map fun b => (s.areaByteAt (a + b.2)).getD b.1

/-- The same burst as it is stored (R265, R632). -/
def State.rawBurst (s : State) (a : Nat) : List Byte :=
  if (List.range 64).any fun i => (s.areaByteAt (a + i)).isSome then storeAs (s.viewKey (a / packageSize)) a (s.ownBurst a) else s.storedBurst a

end Sys2Proof.Machine
end

