-- ==== Sys2Proof/Machine/Window.lean ====
section
/-!
DEFINITION. The read-out window (R631-R633) and the test access port (R667-R669).
-/

namespace Sys2Proof.Machine

/-- The window is open: under a halter whose entry is complete, while halter_win is 1 (R626, R631). -/
def State.windowOpen (s : State) : Bool := s.freeze.halter && s.freeze.acked && s.freeze.window

/-- Address of the freeze record in the window (R631). -/
def freezeRecordBase : Nat := 0x30000000000

/-- No paddock owns a package, so no controller holds a key for it (R664). -/
def State.unowned (s : State) (k : Nat) : Bool := s.pads.all fun d => !bitOf d.owned.packages k

/-- The 64-byte granule of the window at an address (R631). -/
def State.granule (s : State) (addr : Nat) : List Byte :=
  let a := addr / 64 * 64
  if !s.windowOpen then List.replicate 64 0
  else match s.whereIs a with
    | .package k _ => if s.freeze.raw || s.unowned k then s.rawBurst a else s.ownBurst a
    | .pen n off => s.penGranule a n off
    | .row _ _ => s.rd a 64
    | _ =>
      if freezeRecordBase ≤ a ∧ a < freezeRecordBase + 576 then
        match s.freeze.record with
        | some r => (r.bytes.drop (a - freezeRecordBase)).take 64
        | none => List.replicate 64 0
      else List.replicate 64 0

/-- The granule at an address holds an uncorrectable error (R631). -/
def State.granuleBad (s : State) (addr : Nat) : Bool :=
  let a := addr / 64 * 64
  s.windowOpen && (span (a / 8) 8).any fun w => s.spoilt (unitOf (8 * w))

/-! ### TAP -/

/-- IDCODE (R668): revision from the stepping, part 0x4824, manufacturer 0x2C5, 1. -/
def State.idcode (s : State) : Nat :=
  (4 * (s.otp.stepLetter - 0x41) + (s.otp.stepDigit - 0x30)) % 16 * 2 ^ 28 + 0x4824 * 2 ^ 12 + 0x2C5 * 2 + 1

def State.modTap (s : State) (f : Tap → Tap) : State := { s with tap := f s.tap }

/-- Load an instruction into one die's register with its data register and pins. -/
def Tap.select (t : Tap) (die code data : Nat) (pins : PinMode) : Tap :=
  { t with ir := t.ir.set die code, data := t.data.set die data, pins := t.pins.set die pins }

/-- Test-Logic-Reset selects IDCODE on both dies (R667). -/
def execTestLogicReset (s : State) : Out :=
  .next (s.modTap fun t => (t.select 0 0x01 s.idcode .system).select 1 0x01 s.idcode .system)

/-- BYPASS selects the one-bit register, which captures 0 (R667). -/
def execBypass (die : Nat) (s : State) : Out := onUnit (die < 2) (s.modTap (·.select die 0xFF 0 .system))

def execIdcode (die : Nat) (s : State) : Out := onUnit (die < 2) (s.modTap (·.select die 0x01 s.idcode .system))

/-- SAMPLE/PRELOAD takes the pins and loads the cells (R667). -/
def execSamplePreload (die pins cells : Nat) (s : State) : Out :=
  onUnit (die < 2) (s.modTap fun t =>
    { t.select die 0x02 0 .system with sampled := t.sampled.set die pins, preload := t.preload.set die cells })

/-- An instruction that drives pins takes effect only while MRESET_N is low; at other times it acts as BYPASS (R669). -/
def State.drivePins (s : State) (die code : Nat) (pins : PinMode) : State :=
  s.modTap (·.select die code 0 (if s.power.mreset then .system else pins))

def execExtest (die : Nat) (s : State) : Out := onUnit (die < 2) (s.drivePins die 0x00 .cells)
def execClamp (die : Nat) (s : State) : Out := onUnit (die < 2) (s.drivePins die 0x03 .cells)
def execHighz (die : Nat) (s : State) : Out := onUnit (die < 2) (s.drivePins die 0x04 .highz)
def execExtestPulse (die : Nat) (s : State) : Out := onUnit (die < 2) (s.drivePins die 0x05 .pulse)
def execExtestTrain (die : Nat) (s : State) : Out := onUnit (die < 2) (s.drivePins die 0x06 .train)

/-- READOUT, west die only: takes the address and captures its granule of the halter view (R669). -/
def execReadout (addr : Nat) (s : State) : Out :=
  .next (s.modTap fun t =>
    { t.select 0 0x40 0 .system with readAddr := addr % 2 ^ 48, readData := s.granule (addr % 2 ^ 48) })

end Sys2Proof.Machine
end

