-- ==== Sys2Proof/Machine/Mcl.lean ====
section
/-!
DEFINITION. Configuration space (R563, R569, R632) and the companion link
(R422-R432, R555, R557, R560, R562).
-/

namespace Sys2Proof.Machine

/-- A message of the companion is taken in its codeword; none is while MCL is not trained (R430). -/
def State.hearsMcl (s : State) : Bool := s.mcl.trained && decide (3 ≤ s.start.phase)

/-- A protocol error: MCL retrains and no part of the message takes effect (R425). -/
def State.protocolError (s : State) : State := s.modMcl Mcl.retrain

/-- The companion holds credit for a message and what follows it (R429). -/
def Mcl.allows (m : Mcl) (requests dataUnits invs : Nat) : Bool :=
  decide (requests ≤ m.granted.1 ∧ dataUnits ≤ m.granted.2.1 ∧ invs ≤ m.granted.2.2)

/-- A companion message has been taken, and with the last one its codeword: ACK goes out at once, and CREDIT for the slots and data units that the message has held and freed (R85, R429, R430). -/
def Mcl.took (h : McHead) (requests dataUnits invs : Nat) (m : Mcl) : Mcl :=
  let spent := { m with granted := (m.granted.1 - requests, m.granted.2.1 - dataUnits, m.granted.2.2 - invs) }
  let taken := if h.last then { spent with cseqIn := (m.cseqIn + 1) % 256, asksRetry := false } else spent
  let ms : List McMsg := (if h.last then [⟨0x31, 0, 0, 0, 0, m.cseqIn⟩] else []) ++
    if requests + dataUnits + invs = 0 then [] else [⟨0x30, 0, 0, 0, 0, requests + dataUnits * 2 ^ 12 + invs * 2 ^ 24⟩]
  if ms.isEmpty then taken else taken.sendWord [.messages ms]

/-- A codeword of the companion has come (R431). -/
def State.hearsWord (s : State) : State := s.modMcl fun m => { m with heardAt := s.now16 }

/-- A companion message: taken when its codeword is the next one, under credit; one of a later codeword is dropped, and a reserved op or field, or one that is not `ok`, is a protocol error (R425, R429, R430; log 27). -/
def State.onMessage (s : State) (h : McHead) (ok : Bool) (requests dataUnits invs : Nat) (f : State → State) : State :=
  if !s.hearsMcl then s
  else
    let s := s.hearsWord
    if h.cseq ≠ s.mcl.cseqIn ∨ s.mcl.allows requests dataUnits invs = false then s
    else if !(h.sound && ok) then s.protocolError
    else f (s.modMcl (Mcl.took h requests dataUnits invs))

/-- Answer a companion request: CMP_D with its granules, CMP where there are none (R425, R432). -/
def Mcl.answer (m : Mcl) (rtag status : Nat) (data : List Byte) : Mcl :=
  let gs := chunksOf 64 (ceilDiv data.length 64) data
  { m.sendMessage ⟨if gs.isEmpty then 0x20 else 0x21, gs.length - 1, rtag, 0, status, 0⟩ gs with reply := data, replyStatus := status }

/-! ### PBXBASE (R555, R569) -/

/-- The region that a value of PBXBASE names (R569). -/
def ringBase (value : Nat) : Nat := bitsOf value 43 16 * 2 ^ 16

/-- EN := 1: the index lines of the module become zero, the ring starts afresh, the inbound producer line is watched (R427, R555, R557). -/
def State.enableRing (p value : Nat) (s : State) : State :=
  if (s.pd p).state ≠ .closed then s
  else
    let b := ringBase value
    let s := s.modRing p fun _ => { Ring.off with en := true, base := b }
    let s := (s.sendComp (.postbox p) (b + 0x8040) (List.replicate 64 0)).sendComp (.postbox p) (b + 0x8080) (List.replicate 64 0)
    s.watch (b + 0x8000)

/-- EN := 0: the ring stops and what was not read or not posted is discarded; BASE is kept as written (R20, R569). -/
def State.disableRing (p value : Nat) (s : State) : State :=
  if (s.pd p).state ≠ .closed then s
  else
    let r := (s.pd p).ring
    let s := s.modRing p fun _ => { Ring.off with base := ringBase value }
    if !r.en then s
    else (s.modMcl fun m =>
      { m with watched := m.watched.filter fun a => !(decide (r.base ≤ a) && decide (a < r.base + 0x8100)) }).unwatch (r.base + 0x8000)

/-- A CFG_WR, taken and answered, with its effect on a register (R425, R432). -/
def State.cfgMessage (s : State) (h : McHead) (rtag : Nat) (f : State → State) : State :=
  s.onMessage h true 1 1 0 fun s => f (s.modMcl fun m => m.answer rtag 0 [])

def enablesRing (h : McHead) (rtag p value : Nat) (s : State) : State := s.cfgMessage h rtag (State.enableRing p value)

def execPbxbaseEnable (h : McHead) (rtag p value : Nat) (s : State) : Out := onUnit (p < 16) (enablesRing h rtag p value s)

def disablesRing (h : McHead) (rtag p value : Nat) (s : State) : State := s.cfgMessage h rtag (State.disableRing p value)

def execPbxbaseDisable (h : McHead) (rtag p value : Nat) (s : State) : Out := onUnit (p < 16) (disablesRing h rtag p value s)

/-- What a write to configuration space does: PBXBASEp and WINCTL.RAW are written, every other offset ignores it (R563, R569, R632). -/
def State.configWrite (offset value : Nat) (s : State) : State :=
  if 0x1080 ≤ offset ∧ offset ≤ 0x10F8 ∧ offset % 8 = 0 then
    let p := (offset - 0x1080) / 8
    if bitOf value 63 then s.enableRing p value else s.disableRing p value
  else if offset = 0x1100 then { s with freeze := { s.freeze with raw := bitOf value 0 } } else s

/-- CFG_WR to a register, and CFG_RD, which no row of the table brings, where there is no value: it is answered with the register in bytes 0 to 7 (R425, R432, R563; log 27). -/
def configures (h : McHead) (rtag offset : Nat) (value : Option Nat) (s : State) : State :=
  match value with
  | some v => s.cfgMessage h rtag (State.configWrite offset v)
  | none => s.onMessage h true 1 0 0 fun s => s.modMcl fun m => m.answer rtag 0 (leBytes 8 (s.configReg offset) ++ List.replicate 56 0)

def execCfgWr (h : McHead) (rtag offset : Nat) (value : Option Nat) (s : State) : Out := .next (configures h rtag offset value s)

/-- AP_RD: count + 1 granules of the read-out aperture; POISON where one holds an uncorrectable error (R425, R631, R432). -/
def apertureReads (h : McHead) (rtag addr count : Nat) (s : State) : State :=
  s.onMessage h (decide (addr % 64 = 0 ∧ count ≤ 31 ∧ addr / 4096 = (addr + 64 * count) / 4096)) 1 0 0 fun s =>
    let as' := (List.range (count + 1)).map fun i => addr + 64 * i
    let bad := as'.any s.granuleBad
    s.modMcl fun m => m.answer rtag (bit bad) ((as'.map s.granule).flatten)

def execApRd (h : McHead) (rtag addr count : Nat) (s : State) : Out := .next (apertureReads h rtag addr count s)

/-! ### Watches and completions (R427, R432, R562) -/

/-- A request of ring p's postbox region, a watch of its lines among them, or of a token buffer of paddock p (R562). -/
def State.ofRing (s : State) (p : Nat) (r : McReq) : Bool :=
  let b := (s.pd p).ring.base
  r.kind == .postbox p || r.kind == .token p || (r.kind == .watch && decide (b ≤ r.addr) && decide (r.addr < b + 0x8100))

/-- An access of ring p has waited longer than 10 ms (R562). -/
def State.postboxWaits (s : State) (p : Nat) : Bool :=
  s.mcl.requests.any fun r => s.ofRing p r && decide (r.since + 1000000 < s.now16)

/-- HEALTH.MCL_STALL ends for a ring when no access of it waits (R562). -/
def State.unstall (s : State) : State :=
  (List.range 16).foldl (fun s p =>
    if (s.pd p).ring.stalled && !s.postboxWaits p then s.modRing p fun r => { r with stalled := false } else s) s

/-- The ring whose outbound consumer line lies in a granule, if any: its ostler wakes and posts what waits (R427, R560). -/
def State.wake (s : State) (granule : Nat) : State :=
  (List.range 16).foldl (fun s p =>
    let r := (s.pd p).ring
    if r.en && decide ((r.base + 0x80C0) / 64 = granule / 64) && !s.frozen then s.flushRing p else s) s

/-- INV: the companion's write of the granule follows the answer; a watch ends and the ostler reads the granule again (R427). -/
def invalidates (h : McHead) (rtag addr : Nat) (data : List Byte) (s : State) : State :=
  s.onMessage h (decide (addr % 64 = 0) && inWindow addr 64) 0 0 1 fun s =>
    let s := s.modMcl fun m => m.sendMessage ⟨0x22, 0, rtag, 0, 0, 0⟩ []
    let was := s.mcl.watched.contains addr
    let s := s.wrComp addr ((data ++ List.replicate 64 0).take 64)
    if !was then s
    else
      let s := s.modMcl fun m => { m with watched := m.watched.filter (· != addr) }
      ((s.watch addr).wake addr).unstall

def execInv (h : McHead) (rtag addr : Nat) (data : List Byte) (s : State) : Out := .next (invalidates h rtag addr data s)

/-- The status that halts a job whose access was answered with POISON, UNMAPPED or ABORTED (R432). -/
def mclStatus (status : Nat) : Nat := if status = 1 then 0x0302 else if status = 2 then 0x0104 else 0x0103

/-- A request has been answered: its tag and its room are free (R424, R551). -/
def Mcl.close (m : Mcl) (rtag : Nat) : Mcl := ({ m with requests := m.requests.filter (·.rtag != rtag) } : Mcl).flow

/-- A request is answered with a status that is not OK: postbox and token accesses are sent again after 1 ms; any other access halts its job (R432). A letter's buffer has no job to halt. -/
def State.answeredBad (s : State) (r : McReq) (status : Nat) : State :=
  match r.kind with
  | .job p c _ => (s.modMcl (·.close r.rtag)).haltJob p c (mclStatus status)
  | .buffer | .gone => s.modMcl (·.close r.rtag)
  | _ => s.modMcl fun m => { m with requests := m.requests.map fun q =>
      if q.rtag = r.rtag then { q with waits := true, again := s.now16 + 100000 } else q }

/-- What a completion brings: the granule of a watch, or those that a job reads (R425, R427). -/
def State.delivered (s : State) (r : McReq) (data : List Byte) : State :=
  let bs := (data ++ List.replicate r.bytes 0).take r.bytes
  match r.kind with
  | .watch =>
    let s := s.wrComp r.addr bs
    let s := if 64 ≤ s.mcl.watched.length then s else s.modMcl fun m => { m with watched := r.addr :: m.watched }
    (s.wake r.addr).unstall
  | .job _ _ _ => (s.wrComp r.addr bs).unstall
  | _ => s.unstall

/-- A completion (R432). -/
def completes (h : McHead) (rtag status : Nat) (withData : Bool) (data : List Byte) (s : State) : State :=
  s.onMessage h (decide (status ≤ 3)) 0 0 0 fun s =>
    match s.mcl.requests.find? (·.rtag == rtag) with
    | none => s
    | some r =>
      if status ≠ 0 then s.answeredBad r status
      else
        let s := s.modMcl (·.close rtag)
        if withData then s.delivered r data else s.unstall

def execCmp (h : McHead) (rtag status : Nat) (s : State) : Out := .next (completes h rtag status false [] s)
def execCmpD (h : McHead) (rtag status : Nat) (data : List Byte) (s : State) : Out := .next (completes h rtag status true data s)

/-- After 1 ms a postbox or token-buffer access that failed is sent again (R432). -/
def retriesPostbox (rtag : Nat) (s : State) : State :=
  if s.mcl.requests.any (fun r => r.rtag == rtag && r.waits && decide (r.again ≤ s.now16)) then
    s.modMcl fun m => ({ m with requests := m.requests.map fun r =>
      if r.rtag = rtag then { r with rtag := noTag, waits := false, sent := false } else r } : Mcl).flow
  else s

def execPostboxRetryTimer (rtag : Nat) (s : State) : Out := .next (retriesPostbox rtag s)

/-- A companion-window access of the context has waited past its MCL timeout, which is one (R91, R562). -/
def State.mclLate (s : State) (p c : Nat) : Bool :=
  match s.ctx p c with
  | none => false
  | some x => x.parcel.mclTimeout != noLimit &&
      s.mcl.requests.any fun r => r.kind.ofJob p c && decide (r.since + x.parcel.mclTimeout ≤ s.now16)

/-- Then the job halts with 0x0103 (R562). -/
def mclTimesOut (p c : Nat) (s : State) : State :=
  if s.running && s.mclLate p c then (s.modMcl (·.dropJob p c)).haltJob p c 0x0103 else s

def execMclTimeout (p ctx : Nat) (s : State) : Out := onUnit (p < 16 ∧ ctx < 8) (mclTimesOut p ctx s)

/-- A postbox or token-buffer access has waited 10 ms: HEALTH.MCL_STALL (R562). -/
def execMclStall (p : Nat) (s : State) : Out :=
  onUnit (p < 16) (if s.postboxWaits p then s.modRing p fun r => { r with stalled := true } else s)

/-! ### Credit and codewords (R429, R430) -/

/-- CREDIT returns request slots and data units (R429). -/
def creditReturns (h : McHead) (requests dataUnits : Nat) (s : State) : State :=
  s.onMessage h true 0 0 0 fun s => s.modMcl fun m =>
    ({ m with reqCredit := m.reqCredit + requests, dataCredit := m.dataCredit + dataUnits } : Mcl).flow

def execCredit (h : McHead) (requests dataUnits _invs : Nat) (s : State) : Out := .next (creditReturns h requests dataUnits s)

/-- Codewords that wait for room go out (R430). -/
def Mcl.drain (m : Mcl) : Mcl := m.unsent.foldl Mcl.sendWord { m with unsent := [] }

/-- Codewords up to cseq are acknowledged and leave the replay buffer (R430). -/
def Mcl.freed (m : Mcl) (cseq : Nat) : Mcl :=
  { m with held := if m.held.any (·.cseq == cseq) then (m.held.dropWhile (·.cseq != cseq)).drop 1 else m.held, retry := (0, 0) }

def Mcl.acked (m : Mcl) (cseq : Nat) : Mcl := (m.freed cseq).drain

def execAck (h : McHead) (cseq : Nat) (s : State) : Out := .next (s.onMessage h true 0 0 0 fun s => s.modMcl (·.acked cseq))

/-- RETRY: the codewords from cseq are sent again in order; eight times the same in a row, MCL retrains (R430). -/
def retriesFrom (h : McHead) (cseq : Nat) (s : State) : State :=
  s.onMessage h true 0 0 0 fun s =>
    let n := if s.mcl.retry.1 = cseq then s.mcl.retry.2 + 1 else 1
    let s := s.modMcl fun m => { m with retry := (cseq, n), again := (m.held.dropWhile (·.cseq != cseq)).map (·.cseq) }
    if 8 ≤ n then s.modMcl Mcl.retrain else s

def execRetry (h : McHead) (cseq : Nat) (s : State) : Out := .next (retriesFrom h cseq s)

/-! ### Codewords that carry no units (R423, R431) -/

/-- What a lane of the module sends in a training: the lanes that it will use, and what it has taken (R431). -/
def State.trainWord (s : State) (good step lane req resp : Nat) : TrainWord :=
  let ls := s.mcl.pick good
  ⟨step, lane, req, resp, (ls.map fun l => 2 ^ l).sum, ls.length, if s.mcl.began then (s.mcl.cseqIn + 255) % 256 else 0, s.mcl.began, s.otp.serial⟩

end Sys2Proof.Machine
end

