-- ==== Sys2Proof/Machine/Links.lean ====
section
/-!
DEFINITION. Lanes, port states and retraining of the link ports, MCL and the bridge
(R31, R416-R421, R430, R431), and the delivery of frames (R412-R415).
-/

namespace Sys2Proof.Machine

/-! ### Lane retirement (R31, R43, R417) -/

/-- Count of a lane in the present window. -/
def countOf (cs : List LaneCount) (lane : Nat) : LaneCount := (cs.find? (·.lane == lane)).getD ⟨lane, 0, 0, 0⟩

def bumpCount (cs : List LaneCount) (lane : Nat) (f : LaneCount → LaneCount) : List LaneCount :=
  f (countOf cs lane) :: cs.filter (·.lane != lane)

/-- Thresholds of R417: corrected symbols, uncorrectable codewords, losses of lock. -/
def correctedLimit : LaneUnit → Nat
  | .port _ => 16777216
  | .mcl => 8388608
  | .bridge _ => 4194304
def uncorrectableLimit : LaneUnit → Nat
  | .bridge _ => 4
  | _ => 8
def lockLimit : LaneUnit → Nat
  | .bridge _ => 2
  | _ => 3

/-- LANE_RETIRED (R581): subj is the port, 0x40 for MCL, 0x41 for the bridge. -/
def laneRetired (u : LaneUnit) (crit lane : Nat) : OutLetter :=
  event 0x00C9 0 (match u with | .port p => p | .mcl => 0x40 | .bridge _ => 0x41) 0xFF crit lane []

/-- A link lane is retired: lane 4 takes its place and the port retrains; a second failure takes the port OUT (R43, R417). -/
def State.retireLinkLane (s : State) (p lane crit : Nat) : State :=
  let x := s.port p
  if x.state = .out ∨ x.retired = some lane then s
  else if x.retired.isNone ∧ lane ≠ 4 then
    let s := (s.modPort p fun x => { x with retired := some lane, state := .training })
    (s.mapAdd ⟨5, dieOfPort p, 8 * p + lane, 4, 0⟩).postShared (laneRetired (.port p) crit lane)
  else if x.retired.isNone then s
  else
    let s := s.modPort p fun x => { x with state := .out }
    let s := (s.mapAdd ⟨5, dieOfPort p, 8 * p + lane, noUnit, 0⟩).postShared (laneRetired (.port p) crit lane)
    s.postShared (event 0x00D3 0 p 0xFF 0 0 [])

/-- An MCL lane is retired; a spare takes its place, MCL retrains (R43, R417, R431). -/
def State.retireMclLane (s : State) (lane crit : Nat) : State :=
  if s.mcl.retired.contains lane then s
  else
    let spare := ([16, 17].find? fun l => !s.mcl.retired.contains l && !s.mcl.active.contains l && l != lane).getD noUnit
    let s := s.modMcl fun m => { m.retrain with retired := lane :: m.retired }
    (s.mapAdd ⟨6, 0, lane, spare, 0⟩).postShared (laneRetired .mcl crit lane)

/-- Groups 64-67 are the spares of a direction; the first that is neither retired nor in use takes a failing group's place; a spare that was not in use needs none (R31). -/
def State.bridgeSpare (s : State) (dir lane : Nat) : Nat :=
  let used := (s.remount.entries.filter fun e => e.kind == 7 && e.die == dir).map (·.replacement)
  if 64 ≤ lane && !used.contains lane then noUnit else
  ((span 64 4).find? fun g => g != lane && !s.bridge.retired.contains (dir * 256 + g) && !used.contains g).getD noUnit

def State.retireGroup (s : State) (dir lane crit : Nat) : State :=
  if s.bridge.retired.contains (dir * 256 + lane) then s
  else
    let sp := s.bridgeSpare dir lane
    let s := { s with bridge := { s.bridge with retired := s.bridge.retired ++ [dir * 256 + lane] } }
    (s.mapAdd ⟨7, dir, dir * 256 + lane, sp, 0⟩).postShared (laneRetired (.bridge dir) crit lane)

/-- The bridge's bandwidth in one direction is halved by a fifth failure (R31). -/
def Bridge.halved (b : Bridge) (dir : Nat) : Bool := decide (5 ≤ (b.retired.filter fun g => g / 256 == dir).length)

def State.retireLane (s : State) (u : LaneUnit) (lane crit : Nat) : State :=
  match u with
  | .port p => s.retireLinkLane p lane crit
  | .mcl => s.retireMclLane lane crit
  | .bridge d => s.retireGroup d lane crit

def State.countsOf (s : State) : LaneUnit → List LaneCount
  | .port p => (s.port p).counts
  | .mcl => s.mcl.counts
  | .bridge d => (s.bridge.counts.filter fun c => c.lane / 256 == d).map fun c => { c with lane := c.lane % 256 }

def State.setCounts (s : State) (u : LaneUnit) (cs : List LaneCount) : State :=
  match u with
  | .port p => s.modPort p fun x => { x with counts := cs }
  | .mcl => s.modMcl fun m => { m with counts := cs }
  | .bridge d => { s with bridge := { s.bridge with
      counts := (s.bridge.counts.filter fun c => c.lane / 256 != d) ++ cs.map fun c => { c with lane := d * 256 + c.lane } } }

/-- Corrected symbols of a lane; one that has more than its limit in the window is retired (R417). -/
def State.countSymbol (s : State) (u : LaneUnit) (lane n : Nat) : State :=
  if n = 0 then s
  else
    let cs := bumpCount (s.countsOf u) lane fun c => { c with corrected := c.corrected + n }
    let s := s.setCounts u cs
    if correctedLimit u < (countOf cs lane).corrected then s.retireLane u lane 1 else s

/-- Symbols of a corrected codeword count with their lanes (R417). -/
def State.countSymbols (s : State) (u : LaneUnit) (active : List Nat) (es : List (Nat × Nat)) : State :=
  active.foldl (fun s l => s.countSymbol u l (laneErrors active es l)) s

/-- One more event of a lane in its window; a lane that meets a criterion is retired (R417). -/
def State.countLane (s : State) (u : LaneUnit) (lane : Nat) (isLock : Bool) : State :=
  let cs := bumpCount (s.countsOf u) lane fun c =>
    if isLock then { c with locks := c.locks + 1 } else { c with uncorrectable := c.uncorrectable + 1 }
  let s := s.setCounts u cs
  let c := countOf cs lane
  if isLock ∧ lockLimit u ≤ c.locks then s.retireLane u lane 3
  else if !isLock ∧ uncorrectableLimit u ≤ c.uncorrectable then s.retireLane u lane 2
  else s

/-- The unit and lane exist (R31, R407, R422). -/
def laneExists : LaneUnit → Nat → Bool
  | .port p, l => decide (p < 32 ∧ l < 5)
  | .mcl, l => decide (l < 18)
  | .bridge d, l => decide (d < 2 ∧ l < 68)

def execLaneLockLoss (u : LaneUnit) (lane : Nat) (s : State) : Out := onUnit (laneExists u lane) (s.countLane u lane true)

/-- An uncorrectable codeword counts for the lane in which its errored symbols mostly lie, if there is one (R417). -/
def State.countCodeword (s : State) (u : LaneUnit) (active : List Nat) (es : List (Nat × Nat)) : State :=
  match mostLane active es with
  | some l => s.countLane u l false
  | none => s

/-- When the present window of a unit began (R417). -/
def State.windowOf (s : State) : LaneUnit → Nat
  | .port p => (s.port p).windowAt
  | .mcl => s.mcl.windowAt
  | .bridge d => if d = 0 then s.bridge.windowAt.1 else s.bridge.windowAt.2

/-- Cycles of a window (R417). -/
def laneWindow : Nat := 10000000

/-- The next window follows without a gap (R417). -/
def State.nextWindow (s : State) : LaneUnit → State
  | .port p => s.modPort p fun x => { x with counts := [], windowAt := x.windowAt + laneWindow }
  | .mcl => s.modMcl fun m => { m with counts := [], windowAt := m.windowAt + laneWindow }
  | .bridge d =>
    let s := s.setCounts (.bridge d) []
    let w := s.bridge.windowAt
    { s with bridge := { s.bridge with windowAt := if d = 0 then (w.1 + laneWindow, w.2) else (w.1, w.2 + laneWindow) } }

/-- A window of 10,000,000 cycles ends: with the corrected symbols and uncorrectable codewords of each lane that no command has shown, lanes that meet a criterion are retired, and counting starts afresh (R17, R417; log 11). -/
def windowEnds (u : LaneUnit) (counts : List (Nat × Nat)) (s : State) : State :=
  if s.now16 < s.windowOf u + laneWindow then s
  else
    let cs := s.countsOf u
    let s := counts.zipIdx.foldl (fun s (cl : (Nat × Nat) × Nat) =>
      if correctedLimit u < cl.1.1 + (countOf cs cl.2).corrected then s.retireLane u cl.2 1
      else if uncorrectableLimit u ≤ cl.1.2 + (countOf cs cl.2).uncorrectable then s.retireLane u cl.2 2 else s) s
    s.nextWindow u

def execLaneWindowEnd (u : LaneUnit) (counts : List (Nat × Nat)) (s : State) : Out :=
  onUnit (laneExists u 0) (windowEnds u counts s)

/-! ### MCL codewords and training (R430, R431) -/

/-- A codeword arrives with errors. One that the code cannot correct is not taken; RETRY is sent with the cseq expected, and the lane that carried most of the errors counts (R417, R422, R430). The message of a corrected one comes with its own command. -/
def mclErrors (es : List (Nat × Nat)) (s : State) : State :=
  if !s.hearsMcl then s
  else if corrects es then s.hearsWord.countSymbols .mcl s.mcl.active es
  else (s.hearsWord.modMcl fun m => { m.sendMessage ⟨0x32, 0, 0, 0, 0, m.cseqIn⟩ [] with asksRetry := true }).countCodeword .mcl s.mcl.active es

def execMclUncorrectableCodeword (errors : List (Nat × Nat)) (s : State) : Out := .next (mclErrors errors s)

/-- No MCL codeword aligns for 5,000 reference cycles: MCL retrains (R17, R431). -/
def mclSilent (s : State) : State := if s.mcl.heardAt + 5000 ≤ s.now16 then s.modMcl Mcl.retrain else s

def execMclAlignTimeout (s : State) : Out := .next (mclSilent s)

/-- Training reaches DONE. Fewer than 8 good lanes train nothing; after a retrain the far end's taken value frees what it holds, the rest is sent again, and then what waited (R429, R431). -/
def mclTrains (good taken : Nat) (valid : Bool) (s : State) : State :=
  if s.mcl.trained || s.railLow 4 || decide (s.start.phase < 3) || decide ((s.mcl.pick good).length < 8) then s
  else s.modMcl fun m =>
    let m := m.trainedWith good s.now16
    let m := if valid then m.freed taken else m
    ({ m with again := m.held.map (·.cseq) } : Mcl).drain.flow

def execMclTrainingDone (good taken : Nat) (valid : Bool) (s : State) : Out := .next (mclTrains good taken valid s)

/-! ### Sending frames (R411-R414, R551) -/

/-- Among the parcels of a job: the one that an epoch is proposed for, then one that has not halted, then the later epoch (log 77). -/
def beforeInJob (a b : Nat × Ctx) : Bool :=
  let rank (x : Ctx) : Nat := if x.tr.proposal.isSome then 0 else if x.state = .halted then 2 else 1
  if rank a.2 ≠ rank b.2 then decide (rank a.2 < rank b.2) else decide (b.2.tr.epoch ≤ a.2.tr.epoch)

/-- A closing paddock's tags are unregistered once its contexts have halted (R518). -/
def Paddock.unregistered (d : Paddock) : Bool := d.state == .closing && (d.withCtx fun x => x.state != .halted).isEmpty

/-- The loaded job that has registered a collection tag. -/
def State.jobOf (s : State) (tag : Nat) : Option (Nat × Nat × Ctx) :=
  (List.range 16).findSome? fun p => if (s.pd p).unregistered then none else (bestBy beforeInJob ((s.pd p).withCtx fun x => x.parcel.hasTag tag)).map fun cx => (p, cx.1, cx.2)

/-- Port toward a role by the route table; none where it holds 0xFF (R437). -/
def Parcel.routeTo (x : Parcel) (role : Nat) : Option Nat :=
  match (x.bodies fun | .route off len => some (off, len) | _ => none).head? with
  | none => none
  | some (off, len) =>
    if len ≤ role then none
    else match x.blob[off + role]? with
      | some b => if b.toNat < 32 then some b.toNat else none
      | none => none

/-- The paddock whose job a tag names (R415). -/
def State.padOf (s : State) (tag : Nat) : Nat := match s.jobOf tag with | some (p, _, _) => p | none => 16

/-- Send a frame of n cells on a port (R413, R414). -/
def State.sendFrame (s : State) (port cells tree tag : Nat) (body : FrameBody) : State :=
  s.modPort port (·.sendFrame (s.padOf tag) cells tree tag body)

/-! ### Port states (R416, R418-R420) -/

/-- A codeword of the peer has come (R420). -/
def State.hearsPort (s : State) (port : Nat) : State := s.modPort port fun x => { x with heardAt := s.now16 }

/-- Nothing but HOLD, or nothing at all, has been heard for 5,000 cycles (R17, R420). -/
def State.quietPort (s : State) (port : Nat) : Bool := decide ((s.port port).heardAt + 5000 ≤ s.now16)

/-- A retrain case of R420, once its 5,000 cycles have passed. -/
def silent (port : Nat) (s : State) : State := if s.quietPort port then s.modPort port Port.retrain else s

def execLinkAlignTimeout (port : Nat) (s : State) : Out := onUnit (port < 32) (silent port s)
def execHoldTimeout (port : Nat) (s : State) : Out := onUnit (port < 32) (silent port s)

/-- A DOWN port tries again every 100,000 cycles (R420). -/
def execLinkRetrainRetry (port : Nat) (ok : Bool) (s : State) : Out :=
  onUnit (port < 32) (s.modPort port fun x =>
    if x.state ≠ .down ∨ s.now16 < x.since + 100000 then x
    else if ok ∧ !s.railLow 4 then { x with state := .training } else { x with since := s.now16 })

/-- Training ends and the LINK exchange names the peer; a failed one leaves the port DOWN (R419, R420). -/
def execLinkTrainingDone (port : Nat) (ok : Bool) (serial postcode : Nat) (s : State) : Out :=
  onUnit (port < 32) (s.modPort port fun x =>
    if x.state ≠ .training ∨ s.railLow 4 then x
    else if ok then x.trained s.linkName s.now16 serial postcode else x.fails s.now16)

/-! ### Frames that come (R412-R414) -/

/-- Ask the peer for a resend from the first frame not taken (R413). -/
def State.askResend (s : State) (p : Nat) : State := s.modPort p fun x => { x with asksResend := true, owes := true }

/-- A codeword arrives with errors: one that the code cannot correct is not taken, a resend is asked, and the lane that carried most of the errors counts (R410, R413, R417). The frame of a corrected one comes with its own command. -/
def linkErrors (port : Nat) (es : List (Nat × Nat)) (s : State) : State :=
  let x := s.port port
  if !x.carries then s
  else if corrects es then (s.hearsPort port).countSymbols (.port port) x.active es
  else ((s.hearsPort port).askResend port).countCodeword (.port port) x.active es

def execLinkUncorrectableCodeword (port : Nat) (errors : List (Nat × Nat)) (s : State) : Out :=
  onUnit (port < 32) (linkErrors port errors s)

/-- What a port sends while it has no frame: TRAIN, HOLD under a halter, IDLE; nothing while it is DOWN or OUT (R411, R416, R624). -/
def State.restWord (s : State) (port : Nat) : Option LinkWord :=
  let x := s.port port
  let word (t : CodeType) : LinkWord := ⟨t, 0, 0, x.wordOut, []⟩
  match x.state with
  | .down | .out => none
  | .training => some (word .train)
  | .up | .spared => some (word (if s.freeze.halter then .hold else .idle))

/-- The credit of a transfer whose frames this module forwards is passed on toward its source (R437, R467; log 54). -/
def State.passCredit (s : State) (stage cells : Nat) : State :=
  if stage < 2 ^ 96 then s
  else
    let src := stage / 2 ^ 32 % 2 ^ 32
    match s.jobOf (stage / 2 ^ 64 % 2 ^ 32) with
    | none => s
    | some (_, _, x) =>
      if x.parcel.role = src then s
      else match x.parcel.routeTo src with
        | some q => s.modPort q fun y => y.giveBack stage cells
        | none => s

/-- A LINK frame (R413, R414, R419). One whose check fails is not taken. -/
def linkFrame (port : Nat) (f : FrameHead) (i : LinkInfo) (s : State) : State :=
  if !(s.port port).carries then s
  else if !f.crcOk then (s.hearsPort port).askResend port
  else
    let s := (s.hearsPort port).modPort port fun x =>
      let x := (x.acked i.acked).resends i.resend
      let x := i.credits.foldl (fun x c => x.addCredit c.1 c.2) x
      ({ x with serial := i.serial, postcode := i.postcode } : Port).pump
    i.credits.foldl (fun s c => s.passCredit c.1 c.2) s

def execLink (port : Nat) (f : FrameHead) (i : LinkInfo) (s : State) : Out := onUnit (port < 32) (linkFrame port f i s)

end Sys2Proof.Machine
end

