-- ==== Sys2Proof/Machine/Admit.lean ====
section
/-!
DEFINITION. Requests of a serving paddock (R478-R504): admission with its time test,
the queue and the queue pass, CANCEL, REQUEST_READ and deadlines, and the swap of the
active variant (R511, R512).
-/

namespace Sys2Proof.Machine

/-! ### Requests and variants (R478, R487, R511) -/

/-- Queued requests of the paddock, with their contexts. -/
def Paddock.queued (d : Paddock) : List (Nat × Stream) := d.servers.flatMap fun cx => cx.2.sv.queue.map fun r => (cx.1, r)

/-- The queued or live request of a tag, with its context, and whether it is queued (R478). -/
def Paddock.request? (d : Paddock) (tag : Nat) : Option (Nat × Stream × Bool) :=
  (d.servers.flatMap fun cx =>
    (cx.2.sv.queue.map fun r => (cx.1, r, true)) ++ (cx.2.sv.live.map fun r => (cx.1, r, false))).find? fun e => e.2.1.tag == tag

/-- The tag of a request that has retired since its variant was loaded. -/
def Paddock.wasRetired (d : Paddock) (tag : Nat) : Bool := d.servers.any fun cx => cx.2.sv.retired.contains tag

/-- The context that holds a variant (R483). -/
def Paddock.variant? (d : Paddock) (model : Nat) : Option (Nat × Ctx × ServingRec) :=
  (d.servers.filterMap fun cx => cx.2.parcel.servingRec.map fun v => (cx.1, cx.2, v)).find? fun e => e.2.2.model == model

/-- Place in the order of reading that the next request takes. -/
def Paddock.nextSeq (d : Paddock) : Nat := 1 + (d.servers.flatMap fun cx => (cx.2.sv.queue ++ cx.2.sv.streams).map (·.seq)).foldl max 0

/-- The earlier of two requests in the order of reading. -/
def earlier (a b : Nat × Stream) : Nat × Stream := if b.2.seq < a.2.seq then b else a

/-- The head of a class in the queue (R501, R502). -/
def Paddock.head? (d : Paddock) (cls : Nat) : Option (Nat × Stream) :=
  match d.queued.filter fun e => e.2.cls == cls with
  | [] => none
  | e :: es => some (es.foldl earlier e)

/-- The first queued request in class order (R512). -/
def Paddock.firstQueued (d : Paddock) : Option (Nat × Stream) := (List.range 4).findSome? d.head?

/-- Nothing is left for a serving context (R525). -/
def Ctx.servesNone (x : Ctx) : Bool := x.sv.live.isEmpty && x.sv.queue.isEmpty

/-! ### Memory, slots and time (R482, R497-R499) -/

/-- Bytes of a KV block (R279). -/
def ServingRec.blockBytes (v : ServingRec) : Nat := 128 * v.d + (if isMx v.fmtKv then 4 * v.d else 0)

/-- KV blocks of a variant's pool (R483). -/
def Parcel.poolBlocks (x : Parcel) (v : ServingRec) : Nat :=
  (v.kvPool.map fun n => (x.desc n).count / v.blockBytes).sum

/-- KV blocks that a request needs (R497). -/
def ServingRec.need (v : ServingRec) (f : AdmitFields) : Nat :=
  v.kvLayers * v.kvHeads * ceilDiv (f.promptLen + f.maxNew + f.spec) 64

/-- KV blocks that no stream of the variant holds. -/
def Ctx.freeKv (x : Ctx) (v : ServingRec) : Nat := x.parcel.poolBlocks v - (x.sv.streams.map (·.need)).sum

/-- The lowest free slot (R482, R500). -/
def Paddock.freeSlot (d : Paddock) : Option Nat :=
  let used := d.liveSlots
  (List.range (512 * d.owned.blocks.length)).find? fun n => !used.contains n

/-- The lowest pace of the dies that hold the paddock's stables or sheds, in handshakes of the last governor interval of 100 us (R65, R498). -/
def State.paceOf (s : State) (p : Nat) : Nat :=
  let d := s.pd p
  let dies := (bitsSet 16 d.owned.groups).map dieOfGroup ++ (bitsSet 24 d.owned.packages).map fun k => if k < 12 then 0 else 1
  match dies.eraseDups.map fun i => (s.die i).pace with
  | [] => 0
  | a :: as => as.foldl min a

/-- step_time(n) in reference cycles: ceil(events × margin × 10^4 / handshakes in 100 us) (R498). -/
def ServingRec.stepTime (v : ServingRec) (pace n : Nat) : Nat :=
  let ev := v.cBase + v.cStream * n + v.cChunk * (v.budget / v.chunk)
  let m := Extn.dy (Fp.val32 v.margin)
  let num := ev * m.m.toNat * 10000
  if 0 ≤ m.e then ceilDiv (num * 2 ^ m.e.toNat) pace else ceilDiv num (pace * 2 ^ (-m.e).toNat)

/-- The predicted step time; before the first governor interval has measured a pace it is a free value (log 66). -/
def State.stepTime (s : State) (p : Nat) (v : ServingRec) (n : Nat) : Nat × State :=
  if s.paceOf p = 0 then s.draw else (v.stepTime (s.paceOf p) n, s)

/-- The steps that a stream still needs (R498). -/
def Stream.stepsLeft (r : Stream) (x : Ctx) : Nat :=
  let chunk := match x.parcel.servingRec with | some v => v.chunk | none => 1
  ceilDiv (r.n - r.done) chunk + (r.maxNew - r.delivered)

/-- Reference cycles left before a request's expiry (R482, R499); none without a deadline. -/
def State.remaining (s : State) (p : Nat) (r : Stream) : Option Nat :=
  if !r.timed then none
  else match s.expiries.find? fun e => e.paddock == p && e.kind == .deadline r.tag with
    | some e => some (e.endAt - s.now p)
    | none => some 0

/-- A stream keeps within its deadline if each of its steps takes t (R499). -/
def State.inTime (s : State) (p t : Nat) (x : Ctx) (r : Stream) : Bool :=
  match s.remaining p r with
  | none => true
  | some left => decide (r.stepsLeft x * t ≤ left)

/-- time_ok (R499). -/
def State.timeOk (s : State) (p : Nat) (x : Ctx) (v : ServingRec) (r : Stream) : Bool × State :=
  let live := (s.pd p).liveStreams
  let (t, s') := s.stepTime p v (live.length + 1)
  (s.inTime p t x r && live.all fun e => s.inTime p t e.1 e.2, s')

/-! ### Live and retired (R487, R488, R502, R504, R525) -/

/-- A serving context with nothing left goes IDLE, one that has gained a stream is READY; with queued requests alone it is BLOCKED, since what they wait for comes over MCL (R512, R525; log 152). A step in progress ends in its own DRAIN. -/
def State.settleServer (s : State) (p c : Nat) : State :=
  match s.ctx p c with
  | none => s
  | some x =>
    if x.state = .halted ∨ (x.sv.phase ≠ 0 ∧ x.sv.live.isEmpty) then s
    else if x.servesNone then (if x.state = .idle then s else s.enterState p c .idle)
    else if x.sv.live.isEmpty then (if x.state = .blocked then s else s.enterState p c .blocked)
    else s.makeReady p c

/-- A request takes a slot and its KV; its KV block list lies where the spec does not say (R482, R500; log 67). -/
def State.bindSlot (s : State) (p c slot : Nat) (r : Stream) : State :=
  let (v, s) := s.draw
  let r := { r with slot := some slot, kvTable := v % 2 ^ 48 }
  (s.modCtx p c fun x => x.modSv fun v =>
    { v.modStreams (· ++ [r]) with queue := v.queue.filter (·.tag != r.tag) }).settleServer p c

/-- A queued request retires at once (R502, R504). -/
def State.retireQueued (s : State) (p c : Nat) (r : Stream) (status : Nat) : State :=
  match s.ctx p c with
  | none => s
  | some x =>
    let s := s.retireStream p c r status x.sv.step
    let s := s.dropExpiries fun e => e.paddock == p && e.ctx == c && e.kind == .deadline r.tag
    (s.modCtx p c fun x => x.modSv fun v =>
      { v with queue := v.queue.filter (·.tag != r.tag), retired := v.retired ++ [r.tag] }).settleServer p c

/-- One class of the queue pass: heads are admitted or refused until one cannot be placed; true where the pass goes on with the next class (R502). -/
def State.passClass (s : State) (p cls : Nat) : Nat → State × Bool
  | 0 => (s, true)
  | n + 1 =>
    match (s.pd p).head? cls with
    | none => (s, true)
    | some (c, r) =>
      match s.ctx p c, (s.ctx p c).bind fun x => x.parcel.servingRec, (s.pd p).freeSlot with
      | some x, some v, some slot =>
        if !x.sv.active || decide (x.freeKv v < r.need) then (s, false)
        else
          let (ok, s) := s.timeOk p x v r
          if ok then
            let s := s.bindSlot p c slot r
            (s.postEvent p (event 0x00C2 r.tag 0 c cls slot [])).passClass p cls n
          else (s.retireQueued p c r 0x0713).passClass p cls n
      | _, _, _ => (s, false)

/-- The classes in order (R502). -/
def State.passClasses (s : State) (p : Nat) : List Nat → State
  | [] => s
  | k :: ks =>
    let (s, on) := s.passClass p k ((s.pd p).queued.length + 1)
    if on then s.passClasses p ks else s

/-- The queue pass (R502). -/
def State.queuePass (s : State) (p : Nat) : State := s.passClasses p [0, 1, 2, 3]

/-! ### ADMIT (R478, R479, R495-R500) -/

/-- The limits of R479 other than that of spec. -/
def admitLimitsOk (f : AdmitFields) (v : ServingRec) : Bool :=
  decide (1 ≤ f.promptLen ∧ 1 ≤ f.maxNew ∧ f.promptLen + f.maxNew + f.spec ≤ v.maxCtx ∧ f.prompt % 4 = 0 ∧ f.out % 64 = 0) &&
    inWindow f.prompt (4 * f.promptLen) && inWindow f.out (64 + 4 * f.maxNew) &&
    f.param.all fun w => Extn.isFinite (Fp.val32 w)

/-- The status with which an ADMIT is refused at once, or its variant (R496, R507, R511; logs 64 and 68). -/
def State.admitCheck (s : State) (p tag : Nat) (f : AdmitFields) : Except Nat (Nat × Ctx × ServingRec) :=
  let d := s.pd p
  if d.owned.blocks.isEmpty then .error 0x0705
  else match d.variant? f.model with
    | none => .error 0x0703
    | some (c, x, v) =>
      if !x.sv.active && !v.swap then .error 0x0703
      else if !admitLimitsOk f v then .error 0x0702
      else if v.heads < f.spec then .error 0x070D
      else if (d.request? tag).isSome then .error 0x0701
      else if x.parcel.poolBlocks v < v.need f then .error 0x0704
      else if x.state = .halted then .error 0x0003
      else .ok (c, x, v)

/-- A request as it is read (R479, R487). -/
def streamOf (f : AdmitFields) (tag seq need : Nat) : Stream :=
  { tag := tag, seq := seq, cls := f.cls, model := f.model, spec := f.spec, slot := none, pend := 0, cancel := false, late := false
    seed := f.seed, n := f.promptLen, done := 0, kvLen := 0, maxNew := f.maxNew, delivered := 0, steps := 0, stop := f.stop
    prompt := f.prompt, out := f.out, need := need, guesses := [], accepted := 0, param := f.param
    timed := decide (f.deadline ≠ noLimit), kvTable := 0, decode := false, chunk := none, fresh := [], text := [], ended := none }

/-- What keeps a request from being admitted now (R500, R512): a status, or none and the slot that it takes. -/
def State.shortOf (s : State) (p : Nat) (x : Ctx) (v : ServingRec) (r : Stream) : Except Nat Nat :=
  let d := s.pd p
  if !x.sv.active || (d.queued.any fun e => decide (e.2.cls ≤ r.cls)) then .error 0x0708
  else match d.freeSlot with
    | none => .error 0x0709
    | some slot => if x.freeKv v < r.need then .error 0x070A else .ok slot

def admitPayload (outcome slot ahead : Nat) : List Byte := leBytes 1 outcome ++ leBytes 2 slot ++ leBytes 4 ahead

/-- An ADMIT that is refused: its reply gives the outcome and the status (R500). -/
def refuseAdmit (s : State) (status : Nat) : Taken := ⟨s, some (status, admitPayload 2 0 0), false⟩

/-- admit(r) (R500). The request's deadline runs from the reading of its letter (R92). -/
def actAdmit (p tag : Nat) (f : AdmitFields) (s : State) : Taken :=
  match s.admitCheck p tag f with
  | .error st => refuseAdmit s st
  | .ok (c, x, v) =>
    let d := s.pd p
    let r := streamOf f tag d.nextSeq (v.need f)
    let timed := s.addExpiry p c (.deadline tag) f.deadline
    match s.shortOf p x v r with
    | .ok slot =>
      let (ok, s') := timed.timeOk p x v r
      if ok then Taken.ok (s'.bindSlot p c slot r) (admitPayload 0 slot 0)
      else refuseAdmit { s with free := s'.free } 0x0706
    | .error short =>
      if f.queue ≠ 0 ∧ d.queued.length < v.queueLimit then
        let ahead := (d.queued.filter fun e => e.2.cls == r.cls).length
        Taken.ok ((timed.modCtx p c fun x => x.modSv fun v => { v with queue := v.queue ++ [r] }).settleServer p c) (admitPayload 1 0 ahead)
      else refuseAdmit s (if f.queue ≠ 0 then 0x0707 else short)

def execAdmitLetter (p : Nat) (h : LetterHead) (f : AdmitFields) (s : State) : Out :=
  onUnit (p < 16) (s.takeLetter p 0x0060 63 h (actAdmit p h.tag f))

/-! ### CANCEL, REQUEST_READ, deadlines (R503, R504, R506) -/

/-- A live stream of a tag is changed. -/
def Ctx.modStream (x : Ctx) (tag : Nat) (f : Stream → Stream) : Ctx :=
  x.modSv fun v => v.modStreams fun rs => rs.map fun r => if r.tag = tag ∧ r.isLive then f r else r

/-- CANCEL: a queued request retires at once, a live one is marked (R503, R504). -/
def actCancel (p tag : Nat) (s : State) : Taken :=
  match (s.pd p).request? tag with
  | none => Taken.refuse s (if (s.pd p).wasRetired tag then 0x070C else 0x070B)
  | some (c, r, true) => Taken.ok (s.retireQueued p c r 0x0712) []
  | some (c, _, false) => Taken.ok (s.modCtx p c fun x => x.modStream tag fun r => { r with cancel := true }) []

def execCancel (p : Nat) (h : LetterHead) (s : State) : Out := onUnit (p < 16) (s.takeLetter p 0x0061 0 h (actCancel p h.tag))

/-- REQUEST_READ (R478, R482, R487, R576). -/
def actRequestRead (p tag : Nat) (s : State) : Taken :=
  match (s.pd p).request? tag with
  | none =>
    if (s.pd p).wasRetired tag then Taken.ok s (leBytes 1 3 ++ leBytes 6 0 ++ List.replicate 256 0) else Taken.refuse s 0x070B
  | some (_, r, isQueued) =>
    let left := (s.remaining p r).getD noLimit
    let code := if isQueued then 0 else if r.decode then 2 else 1
    Taken.ok s (leBytes 1 code ++ leBytes 6 left ++ (if isQueued then List.replicate 256 0 else r.record))

def execRequestRead (p : Nat) (h : LetterHead) (s : State) : Out :=
  onUnit (p < 16) (s.takeLetter p 0x0062 0 h (actRequestRead p h.tag))

/-- DEADLINE_EXPIRY: a queued request retires LATE, a live one is marked DEADLINE_PASSED (R504, R505). -/
def deadlineExpires (p tag : Nat) (s : State) : State :=
  match (s.pd p).request? tag with
  | none => s
  | some (c, r, isQueued) =>
    match s.takeExpiry p c (.deadline tag) with
    | none => s
    | some s =>
      if isQueued then s.retireQueued p c { r with late := true } 0x0711
      else s.modCtx p c fun x => x.modStream tag fun r => { r with late := true }

def execDeadlineExpiry (p tag : Nat) (s : State) : Out := onUnit (p < 16) (deadlineExpires p tag s)

/-! ### The swap of the active variant (R511, R512) -/

/-- Ordinals of a parcel's LOAD records (R512). -/
def Parcel.loadRecs (x : Parcel) : List Nat := (x.recs.zipIdx.filter fun e => e.1.isLoad).map (·.2)

/-- The variant number of a context. -/
def Ctx.variant (x : Ctx) : Nat := match x.parcel.servingRec with | some v => v.model | none => 0

/-- The variant whose weights a swapping paddock holds, with its context. -/
def Paddock.activeVariant (d : Paddock) : Option (Nat × Ctx) := d.servers.find? fun cx => cx.2.sv.active

/-- The variant that a swap puts out; a free value where the active one has been unloaded (log 64). -/
def State.outgoing (s : State) (p : Nat) : Nat × State :=
  match (s.pd p).activeVariant with
  | some cx => (cx.2.variant, s)
  | none => let (v, s) := s.draw; (v % 256, s)

/-- MODEL_SWAP ends: the incoming variant is active, and a queue pass runs (R512). -/
def State.swapEnds (s : State) (p c : Nat) : State :=
  match s.ctx p c with
  | none => s
  | some x =>
    let s := s.modPd p fun d => d.servers.foldl (fun (d : Paddock) (cx : Nat × Ctx) =>
      d.modCtx cx.1 (·.modSv fun v => { v with active := cx.1 == c, loading := none, heads := if cx.1 = c then [] else v.heads })) d
    (s.postEvent p (event 0x00C5 0 0 c 1 (x.sv.loading.getD 0 * 256 + x.variant) [])).queuePass p

/-- The LOAD records of the incoming variant are given to the turnout engines in their order, as far as each may start; what is left starts as others end (R523, R524). -/
def State.loadWeights (s : State) (p c : Nat) : List Nat → State
  | [] => s.modCtx p c fun x => x.modSv fun v => { v with toLoad := [] }
  | i :: is =>
    match s.ctx p c with
    | none => s
    | some x =>
      match (x.parcel.recs[i]?).map Rec.body with
      | some (.turnout t) =>
        if !s.canStart p x i 1 then s.modCtx p c fun x => x.modSv fun v => { v with toLoad := i :: is }
        else
          let e := s.engineOf x t
          (((s.launch p c i [.engine e] true).addJob e p c i)).loadWeights p c is
      | _ => s.loadWeights p c is

/-- A swap is due: no stream is live, no step or swap is in progress, and the first queued request names another variant (R512). -/
def Paddock.swapDue (d : Paddock) : Option (Nat × Ctx) :=
  match d.firstQueued with
  | none => none
  | some (c, _) =>
    match d.ctx c with
    | none => none
    | some x =>
      let swapping := match x.parcel.servingRec with | some v => v.swap | none => false
      if !swapping || x.sv.active || !d.liveStreams.isEmpty || (d.servers.any fun cx => cx.2.sv.phase != 0 || cx.2.sv.loading.isSome) then none
      else some (c, x)

/-- The incoming variant's weights are on their way in place of the outgoing one's: no variant is active (R511, R512). -/
def Paddock.loads (d : Paddock) (c out : Nat) : Paddock :=
  d.servers.foldl (fun (d : Paddock) (cx : Nat × Ctx) =>
    d.modCtx cx.1 (·.modSv fun v => { v with active := false, loading := if cx.1 = c then some out else none })) d

/-- MODEL_SWAP begins: it is posted and the incoming parcel's LOAD records run; without any it ends at once (R512). -/
def swapsModel (p : Nat) (s : State) : State :=
  if !s.runs p then s
  else match (s.pd p).swapDue with
    | none => s
    | some (c, x) =>
      let (out, s) := s.outgoing p
      let s := s.postEvent p (event 0x00C5 0 0 c 0 (out * 256 + x.variant) [])
      let s := (s.modPd p fun d => d.loads c out).loadWeights p c x.parcel.loadRecs
      if x.parcel.loadRecs.isEmpty then s.swapEnds p c else s

def execModelSwap (p : Nat) (s : State) : Out := onUnit (p < 16) (swapsModel p s)

/-- A MOVE job of a swap has ended: its record ends with it, and after the last the swap ends (R512). -/
def State.loadEnds (s : State) (p c i : Nat) : State :=
  let s : State := match s.ctx p c with
    | some x => (x.flights.filter fun (f : Flight) => f.ordinal == i).foldl (fun (s : State) (f : Flight) => s.recordRead x f) s
    | none => s
  let s := s.modPd p fun d =>
    { d.modCtx c (fun x => { x with flights := x.flights.filter fun f => f.ordinal != i }) with entriesUsed := d.entriesUsed - 1 }
  match s.ctx p c with
  | none => s
  | some x => if x.flights.isEmpty && x.sv.toLoad.isEmpty then s.swapEnds p c else s.loadWeights p c x.sv.toLoad

end Sys2Proof.Machine
end

