-- ==== Sys2Proof/Machine/Background.lean ====
section
/-!
DEFINITION. What units do by themselves: the progress watchdog (R76-R78), patrol scrub
with row repair and page retirement (R257-R264), yard scrub (R305), oscillator
tracking, temperature polls and refresh (R249-R252).
-/

namespace Sys2Proof.Machine

/-! ### The progress watchdog (R76-R78) -/

/-- The job whose share stands at the head of a stable: its paddock, context number and context; none while it is pre-empted or halted (R76). -/
def State.watchedJob (s : State) (n : Nat) : Option (Nat × Nat × Ctx) :=
  if !s.running then none
  else (s.kop? n).map fun o => (o.run.paddock, o.run.ctx, o.x)

/-- The warning threshold of a parcel (R77). -/
def Parcel.warnAt (x : Parcel) : Nat := if x.watchWarn = 0 then 1000000 else x.watchWarn

/-- WATCHDOG_WARNING: once the count has reached the threshold, STALL_LONG for the stable and the source of its wait, once for each wait; the job goes on. -/
def watchdogWarns (n source : Nat) (s : State) : State :=
  match s.watchedJob n, s.remount.logical n with
  | some (p, c, x), some l =>
    if x.parcel.warnAt ≤ (s.stable n).watch ∧ (s.stable n).warned = false then
      (s.modStable n fun x => { x with warned := true }).postEvent p (event 0x00CD 0 l c source 0 [x.parcel.warnAt])
    else s
  | _, _ => s

def execWatchdogWarning (stable source : Nat) (s : State) : Out := onUnit (stable < 72 ∧ source < 4) (watchdogWarns stable source s)

/-- WATCHDOG_HALT: once the count has reached a halt threshold that is set, the job halts with 0x0004 as a failed step. -/
def watchdogHalts (n : Nat) (s : State) : State :=
  match s.watchedJob n with
  | some (p, c, x) => if x.parcel.watchHalt = 0 ∨ (s.stable n).watch < x.parcel.watchHalt then s else s.haltFailed p c 0x0004
  | none => s

def execWatchdogHalt (stable : Nat) (s : State) : Out := onUnit (stable < 72) (watchdogHalts stable s)

/-! ### Channels (R253, R260-R264) -/

/-- Channel addresses of data, and of check bits, where inline ECC is enabled (R254). -/
def dataEnd : Nat := 0x1F0000000
def checkEnd : Nat := 0x1FF800000

/-- The check bytes of a data burst, formed over the bytes as stored (R254, R257, R266). -/
def State.checkBytes (s : State) (ch ca : Nat) : List Byte :=
  let dev := unitOf (deviceOf ch ca)
  leBytes 2 (checkBits (s.storedBurst dev)).toNat

/-- The 64-byte check burst at a channel address: those of the 32 data bursts of a page (R254). -/
def State.checkBurst (s : State) (ch ca : Nat) : List Byte :=
  (List.range 32).flatMap fun i => s.checkBytes ch (((ca - dataEnd) / 2 + i) * 64)

/-- The shed of a channel patrols it: in service, with inline ECC (R264, R290). -/
def State.scrubs (s : State) (ch : Nat) : Bool :=
  s.running && !s.memoryLow && !(s.channel ch).retired && (s.shed ch).ok && bitOf s.cfg.ecc (ch / 8)

/-- PATROL_SCRUB_READ of one burst, whose outcome is what its flipped bits make it or worse (R264). A check burst is counted; an error of check bits shows at the data burst that they cover. Unused addresses are not read (R254). Scrubbing removes no error. -/
def patrols (ch ca : Nat) (o : EccOutcome) (s : State) : State :=
  if !s.scrubs ch || decide (checkEnd ≤ ca) then s
  else
    let s := s.modChannel ch fun x => { x with scrubbed := x.scrubbed + 1 }
    if dataEnd ≤ ca then s
    else
      let u := unitOf (deviceOf ch ca)
      if s.spoilt u || o == .uncorrectable then s.loses ch ca
      else if !(s.flipsOf u).isEmpty || o == .corrected then s.corrects ch ca
      else s

def execPatrolScrubRead (channel ca : Nat) (o : EccOutcome) (s : State) : Out :=
  onUnit (channel < 192 ∧ ca < 2 ^ 33) (patrols channel ca o s)

/-- SCRUB_PERIOD_END: the controller clears its table (R260, R263). -/
def Channel.periodEnds (x : Channel) : Channel := { x with rows := [], uncorrectableRows := [], scrubbed := 0 }

def execScrubPeriodEnd (channel : Nat) (s : State) : Out :=
  onUnit (channel < 192) (if s.running then s.modChannel channel Channel.periodEnds else s)

/-! ### Yard scrub (R305) -/

/-- YARD_SCRUB of one word: a corrected word is written back; an uncorrectable one stays and is reported by YARD_ERROR. -/
def yardScrubs (pen offset : Nat) (o : EccOutcome) (s : State) : State :=
  let u := unitOf (penBase pen + offset)
  if !s.running then s
  else if s.spoilt u || o == .uncorrectable then
    (s.spoil u).postOwned (ownsPen pen) (event 0x00D8 0 pen 0xFF 0 (u - penBase pen) [])
  else s.unflip u

def execYardScrub (pen offset : Nat) (o : EccOutcome) (s : State) : Out :=
  onUnit (pen < 96 ∧ offset < penSize) (yardScrubs pen offset o s)

/-! ### Tracking, temperature and refresh (R249-R252) -/

/-- The channel is up: trained, in service, not in self-refresh. A halter stops none of its upkeep (R252). -/
def Channel.up (x : Channel) : Bool := x.trained && !x.retired && !x.selfRefresh

/-- WCK2DQ_TRACK: a drift that cannot be absorbed retrains the channel, at the package temperature `temp`; a retrain that fails retires it (R247, R249). -/
def tracks (ch : Nat) (absorbed retrained : Bool) (temp : Int) (s : State) : State :=
  if !(s.channel ch).up || s.memoryLow || absorbed then s
  else if retrained then s.modChannel ch (·.train temp)
  else s.retireChannel ch

def execWck2dqTrack (channel : Nat) (absorbed retrained : Bool) (temp : Int) (s : State) : Out :=
  onUnit (channel < 192) (tracks channel absorbed retrained temp s)

/-- MEMORY_HOT (R251, R581). -/
def State.postHot (s : State) (ch : Nat) (hot : Bool) : State :=
  s.postOwned (ownsPackage (ch / 8)) (event 0x00D7 0 (ch / 8) 0xFF (if hot then 1 else 0) 0 [])

/-- MR4_POLL: the refresh rate follows the report; above the operating range the controller halves its command rate, and posts MEMORY_HOT at each change (R250, R251). -/
def polls (ch : Nat) (above85 outOfRange : Bool) (s : State) : State :=
  if !(s.channel ch).up || s.memoryLow then s
  else
    let was := (s.channel ch).hot
    let s := s.modChannel ch fun x => { x with fastRefresh := above85, hot := outOfRange }
    if was = outOfRange then s else s.postHot ch outOfRange

def execMr4Poll (channel : Nat) (above85 outOfRange : Bool) (s : State) : Out :=
  onUnit (channel < 192) (polls channel above85 outOfRange s)

/-- PER_BANK_REFRESH: one bank of a rank is refreshed; its contents stay (R250). A refresh that refresh management asks for is made where the package's mode registers require it (R243; log 159). -/
def execPerBankRefresh (channel rank bank : Nat) (managed : Bool) (s : State) : Out :=
  onUnit (channel < 192 ∧ rank < 2 ∧ bank < 16)
    (if !(s.channel channel).up then s
     else if !managed then s.modChannel channel fun x => { x with refreshes := x.refreshes + 1 }
     else if Config.refreshManaged (channel / 8) then s.modChannel channel fun x => { x with managed := x.managed + 1 } else s)

end Sys2Proof.Machine
end

