-- ==== Sys2Proof/Machine/Program.lean ====
section
/-!
DEFINITION. What Skogete checks of a groom program at PARCEL_LOAD (R154-R156, R162,
R167-R169, R171, R178, R186, R196).
-/

namespace Sys2Proof.Machine

/-! ### The form of an instruction word (R155, R156, R159) -/

/-- The classes of instruction words. -/
inductive GClass where
  | arith
  | red
  | mem
  | rand
  | scal
  | ldk
  | rep
  deriving DecidableEq, Repr, Inhabited

/-- What an opcode reads and writes: its class, whether it has a destination, its sources, whether a W bit may be set (R159). -/
structure GShape where
  cls : GClass
  dst : Bool
  srcs : Nat
  wide : Bool
  deriving DecidableEq, Repr, Inhabited

/-- The shape of a listed opcode (R159); none where it is reserved. -/
def gShape (op : Nat) : Option GShape :=
  if op = 0x01 then some ⟨.mem, true, 0, true⟩
  else if op = 0x02 then some ⟨.mem, false, 1, true⟩
  else if op = 0x03 then some ⟨.ldk, true, 0, true⟩
  else if op = 0x04 then some ⟨.arith, true, 1, true⟩
  else if op = 0x05 then some ⟨.mem, true, 1, true⟩
  else if op = 0x06 then some ⟨.mem, false, 2, true⟩
  else if op = 0x07 then some ⟨.arith, true, 3, true⟩
  else if op = 0x08 then some ⟨.rand, true, 0, false⟩
  else if [0x10, 0x11, 0x12, 0x17, 0x18, 0x1B, 0x21].contains op then some ⟨.arith, true, 2, true⟩
  else if [0x13, 0x14, 0x15, 0x16].contains op then some ⟨.arith, true, 3, true⟩
  else if [0x19, 0x1A, 0x20, 0x22, 0x23, 0x28, 0x29].contains op then some ⟨.arith, true, 1, true⟩
  else if [0x2A, 0x2B, 0x2C].contains op then some ⟨.arith, true, 1, false⟩
  else if 0x30 ≤ op ∧ op ≤ 0x35 then some ⟨.red, true, 1, true⟩
  else if op = 0x3C then some ⟨.rep, false, 0, false⟩
  else if op = 0x3D then some ⟨.scal, false, 1, true⟩
  else none

/-- n one bits from bit lo on. -/
def ones (lo n : Nat) : Nat := (2 ^ n - 1) * 2 ^ lo

/-- Sources of a word: a summary other than ANYFLAG reads S1, ANYFLAG reads none (R178). -/
def GShape.sources (g : GShape) (w : Nat) : Nat := if g.cls = .scal ∧ 7 ≤ GW.kind w then 0 else g.srcs

/-- Fields of OPX that a class uses (R155); the others are reserved to a word of that class. So a G.SCAL of KIND 0 to 6 with a FMASK that is not zero is refused as a reserved field, which is the model's reading (log 122). -/
def GShape.opx (g : GShape) (w : Nat) : Nat :=
  match g.cls with
  | .arith => ones 20 2 ||| (if GW.op w = 0x1B then ones 17 3 else 0)
  | .red => ones 20 2 ||| ones 0 6
  | .mem => ones 10 12 ||| ones 0 2 ||| (if GW.op w = 0x01 then ones 9 1 else 0)
  | .rand => ones 0 16
  | .scal => ones 14 8 ||| (if GW.kind w = 7 then ones 0 6 else 0)
  | .ldk => ones 0 32
  | .rep => 0

/-- Every bit that a word may set (R155, R156, R159). -/
def GShape.mask (g : GShape) (w : Nat) : Nat :=
  if g.cls = .rep then ones 34 30
  else
    let n := g.sources w
    ones 44 20 ||| (if g.dst then ones 37 3 ||| (if g.wide then ones 43 1 else 0) else 0) |||
      (if 1 ≤ n then ones 34 3 ||| ones 32 2 ||| (if g.wide then ones 42 1 else 0) else 0) |||
      (if 2 ≤ n then ones 29 3 ||| ones 27 2 ||| (if g.wide then ones 41 1 else 0) else 0) |||
      (if 3 ≤ n then ones 24 3 ||| ones 22 2 ||| (if g.wide then ones 40 1 else 0) else 0) ||| g.opx w

/-- A word's sources: register, wide, broadcast mode. -/
def GShape.operands (g : GShape) (w : Nat) : List (Nat × Bool × Nat) :=
  [(GW.s1 w, GW.w1 w, GW.b1 w), (GW.s2 w, GW.w2 w, GW.b2 w), (GW.s3 w, GW.w3 w, GW.b3 w)].take (g.sources w)

/-- Registers of an operand (R148). -/
def tileRegs (reg : Nat) (wide : Bool) : List Nat := if wide then [reg, reg + 1] else [reg]

/-- Formats that are listed (R186). -/
def fmtListed (f : Nat) : Bool :=
  decide (1 ≤ f ∧ f ≤ 8) || decide (0x11 ≤ f ∧ f ≤ 0x16) || decide (0x20 ≤ f ∧ f ≤ 0x23) || f == 0x28 || f == 0x29

/-- Formats that G.ST and G.SCAT write (R168, R196). -/
def fmtStored (f : Nat) : Bool := fmtWritable f && f != 0x20

/-- One word keeps R154, R162, R167, R178, R186 and R196. A broadcast source that shares a register with the destination is refused (log 146). -/
def wordOk (ndesc w : Nat) : Bool :=
  match gShape (GW.op w) with
  | none => false
  | some g =>
    let srcs := g.operands w
    let dregs := if g.dst then tileRegs (GW.dst w) (GW.wd w) else []
    (w &&& g.mask w) == w &&
      !(g.dst && GW.wd w && GW.dst w % 2 == 1) && !(srcs.any fun s => s.2.1 && s.1 % 2 == 1) &&
      !(g.cls == .red && srcs.any fun s => s.2.2 != 0) &&
      !(srcs.any fun s => s.2.2 != 0 && (tileRegs s.1 s.2.1).any dregs.contains) &&
      (match g.cls with
        | .arith => !([0x20, 0x23, 0x28, 0x29, 0x2A, 0x2B, 0x2C].contains (GW.op w) && bitsOf w 21 20 != 0) &&
            !(GW.op w == 0x1B && GW.cond w == 7)
        | .mem => decide (GW.desc w < ndesc) &&
            (if GW.op w = 0x02 ∨ GW.op w = 0x06 then fmtStored (GW.fmt w) else fmtListed (GW.fmt w))
        | .scal => decide (GW.kind w ≤ 7) && GW.src w != 3 && (decide (GW.kind w < 7) == (GW.src w == 0))
        | _ => true)

/-! ### Loops and walks (R168, R169, R171) -/

/-- Loops keep R171: each body is one to 63 words inside the program, at most two deep, the inner inside the outer. `ends` holds how many words of each open loop are left, innermost first. -/
def loopsOk : List Nat → List Nat → Bool
  | _, [] => true
  | ends, w :: ws =>
    let live := ends.filter (0 < ·)
    let left := live.map (· - 1)
    if GW.op w = 0x3C then
      decide (1 ≤ GW.len w ∧ GW.len w ≤ ws.length) && decide (live.length < 2) && left.all (fun n => decide (GW.len w ≤ n)) &&
        loopsOk (GW.len w :: left) ws
    else loopsOk left ws

/-- Positions that descriptors have reached, and those that a gather or scatter has used. -/
structure Walk where
  pos : List Nat
  rows : List Nat
  deriving DecidableEq, Repr, Inhabited

/-- Follow every descriptor through a run of words, each loop once for all its iterations (R168, R169); none where a gather or scatter would start inside a row. -/
def walkProgram (rowLen : List Nat) : Nat → Walk → List Nat → Option Walk
  | 0, t, _ => some t
  | _, t, [] => some t
  | n + 1, t, w :: ws =>
    let j := GW.desc w
    let at_ := nth t.pos j
    let row := nth rowLen j
    if GW.op w = 0x3C then
      match walkProgram rowLen n ⟨t.pos, []⟩ (ws.take (GW.len w)) with
      | none => none
      | some b =>
        let step := (b.pos.zip t.pos).map fun e => e.1 - e.2
        if decide (1 < GW.iter w) && b.rows.any fun j => nth step j % nth rowLen j != 0 then none
        else walkProgram rowLen n ⟨(t.pos.zip step).map fun e => e.1 + GW.iter w * e.2, t.rows ++ b.rows⟩ (ws.drop (GW.len w))
    else if GW.op w = 0x01 ∨ GW.op w = 0x02 then walkProgram rowLen n ⟨t.pos.set j (at_ + GW.cnt w), t.rows⟩ ws
    else if GW.op w = 0x05 ∨ GW.op w = 0x06 then
      if at_ % row ≠ 0 then none
      else walkProgram rowLen n ⟨t.pos.set j (at_ + ceilDiv (GW.cnt w) 64 * row), t.rows ++ [j]⟩ ws
    else walkProgram rowLen n t ws

/-- A program keeps R154, R168, R169 and R171 over its descriptors. -/
def programOk (words : List Nat) (ds : List Desc) : Bool :=
  words.all (wordOk ds.length) && loopsOk [] words &&
    match walkProgram (ds.map Desc.firstCount) (words.length + 1) ⟨ds.map fun _ => 0, []⟩ words with
    | none => false
    | some t => (t.pos.zip ds).all fun e => decide (e.1 ≤ e.2.count)

end Sys2Proof.Machine
end

