-- ==== Sys2Proof/Machine/Sheds.lean ====
section
/-!
DEFINITION. The sheds (R273-R293): S.MV, S.ATTN, S.ACOMB, S.COPY and S.FILL. A
command S_X starts the record that the context is to issue next, where that record
is an S.X, or takes up the one that runs, and lets it come `n` boundaries further: a
row in each shed, a KV block in one pass, or 16 KiB (R293). Between two commands the
sheds stand at a boundary, where a pre-emption takes hold. At the last boundary its
sheds have ended, and RECORD_END takes the record out of flight.
-/

namespace Sys2Proof.Machine

/-! ### Shed-striped arrays (R255) -/

/-- Paddock address of byte k of item i of an array of items of z bytes. -/
def stripedAt (base z i k : Nat) : Nat := base + (i / 8 * (z / 256) + k / 256) * 2048 + i % 8 * 256 + k % 256

/-- Bytes of an item from byte k on. -/
def State.loadStriped (s : State) (x : Ctx) (base z i k : Nat) : Nat → Except Nat (List Byte)
  | 0 => .ok []
  | n + 1 => do
    let b ← s.load x (stripedAt base z i k) 1
    let bs ← s.loadStriped x base z i (k + 1) n
    pure (b ++ bs)

/-- Element e of packed bytes. -/
def packedElem (fmt : Nat) (bs : List Byte) (e : Nat) : Nat := (leVal bs >>> (e * fmtBits fmt)) % 2 ^ fmtBits fmt

/-- Row i of a weight array, with its block scales (R193, R276). -/
def State.weightRow (s : State) (x : Ctx) (r : MvRec) (i : Nat) : Except Nat (List Ext) := do
  let bs ← s.loadStriped x r.wBase r.itemBytes i 0 (ceilDiv (r.k * fmtBits r.fmtW) 8)
  let sc ← if isMx r.fmtW then s.loadStriped x r.sBase r.scaleBytes i 0 (ceilDiv r.k 32) else pure []
  pure ((List.range r.k).map fun e =>
    let v := elemValue r.fmtW (packedElem r.fmtW bs e)
    if isMx r.fmtW then scaledValue ((sc.getD (e / 32) 0).toNat) v else v)

/-! ### Failures (R288-R290) -/

/-- One failure of a shed; `before` lists the failures met earlier in the operation (R288, R290). -/
def State.shedFailure (s : State) (ch : Nat) (before : List ShedFail) (f : ShedFail) : State :=
  if !(s.shed ch).ok then s
  else if before.any fun g => g.shed == f.shed && g.unit == f.unit && g.parity == f.parity then s.shedFails ch
  else if f.parity then s
  else match f.lane with
    | none => s
    | some v =>
      if (s.shed ch).lanes.contains v then s
      else if (s.shed ch).spareUsed then s.shedFails ch
      else s.modShed ch fun x => { x with lanes := x.lanes ++ [v] }

/-- The failures of an operation in turn; `chan` gives the device channel of a failure's shed. -/
def State.shedFailures (s : State) (chan : Nat → Nat) : List ShedFail → List ShedFail → State
  | _, [] => s
  | before, f :: fs => (s.shedFailure (chan f.shed) before f).shedFailures chan (before ++ [f]) fs

/-! ### The frame of a shed record -/

/-- Channel of a package offset's granule for a device address. -/
def State.channelAt (s : State) (dev : Nat) : Option Nat :=
  match s.whereIs dev with
  | .package k off => some (channelOf k off)
  | _ => none

/-- What a record does on its sheds: the channels that hold entries, those that must compute, the boundaries that it passes (R293), the failures that the checks see from one boundary to another, what it does first, and the work up to the next boundary with the flags that it raises. -/
structure ShedJob where
  chs : List Nat
  needs : List Nat
  chan : Nat → Nat
  total : Nat
  fails : State → Nat → Nat → List ShedFail
  start : State → Except Nat State
  step : State → Nat → Except Nat (State × Nat)

/-- A shed of the record has not ended. -/
def Flight.shedsRun (f : Flight) : Bool := f.units.any fun u => match u with | .shed _ => !f.ended.contains u | _ => false

/-- The record of a shed command: the next one of the context, or one that runs and has not ended; with its flight where it runs (R523, R524). A shed reaches no companion memory (R103). -/
def State.shedRecord (s : State) (p c i : Nat) : Option (Ctx × RecBody × Option Flight) :=
  match s.active? p c with
  | none => none
  | some x =>
    match x.flights.find? (fun f => f.ordinal == i && f.shedsRun) with
    | some f => (x.parcel.recs[i]?).map fun r => (x.offMcl, r.body, some f)
    | none => match x.next? with
      | some (j, r) => if j = i then some (x.offMcl, r.body, none) else none
      | none => none

/-- A shed among them has an operation of an earlier record to end first: it runs one at a time, in order (R273). -/
def Ctx.shedsBusy (x : Ctx) (chs : List Nat) : Bool :=
  x.flights.any fun f => f.units.any fun u => !f.ended.contains u && chs.any fun ch => u == .shed ch

/-- Boundaries from `u` on, `n` of them: the state reached, its flags, and the cause that stopped it. -/
def shedSteps (f : State → Nat → Except Nat (State × Nat)) (s : State) (u fl : Nat) : Nat → State × Nat × Option Nat
  | 0 => (s, fl, none)
  | n + 1 =>
    match f s u with
    | .error e => (s, fl, some e)
    | .ok t => shedSteps f t.1 (u + 1) (flagOr fl t.2) n

/-- A flight at a boundary; at the last one its sheds have ended, and its flags go with it (R177). -/
def Flight.shedAt (us : List UnitId) (total pos flags : Nat) (fails : List ShedFail) (f : Flight) : Flight :=
  let f := { f with pos := pos, flags := flags, fails := fails }
  if pos < total then f else { f with ended := us ++ f.ended.filter (!us.contains ·), results := [(0, [0, 0, 0, 0, 0, flags, 0])] }

/-- Let a record that is in flight come up to n boundaries further; it stays where it is while one of its accesses waits (R545). -/
def State.shedWork (s : State) (p c i n : Nat) (j : ShedJob) (pos flags : Nat) (fails : List ShedFail) : State :=
  let t := shedSteps j.step s pos flags (min n (j.total - pos))
  match t.2.2 with
  | some e => if e = awaitsSwitch then s else t.1.haltJob p c e
  | none =>
    (t.1.modCtx p c fun y => y.modFlight i (Flight.shedAt (j.chs.map UnitId.shed) j.total (min (pos + n) j.total) t.2.1 fails)).runOn p c

/-- A shed that must compute is not in service. -/
def ShedJob.lacks (j : ShedJob) (s : State) : Bool := j.needs.any fun ch => !(s.shed ch).ok

/-- What the checks find between two boundaries, where every shed that must compute is in service (R288, R290). -/
def State.shedChecked (s : State) (j : ShedJob) (before new : List ShedFail) : State :=
  if j.lacks s then s else s.shedFailures j.chan before new

/-- The failures of a command that concern the record's sheds. -/
def ShedJob.seen (j : ShedJob) (s : State) (pos n : Nat) : List ShedFail := (j.fails s pos n).filter fun f => j.chs.contains (j.chan f.shed)

/-- A record that stands at its start begins: the boundary before it, entries, and what it does first (R277, R289, R523). -/
def State.shedBegins (s : State) (p c i : Nat) (j : ShedJob) (extra : List UnitId) : Except Nat State :=
  match j.start s with
  | .error e => .error e
  | .ok s => .ok (s.launch p c i (j.chs.map UnitId.shed ++ extra) true)

/-- A record runs on sheds, from its start or from the boundary where it stands; its job halts with 0x0305 where a shed that must compute is not in service or leaves it (R290, R291). A pre-emption that is due holds it at its boundary (R293, R528). -/
def State.runSheds (s : State) (p c i n : Nat) (x : Ctx) (at_ : Option Flight) (j : ShedJob) (extra : List UnitId) : State :=
  if s.preempts p c then s
  else match at_ with
    | some f =>
      let new := j.seen s f.pos n
      let s := s.shedChecked j f.fails new
      if j.lacks s then s.haltJob p c 0x0305 else s.shedWork p c i n j f.pos f.flags (f.fails ++ new)
    | none =>
      if !s.canStart p x i (j.chs.length + extra.length) || x.shedsBusy j.chs then s
      else
        let s := j.chs.foldl State.shedBoundary s
        let new := j.seen s 0 n
        let s := s.shedChecked j [] new
        if j.lacks s then s.haltJob p c 0x0305
        else match s.shedBegins p c i j extra with
          | .error e => s.haltJob p c e
          | .ok s => s.shedWork p c i n j 0 0 new

/-- What a shed holds after some work (R273). -/
def Shed.holds (vectors : List Reg) (y : Shed) : Shed := { y with vectors := vectors, scores := [], maxes := [], lsum := [], accs := [], out := [] }

/-- Every shed of a record takes the vectors in one broadcast (R277). -/
def State.shedVectors (s : State) (chs : List Nat) (vs : List Reg) : State := chs.foldl (fun (s : State) ch => s.modShed ch (Shed.holds vs)) s

/-- Registers of consecutive runs of a stream, as the vector store takes them. -/
def State.loadVectors (s : State) (x : Ctx) (fmt : Nat) (d : Desc) (count len : Nat) : Except Nat (List Reg) :=
  (List.range count).mapM fun (v : Nat) => s.loadReg x fmt d none 0 (span (v * len) len)

/-! ### S.MV (R276-R278) -/

/-- One dot product on a vector lane, with its flags (R198-R201). -/
def dotOf (w v : List Ext) : AccF :=
  (w.zip v).foldl (fun (r : AccF) ab =>
    Long.take r (Long.term (Long.product ab.1 ab.2))) ⟨Long.zero, 0⟩

/-- The dot products of a row with every vector. -/
def State.mvRow (s : State) (x : Ctx) (r : MvRec) (vecs : List (List Ext)) (i : Nat) : Except Nat (List AccF) := do
  let w ← s.weightRow x r i
  pure (vecs.map (dotOf w))

def MvRec.drain (r : MvRec) (a : Acc) : Fp.Coded :=
  if r.fmtC = 0x20 then ⟨Long.toBits a, 0⟩
  else Long.drainTo ((elemFmt? r.fmtC).getD fmtFP32) a (r.scaleW + r.scaleV + r.scaleC)

/-- Write the outputs of a row, vector-major (R276, R278). -/
def State.putMv (s : State) (x : Ctx) (r : MvRec) (i : Nat) : List (AccF × Nat) → Except Nat (State × Nat)
  | [] => .ok (s, 0)
  | (a, v) :: rest => do
    let c := r.drain a.acc
    let s ← s.storeBits x r.fmtC (x.parcel.desc r.cDesc) (v * r.n + i) c.bits
    let t ← s.putMv x r i rest
    pure (t.1, flagOr (flagOr a.flags c.flags) t.2)

/-- The vectors that a shed holds. -/
def State.mvVectors (s : State) (r : MvRec) (ch : Nat) : List (List Ext) := (s.shed ch).vectors.map (Reg.vals r.fmtV)

/-- One row in its shed, number i mod 8 of the package: dot products, drains, outputs (R277, R278). -/
def State.mvRowAt (s : State) (x : Ctx) (r : MvRec) (k i : Nat) : Except Nat (State × Nat) := do
  let ch := 8 * k + i % 8
  let as ← s.mvRow x r (s.mvVectors r ch) i
  let t ← s.putMv x r i as.zipIdx
  pure (t.1.modShed ch fun y => { y with accs := as.map (·.acc), out := as.map fun a => (r.drain a.acc).bits }, t.2)

/-- Rows in increasing order. -/
def State.mvRows (s : State) (x : Ctx) (r : MvRec) (k fl : Nat) : List Nat → Except Nat (State × Nat)
  | [] => .ok (s, fl)
  | i :: is => do
    let t ← s.mvRowAt x r k i
    t.1.mvRows x r k (flagOr fl t.2) is

/-- Rows between boundary u and the next: one in each shed. -/
def MvRec.rowsAt (r : MvRec) (u : Nat) : List Nat := (span (8 * u) 8).filter fun i => decide (i < r.n)

/-- Failures that the check sees: of rows that the command reaches, in the shed that has them, without a state code (R140, R288). -/
def State.mvSeen (x : Ctx) (r : MvRec) (fails : List ShedFail) (s : State) (pos n : Nat) : List ShedFail :=
  fails.filter fun f => f.shed == f.unit % 8 && decide (8 * pos ≤ f.unit ∧ f.unit < 8 * (pos + n) ∧ f.unit < r.n) &&
    (f.parity || match s.loadVectors x r.fmtV (x.parcel.desc r.vDesc) r.nv r.k with
      | .ok vs => match s.mvRow x r (vs.map (Reg.vals r.fmtV)) f.unit with
        | .ok as => !(as.any fun a => Long.isState a.acc)
        | .error _ => false
      | .error _ => false)

/-- An S.MV on the package that holds its weights; the sheds that have a row must compute. -/
def State.mvJob (x : Ctx) (r : MvRec) (k : Nat) (fails : List ShedFail) : ShedJob where
  chs := span (8 * k) 8
  needs := (List.range (min 8 r.n)).map (8 * k + ·)
  chan := (8 * k + ·)
  total := ceilDiv r.n 8
  fails := State.mvSeen x r fails
  start s := (s.loadVectors x r.fmtV (x.parcel.desc r.vDesc) r.nv r.k).map (s.shedVectors (span (8 * k) 8))
  step s u := s.mvRows x r k 0 (r.rowsAt u)

/-- The arrays of an S.MV lie in one package (R255, R276). -/
def State.mvPackage (s : State) (x : Ctx) (r : MvRec) : Except Nat Nat := do
  let k ← s.packageOf x false r.wBase (stripedBytes r.n r.itemBytes)
  if isMx r.fmtW then
    let q ← s.packageOf x false r.sBase (stripedBytes r.n r.scaleBytes)
    if q = k then pure k else .error 0x0301
  else pure k

def shedMv (p c i n : Nat) (fails : List ShedFail) (s : State) : State :=
  match s.shedRecord p c i with
  | some (x, .mv r, at_) =>
    match s.mvPackage x r with
    | .error e => s.haltJob p c e
    | .ok k => s.runSheds p c i n x at_ (State.mvJob x r k fails) []
  | _ => s

def execSMv (p ctx ordinal n : Nat) (fails : List ShedFail) (s : State) : Out :=
  onUnit (p < 16 ∧ ctx < 8) (shedMv p ctx ordinal n fails s)

/-! ### S.ATTN (R279-R284) -/

/-- The K part or the V part of a block, as far as its tokens are read: elements and scales. -/
structure Kv where
  elems : List Byte
  scales : List Byte
  deriving DecidableEq, Repr, Inhabited

/-- Token j, element e of a part. -/
def AttnRec.kvAt (r : AttnRec) (b : Kv) (j e : Nat) : Ext :=
  let n := j * r.d + e
  let v := elemValue r.fmtKv (b.elems.getD n 0).toNat
  if isMx r.fmtKv then scaledValue (b.scales.getD (n / 32) 0).toNat v else v

/-- One part of the block at a paddock address, its first `valid` tokens: what lies past them is not read (R279, R282). -/
def State.loadKv (s : State) (x : Ctx) (r : AttnRec) (a : Nat) (isV : Bool) (valid : Nat) : Except Nat Kv := do
  let z := ceilDiv r.blockBytes 256 * 256
  let es ← s.loadStriped x a z 0 (if isV then 64 * r.d else 0) (valid * r.d)
  let sc ← if isMx r.fmtKv then s.loadStriped x a z 0 (128 * r.d + (if isV then 2 * r.d else 0)) (valid * r.d / 32) else pure []
  pure ⟨es, sc⟩

/-- FP32 operations of the element unit: the bits of the groom's (R209). -/
def el32 (e : ERes) : Fp.Narrow :=
  let n := Fp.toNarrow .rne e.r
  ⟨n.v, flagOr e.flags n.flags⟩

def negInf32 : W32 := 0xFF800000

/-- exp(a - b), 0 where both are -infinity (R282, R283). -/
def expDiff (a b : W32) : Fp.Narrow :=
  if a = negInf32 ∧ b = negInf32 then ⟨0, 0⟩
  else
    let d := el32 (El.sub .rne (Fp.val32 a) (Fp.val32 b))
    let e := el32 (El.exp (Fp.val32 d.v))
    ⟨e.v, flagOr d.flags e.flags⟩

/-- Scores of one block for one head (R282, pass 1), with whether a dot product is a state code; tokens past `valid` are -infinity. -/
def AttnRec.scores (r : AttnRec) (q : List Ext) (b : Kv) (valid : Nat) : List (Fp.Narrow × Bool) :=
  (List.range 64).map fun j =>
    if valid ≤ j then (⟨negInf32, 0⟩, false)
    else
      let d := dotOf ((List.range r.d).map (r.kvAt b j)) q
      let c := Long.drainTo fmtFP32 d.acc r.sc
      let l := el32 (El.mul (Fp.val32 (w32 c.bits)) (Fp.val32 r.qkScale))
      (⟨l.v, flagOr (flagOr d.flags c.flags) l.flags⟩, Long.isState d.acc)

/-- A partial of a segment and a head (R282): m, the pair lsum and d pairs. -/
structure AttnPart where
  m : W32
  lsum : Fp.Pair
  o : List Fp.Pair
  flags : Nat
  deriving DecidableEq, Repr, Inhabited

/-- Pass 2 over one block: lsum, and d long accumulators (R282). -/
structure AttnSum where
  lsum : Wide.W
  o : List AccF
  deriving DecidableEq, Repr, Inhabited

def AttnRec.accumulate (r : AttnRec) (b : Kv) (valid : Nat) (ls : List W32) (m : W32) (t : AttnSum) : AttnSum :=
  (List.range valid).foldl (fun (t : AttnSum) j =>
    let p : Fp.Narrow := if m = negInf32 then ⟨0, 0⟩ else expDiff (ls.getD j negInf32) m
    let sum := Wide.add t.lsum (Wide.of32 p.v)
    { lsum := { sum with f := flagOr sum.f p.flags }
      o := t.o.zipIdx.map fun (a : AccF × Nat) =>
        Long.take a.1 (Long.term (Long.product (Fp.val32 p.v) (r.kvAt b j a.2))) }) t

/-- Valid tokens of block b of the list. -/
def AttnRec.validOf (r : AttnRec) (b : Nat) : Nat := if b + 1 = r.nblk then r.valid else 64

/-- G.MAX in order over the scores of a segment (R282). -/
def maxScore : List W32 → Fp.Narrow
  | [] => ⟨negInf32, 0⟩
  | a :: as => as.foldl (fun (m : Fp.Narrow) b =>
      let n := el32 (El.max (Fp.val32 m.v) (Fp.val32 b))
      ⟨n.v, flagOr m.flags n.flags⟩) ⟨a, 0⟩

/-- The partial of a head from its maximum, lsum and accumulators (R282: round_pair). -/
def attnPart (m : W32) (lsum : Fp.Pair) (o : List Acc) : AttnPart :=
  let os := o.map fun a =>
    let d := Long.drainRes a 0
    let w := Fp.toWide d.1
    (w.v, flagOr d.2 w.flags)
  ⟨m, lsum, os.map (·.1), flagsAll (os.map (·.2))⟩

/-- o / lsum by a wide G.DIV, rounded once to a format (R282, R283). -/
def quotient (fmt : Nat) (o lsum : Fp.Pair) : Fp.Coded :=
  let w := Wide.div (Wide.ofPair o) (Wide.ofPair lsum)
  let c := Fp.encode ((elemFmt? fmt).getD fmtFP32) .rne (Fp.ofExt (Wide.val w))
  ⟨c.bits, flagOr w.f c.flags⟩

/-- The 4-byte words of a partial (R282). -/
def AttnPart.words (a : AttnPart) : List Nat :=
  [a.m.toNat, 0, a.lsum.hi.toNat, a.lsum.lo.toNat] ++ a.o.flatMap fun p => [p.hi.toNat, p.lo.toNat]

/-- Words of a partial. -/
def partWords (d : Nat) : Nat := 4 + 2 * d

/-- Write patterns of whole bytes at consecutive positions as one write, which renews a burst that it covers whole (R263). -/
def State.putRun (s : State) (x : Ctx) (fmt : Nat) (d : Desc) (n : Nat) (vs : List Nat) : Except Nat State :=
  s.storeAll x (vs.zipIdx.flatMap fun e => match d.place fmt (n + e.2) with
    | none => []
    | some a => (leBytes (fmtBits fmt / 8) e.1).zipIdx.map fun b => (a.1 + b.2, b.1))

/-- Output of one segment and head: its partial at words of out_desc, segment-major (log 50), or its quotients. -/
def State.putAttn (s : State) (x : Ctx) (r : AttnRec) (seg h : Nat) (a : AttnPart) : Except Nat (State × Nat) :=
  let d := x.parcel.desc r.outDesc
  if r.final then do
    let qs := a.o.map fun o => quotient r.fmtOut o a.lsum
    let s ← s.putRun x r.fmtOut d (h * r.d) (qs.map (·.bits))
    pure (s, flagOr a.flags (flagsAll (qs.map (·.flags))))
  else do
    let s ← s.putRun x 0x01 d ((seg * r.g + h) * partWords r.d) a.words
    pure (s, a.flags)

/-- The channel that holds the whole of a block; 0x0305 where it starts inside a granule or reaches a second channel (R279, R281). -/
def State.blockChannel (s : State) (x : Ctx) (r : AttnRec) (a : Nat) : Except Nat Nat := do
  let chs ← (List.range (ceilDiv r.blockBytes 256)).mapM fun (g : Nat) => do
    let d ← s.place x false (a + 2048 * g)
    match s.channelAt d with
    | some ch => if d % 256 = 0 then pure ch else (.error 0x0305 : Except Nat Nat)
    | none => .error 0x0305
  match chs with
  | [] => .error 0x0305
  | ch :: rest => if rest.all (· == ch) then pure ch else .error 0x0305

/-- Blocks of a segment, by their places in the list (R281). -/
def AttnRec.blocksOf (r : AttnRec) (seg : Nat) : List Nat := span (seg * r.seglen) (min r.seglen (r.nblk - seg * r.seglen))

/-- The channel of a segment: every block lies in it (R281). -/
def State.segChannel (s : State) (x : Ctx) (r : AttnRec) (seg : Nat) : Except Nat Nat := do
  let chs ← (r.blocksOf seg).mapM fun (b : Nat) => do
    let a ← s.kvAddr x r b
    s.blockChannel x r a
  match chs with
  | [] => .error 0x0305
  | ch :: rest => if rest.all (· == ch) then pure ch else .error 0x0305

def AttnRec.segments (r : AttnRec) : Nat := ceilDiv r.nblk r.seglen

/-- What lies between two boundaries: a segment, its pass (false for the first), and a block (R282, R293). -/
def AttnRec.units (r : AttnRec) : List (Nat × Bool × Nat) :=
  (List.range r.segments).flatMap fun seg => ((r.blocksOf seg).map fun b => (seg, false, b)) ++ (r.blocksOf seg).map fun b => (seg, true, b)

/-- The queries that a shed holds. -/
def State.attnQueries (s : State) (r : AttnRec) (ch : Nat) : List (List Ext) := (s.shed ch).vectors.map (Reg.vals r.fmtQ)

/-- Pass 1 over a block: the scores of every head join the score buffer, which the first block of a segment clears (R282). -/
def Shed.scoreBlock (r : AttnRec) (first : Bool) (qs : List (List Ext)) (b : Kv) (valid : Nat) (y : Shed) : Shed × Nat :=
  let new := qs.map fun q => r.scores q b valid
  let old := if first then List.replicate qs.length [] else y.scores
  ({ y with scores := (old.zip new).map fun on => on.1 ++ on.2.map (·.1.v) }, flagsAll ((new.flatten).map (·.1.flags)))

/-- The start of pass 2: the maximum of each head's scores, lsum and accumulators zero (R282). -/
def Shed.startPass (r : AttnRec) (y : Shed) : Shed × Nat :=
  let ms := y.scores.map maxScore
  ({ y with maxes := ms.map (·.v), lsum := ms.map fun _ => ⟨0, 0⟩, accs := List.replicate (ms.length * r.d) Long.zero }, flagsAll (ms.map (·.flags)))

/-- Pass 2 over a block, the at_-th of its segment: every head accumulates (R282). -/
def Shed.sumBlock (r : AttnRec) (at_ : Nat) (b : Kv) (valid : Nat) (y : Shed) : Shed × Nat :=
  let rs := (List.range y.maxes.length).map fun h =>
    r.accumulate b valid (((y.scores.getD h []).drop (64 * at_)).take 64) (y.maxes.getD h negInf32)
      ⟨Wide.ofPair (y.lsum.getD h ⟨0, 0⟩), ((y.accs.drop (h * r.d)).take r.d).map fun a => ⟨a, 0⟩⟩
  ({ y with lsum := rs.map (·.lsum.p), accs := rs.flatMap fun t => t.o.map (·.acc) },
    flagsAll (rs.map fun t => flagOr t.lsum.f (flagsAll (t.o.map (·.flags)))))

/-- The partial of a head as its shed holds it at the end of pass 2. -/
def Shed.partOf (r : AttnRec) (y : Shed) (h : Nat) : AttnPart :=
  attnPart (y.maxes.getD h negInf32) (y.lsum.getD h ⟨0, 0⟩) ((y.accs.drop (h * r.d)).take r.d)

/-- A shed's state replaced by what some work makes of it, with the flags of the work. -/
def State.shedDoes (s : State) (ch : Nat) (f : Shed → Shed × Nat) : State × Nat := (s.modShed ch fun y => (f y).1, (f (s.shed ch)).2)

/-- Outputs of every head of a segment (R282). -/
def State.attnOut (s : State) (x : Ctx) (r : AttnRec) (seg ch : Nat) : List Nat → Except Nat (State × Nat)
  | [] => .ok (s, 0)
  | h :: hs => do
    let a := (s.shed ch).partOf r h
    let t ← s.putAttn x r seg h a
    let s := t.1.modShed ch fun y => { y with out := a.words }
    let u ← s.attnOut x r seg ch hs
    pure (u.1, flagOr t.2 u.2)

/-- One block of one pass, in the shed of its channel (R282). -/
def State.attnBlock (s : State) (x : Ctx) (r : AttnRec) (u : Nat × Bool × Nat) : Except Nat (State × Nat) := do
  let first := u.1 * r.seglen
  let a ← s.kvAddr x r u.2.2
  let ch ← s.blockChannel x r a
  let valid := r.validOf u.2.2
  let b ← s.loadKv x r a u.2.1 valid
  if u.2.1 then
    let t := if u.2.2 = first then s.shedDoes ch (Shed.startPass r) else (s, 0)
    let v := t.1.shedDoes ch (Shed.sumBlock r (u.2.2 - first) b valid)
    if (r.blocksOf u.1).getLast? = some u.2.2 then
      let w ← v.1.attnOut x r u.1 ch (List.range r.g)
      pure (w.1, flagOr t.2 (flagOr v.2 w.2))
    else pure (v.1, flagOr t.2 v.2)
  else pure (s.shedDoes ch (Shed.scoreBlock r (u.2.2 == first) (s.attnQueries r ch) b valid))

/-- One pass of a segment holds a state code, as its operands have it (R140, R288). -/
def State.passHasCode (s : State) (x : Ctx) (r : AttnRec) (seg : Nat) (second : Bool) : Except Nat Bool := do
  let bs := r.blocksOf seg
  let qs ← s.loadVectors x r.fmtQ (x.parcel.desc r.qDesc) r.g r.d
  let part (isV : Bool) : Except Nat (List (Kv × Nat)) := bs.mapM fun (b : Nat) => do
    let a ← s.kvAddr x r b
    let kv ← s.loadKv x r a isV (r.validOf b)
    pure (kv, r.validOf b)
  let ks ← part false
  let sc := qs.map fun q => ks.map fun kv => r.scores (Reg.vals r.fmtQ q) kv.1 kv.2
  if second then
    let vs ← part true
    pure (sc.any fun blocks =>
      let m := (maxScore (blocks.flatten.map (·.1.v))).v
      let t := (vs.zip blocks).foldl (fun (t : AttnSum) e => r.accumulate e.1.1 e.1.2 (e.2.map (·.1.v)) m t)
        ⟨Wide.zero, List.replicate r.d ⟨Long.zero, 0⟩⟩
      t.o.any fun a => Long.isState a.acc)
  else pure (sc.any fun blocks => blocks.flatten.any (·.2))

/-- Failures that the check sees: of a pass that the command brings to its end, in the shed of its segment, without a state code (R140, R288). -/
def State.attnSeen (x : Ctx) (r : AttnRec) (fails : List ShedFail) (s : State) (pos n : Nat) : List ShedFail :=
  let done := (r.units.drop pos).take n
  fails.filter fun f =>
    let seg := f.unit / 2
    let second := f.unit % 2 == 1
    (done.any fun u => u.1 == seg && u.2.1 == second && (r.blocksOf seg).getLast? == some u.2.2) &&
      (match s.segChannel x r seg with | .ok ch => ch == f.shed | .error _ => false) &&
      (f.parity || match s.passHasCode x r seg second with | .ok b => !b | .error _ => false)

def State.attnJob (x : Ctx) (r : AttnRec) (chs : List Nat) (fails : List ShedFail) : ShedJob where
  chs := chs
  needs := chs
  chan := id
  total := 2 * r.nblk
  fails := State.attnSeen x r fails
  start s := (s.loadVectors x r.fmtQ (x.parcel.desc r.qDesc) r.g r.d).map (s.shedVectors chs)
  step s u := s.attnBlock x r (r.units.getD u (0, false, 0))

/-- S.ATTN: its list of blocks is read once no earlier record can still write it (R271); an output that would lie on a block that it reads halts the job (R271; log 84). -/
def shedAttn (p c i n : Nat) (fails : List ShedFail) (s : State) : State :=
  match s.shedRecord p c i with
  | some (x, .attn r, at_) =>
    if s.preempts p c || (at_.isNone && !s.canStart p x i 0) then s
    else match (List.range r.segments).mapM (s.segChannel x r) with
    | .error e => s.haltJob p c e
    | .ok chs =>
      if at_.isNone && (x.parcel.writes (.attn r)).meet (s.readsOf x (.attn r)) then s.haltJob p c 0x0203
      else s.runSheds p c i n x at_ (State.attnJob x r chs.eraseDups fails) []
  | _ => s

def execSAttn (p ctx ordinal n : Nat) (fails : List ShedFail) (s : State) : Out :=
  onUnit (p < 16 ∧ ctx < 8) (shedAttn p ctx ordinal n fails s)

/-! ### S.ACOMB (R283) -/

/-- What the fold over segments carries. -/
structure CombSt where
  m : W32
  lsum : Wide.W
  o : List Wide.W
  deriving DecidableEq, Repr, Inhabited

/-- v * a + w * b in wide operations: two products and a sum (log 51). -/
def wideMix (v a w b : Wide.W) : Wide.W := Wide.add (Wide.mul v a) (Wide.mul w b)

/-- One segment enters the fold (R283). -/
def CombSt.fold (t : CombSt) (p : AttnPart) : CombSt :=
  let m := el32 (El.max (Fp.val32 t.m) (Fp.val32 p.m))
  let a := expDiff t.m m.v
  let b := expDiff p.m m.v
  let wa : Wide.W := ⟨⟨a.v, 0⟩, flagOr a.flags m.flags⟩
  let wb : Wide.W := ⟨⟨b.v, 0⟩, b.flags⟩
  ⟨m.v, wideMix t.lsum wa (Wide.ofPair p.lsum) wb,
    (t.o.zip p.o).map fun vo => wideMix vo.1 wa (Wide.ofPair vo.2) wb⟩

/-- The result of a head: NaN with INV where lsum is 0 (R283). -/
def CombSt.out (fmt : Nat) (t : CombSt) : List Fp.Coded :=
  let f := (elemFmt? fmt).getD fmtFP32
  t.o.map fun o =>
    if Extn.isZero (Wide.val t.lsum) then ⟨Fp.nanCode f, flagOr flagINV (flagOr o.f t.lsum.f)⟩
    else
      let c := quotient fmt o.p t.lsum.p
      ⟨c.bits, flagOr c.flags (flagOr o.f t.lsum.f)⟩

/-- A partial from its words. -/
def partOfWords (ws : List Nat) : AttnPart :=
  ⟨w32 (nth ws 0), ⟨w32 (nth ws 2), w32 (nth ws 3)⟩,
    (List.range ((ws.length - 4) / 2)).map fun i => ⟨w32 (nth ws (4 + 2 * i)), w32 (nth ws (5 + 2 * i))⟩, 0⟩

def State.loadPart (s : State) (x : Ctx) (r : AcombRec) (seg h : Nat) : Except Nat AttnPart := do
  let ws ← (span ((seg * r.g + h) * partWords r.d) (partWords r.d)).mapM fun (n : Nat) => s.loadBits x 0x01 (x.parcel.desc r.partials) n
  pure (partOfWords (ws.map fun w => w.getD 0))

def State.combHeads (s : State) (x : Ctx) (r : AcombRec) : List Nat → Except Nat (State × Nat)
  | [] => .ok (s, 0)
  | h :: hs => do
    let ps ← (List.range r.segments).mapM fun (seg : Nat) => s.loadPart x r seg h
    let t := ps.foldl CombSt.fold ⟨negInf32, Wide.zero, List.replicate r.d Wide.zero⟩
    let out := t.out r.fmtOut
    let s ← s.putRun x r.fmtOut (x.parcel.desc r.outDesc) (h * r.d) (out.map (·.bits))
    let u ← s.combHeads x r hs
    pure (u.1, flagOr (flagsAll (out.map (·.flags))) u.2)

/-- S.ACOMB on one shed of the paddock; it has no boundary inside. -/
def State.acombJob (x : Ctx) (r : AcombRec) : ShedJob where
  chs := [r.shed]
  needs := [r.shed]
  chan := id
  total := 1
  fails _ _ _ := []
  start s := .ok s
  step s _ := s.combHeads x r (List.range r.g)

/-- S.ACOMB; a shed that the paddock does not own is none of its sheds and gives 0x0305 (R283). -/
def shedAcomb (p c i n : Nat) (s : State) : State :=
  match s.shedRecord p c i with
  | some (x, .acomb r, at_) =>
    if bitOf (s.pd p).owned.packages (r.shed / 8) then s.runSheds p c i n x at_ (State.acombJob x r) [] else s.haltJob p c 0x0305
  | _ => s

def execSAcomb (p ctx ordinal n : Nat) (s : State) : Out := onUnit (p < 16 ∧ ctx < 8) (shedAcomb p ctx ordinal n s)

/-! ### S.COPY and S.FILL (R285, R286, R291) -/

/-- A position of an S.COPY's pen side lies in a pen: 0x0301 where it does not (R285; log 127). -/
def State.inPen (s : State) (x : Ctx) (write : Bool) (a : Nat) : Except Nat Unit :=
  match s.place x write a with
  | .error e => .error e
  | .ok d => match s.whereIs d with
    | .pen _ _ => .ok ()
    | _ => .error 0x0301

/-- Move up to n bytes that lie in one burst of the package range between it and the pen's positions, in walk order (R263, R285; log 50). -/
def State.copyRun (s : State) (x : Ctx) (r : CopyRec) (at_ n : Nat) : Except Nat State := do
  let pen := x.parcel.desc r.pen
  let spots := (span at_ n).map fun i => (pen.place 0x08 i).map (·.1)
  let _ ← (spots.filterMap id).mapM fun a => s.inPen x r.toPen a
  if r.toPen then
    let bs ← s.load x (r.base + at_) n
    s.storeAll x ((spots.zip bs).filterMap fun e => e.1.map fun a => (a, e.2))
  else
    let vs ← (span at_ n).mapM fun (i : Nat) => s.loadBits x 0x08 pen i
    s.store x (r.base + at_) (vs.map fun v => BitVec.ofNat 8 (v.getD 0))

/-- The channel whose granule holds byte n of the range. -/
def State.copyChannel (s : State) (x : Ctx) (r : CopyRec) (n : Nat) : Option Nat :=
  match s.place x (!r.toPen) (r.base + n) with
  | .ok d => s.channelAt d
  | .error _ => none

/-- Bursts of the range between two offsets: where each begins, and its bytes. -/
def CopyRec.bursts (r : CopyRec) (lo hi : Nat) : List (Nat × Nat) :=
  ((span ((r.base + lo) / 64) (ceilDiv (r.base + hi) 64 - (r.base + lo) / 64)).map fun b =>
    (max (64 * b - r.base) lo, min (64 * (b + 1) - r.base) hi)).map fun e => (e.1, e.2 - e.1)

/-- The shed of a burst's channel is, or is not, in service. -/
def State.copiesHere (s : State) (x : Ctx) (r : CopyRec) (inService : Bool) (b : Nat) : Bool :=
  match s.copyChannel x r b with
  | some ch => (s.shed ch).ok == inService
  | none => true

/-- Bursts whose shed is, or is not, in service, in turn: the state reached, and the cause that stopped it (R300). -/
def State.copyBursts (s : State) (x : Ctx) (r : CopyRec) (inService : Bool) : List (Nat × Nat) → State × Option Nat
  | [] => (s, none)
  | b :: bs =>
    if !s.copiesHere x r inService b.1 then s.copyBursts x r inService bs
    else match s.copyRun x r b.1 b.2 with
      | .error e => (s, some e)
      | .ok s => s.copyBursts x r inService bs

/-- A state with the cause that stopped the work, as the work of a shed answers it. -/
def orCause (t : State × Option Nat) : Except Nat (State × Nat) := match t.2 with | some e => .error e | none => .ok (t.1, 0)

/-- The part of the range between boundary u and the next: 16 KiB (R293). -/
def pieceAt (length u : Nat) : Nat × Nat := (16384 * u, min length (16384 * (u + 1)))

/-- The sheds that move the range, each the granules of its own channel (R285). -/
def State.copyJob (x : Ctx) (r : CopyRec) (k : Nat) : ShedJob where
  chs := span (8 * k) 8
  needs := []
  chan := id
  total := ceilDiv r.length 16384
  fails _ _ _ := []
  start s := .ok s
  step s u := orCause (s.copyBursts x r true (r.bursts (pieceAt r.length u).1 (pieceAt r.length u).2))

/-- What a MOVE job does for the sheds that are out of service (R291). -/
def State.copyDead (s : State) (x : Ctx) (r : CopyRec) : State × Option Nat := s.copyBursts x r false (r.bursts 0 r.length)

/-- A shed of the package is out of service. -/
def State.deadShed (s : State) (k : Nat) : Bool := (span (8 * k) 8).any fun ch => !(s.shed ch).ok

/-- A record in flight whose package has lost a shed gets a MOVE job on the engine of the package's die, once; it ends with it (R291). -/
def State.deadGranules (s : State) (p c i k : Nat) : State :=
  let e := dieOfChannel (8 * k)
  match (s.ctx p c).bind fun y => y.flights.find? (·.ordinal == i) with
  | some f =>
    if !s.deadShed k || f.units.contains (.engine e) then s
    else (s.modPd p fun d => { d.modCtx c (·.modFlight i fun f => { f with units := f.units ++ [.engine e] }) with entriesUsed := d.entriesUsed + 1 }).addJob e p c i
  | none => s

/-- S.COPY. For sheds out of service Skogete issues a MOVE job to the turnout engine of the channel's die, and the record ends with it (R291). -/
def shedCopy (p c i n : Nat) (s : State) : State :=
  match s.shedRecord p c i with
  | some (x, .copy r, at_) =>
    match s.packageOf x (!r.toPen) r.base r.length with
    | .error e => s.haltJob p c e
    | .ok k =>
      let s' := s.runSheds p c i n x at_ (State.copyJob x r k) (if at_.isNone && s.deadShed k then [.engine (dieOfChannel (8 * k))] else [])
      if at_.isNone && s.deadShed k && ((s'.ctx p c).map fun y => y.flights.any fun f => f.ordinal == i).getD false then
        s'.addJob (dieOfChannel (8 * k)) p c i
      else s'.deadGranules p c i k
  | _ => s

def execSCopy (p ctx ordinal n : Nat) (s : State) : Out := onUnit (p < 16 ∧ ctx < 8) (shedCopy p ctx ordinal n s)

/-- What a filled burst reads as: zero, or what zero stored bytes decrypt to (R265, R286). -/
def State.fillBurst (s : State) (p : Nat) (keyed : Bool) (dev : Nat) : List Byte :=
  if (s.pd p).crypt && !keyed then decryptBurst (paddockKey Config.kdev ((s.pd p).key.getD []) s.otp.serial p) dev (List.replicate 64 0)
  else List.replicate 64 0

/-- Fill bursts in turn. -/
def State.fillBursts (s : State) (p : Nat) (x : Ctx) (r : FillRec) : List Nat → Except Nat State
  | [] => .ok s
  | b :: bs => do
    let d ← s.place x true (r.base + 64 * b)
    let s ← s.store x (r.base + 64 * b) (s.fillBurst p r.keyed d)
    s.fillBursts p x r bs

/-- The sheds fill the range, each its own channel; for one out of service its controller does so by itself (R286, R291). -/
def State.fillJob (p : Nat) (x : Ctx) (r : FillRec) (k : Nat) : ShedJob where
  chs := span (8 * k) 8
  needs := []
  chan := id
  total := ceilDiv r.length 16384
  fails _ _ _ := []
  start s := .ok s
  step s u := (s.fillBursts p x r ((span (256 * u) 256).filter fun b => decide (64 * b < r.length))).map fun s => (s, 0)

def shedFill (p c i n : Nat) (s : State) : State :=
  match s.shedRecord p c i with
  | some (x, .fill r, at_) =>
    match s.packageOf x true r.base r.length with
    | .error e => s.haltJob p c e
    | .ok k => s.runSheds p c i n x at_ (State.fillJob p x r k) []
  | _ => s

def execSFill (p ctx ordinal n : Nat) (s : State) : Out := onUnit (p < 16 ∧ ctx < 8) (shedFill p ctx ordinal n s)

end Sys2Proof.Machine
end

