-- ==== Sys2Proof/Machine/Switch.lean ====
section
/-!
DEFINITION. Contexts that give way (R526, R528-R534): block_after, the switch with its
save and resume, and the swapping of pens (R538-R540).
-/

namespace Sys2Proof.Machine

/-! ### Blocking (R525, R526) -/

/-- The records in flight that have not ended by now all wait on external sources, and none that is still to issue could start but such a one (R525, R526). -/
def State.onlyOutside (s : State) (p : Nat) (x : Ctx) : Bool :=
  let x := { x with flights := x.flights.filter fun f => !x.ended.contains f.ordinal }
  x.waitsOutside && match x.next? with
    | some (j, _) => !s.canStart p x j 0 || x.externalRec j
    | none => true

/-- Every wait of the running context has been on external sources for block_after (R17, R526). -/
def blockAfterExpires (p : Nat) (s : State) : State :=
  match (s.pd p).running with
  | none => s
  | some c =>
    match s.ctx p c with
    | some x =>
      if s.runs p && x.state == .running && s.onlyOutside p x && decide ((s.pd p).blockAfter ≤ (s.pd p).waited) then s.enterState p c .blocked else s
    | none => s

/-- A READY context that is left with waits on external sources alone becomes BLOCKED (R526). -/
def State.blocks (s : State) (p c : Nat) : State :=
  match s.ctx p c with
  | some x => if x.state = .ready && s.onlyOutside p x then s.enterState p c .blocked else s
  | none => s

def execBlockAfterExpiry (p : Nat) (s : State) : Out := onUnit (p < 16) (blockAfterExpires p s)

/-! ### The switch (R528-R534) -/

/-- The state of the units goes into a context's images, its entries are released, and the paddock runs none; one whose waits are all external is BLOCKED (R526, R528, R529, R533). -/
def State.saveOut (s : State) (p c : Nat) (x : Ctx) : State :=
  let im := s.capture p
  let now := s.now p
  let next : CtxState := if s.onlyOutside p x then .blocked else .ready
  s.modPd p fun d =>
    { d.modCtx c (fun x => { (if x.state = .running then x.enter next now else x).settle now with image := some im }) with
      entriesUsed := d.entriesUsed - x.entriesHeld
      running := none }

/-- SWITCH: once every unit of the victim stands at its point, and no turnout job of it is to move row-store bytes, its state goes into its images; its entries are released (R528, R529, R533). A span is not pre-empted (R360, R535). -/
def switchStarts (p : Nat) (s : State) : State :=
  match (s.pd p).switching with
  | some w =>
    if !s.runs p || w.stage != .requested then s
    else match w.victim with
      | none => s.modPd p fun d => { d with switching := some { w with stage := .resuming } }
      | some c =>
        match s.ctx p c with
        | none => s.modPd p fun d => { d with switching := some { w with stage := .resuming }, running := none }
        | some x =>
          if x.spanCode.isSome || !s.unitsAtPoints p || s.rowJob p c x then s else
          (s.saveOut p c x).modPd p fun d => { d with switching := some { w with stage := .saving } }
  | none => s

def execSwitch (p : Nat) (s : State) : Out := onUnit (p < 16) (switchStarts p s)

/-- SAVE_COMPLETE: every image of the victim is saved; the chosen context's are read back (R529, R532). -/
def saveCompletes (p : Nat) (s : State) : State :=
  match (s.pd p).switching with
  | some w =>
    if s.runs p && w.stage == .saving then s.modPd p fun d => { d with switching := some { w with stage := .resuming } } else s
  | none => s

def execSaveComplete (p : Nat) (s : State) : Out := onUnit (p < 16) (saveCompletes p s)

/-- RESUME_COMPLETE: the chosen context is RUNNING with its entries back; its slice starts afresh (R527, R532, R533). Turnout jobs that ended meanwhile are reported (R299). -/
def resumeCompletes (p : Nat) (s : State) : State :=
  match (s.pd p).switching with
  | some w =>
    if !s.runs p || w.stage != .resuming then s
    else match s.ctx p w.chosen with
      | none => (s.modPd p fun d => { d with switching := none }).reschedule p
      | some x =>
        if x.rebuild.isSome then s
        else
          let s := s.putBack p (x.image.getD ⟨[], [], [], []⟩)
          let now := s.now p
          (s.modPd p fun d =>
            { d.modCtx w.chosen (fun x => { (if x.state = .ready then x.enter .running now else x).restamp now with image := none }) with
              switching := none, running := some w.chosen, ranSince := now, sliceOver := false
              entriesUsed := d.entriesUsed + x.entriesHeld }).reschedule p
  | none => s

def execResumeComplete (p : Nat) (s : State) : Out := onUnit (p < 16) (resumeCompletes p s)

/-! ### Swapping (R538-R540) -/

/-- Move a table's pen ranges by whole pens (R540, R544). -/
def shiftPens (k : Int) (t : List Range) : List Range :=
  t.map fun r => if r.kind = 1 then { r with dbase := ((r.dbase : Int) + k * penSize).toNat } else r

/-- A shift of the context's pens onto free pens of the same die, its own pens first, such that its reserved structures find room beside every resident table (R306, R538, R539; log 25). -/
def Paddock.place (d : Paddock) (c : Nat) (x : Ctx) : Option Int :=
  let cand := (0 : Int) :: ((List.range 96).map fun (k : Nat) => (k : Int) - 48)
  cand.find? fun k => (x.pens.all fun (n : Nat) =>
    decide (0 ≤ (n : Int) + k) && d.freePens.contains ((n : Int) + k).toNat && dieOfPen ((n : Int) + k).toNat == dieOfPen n) &&
    !(d.modCtx c fun y => { y with resident := true, table := shiftPens k y.lastTable, rebuild := none, merged := none }).pensTaken

/-- Victim order of R539: blocked, idle, halted; earliest entry, lowest number. -/
def victimRank (x : Ctx) : Nat :=
  match x.state with
  | .blocked => 0
  | .idle => 1
  | .halted => 2
  | _ => 3

def beforeAsVictim (a b : Nat × Ctx) : Bool :=
  if victimRank a.2 ≠ victimRank b.2 then decide (victimRank a.2 < victimRank b.2)
  else if a.2.since ≠ b.2.since then decide (a.2.since < b.2.since)
  else decide (a.1 < b.1)

/-- swap_out: the pen contents, with the words that cannot be corrected, go to the swap area by S.COPY on the paddock's sheds, or by a MOVE job for those out of service (R289, R291, R538, R540; log 106). -/
def State.swapOut (s : State) (p c : Nat) : State :=
  match s.ctx p c with
  | none => s
  | some x =>
    let im := s.penImage x
    let lost := s.penSpoilt x
    let s := (s.pd p).channels.foldl State.shedBoundary s
    let s := x.pens.foldl (fun s n => s.zero (penBase n) penSize) s
    (s.modCtx p c fun x => { x with resident := false, swapImage := im, swapBad := lost }).swapJobs p c

/-- A victim that still holds the paddock's units gives them up first, as a switch would take them (R528, R529, R539). -/
def State.vacate (s : State) (p c : Nat) (x : Ctx) : State := if (s.pd p).running = some c then s.saveOut p c x else s

/-- A victim can go now: no turnout job of it reaches its pens (R540), and where it still holds the units no switch is under way and they stand at their points (R528). -/
def State.canVacate (s : State) (p c : Nat) (x : Ctx) : Bool :=
  !s.hasTurnoutJob p c x && ((s.pd p).running != some c || ((s.pd p).switching.isNone && s.unitsAtPoints p && !s.rowJob p c x))

/-- The loop of R539, at most 8 victims: swap out until the incoming context fits. -/
def State.swapLoop (s : State) (p c : Nat) (x : Ctx) : Nat → State × Bool
  | 0 => (s, ((s.pd p).place c x).isSome)
  | n + 1 =>
    if ((s.pd p).place c x).isSome then (s, true)
    else
      let d := s.pd p
      let vs := d.withCtx fun x => x.resident && x.spanCode.isNone && decide (victimRank x < 3)
      match bestBy beforeAsVictim (vs.filter fun v => v.1 != c) with
      | none => (s, false)
      | some v => if !s.canVacate p v.1 v.2 then (s, false) else State.swapLoop ((s.vacate p v.1 v.2).swapOut p v.1) p c x n

/-- SWAP: when no resident context is READY and some swapped one is (R539). -/
def swaps (p : Nat) (s : State) : State :=
  let d := s.pd p
  if !s.runs p || d.swappingIn.isSome || !(d.withCtx fun x => x.resident && x.state == .ready).isEmpty then s
  else match bestBy beforeByPriority (d.withCtx fun x => !x.resident && x.state == .ready) with
    | none => s
    | some (c, x) =>
      let r := s.swapLoop p c x 8
      if r.2 then (r.1.modPd p fun d => { d with swappingIn := some c }).swapJobs p c else r.1

def execSwap (p : Nat) (s : State) : Out := onUnit (p < 16) (swaps p s)

/-- SWAP_IN_COMPLETE: once every MOVE job of the swap has ended, the contents are back in pens, the context is resident, and the ostler decides (R527, R540). -/
def swapInCompletes (p c : Nat) (s : State) : State :=
  if !s.runs p || (s.pd p).swappingIn != some c || s.swapMoves p then s
  else match s.ctx p c with
    | none => s.modPd p fun d => { d with swappingIn := none }
    | some x =>
      match (s.pd p).place c x with
      | none => s
      | some k =>
        let s := (s.pd p).channels.foldl State.shedBoundary s
        let s := x.swapImage.foldl (fun s ab => s.wr ((ab.1 : Int) + k * penSize).toNat [ab.2]) s
        let s := x.swapBad.foldl (fun s u => s.spoil ((u : Int) + k * penSize).toNat) s
        let s := s.modCtx p c fun x =>
          let x := { x with resident := true, swapImage := [], swapBad := [], pens := x.pens.map fun (n : Nat) => ((n : Int) + k).toNat }
          if k = 0 then x else x.retable ((shiftPens k x.lastTable).map s.remount.bound)
        (s.modPd p fun d => { d with swappingIn := none }).reschedule p

def execSwapInComplete (p ctx : Nat) (s : State) : Out := onUnit (p < 16 ∧ ctx < 8) (swapInCompletes p ctx s)

end Sys2Proof.Machine
end

