-- ==== Sys2Proof/Machine/Turnout.lean ====
section
/-!
DEFINITION. The turnout engines (R294-R300, R551) and the transfer records of a
parcel (R437, R467).
-/

namespace Sys2Proof.Machine

/-! ### Elements of a job (R294, R298) -/

/-- The bytes, or the 4-bit pattern, at a source position; zero outside the valid range (R113). -/
def State.takeElem (s : State) (x : Ctx) (r : TurnRec) (n : Nat) : Except Nat Nat :=
  let d := x.parcel.desc r.src
  if r.esize = 0 then
    match s.loadBits x 0x07 d n with
    | .error e => .error e
    | .ok v => .ok (v.getD 0)
  else
    match d.place 0x08 n with
    | none => .ok 0
    | some (a, _) =>
      match s.load x a r.esize with
      | .error e => .error e
      | .ok bs => .ok (leVal bs)

/-- Bytes of the 4-bit elements that a group puts at places (address, bit, pattern): a byte whose other half no element takes keeps it (R191). -/
def State.halves (s : State) (x : Ctx) (es : List (Nat × Nat × Nat)) : List Nat → Except Nat (List (Nat × Byte))
  | [] => .ok []
  | a :: as => do
    let half (b : Nat) : Option Nat := (es.reverse.find? fun e => e.1 == a && e.2.1 == b).map (·.2.2)
    let old ← if (half 0).isSome && (half 4).isSome then pure 0 else (s.peek x a 1).map leVal
    let rest ← s.halves x es as
    pure ((a, BitVec.ofNat 8 ((half 0).getD (old % 16) + 16 * (half 4).getD (old / 16))) :: rest)

/-- Put elements at destination positions in one write; nothing outside the valid range (R113, R263). -/
def State.putGroup (s : State) (x : Ctx) (r : TurnRec) (es : List (Nat × Nat)) : Except Nat State :=
  let d := x.parcel.desc r.dst
  if r.esize = 0 then do
    let ps := es.filterMap fun e => (d.place 0x07 e.1).map fun a => (a.1, a.2, e.2)
    let bs ← s.halves x ps (ps.map (·.1)).eraseDups
    s.storeAll x bs
  else
    s.storeAll x (es.flatMap fun e => match d.place 0x08 e.1 with
      | none => []
      | some (a, _) => (leBytes r.esize e.2).zipIdx.map fun b => (a + b.2, b.1))

/-- Move a group of positions, source and destination: it is read whole, then written (R294, R300; log 53). -/
def State.moveGroup (s : State) (x : Ctx) (r : TurnRec) (ps : List (Nat × Nat)) : Except Nat State := do
  let vs ← ps.mapM fun pq => s.takeElem x r pq.1
  s.putGroup x r ((ps.map (·.2)).zip vs)

/-- Scale bytes of a group of blocks (R298). -/
def State.moveScales (s : State) (x : Ctx) (r : TurnRec) (lo n : Nat) : Except Nat State :=
  match s.load x ((x.parcel.desc r.src).sbase + lo) n with
  | .error e => .error e
  | .ok bs => s.store x ((x.parcel.desc r.dst).sbase + lo) bs

/-- Steps in turn; at a read error the job stops and what was written stays (R300). -/
def State.stepsOf (f : State → Nat → Except Nat State) (s : State) (n : Nat) : Nat → State × Option Nat
  | 0 => (s, none)
  | k + 1 =>
    match f s n with
    | .error e => (s, some e)
    | .ok s => State.stepsOf f s (n + 1) k

/-- Positions of a group of MOVE: 2 KiB (log 53). -/
def TurnRec.group (r : TurnRec) : Nat := if r.esize = 0 then 4096 else 2048 / r.esize

/-- Positions of group g among n, each to the same position. -/
def TurnRec.moveAt (r : TurnRec) (n g : Nat) : List (Nat × Nat) :=
  (span (g * r.group) (min r.group (n - g * r.group))).map fun i => (i, i)

/-- MOVE: positions in walk order, then the scale bytes of an MX descriptor (R294, R298). -/
def State.moveJob (s : State) (x : Ctx) (r : TurnRec) : State × Option Nat :=
  let n := (x.parcel.desc r.src).count
  let t := State.stepsOf (fun s g => s.moveGroup x r (r.moveAt n g)) s 0 (ceilDiv n r.group)
  match t.2 with
  | some e => (t.1, some e)
  | none =>
    if (x.parcel.desc r.src).mx then
      State.stepsOf (fun s g => s.moveScales x r (2048 * g) (min 2048 (ceilDiv n 32 - 2048 * g))) t.1 0 (ceilDiv (ceilDiv n 32) 2048)
    else t

/-- Where source position n of a rows × cols matrix goes in its transpose (R294). -/
def TurnRec.transposed (r : TurnRec) (n : Nat) : Nat := n % r.cols * r.rows + n / r.cols

/-- Side of a tile of XPOSE (R294). -/
def TurnRec.tile (r : TurnRec) : Nat := if r.esize = 0 then 128 else 64

/-- Tiles across the matrix. -/
def TurnRec.tileCols (r : TurnRec) : Nat := ceilDiv r.cols r.tile

/-- Positions of tile t, in rows of tiles: each source position with its place in the transpose, in the order of the destination (R294; log 53). -/
def TurnRec.tileAt (r : TurnRec) (t : Nat) : List (Nat × Nat) :=
  let rows := (span (t / r.tileCols * r.tile) r.tile).filter fun i => decide (i < r.rows)
  let cols := (span (t % r.tileCols * r.tile) r.tile).filter fun j => decide (j < r.cols)
  cols.flatMap fun j => rows.map fun i => (i * r.cols + j, r.transposed (i * r.cols + j))

/-- XPOSE: the transpose of a rows × cols matrix, tile by tile (R294). -/
def State.xposeJob (s : State) (x : Ctx) (r : TurnRec) : State × Option Nat :=
  State.stepsOf (fun s t => s.moveGroup x r (r.tileAt t)) s 0 (ceilDiv r.rows r.tile * r.tileCols)

/-! ### Jobs on an engine (R294, R299, R300) -/

/-- The job that an engine runs: the first that stands in its queue. -/
def State.engineJob (s : State) (e : Nat) : Option TurnJob := (s.turnout.getD e []).find? (·.arrived)

/-- The record of a job: a turnout record, or an S.COPY whose package has a shed out of service (R291). -/
def State.jobRec (s : State) (j : TurnJob) : Option (Ctx × RecBody) :=
  match s.ctx j.paddock j.ctx with
  | none => none
  | some x => (x.parcel.recs[j.ordinal]?).map fun r => (x, r.body)

/-- The engine's job has been run to its end, with a status. -/
def State.jobRan (s : State) (e status : Nat) (j : TurnJob) : State :=
  { s with turnout := s.turnout.modify e fun (q : List TurnJob) =>
      q.map fun k => if k = j then { k with copied := true, status := status } else k }

/-- The work of a job of the kind named: the state reached, and the cause that stopped it. -/
def State.jobWork (s : State) (x : Ctx) (isXpose : Bool) : RecBody → Option (State × Option Nat)
  | .turnout r => if r.xpose != isXpose then none else some (if isXpose then s.xposeJob x r else s.moveJob x r)
  | .copy r =>
    if isXpose then none else some (s.copyDead x r)
  | _ => none

/-- What a turnout record has written to the companion window goes out in WR and WR_PART messages, in the order of its positions (R425, R428). -/
def State.sendsJob (s : State) (x : Ctx) (j : TurnJob) : RecBody → State
  | .turnout r =>
    if !x.reachesCompanion r.dst then s
    else
      let as' := s.windowBytes x true r.dst r.esize
      ((as'.map (· / 64)).eraseDups).foldl (fun (s : State) g => s.writeGranule (.job j.paddock j.ctx j.ordinal) as'.contains g) s
  | _ => s

/-- Accesses of a job to the companion window that have not been answered (R562). -/
def State.jobWaits (s : State) (j : TurnJob) : Bool := s.mcl.requests.any fun r => r.kind == .job j.paddock j.ctx j.ordinal

/-- The engine runs its job, which must be of the kind named, MOVE for the granules of a swap, whose contents SWAP and SWAP_IN_COMPLETE carry, once what it reads over MCL has come; a read error halts the job (R263, R291, R300). -/
def State.runEngine (s : State) (e : Nat) (isXpose : Bool) : State :=
  if !s.running then s
  else match s.engineJob e with
    | none => s
    | some j =>
      if j.ofSwap then (if isXpose then s else s.jobRan e 0 j)
      else match s.jobRec j with
      | none => s
      | some (x, b) =>
        if j.copied || s.jobWaits j then s
        else match s.jobWork x isXpose b with
          | none => s
          | some (t, none) => (t.sendsJob x j b).jobRan e 0 j
          | some (t, some c) => if c = awaitsSwitch then s else (t.jobRan e (c % 65536) j).haltJob j.paddock j.ctx c

def moves (e : Nat) (s : State) : State := s.runEngine e false
def xposes (e : Nat) (s : State) : State := s.runEngine e true

def execMove (engine : Nat) (s : State) : Out := onUnit (engine < 2) (moves engine s)
def execXpose (engine : Nat) (s : State) : Out := onUnit (engine < 2) (xposes engine s)

/-- One of the paddock's waiting jobs takes the place of an ended one (R551). -/
def promote (p : Nat) (q : List TurnJob) : List TurnJob :=
  match q.find? fun j => j.paddock == p && !j.arrived with
  | none => q
  | some j => q.filter (· != j) ++ [{ j with arrived := true }]

/-- TURNOUT_JOB_END: once the module's accesses for it are answered, the job leaves the engine; its record ends, at once or at the resumption; a BLOCKED context whose awaited transfer it was is ready again, and a READY one that now waits on external sources alone is BLOCKED (R299, R526). -/
def turnoutEnds (e : Nat) (s : State) : State :=
  if !s.running then s
  else match s.engineJob e with
    | none => s
    | some j =>
      if !j.copied || s.jobWaits j then s
      else
        let s := { s with turnout := s.turnout.modify e fun (q : List TurnJob) => promote j.paddock (q.filter (· != j)) }
        if j.ofSwap then s
        else match s.ctx j.paddock j.ctx with
        | none => s
        | some x =>
          if x.sv.loading.isSome then s.loadEnds j.paddock j.ctx j.ordinal
          else if x.state = .running then s.modCtx j.paddock j.ctx (·.modFlight j.ordinal (Flight.unitEnds (.engine e) []))
          else
            let s := s.modCtx j.paddock j.ctx fun x => { x with ended := x.ended ++ [j.ordinal] }
            if x.state = .blocked && x.externalRec j.ordinal then s.makeReady j.paddock j.ctx else s.blocks j.paddock j.ctx

def execTurnoutJobEnd (engine : Nat) (s : State) : Out := onUnit (engine < 2) (turnoutEnds engine s)

/-! ### Transfer records (R437, R467) -/

/-- Bytes of a transfer's range: one byte for each position (log 50). -/
def Parcel.xferBytes (x : Parcel) (n : Nat) : Nat := (x.desc n).count

/-- A stream cut into frames: offset and payload of each. -/
def framesOf (bs : List Byte) : List (Nat × List Byte) :=
  (chunksOf framePayload (ceilDiv bs.length framePayload) bs).zipIdx.map fun bi => (bi.2 * framePayload, bi.1)

/-- Send a stream toward a role in XFER frames (R437, R467). -/
def State.sendXfer (s : State) (x : Ctx) (role number : Nat) (bs : List Byte) : State :=
  match x.parcel.routeTo role, x.parcel.collection with
  | some port, some col => (framesOf bs).foldl (fun (s : State) (f : Nat × List Byte) =>
      s.sendFrame port (cellsFor f.2.length) (Config.xferGroup col.tag number % 2 ^ 16) col.tag (.xfer role col.role number f.1 f.2)) s
  | _, _ => s

/-- Credit for a whole transfer goes toward its source role (R467; log 54). -/
def State.grantXfer (s : State) (x : Ctx) (role number bytes : Nat) : State :=
  match x.parcel.routeTo role, x.parcel.collection with
  | some port, some col => s.modPort port fun q => q.giveBack (xferStage col.tag role number) (recCells bytes)
  | _, _ => s

/-- The next record to issue is this one. -/
def State.nextIs (s : State) (p c i : Nat) : Option (Ctx × RecBody) :=
  match s.active? p c with
  | none => none
  | some x => match x.next? with
    | some (j, r) => if j = i && s.canStart p x i 0 then some (x, r.body) else none
    | none => none

/-- XFER_SEND: the source is read and its frames go toward the destination role, as far as the receiver has granted credit (R437, R467). A replay uses no link port and sends nothing (R475). -/
def xferSends (p c i : Nat) (s : State) : State :=
  match s.nextIs p c i with
  | some (x, .xferSend role number src) =>
    match (List.range (x.parcel.xferBytes src)).mapM fun (n : Nat) => s.loadBits x 0x08 (x.parcel.desc src) n with
    | .error e => s.haltJob p c e
    | .ok vs =>
      let s := if x.tr.replay.isSome then s else s.sendXfer x role number (vs.map fun v => BitVec.ofNat 8 (v.getD 0))
      (s.launch p c i [] true).runOn p c
  | _ => s

def execXferSend (p ctx ordinal : Nat) (s : State) : Out := onUnit (p < 16 ∧ ctx < 8) (xferSends p ctx ordinal s)

/-- XFER_RECV: the record starts, credit is granted and its duration runs (R92, R467); in a replay, which uses no link port, nothing can come (R475; log 79). -/
def xferReceives (p c i : Nat) (s : State) : State :=
  match s.nextIs p c i with
  | some (x, .xferRecv role number dst duration) =>
    let s := if x.tr.replay.isSome then s else s.grantXfer x role number (x.parcel.xferBytes dst)
    let s := s.launch p c i [] false
    let s := s.modCtx p c fun x => x.modTr fun t => { t with xfers := if t.replay.isSome then t.xfers else t.xfers ++ [⟨i, role, number, 0⟩] }
    (s.addExpiry p c (.xfer number) duration).runOn p c
  | _ => s

def execXferRecv (p ctx ordinal : Nat) (s : State) : Out := onUnit (p < 16 ∧ ctx < 8) (xferReceives p ctx ordinal s)

/-- XFER_DURATION_EXPIRY: the transfer has not ended in its duration and the job halts (R467). -/
def xferExpires (p c number : Nat) (s : State) : State :=
  match s.takeExpiry p c (.xfer number) with
  | none => s
  | some s => s.haltJob p c 0x0607

def execXferDurationExpiry (p ctx number : Nat) (s : State) : Out :=
  onUnit (p < 16 ∧ ctx < 8) (xferExpires p ctx number s)

end Sys2Proof.Machine
end

