-- ==== Sys2Proof/Machine/Update.lean ====
section
/-!
DEFINITION. The fused update (R366-R405): coefficients, the recurrence of one
element, a bucket's update into the next bank, the clip factor and the column
statistic.
-/

namespace Sys2Proof.Machine

/-! ### What a step's records give (R376, R377, R385, R438, R593) -/

/-- An override of one coefficient (R377). -/
def ClassCoef.override (k : ClassCoef) (o : CoefOver) : ClassCoef :=
  if o.cls ≠ k.cls then k
  else match o.field with
    | 0 => { k with a1 := o.value }
    | 1 => { k with b1 := o.value }
    | 2 => { k with a2 := o.value }
    | 3 => { k with b2 := o.value }
    | 4 => { k with c1 := o.value }
    | 5 => { k with c2 := o.value }
    | 6 => { k with eps := o.value }
    | 7 => { k with e := o.value }
    | 8 => { k with wd := o.value }
    | _ => k

/-- The coefficients of a class in a step (R376, R377). -/
def ClassCoef.inStep (k : ClassCoef) (c : StepCoef) : ClassCoef := c.overrides.foldl ClassCoef.override k

/-- Bytes of a schedule's entry: the size of the record's fields (R593). -/
def coefSize : Nat := 69
def setSize : Nat := 9

/-- The blob entry of step n; none outside the schedule (R593). -/
def Parcel.entry (x : Parcel) (h : Schedule) (n size : Nat) : Option (List Byte) :=
  if n < h.base ∨ h.base + h.count ≤ n then none else some ((x.blob.drop (h.blobOff + (n - h.base) * size)).take size)

/-- Step coefficient records of the template; there is to be exactly one (R377). -/
def Parcel.coefRecs (x : Parcel) : List RecBody :=
  x.loadBodies fun b => match b with
    | .stepCoef _ => some b
    | .stepCoefs _ => some b
    | _ => none

/-- The step coefficients of step n (R377, R593). -/
def Parcel.coefAt (x : Parcel) (n : Nat) : Option StepCoef :=
  match x.coefRecs with
  | [.stepCoef c] => some c
  | [.stepCoefs h] => match x.entry h n coefSize with
    | none => none
    | some bs => (stepCoefOf (rdOf bs)).1
  | _ => none

/-- The fields of R377 as bytes. -/
def StepCoef.bytes (c : StepCoef) : List Byte :=
  let w (v : W32) : List Byte := leBytes 4 v.toNat
  w c.lr ++ w c.gscale ++ w c.clipNorm ++ w c.driftLo ++ w c.driftHi ++ leBytes 1 c.overrides.length ++
    (c.overrides.map fun o => leBytes 1 o.cls ++ leBytes 1 o.field ++ w o.value).flatten ++
    List.replicate (48 - 6 * c.overrides.length) 0

/-- The collection set of step n: all, or where its bitmap lies in the blob (R438, R593). -/
def Parcel.setAt (x : Parcel) (n : Nat) : Option (Bool × Nat × Nat) :=
  let recs := x.loadBodies fun b => match b with
    | .collSet _ _ _ => some b
    | .collSets _ => some b
    | _ => none
  match recs with
  | [.collSet all off len] => some (all, off, len)
  | [.collSets h] => match x.entry h n setSize with
    | none => none
    | some bs => some (fieldAt bs 0 1 == 1, fieldAt bs 1 4, fieldAt bs 5 4)
  | [] => if x.collection.isNone then some (true, 0, 0) else none
  | _ => none

/-- Buckets of the job (R434, R435). -/
def Parcel.bucketCount (x : Parcel) : Nat := match x.collection with | some c => c.buckets | none => x.bucketRecs.length

/-- The bitmap of a step's collection set, with ALL expanded to ones (R438). -/
def Parcel.setBytes (x : Parcel) (n : Nat) : List Byte :=
  match x.setAt n with
  | none => []
  | some (all, off, _) =>
    let k := x.bucketCount
    if all then leBytes (ceilDiv k 8) (2 ^ k - 1) else (x.blob.drop off).take (ceilDiv k 8)

/-- The buckets that a step touches, in collection order (R385, R438). -/
def Parcel.touched (x : Parcel) (n : Nat) : List BucketRec :=
  match x.setAt n with
  | none => []
  | some (all, off, _) =>
    x.bucketRecs.filter fun b => all || (match x.blob[off + b.bucket / 8]? with | some v => bitOf v.toNat (b.bucket % 8) | none => false)

def Parcel.cols (x : Parcel) (b : BucketRec) : Nat := match x.layer? b.layer with | some l => l.cols | none => 0
/-- Elements of a bucket, and its blocks of 32 (R440). -/
def Parcel.bucketElems (x : Parcel) (b : BucketRec) : Nat := b.rows * x.cols b
def Parcel.bucketBlocks (x : Parcel) (b : BucketRec) : Nat := ceilDiv (x.bucketElems b) 32

/-- This module is the root of a tree (R436). -/
def TreeRec.isRoot (t : TreeRec) : Bool := t.upPort == 0x3F

/-! ### Kept remainder (R234-R236) -/

/-- The exponent that counts a kept remainder (R235). -/
def keptExp (h : Ext) : Int :=
  match h with
  | .fin d => if Dyn.log2 d < -126 then -126 else Dyn.log2 d
  | _ => -126

/-- hi + r × 2^(e - 23) (R235). -/
def keptValue (hi : Nat) (r : Int) : Ext :=
  match Fp.decode fmtBF16 hi with
  | .nan => .nan
  | .inf n => .inf n
  | h => if r = 0 then h else Extn.ofDy (Dyn.add (Extn.dy h) ⟨r, keptExp h - 23⟩)

structure Kept where
  hi : Nat
  r : Int
  flags : Nat
  deriving DecidableEq, Repr, Inhabited

/-- The next BF16 above a finite one. -/
def bf16Up (hi : Nat) : Nat := if hi / 2 ^ 15 % 2 = 0 then hi + 1 else if hi = 2 ^ 15 then 1 else hi - 1

/-- The write of a new value p (R236). -/
def keptWrite (p : Ext) : Kept :=
  let hi := (Fp.encode fmtBF16 .rne (Fp.ofExt p)).bits
  let h := Fp.decode fmtBF16 hi
  if !Extn.isFinite h then ⟨hi, 0, flagIf (Extn.isFinite p) (flagOr flagOFL flagINX)⟩
  else
    let r := (Fp.roundInt .rne (Fxn.ofDy (Dyn.scale (Dyn.sub (Extn.dy p) (Extn.dy h)) (23 - keptExp h)))).1
    let hr : Nat × Int := if r = 32768 then (bf16Up hi, -32768) else (hi, r)
    let exact := Dyn.eq (Extn.dy (keptValue hr.1 hr.2)) (Extn.dy p)
    let small := Dyn.lt (Dyn.abs (Extn.dy p)) ⟨1, -126⟩
    ⟨hr.1, hr.2, flagOr (flagIf (!exact) flagINX) (flagIf (!exact && small) flagUFL)⟩

/-! ### The recurrence (R378-R383, R403) -/

/-- What is fixed for a bucket's update: coefficients, the clip factor in use, the bucket exponent, 1 - lr × wd, and the bias factors that divide. -/
structure UpK where
  k : ClassCoef
  c : StepCoef
  clip : W32
  e : Int
  keep : Wide.W
  bc1 : Option Wide.W
  bc2 : Option Wide.W
  deriving DecidableEq, Repr, Inhabited

/-- 1 - pow_w(a, t); none where t < 1 or the factor is zero (R382). -/
def biasFactor (a : W32) (n n0 : Nat) : Option Wide.W :=
  if n < n0 then none
  else
    let x := Wide.sub Wide.one (Wide.pow (Wide.of32 a) (n - n0 + 1))
    if Extn.isZero (Wide.val x) then none else some x

def UpK.of (k : ClassCoef) (c : StepCoef) (clip : W32) (e : Int) (n n0 : Nat) : UpK :=
  { k := k, c := c, clip := clip, e := e
    keep := Wide.fnma (Wide.of32 c.lr) (Wide.of32 k.wd) Wide.one
    bc1 := if k.bias = 1 then biasFactor k.a1 n n0 else none
    bc2 := if k.bias = 1 ∨ k.bias = 2 then biasFactor k.a2 n n0 else none }

/-- g of a reduced integer: q × 2^e exactly, times gscale, times the clip factor (R378). -/
def UpK.grad (u : UpK) (q : Int) : Wide.W :=
  Wide.mul (Wide.mul (Wide.ofDy ⟨q, u.e⟩) (Wide.of32 u.c.gscale)) (Wide.of32 u.clip)

/-- The factor f (R379). -/
def UpK.factor (u : UpK) (v : Wide.W) : Wide.W :=
  if Extn.isZero (Fp.val32 u.k.e) then Wide.one
  else
    let t := Wide.add (Wide.of32 u.k.eps) v
    if u.k.e = 0x3F000000 then Wide.rsqrt t
    else if u.k.e = 0x3F800000 then Wide.rcp t
    else Wide.exp (Wide.mul (Wide.of32 (u.k.e ^^^ 0x80000000)) (Wide.log t))

/-- psi (R381). -/
def psiOf (kind : Nat) (d : Wide.W) : Wide.W :=
  match kind with
  | 1 =>
    let x := Wide.val d
    if Extn.isNaN x then d
    else if Extn.isZero x then ⟨Wide.zero.p, d.f⟩
    else ⟨⟨if Extn.isNeg x then 0xBF800000 else Fp.one32, 0⟩, d.f⟩
  | 2 => Wide.max (Wide.of32 0xBF800000) (Wide.min d Wide.one)
  | _ => d

def divBy (a : Wide.W) : Option Wide.W → Wide.W
  | none => a
  | some b => Wide.div a b

/-- The element is live (R403). -/
def UpK.live (u : UpK) (g f : Wide.W) (hi : Nat) : Bool :=
  let h := Fp.decode fmtBF16 hi
  if Extn.isZero (Wide.val g) || !Extn.isFinite h then false
  else
    let w := Wide.of32
    let t := Wide.mul (Wide.mul (Wide.add (Wide.mul (w u.k.c1) (w u.k.b1)) (w u.k.c2)) g) f
    let a := Wide.val (Wide.mul (w u.c.lr) ⟨(psiOf u.k.psi t).p, 0⟩)
    match a with
    | .nan => false
    | .inf _ => true
    | x => Dyn.le ⟨1, keptExp h - 24⟩ (Dyn.abs (Extn.dy x))

structure ElemOut where
  kept : Kept
  s1 : W32
  s2 : W32
  flags : Nat
  bad : Bool
  live : Bool
  deriving DecidableEq, Repr, Inhabited

/-- One element (R378). `vf`: v of a factored layer, with nothing to hold in s2. -/
def UpK.elem (u : UpK) (g : Wide.W) (hi : Nat) (r : Int) (s1 s2 : Wide.W) (vf : Option Wide.W) : ElemOut :=
  let w := Wide.of32
  let s1n := Wide.fma (w u.k.b1) g (Wide.mul (w u.k.a1) s1)
  let s2n := Wide.fma (w u.k.b2) (Wide.mul g g) (Wide.mul (w u.k.a2) s2)
  let v := divBy (vf.getD s2n) u.bc2
  let m1 := divBy s1n u.bc1
  let f := u.factor v
  let d := Wide.mul (Wide.fma (w u.k.c2) g (Wide.mul (w u.k.c1) m1)) f
  let uu := psiOf u.k.psi d
  let p := Wide.put 0 (El.copy (keptValue hi r))
  let pn := Wide.fnma (w u.c.lr) uu (Wide.mul p u.keep)
  let kw := keptWrite (Wide.val pn)
  let a := Wide.round32 s1n
  let b := if vf.isSome then (⟨0, 0⟩ : Fp.Narrow) else Wide.round32 s2n
  let fl := flagOr (flagOr (flagOr pn.f v.f) kw.flags) (flagOr a.flags b.flags)
  ⟨kw, a.v, b.v, fl, Wide.isBad a.v || Wide.isBad b.v || !Extn.isFinite (Fp.decode fmtBF16 kw.hi),
    u.live g f hi⟩

/-! ### A bucket (R369-R371, R380, R385-R388, R393) -/

/-- What the collection and the update of a step reach: the banked tensors, staging ranges, local gradients, the seal log and the log of a replay (R369, R372, R434, R474, R476). -/
def Ctx.updateSpans (x : Ctx) : Spans :=
  x.parcel.bankedSpans ++ (x.parcel.layers.map fun l => (x.parcel.desc l.stage).span 5) ++
    (x.parcel.bucketRecs.flatMap fun b => x.parcel.spansOf b.grad 0x01 0) ++
    (match x.parcel.collection with
      | some k => if k.sealLog = 0xFFFF then [] else [(x.parcel.desc k.sealLog).span 1]
      | none => []) ++
    match x.tr.replay with
    | some r => [r.log.span 1]
    | none => []

/-- Some of it lies only in the table that is being built, so that the collection waits for the switch (R545). -/
def Ctx.updateWaits (x : Ctx) : Bool := x.rebuild.isSome && x.updateSpans.any fun r => x.awaits r.1 r.2

/-- Address of byte `off` of a tensor in a bank (R372). -/
def LayerRec.inBank (l : LayerRec) (base : Nat) (bank : Bool) (off : Nat) : Nat := base + off + (if bank then l.bstride else 0)

def LayerSt.block (t : LayerSt) (b : Nat) : Blk := t.blocks.getD b ⟨0, false, false, false, false⟩

/-- Steps missed by a block (R386); LAST holds 48 bits. -/
def Blk.missed (b : Blk) (n : Nat) : Nat := (n + 2 ^ 48 - b.last - 1) % 2 ^ 48

/-- What an update gathers over a bucket. -/
structure UpOut where
  cols : List Wide.W
  flags : Nat
  bad : Bool
  live : Bool
  deriving DecidableEq, Repr, Inhabited

/-- The layer, its state and the step of an update. -/
structure UpL where
  l : LayerRec
  t : LayerSt
  step : Nat
  fac : Bool
  stage : Nat
  striped : Bool
  deriving DecidableEq, Repr, Inhabited

/-- Reduced integers of elements from the staging range (R369; log 35). -/
def State.staged (s : State) (x : Ctx) (stage e n : Nat) : Except Nat (List Int) := do
  let bs ← s.load x (stage + 5 * e) (5 * n)
  pure ((chunksOf 5 n bs).map fun b => signedOf 40 (leVal b))

/-- A statistic after catch-up; +0 where the block has never been written (R386). -/
def caughtUp (b : Blk) (a : W32) (n : Nat) (v : W32) : Wide.W :=
  if b.init then Wide.mul (Wide.pow (Wide.of32 a) (b.missed n)) (Wide.of32 v) else Wide.zero

/-- Update one element in memory: read the committed bank, write the next (R373). -/
def State.updateElem (s : State) (x : Ctx) (u : UpK) (y : UpL) (e : Nat) (g : Wide.W) (vf : Option Wide.W) :
    Except Nat (State × ElemOut) := do
  let b := y.t.block (e / 2048)
  let at_ (base : Nat) (bank : Bool) (size : Nat) : Nat := y.l.inBank base bank (y.l.elemOff y.striped size e)
  let hi ← s.load x (at_ y.l.hiBase b.bank 2) 2
  let r ← s.load x (at_ y.l.rBase b.bank 2) 2
  let s1 ← s.load x (at_ y.l.s1Base b.bank 4) 4
  let s2 ← if y.fac then pure [] else s.load x (at_ y.l.s2Base b.bank 4) 4
  let o := u.elem g (leVal hi) (signedOf 16 (leVal r)) (caughtUp b u.k.a1 y.step (w32 (leVal s1)))
    (caughtUp b u.k.a2 y.step (w32 (leVal s2))) vf
  let s ← s.store x (at_ y.l.hiBase (!b.bank) 2) (leBytes 2 o.kept.hi)
  let s ← s.store x (at_ y.l.rBase (!b.bank) 2) (leBytes 2 (unsignedOf 16 o.kept.r))
  let s ← s.store x (at_ y.l.s1Base (!b.bank) 4) (leBytes 4 o.s1.toNat)
  let s ← if y.fac then pure s else s.store x (at_ y.l.s2Base (!b.bank) 4) (leBytes 4 o.s2.toNat)
  pure (s, o)

def UpOut.join (o : UpOut) (r : ElemOut) : UpOut :=
  { o with flags := flagOr o.flags r.flags, bad := o.bad || r.bad || decide (r.flags % 4 ≠ 0), live := o.live || r.live }

/-- Elements of a row in column order. -/
def State.updateElems (s : State) (x : Ctx) (u : UpK) (y : UpL) (o : UpOut) : Nat → List (Wide.W × Option Wide.W) →
    Except Nat (State × UpOut)
  | _, [] => .ok (s, o)
  | e, g :: gs => do
    let t ← s.updateElem x u y e g.1 g.2
    t.1.updateElems x u y (o.join t.2) (e + 1) gs

/-- col_prev / mu_prev for each column; 1 where mu_prev is 0 (R378). -/
def LayerSt.ratios (t : LayerSt) (cols : Nat) : List Wide.W :=
  let mu := if t.lbank then t.mu1 else t.mu0
  let col := if t.lbank then t.col1 else t.col0
  if Extn.isZero (Fp.val32 mu) then List.replicate cols Wide.one
  else (col.take cols).map fun c => Wide.div (Wide.of32 c) (Wide.of32 mu)

/-- One row of a bucket: its mean of g × g, its statistic, its elements (R380). -/
def State.updateRow (s : State) (x : Ctx) (u : UpK) (y : UpL) (o : UpOut) (row : Nat) : Except Nat (State × UpOut) := do
  let n := y.l.cols
  let qs ← s.staged x y.stage (row * n) n
  let g := qs.map u.grad
  if !y.fac then s.updateElems x u y o (row * n) (g.map fun v => (v, none))
  else
    let gg := g.map fun v => Wide.mul v v
    let b := y.t.block (row * n / 2048)
    let old ← s.load x (y.l.inBank y.l.rowBase b.bank (4 * row)) 4
    let rown := Wide.fma (Wide.of32 u.k.b2) (Wide.divCount (Wide.tiledSum gg) n)
      (Wide.mul (Wide.of32 u.k.a2) (caughtUp b u.k.a2 y.step (w32 (leVal old))))
    let rw := Wide.round32 rown
    let s ← s.store x (y.l.inBank y.l.rowBase (!b.bank) (4 * row)) (leBytes 4 rw.v.toNat)
    let o := { o with
      cols := if o.cols.isEmpty then gg else (o.cols.zip gg).map fun ab => Wide.add ab.1 ab.2
      flags := flagOr o.flags rw.flags
      bad := o.bad || Wide.isBad rw.v || decide (rw.flags % 4 ≠ 0) }
    s.updateElems x u y o (row * n) ((g.zip (y.t.ratios n)).map fun gr => (gr.1, some (Wide.mul rown gr.2)))

def State.updateRows (s : State) (x : Ctx) (u : UpK) (y : UpL) (o : UpOut) : List Nat → Except Nat (State × UpOut)
  | [] => .ok (s, o)
  | r :: rs => do
    let t ← s.updateRow x u y o r
    t.1.updateRows x u y t.2 rs

/-- Padding after a layer's last element holds +0 (R370); a striped tensor holds rows alone. -/
def State.padLayer (s : State) (x : Ctx) (y : UpL) : Except Nat State := do
  let n := y.l.elems
  let k := 2048 * y.l.blocks - n
  let bank := !(y.t.block (n / 2048)).bank
  if k = 0 ∨ y.striped then pure s
  else
    let z (size : Nat) : List Byte := List.replicate (size * k) 0
    let s ← s.store x (y.l.inBank y.l.hiBase bank (2 * n)) (z 2)
    let s ← s.store x (y.l.inBank y.l.rBase bank (2 * n)) (z 2)
    let s ← s.store x (y.l.inBank y.l.s1Base bank (4 * n)) (z 4)
    if y.fac then pure s else s.store x (y.l.inBank y.l.s2Base bank (4 * n)) (z 4)

/-- The parameter blocks of a bucket (R385). -/
def BucketRec.blockRange (b : BucketRec) (cols : Nat) : List Nat :=
  span (b.row0 * cols / 2048) (ceilDiv ((b.row0 + b.rows) * cols) 2048 - b.row0 * cols / 2048)

/-- Blocks that an update or a broadcast has written into the next bank (R374). -/
def LayerSt.pendAt (bs : List Nat) (t : LayerSt) : LayerSt :=
  { t with blocks := t.blocks.zipIdx.map fun bi => if bs.contains bi.2 then { bi.1 with pend := true } else bi.1 }

/-- The exponent of a class in the present step. -/
def Train.scaleOf (t : Train) (cls : Nat) : Int := ((t.scales.find? (·.1 == cls)).map (·.2)).getD 0

/-- Update a whole bucket with a clip factor (R385). -/
def State.updateBucket (s : State) (p c : Nat) (x : Ctx) (b : BucketRec) (sc : StepCoef) (clip : W32) (step : Nat) :
    Except Nat (State × UpOut) :=
  match x.parcel.layer? b.layer, x.layerSt b.layer with
  | some l, some t =>
    match x.parcel.coef? l.cls with
    | none => .error 0x0202
    | some k0 => do
      let k := k0.inStep sc
      let u := UpK.of k sc clip (x.tr.scaleOf b.cls) step l.n0
      let y : UpL := ⟨l, t, step, k.factored, (x.parcel.desc l.stage).base, x.parcel.striped l⟩
      let r ← s.updateRows x.plain u y ⟨[], 0, false, false⟩ (span b.row0 b.rows)
      let s ← if b.row0 + b.rows = l.rows then r.1.padLayer x.plain y else pure r.1
      pure (s.modCtx p c fun x => x.modLayer b.layer (LayerSt.pendAt (b.blockRange l.cols)), r.2)
  | _, _ => .error 0x0202

/-- Sum of (q × 2^e × gscale)² over a bucket's elements (R389). -/
def gradSquares (e : Int) (gscale : W32) (qs : List Int) : Acc :=
  let gs := Extn.dy (Fp.val32 gscale)
  qs.foldl (fun a q =>
    let d := Dyn.mul ⟨q, e⟩ gs
    Long.add a (Long.term (Extn.ofDy (Dyn.mul d d))).acc) Long.zero

/-! ### The clip factor (R389-R392) -/

/-- c of a step, with SAT where nsq saturates (R389). -/
def clipOf (norm : W32) (nsq : Acc) : Fp.Narrow :=
  if Extn.isZero (Fp.val32 norm) then ⟨Fp.one32, 0⟩
  else match nsq with
    | .fin v =>
      if v = 0 then ⟨Fp.one32, 0⟩
      else Wide.round32 (Wide.min Wide.one (Wide.mul (Wide.of32 norm) (Wide.rsqrt (Wide.ofDy ⟨v, -64⟩))))
    | _ => ⟨0, flagSAT⟩

/-- A drift recompute falls due (R391). -/
def driftsOut (sc : StepCoef) (c cPrev : W32) : Bool :=
  let v (w : W32) : Dy := Extn.dy (Fp.val32 w)
  let active := !Extn.isZero (Fp.val32 sc.clipNorm) && (Dyn.lt (v c) ⟨1, 0⟩ || Dyn.lt (v cPrev) ⟨1, 0⟩)
  active && (Dyn.lt (v c) (Dyn.mul (v sc.driftLo) (v cPrev)) || Dyn.lt (Dyn.mul (v sc.driftHi) (v cPrev)) (v c))

/-! ### The column statistic (R387, R388, R393) -/

/-- The next column statistic and μ of a layer from the partials in bucket order, with whether any is not finite (R393). A layer with no update yet takes no decay (R388). -/
def LayerSt.columnStep (t : LayerSt) (k : ClassCoef) (rows cols step : Nat) (parts : List (List Fp.Pair)) :
    List W32 × W32 × Bool :=
  let sum := parts.foldl (fun (a : List Wide.W) (p : List Fp.Pair) =>
    (a.zip p).map fun ab => Wide.add ab.1 (Wide.ofPair ab.2)) (List.replicate cols Wide.zero)
  let dec := Wide.pow (Wide.of32 k.a2) (if t.blocks.any (·.init) then step - t.last - 1 else 0)
  let prev := if t.lbank then t.col1 else t.col0
  let new := (sum.zip prev).map fun sp =>
    Wide.fma (Wide.of32 k.b2) (Wide.div sp.1 (Wide.ofDy ⟨rows, 0⟩)) (Wide.mul dec (Wide.of32 sp.2))
  let mu := (Wide.round32 (Wide.divCount (Wide.tiledSum new) cols)).v
  let col := new.map fun w => (Wide.round32 w).v
  (col, mu, Wide.isBad mu || col.any Wide.isBad)

/-- Write a column statistic and μ into the next bank of a layer state (R394). -/
def LayerSt.setColumns (t : LayerSt) (col : List W32) (mu : W32) : LayerSt :=
  if t.lbank then { t with col0 := col, mu0 := mu, cpend := true } else { t with col1 := col, mu1 := mu, cpend := true }

end Sys2Proof.Machine
end

