-- ==== Sys2Proof/Machine/Checks.lean ====
section
/-!
DEFINITION. What Skogete checks of each record and descriptor at PARCEL_LOAD: form
(R588-R590), limits and the features granted (R586). A check lists the statuses that
it finds, the first of which is the answer (R595).
-/

namespace Sys2Proof.Machine

/-- A failed check. -/
def refuse (b : Bool) (status : Nat) : List Nat := if b then [status] else []

/-- RECORD_INVALID (R583). -/
def invalidIf (b : Bool) : List Nat := refuse b 0x0202

/-- A feature that a record needs is not granted (R586). -/
def lacks (s : State) (feature : Nat) : List Nat := refuse (!bitOf s.grant feature) 0x0207

/-- A feature needed only in a case. -/
def lacksIf (b : Bool) (s : State) (feature : Nat) : List Nat := if b then lacks s feature else []

/-! ### Values -/

/-- A finite FP32 value meets a condition. -/
def finiteWith (w : W32) (f : Dy → Bool) : Bool := Extn.isFinite (Fp.val32 w) && f (Extn.dy (Fp.val32 w))
def isFinite (w : W32) : Bool := finiteWith w fun _ => true
def atLeast0 (w : W32) : Bool := finiteWith w fun d => !Dyn.lt d Dyn.zero
def above0 (w : W32) : Bool := finiteWith w fun d => Dyn.lt Dyn.zero d
/-- lo ≤ w ≤ hi. -/
def between (lo hi : Dy) (w : W32) : Bool := finiteWith w fun d => !Dyn.lt d lo && !Dyn.lt hi d

/-! ### Formats (R100, R186, R275) -/

/-- Format classes of R100: 1 FP4, 2 FP6 and FP8 with their MX forms and MXINT8, 3 BF16, 0 none. -/
def dotClass (f : Nat) : Nat :=
  if [0x07, 0x15].contains f then 1
  else if [0x03, 0x04, 0x05, 0x06, 0x11, 0x12, 0x13, 0x14, 0x16].contains f then 2
  else if f = 0x02 then 3
  else 0

/-- Vectors and queries that a shed takes against a stored format (R275). -/
def shedPair (stored vec : Nat) : Bool :=
  if [0x07, 0x15].contains stored then [0x07, 0x15, 0x03, 0x11].contains vec
  else if [0x03, 0x04, 0x05, 0x06, 0x11, 0x12, 0x13, 0x14, 0x16].contains stored then [0x03, 0x04, 0x11, 0x12, 0x16].contains vec
  else false

/-! ### Descriptors (R113, R191, R194, R588) -/

/-- A descriptor number that is listed, or none where none is allowed. -/
def Parcel.names (x : Parcel) (optional : Bool) (n : Nat) : Bool := (n == 0xFFFF && optional) || (n != 0xFFFF && decide (n < x.descs.length))

/-- A descriptor fits a format that it carries: packed elements along the innermost loop, a scale base and whole blocks for an MX format (R191, R194). -/
def Parcel.carries (x : Parcel) (n f : Nat) : Bool :=
  let d := x.desc n
  let l := (d.loops.head?).getD default
  !(isMx f && (!d.mx || l.count % 32 != 0)) &&
    !([0x05, 0x06, 0x07, 0x13, 0x14, 0x15].contains f && (l.stride != 0 || l.count % 4 != 0))

/-- A required descriptor of a format. -/
def Parcel.streams (x : Parcel) (n f : Nat) : Bool := x.names false n && x.carries n f

/-- A range lies in the blob. -/
def Parcel.inBlob (x : Parcel) (off len : Nat) : Bool := decide (off + len ≤ x.blob.length)

/-- A schedule lies in the blob, with room for its entries (R593). -/
def Parcel.scheduleOk (x : Parcel) (h : Schedule) (size : Nat) : Bool :=
  x.inBlob h.blobOff h.blobLen && decide (h.count * size ≤ h.blobLen)

/-! ### KERNEL (R111-R127, R150, R202, R205, R220, R591) -/

/-- Scale exponents lie in -127 to +127 (R111). -/
def scalesOk (l : List Int) : Bool := l.all fun e => decide (-127 ≤ e ∧ e ≤ 127)

/-- A scale reference: a literal, or a class with its sign (R591). -/
def srefOk (r : Nat) : Bool := r == 0 || (bitOf r 15 && bitsOf r 13 12 == 0 && bitsOf r 11 0 != 0)

/-- The convolution's own limits (R116, R119, R202); that groups divide the channels and taps fit the padded input is the model's choice (log 142). -/
def KernelRec.convOk (k : KernelRec) : Bool :=
  let c := k.conv
  let pads := [c.padTop, c.padBottom, c.padLeft, c.padRight]
  decide (1 ≤ c.fh ∧ c.fh ≤ 17 ∧ 1 ≤ c.fw ∧ c.fw ≤ 17 ∧ 1 ≤ c.strideH ∧ c.strideH ≤ 8 ∧ 1 ≤ c.strideW ∧ c.strideW ≤ 8 ∧
    1 ≤ c.dilH ∧ c.dilH ≤ 8 ∧ 1 ≤ c.dilW ∧ c.dilW ≤ 8 ∧ 1 ≤ c.width) && pads.all (fun v => decide (v ≤ 16)) &&
    decide (1 ≤ c.groups ∧ c.groups ≤ k.k) && k.k % c.groups == 0 && k.n % c.groups == 0 && decide (k.depth ≤ 65536) &&
    decide ((c.fh - 1) * c.dilH < k.m + c.padTop + c.padBottom ∧ (c.fw - 1) * c.dilW < c.width + c.padLeft + c.padRight) &&
    (List.range c.fw).all fun t => decide (-8 ≤ k.shift t ∧ k.shift t ≤ 8)

/-- What a scale field adds to the sum of R205: its literal, and a class with the sign of its reference (R229, R591). -/
def scaleTerm (lit : Int) (sref : Nat) : Int × List (Nat × Int) :=
  if bitOf sref 15 then (0, [(sref % 4096, if bitOf sref 14 then -1 else 1)]) else (lit, [])

/-- scale_a + scale_b + scale_c is 0 whatever exponents the classes take: the literals add up to 0, and the references to each class cancel (R205, R229). -/
def KernelRec.unscaled (k : KernelRec) : Bool :=
  let ts := [scaleTerm k.scaleA k.srefA, scaleTerm k.scaleB k.srefB, scaleTerm k.scaleC k.srefC]
  let refs := ts.flatMap (·.2)
  (ts.map (·.1)).sum == 0 && refs.all fun r => ((refs.filter (·.1 == r.1)).map (·.2)).sum == 0

/-- Every scale field of the parcel is a literal exponent or a block scale of an MX format: none refers to a class (R493). -/
def Parcel.literalScales (x : Parcel) : Bool :=
  x.recs.all fun r => match r.body with
    | .kernel k => !bitOf k.srefA 15 && !bitOf k.srefB 15 && !bitOf k.srefC 15
    | _ => true

/-- K.MM, K.CONV and K.DIST: duplicate execution is for L1 only, K.CONV and K.DIST having K.MM's limit otherwise (R111, R120, R139); select is no accumulate drain (R220). -/
def Parcel.dotChecks (x : Parcel) (s : State) (k : KernelRec) : List Nat :=
  let exact := dotClass k.fmtA != 3
  invalidIf (dotClass k.fmtA == 0 || dotClass k.fmtA != dotClass k.fmtB) ++
  invalidIf (!([0x01, 0x02, 0x03, 0x04, 0x11, 0x12, 0x20].contains k.fmtC)) ++
  invalidIf (k.fmtC == 0x20 && (!exact || !k.unscaled)) ++
  invalidIf (k.preDesc != 0xFFFF && !exact) ++
  invalidIf (decide (k.m = 0 ∨ k.k = 0 ∨ 65536 < k.k ∨ k.n = 0)) ++
  invalidIf (decide (k.chunk = 0 ∨ 128 < k.chunk) || k.partialOff % 4096 != 0 || decide (rowStoreSize < k.partialOff + 512 * k.nc * 16)) ++
  invalidIf (k.check && k.checksummed) ++
  invalidIf (k.kop == 2 && !k.convOk) ++
  invalidIf (k.kop == 3 && (bitsOf k.mode 2 1 == 3 || bitsOf k.mode 4 3 == 3)) ++
  invalidIf (k.accumulates && (k.fmtC != 0x01 || k.select != 0)) ++
  invalidIf (!x.streams k.aDesc k.fmtA || !x.streams k.bDesc k.fmtB || !x.streams k.cDesc k.fmtC ||
    !x.names true k.preDesc || !x.names true k.rowMask) ++
  invalidIf ((k.fmtC == 0x11 || k.fmtC == 0x12) && decide ((x.desc k.cDesc).firstCount < k.n)) ++
  lacksIf exact s 0 ++ lacksIf k.accumulates s 13

/-- K.TOPK (R122). -/
def Parcel.topChecks (x : Parcel) (k : KernelRec) : List Nat :=
  invalidIf (decide (k.m = 0 ∨ k.n = 0 ∨ 1024 < k.n ∨ k.k < k.n ∨ 1048576 < k.k)) ++
  invalidIf (k.fmtA != 0x01 && k.fmtA != 0x02) ++ invalidIf k.accumulates ++
  invalidIf (!x.names false k.aDesc || !x.names false k.cDesc || !x.names true k.rowMask)

/-- K.COMPACT and K.EXPAND (R125): a row is at most 2,048 bytes. -/
def Parcel.moveChecks (x : Parcel) (k : KernelRec) : List Nat :=
  invalidIf (!([0, 1, 2, 4].contains k.esize) || k.accumulates || decide (k.m = 0 ∨ 1048576 < k.m) ||
    decide (rowStoreSize < k.partialOff + 4)) ++
  invalidIf (!x.streams k.aDesc k.itemFmt || !x.streams k.bDesc 0x23 || !x.streams k.cDesc k.itemFmt) ++
  invalidIf (decide (2048 < ceilDiv ((x.desc (if k.kop = 5 then k.aDesc else k.cDesc)).firstCount * fmtBits k.itemFmt) 8))

/-- Loads and stores of a record's program, with their formats. -/
def Parcel.groomUses (x : Parcel) (k : KernelRec) : List (Nat × Nat) :=
  ((x.words k).filter fun w => [0x01, 0x02, 0x05, 0x06].contains (GW.op w)).map fun w => (k.gdesc.getD (GW.desc w) 0xFFFF, GW.fmt w)

/-- The program of a record and where it lies (R150, R154, R168, R591). -/
def Parcel.programChecks (x : Parcel) (k : KernelRec) : List Nat :=
  if k.progBlob = 0xFFFFFFFF then []
  else
    let area := 8 * k.progLen + 80 * k.gdesc.length
    invalidIf (decide (k.progLen = 0 ∨ 1024 < k.progLen) || k.progOff % 8 != 0 || decide (rowStoreSize < k.progOff + area) ||
      !x.inBlob k.progBlob (8 * k.progLen)) ++
    invalidIf (!(k.gdesc.all (x.names false))) ++
    invalidIf (!programOk (x.words k) (k.gdesc.map x.desc)) ++
    invalidIf (!((x.groomUses k).all fun u => x.carries u.1 u.2))

/-- A kernel record's own limits; `nd` is its descriptor count as written. -/
def Parcel.kernelChecks (x : Parcel) (s : State) (p : Nat) (h : RecHead) (k : KernelRec) (nd : Nat) : List Nat :=
  let fmts := (if k.kop = 0 ∨ k.isMove then [] else if k.kop = 4 then [k.fmtA] else [k.fmtA, k.fmtB, k.fmtC]) ++ (x.groomUses k).map (·.2)
  let own := if k.kop = 0 then [] else if k.kop = 4 then x.topChecks k else if k.isMove then x.moveChecks k else x.dotChecks s k
  invalidIf (decide (6 < k.kop ∨ 16 < nd)) ++
  invalidIf (!(fmts.all fmtListed) || !([k.fmtA, k.fmtB, k.fmtC].all fun f => f == 0 || fmtListed f)) ++
  invalidIf (!scalesOk [k.scaleA, k.scaleB, k.scaleC] || !srefOk k.srefA || !srefOk k.srefB || !srefOk k.srefC) ++
  own ++ x.programChecks k ++
  invalidIf (decide (h.rows = 0) && h.side != 1 && h.side != 2 && !((s.stablesOf p).any fun l => l.1 == h.lstable)) ++
  lacksIf ((fmts ++ [k.fmtA, k.fmtB, k.fmtC]).any isMx) s 1

/-! ### SHED, TURNOUT and transfers (R255, R275-R286, R294-R298) -/

/-- Dimensions of a KV head (R279, R280). -/
def headOk (d g : Nat) : Bool := [64, 128, 192, 256].contains d && decide (1 ≤ g ∧ g ≤ 8)

def Parcel.shedChecks (x : Parcel) (s : State) (p : Nat) : RecBody → List Nat
  | .mv r =>
    invalidIf (decide (r.n = 0 ∨ r.k = 0 ∨ 65536 < r.k ∨ r.nv = 0 ∨ 8 < r.nv ∨ 2097152 < r.nv * r.k * fmtBits r.fmtV)) ++
    invalidIf (!shedPair r.fmtW r.fmtV || !([0x01, 0x02, 0x03, 0x04, 0x20].contains r.fmtC)) ++
    invalidIf (!scalesOk [r.scaleW, r.scaleV, r.scaleC] || (r.fmtC == 0x20 && r.scaleW + r.scaleV + r.scaleC != 0)) ++
    invalidIf (r.wBase % 2048 != 0 || (isMx r.fmtW && r.sBase % 2048 != 0)) ++
    invalidIf (!x.streams r.vDesc r.fmtV || !x.streams r.cDesc r.fmtC) ++
    lacks s 2 ++ lacks s 0 ++ lacksIf (isMx r.fmtW || isMx r.fmtV) s 1
  | .attn r =>
    invalidIf (decide (r.nblk = 0 ∨ 65536 < r.nblk ∨ r.valid = 0 ∨ 64 < r.valid ∨ r.seglen = 0 ∨ 64 < r.seglen) || !headOk r.d r.g) ++
    invalidIf (!([0x03, 0x04, 0x11, 0x12].contains r.fmtKv) || !shedPair r.fmtKv r.fmtQ) ++
    invalidIf (r.final && decide (r.seglen < r.nblk)) ++ invalidIf (!((if r.final then [] else [0x00]) ++ [0x01, 0x02, 0x03, 0x04]).contains r.fmtOut) ++
    invalidIf (!x.streams r.qDesc r.fmtQ || !x.names false r.outDesc) ++
    lacks s 2 ++ lacks s 0 ++ lacksIf (isMx r.fmtKv || isMx r.fmtQ) s 1
  | .acomb r =>
    invalidIf (decide (192 ≤ r.shed ∨ r.segments = 0) || !bitOf (s.pd p).owned.packages (r.shed / 8) || !headOk r.d r.g || !([0x01, 0x02, 0x03, 0x04].contains r.fmtOut)) ++
    invalidIf (!x.names false r.partials || !x.names false r.outDesc) ++ lacks s 2
  | .copy r => invalidIf (!x.names false r.pen)
  | .fill r => invalidIf (r.base % 16384 != 0 || r.length % 16384 != 0)
  | _ => []

def Parcel.turnoutChecks (x : Parcel) (s : State) (r : TurnRec) : List Nat :=
  let a := x.desc r.src
  let b := x.desc r.dst
  invalidIf (!x.names false r.src || !x.names false r.dst) ++
  invalidIf (if r.xpose then !([0, 1, 2, 4, 8].contains r.esize) || decide (r.rows * r.cols ≠ a.count ∨ a.count ≠ b.count) || a.mx || b.mx
    else !([1, 2, 4, 8, 16].contains r.esize) || decide (a.count ≠ b.count) || a.mx != b.mx) ++
  invalidIf (decide (17179869184 < (if r.esize = 0 then a.count / 2 else a.count * r.esize))) ++
  refuse ((x.moveSpans r.src r.esize).meet (x.moveSpans r.dst r.esize)) 0x0203 ++
  lacks s 11

/-! ### Training declarations (R316, R335, R349, R372, R376, R377) -/

/-- The limits of R376 on one class's coefficients. -/
def ClassCoef.valuesOk (k : ClassCoef) : Bool :=
  isFinite k.a1 && isFinite k.b1 && between Dyn.zero ⟨1, 0⟩ k.a2 && atLeast0 k.b2 && isFinite k.c1 && isFinite k.c2 &&
    between Dyn.zero ⟨2, 0⟩ k.e && atLeast0 k.wd && above0 k.colInit &&
    (if Extn.isZero (Fp.val32 k.e) then atLeast0 k.eps else above0 k.eps)

def StepCoef.valuesOk (c : StepCoef) (x : Parcel) : Bool :=
  atLeast0 c.lr && above0 c.gscale && atLeast0 c.clipNorm && between Dyn.zero ⟨1, 0⟩ c.driftLo && above0 c.driftLo &&
    finiteWith c.driftHi (fun d => !Dyn.lt d ⟨1, 0⟩) && c.overrides.all (fun o => decide (o.field ≤ 8)) &&
    x.coefs.all fun k => (k.inStep c).valuesOk

def Parcel.stepBeginChecks (x : Parcel) (s : State) (p : Nat) (r : StepBeginRec) : List Nat :=
  invalidIf (!isFinite r.norm || Extn.isZero (Fp.val32 r.norm)) ++ invalidIf (r.step != 0) ++
  invalidIf (decide (r.tLo = 0 ∨ r.tHi < r.tLo ∨ (s.stablesOf p).length < r.tHi + 1)) ++
  invalidIf (!(r.inputs.all (x.names false))) ++
  invalidIf (match x.recs[r.lossRec]? with
    | some ⟨h, .kernel _⟩ => h.tag != 3
    | _ => true)

def Parcel.scheduleCoefsOk (x : Parcel) (h : Schedule) : Bool :=
  x.scheduleOk h coefSize && (List.range h.count).all fun i =>
    match (x.entry h (h.base + i) coefSize).bind fun bs => (stepCoefOf (rdOf bs)).1 with
    | some c => c.valuesOk x
    | none => false

def Parcel.layerChecks (x : Parcel) (s : State) (l : LayerRec) : List Nat :=
  let st := x.striped l
  let fac := x.factored l
  let parts := (l.hiBase, l.tensorBytes st 2) :: (if l.frozen then [] else
    [(l.rBase, l.tensorBytes st 2), (l.s1Base, l.tensorBytes st 4),
      if fac then (l.rowBase, 4 * l.rows) else (l.s2Base, l.tensorBytes st 4)])
  let bank0 := parts.map fun r => (r.1, r.1 + r.2)
  let bank1 := parts.map fun r => (r.1 + l.bstride, r.1 + r.2 + l.bstride)
  invalidIf (decide (l.rows = 0 ∨ l.cols = 0 ∨ 17179869184 < l.rows * l.cols)) ++
  invalidIf (decide (1 < (x.layers.filter (·.layer == l.layer)).length) || (x.coef? l.cls).isNone) ++
  invalidIf (fac && (l.rows == 1 || l.cols == 1)) ++ invalidIf (if fac then l.s2Base != 0 else l.rowBase != 0) ++ invalidIf (st && l.item 2 % 256 != 0) ++
  invalidIf (parts.any (fun r => r.1 % 4096 != 0) || l.bstride % 4096 != 0 || Spans.meet bank0 bank1) ++
  invalidIf (!l.frozen && !x.names false l.stage) ++
  lacks s 5

def Parcel.pigeonChecks (x : Parcel) (s : State) (r : PhRec) : List Nat :=
  invalidIf (decide (1 < (x.pigeonRecs.filter (·.handle == r.handle)).length)) ++
  invalidIf (if r.full then decide (r.k ≠ 0 ∨ r.vocab = 0 ∨ 262144 < r.vocab) else decide (r.k = 0 ∨ 1024 < r.k ∨ r.vocab = 0 ∨ 1048576 < r.vocab)) ++
  invalidIf (decide (r.tcode = 0 ∨ r.slots < 2 ∨ 65536 < r.slots) || r.base % 64 != 0) ++
  invalidIf (decide (2 ^ 33 ≤ r.letters * (if r.full then r.vocab else r.k)) || !x.names false r.tokenMap || (x.desc r.tokenMap).count != r.letters) ++
  lacksIf r.full s 12

/-- The tag of a record in the template. -/
def Parcel.tagOf (x : Parcel) (i : Nat) : Nat := match x.recs[i]? with | some r => r.head.tag | none => 0

/-- A record between two that writes a range (R351). -/
def Parcel.writesBetween (x : Parcel) (a b : Nat) (range : Spans) : Bool :=
  (x.recs.zipIdx.filter fun e => decide (a < e.2 ∧ e.2 < b)).any fun e => (x.writes e.1.body).meet range

def Parcel.saveChecks (x : Parcel) (s : State) (r : SaveRec) : List Nat :=
  let home := x.spansOf r.home r.fmt 0
  let isMove (i : Nat) (out : Bool) : Bool := match (x.recs[i]?).map Rec.body with
    | some (.turnout t) => !t.xpose && home.meet (x.moveSpans (if out then t.src else t.dst) t.esize)
    | _ => false
  invalidIf (decide (1 < (x.saveRecs.filter (·.tensor == r.tensor)).length) || r.mode == 3) ++
  invalidIf (if r.mode = 2 then r.fmt != 0x02 else r.fmt != 0x11 && r.fmt != 0x12) ++
  invalidIf (!x.names false r.home || x.tagOf r.writer != 2 || x.tagOf r.reader != 4) ++
  invalidIf (match x.recs[r.writer]? with | some w => w.head.side == 1 | none => true) ++
  (if r.mode ≠ 1 then invalidIf (decide (r.far ≠ 0 ∨ r.outAt ≠ 0 ∨ r.backAt ≠ 0))
    else
      invalidIf (x.tagOf r.outAt != 2 || x.tagOf r.backAt != 4 || decide (r.outAt ≤ r.writer ∨ r.reader ≤ r.backAt) ||
        !isMove r.outAt true || !isMove r.backAt false) ++
      refuse (x.writesBetween r.outAt r.backAt home) 0x0203) ++
  lacksIf (r.mode == 0) s 7 ++ lacksIf (r.mode == 1) s 8 ++ lacksIf (isMx r.fmt) s 1

/-! ### Collection and membership (R433-R439, R468) -/

/-- Whether a role table holds whole entries in increasing role (R468). -/
def rolesSorted : List Nat → Bool
  | a :: b :: l => decide (a < b) && rolesSorted (b :: l)
  | _ => true

/-- The role table that a range of bytes holds: 4-byte role, 4-byte postcode, 8-byte serial (R468; log 72). -/
def rolesOf (bs : List Byte) : List Role := (chunksOf 16 (bs.length / 16) bs).map fun e => ⟨fieldAt e 0 4, fieldAt e 4 4, fieldAt e 8 8⟩

def Parcel.roleBlob (x : Parcel) : Option (Nat × Nat) := (x.bodies fun | .roleTable o l => some (o, l) | _ => none).head?

/-- The parcel's role table. -/
def Parcel.roleTable (x : Parcel) : List Role :=
  match x.roleBlob with
  | some (o, l) => rolesOf ((x.blob.drop o).take l)
  | none => []

/-- Another job of the module has registered a collection tag (R434); parcels of one job in one paddock share it (log 77). -/
def State.tagUsed (s : State) (p tag : Nat) : Bool :=
  (List.range 16).any fun q => q != p && !((s.pd q).withCtx fun x => x.parcel.hasTag tag).isEmpty

def Parcel.collectionChecks (x : Parcel) (s : State) (p : Nat) (r : CollectionRec) : List Nat :=
  invalidIf (r.tag == 0 || s.tagUsed p r.tag || decide (r.members < 2 ∨ 262144 < r.members) || decide (r.buckets = 0 ∨ 1048576 < r.buckets)) ++
  invalidIf (!(x.roleTable.any fun e => e.role == r.role) || !x.names false r.sealLog) ++
  lacks s 6 ++ lacks s 13

def Parcel.bucketChecks (x : Parcel) (b : BucketRec) : List Nat :=
  let cls := x.scaleRecs.find? (·.cls == b.cls)
  let n := x.cols b
  let e1 := (b.row0 + b.rows) * n
  let others := x.bucketRecs.filter fun o => o.bucket != b.bucket && o.layer == b.layer
  invalidIf ((x.layer? b.layer).isNone || (match cls with | some c => c.target != 0 | none => true) || !x.names false b.grad) ++
  invalidIf (match x.layer? b.layer with
    | some l => decide (b.rows = 0 ∨ l.rows < b.row0 + b.rows) || b.row0 * n % 2048 != 0 || (e1 % 2048 != 0 && b.row0 + b.rows != l.rows)
    | none => true) ++
  invalidIf (others.any fun o => decide (b.row0 < o.row0 + o.rows ∧ o.row0 < b.row0 + b.rows)) ++
  (if x.collection.isNone then []
    else invalidIf (match x.tree? b.tree with | some t => (b.owner == x.role) != t.isRoot | none => true))

def Parcel.treeChecks (x : Parcel) (t : TreeRec) : List Nat :=
  invalidIf (decide (1 < (x.treeRecs.filter (·.tree == t.tree)).length)) ++
  invalidIf (decide (32 ≤ t.upPort) && !t.isRoot) ++
  invalidIf (if t.isRoot then t.upPeer != 0 || t.below != x.members else t.finalPort != 0 || bitOf t.downMask t.upPort)

/-! ### Serving (R279, R483, R494, R511) -/

def Parcel.servingChecks (x : Parcel) (s : State) (r : ServingRec) : List Nat :=
  invalidIf (decide (r.chunk = 0 ∨ 4096 < r.chunk ∨ r.budget < r.chunk ∨ r.maxCtx = 0 ∨ 4 < r.heads ∨ 8192 < r.queueLimit ∨
    r.kvLayers = 0 ∨ r.kvHeads = 0 ∨ r.seglen = 0 ∨ 64 < r.seglen)) ++
  invalidIf (!headOk r.d 1 || !([0x03, 0x04, 0x11, 0x12].contains r.fmtKv) || !between ⟨1, 0⟩ ⟨16, 0⟩ r.margin ||
    !(r.kvPool.all fun n => x.names false n && (x.desc n).stripes r.blockBytes)) ++
  lacksIf (decide (0 < r.heads)) s 3 ++ lacksIf r.swap s 11 ++ lacksIf (isMx r.fmtKv) s 1

/-! ### Any record (R586, R589, R590, R592) -/

/-- Every ordinal in a run is a turnout record (R362). -/
def Parcel.allTurnouts (x : Parcel) (first count : Nat) : Bool :=
  (span first (min count 65536)).all fun i => match (x.recs[i]?).map Rec.body with | some (.turnout _) => true | _ => false

/-- The limits of a record and the features that it needs (R586, R595). `raw` is its 128 bytes. -/
def Parcel.recordChecks (x : Parcel) (s : State) (p i : Nat) (r : Rec) (raw : List Byte) : List Nat :=
  let byteAt (n : Nat) : Nat := fieldAt raw n 1
  invalidIf (decide (r.head.rows ≠ 0) && decide (r.head.grain = 0 ∨ 512 < r.head.grain)) ++
  match r.body with
  | .kernel k => x.kernelChecks s p r.head k (byteAt 90)
  | .branch b =>
    invalidIf (decide (6 < b.src ∨ 4 < b.comb ∨ 6 < b.cond ∨ 1 < byteAt 19)) ++
    invalidIf (match x.recs[i - 1]? with | some ⟨_, .kernel _⟩ => i == 0 | _ => true)
  | .attn a => invalidIf (decide (1 < byteAt 40)) ++ x.shedChecks s p (.attn a)
  | .copy a => invalidIf (decide (1 < byteAt 31)) ++ x.shedChecks s p (.copy a)
  | .fill a => invalidIf (decide (1 < byteAt 29)) ++ x.shedChecks s p (.fill a)
  | .mv a => x.shedChecks s p (.mv a)
  | .acomb a => x.shedChecks s p (.acomb a)
  | .turnout t => invalidIf (decide (1 < byteAt 16)) ++ x.turnoutChecks s t
  | .phase ph first count => invalidIf (decide (2 < ph) || !x.allTurnouts first count) ++ lacks s 11
  | .stepBegin b => x.stepBeginChecks s p b
  | .stepEnd => []
  | .stepCoef c => invalidIf (!c.valuesOk x)
  | .stepCoefs h => invalidIf (!x.scheduleCoefsOk h)
  | .classCoef k =>
    invalidIf (k.cls == 0 || decide (1 < (x.coefs.filter (·.cls == k.cls)).length) || !k.valuesOk || k.psi == 3 || k.bias == 3) ++
    lacksIf k.factored s 4
  | .layer l => x.layerChecks s l
  | .scale c =>
    invalidIf (decide (c.cls = 0 ∨ 4095 < c.cls ∨ 1 < (x.scaleRecs.filter (·.cls == c.cls)).length) ||
      !([0, 3, 4].contains c.target) || decide (c.fallback < -127))
  | .pigeonhole c => x.pigeonChecks s c
  | .save c => x.saveChecks s c
  | .collection c => x.collectionChecks s p c
  | .bucket b => x.bucketChecks b
  | .tree t => x.treeChecks t
  | .route o l => invalidIf (!x.inBlob o l || l != 262144)
  | .collSet all o l => invalidIf (decide (1 < byteAt 17)) ++ invalidIf (!all && (!x.inBlob o l || decide (l < ceilDiv x.bucketCount 8)))
  | .collSets h => invalidIf (!x.scheduleOk h setSize)
  | .roleTable o l => invalidIf (!x.inBlob o l || l != 16 * x.members || !rolesSorted (x.roleTable.map (·.role)))
  | .serving c => x.servingChecks s c
  | .xferSend _ _ src => invalidIf (!x.names false src)
  | .xferRecv _ _ dst _ => invalidIf (!x.names false dst)

/-- Record types that R590 lists. -/
def rtypeOk (t : Nat) : Bool := decide (1 ≤ t ∧ t ≤ 0x16)

/-- The form of a record's 128 bytes: 0x0201 for its header or a reserved field, 0x0202 where its fields cannot be read (R589, R590). -/
def recordForm (i : Nat) (raw : List Byte) : List Nat :=
  let f := fieldAt raw
  let b := bodyOf (f 0 1) raw
  refuse (f 4 4 != i || !rtypeOk (f 0 1) || decide (4 < f 1 1 ∨ 3 < f 2 1 ∨ 1 < f 3 1)) 0x0201 ++
    refuse (rtypeOk (f 0 1) && !b.reservedOk) 0x0201 ++ invalidIf (rtypeOk (f 0 1) && b.body.isNone)

/-- A record as its bytes give it. -/
def recordOf (raw : List Byte) : Rec := ⟨recHeadOf raw, (bodyOf (fieldAt raw 0 1) raw).body.getD .stepEnd⟩

/-- The form and limits of a descriptor's 80 bytes (R113, R588). -/
def descChecks (raw : List Byte) : List Nat := refuse (!descReservedOk raw) 0x0201 ++ invalidIf (!descLimitsOk raw)

end Sys2Proof.Machine
end

