-- ==== Sys2Proof/Machine/Access.lean ====
section
/-!
DEFINITION. How a letter reaches memory: descriptors by their companion addresses
(R574, R588), bytes at their positions, and refusals for a failed access (R263).
-/

namespace Sys2Proof.Machine

/-- A letter whose access failed is refused with its cause, and an uncorrectable burst is noted (R263); one whose access waits for a table switch waits (R545). -/
def State.refuseCause (s : State) (cause : Nat) : Taken :=
  if cause = awaitsSwitch then Taken.hold s else
  Taken.refuse (if cause / 65536 = 0 then s else s.gaveBad (cause / 65536 - 1)) (cause % 65536)

/-- The descriptor that a letter names by its companion address (R574). -/
def State.letterDesc (s : State) (addr : Nat) : Except Nat Desc :=
  if !inWindow addr 80 then .error 0x0104
  else match descChecks (s.rdComp addr 80) with
    | st :: _ => .error st
    | [] => .ok (descOf (s.rdComp addr 80))

/-- Pens of a context holding given contents: bytes, words that cannot be corrected, flipped bits. -/
def State.setPens (s : State) (x : Ctx) (im : List (Nat × Byte)) (lost : List Nat) (flips : List (Nat × Nat)) : State :=
  let s := x.pens.foldl (fun s n => s.zero (penBase n) penSize) s
  let s := im.foldl (fun s ab => s.wr ab.1 [ab.2]) s
  { s with bad := s.bad ++ lost, flips := s.flips ++ flips }

/-- The state with a swapped context's contents in its pens, as a letter reaches them (R406, R538; log 97). -/
def State.lendPens (s : State) (x : Ctx) : State := if x.resident then s else s.setPens x x.swapImage x.swapBad []

/-- What an access left in lent pens goes back to the swap area, and the pens hold again what they held before. -/
def State.returnPens (s before : State) (p c : Nat) (x : Ctx) : State :=
  if x.resident then s else
    let here (u : Nat) : Bool := x.pens.any fun n => decide (penBase n ≤ u) && decide (u < penBase (n + 1))
    let im := s.penImage x
    let lost := s.penSpoilt x
    (s.setPens x (before.penImage x) (before.bad.filter here) (before.flips.filter fun f => here f.1)).modCtx p c fun x =>
      { x with swapImage := im, swapBad := lost }

/-- A letter's work on a context's tensors, wherever its pen contents lie. -/
def State.onPens (s : State) (p c : Nat) (x : Ctx) (f : State → Taken) : Taken :=
  let t := f (s.lendPens x)
  { t with s := t.s.returnPens s p c x }

/-- Bytes at the first n positions of a descriptor; a position outside its valid range gives 0 (R113). -/
def State.descBytes (s : State) (x : Ctx) (d : Desc) (n : Nat) : Except Nat (List Byte) := do
  let vs ← (List.range n).mapM fun (i : Nat) => s.loadBits x 0x08 d i
  pure (vs.map fun v => (BitVec.ofNat 8 (v.getD 0) : Byte))

/-- Bytes at consecutive addresses, for each of a list of addresses. -/
def State.pieces (s : State) (x : Ctx) (z : Nat) (as : List Nat) : Except Nat (List (List Byte)) := as.mapM fun (a : Nat) => s.load x a z

/-- Write runs of bytes at their addresses. -/
def State.putPieces (s : State) (x : Ctx) : List (Nat × List Byte) → Except Nat State
  | [] => .ok s
  | (a, bs) :: l => do
    let s ← s.store x a bs
    s.putPieces x l

/-- Write bytes at consecutive positions of a descriptor. -/
def State.putDesc (s : State) (x : Ctx) (d : Desc) : Nat → List Byte → Except Nat State
  | _, [] => .ok s
  | n, b :: bs => do
    let s ← s.storeBits x 0x08 d n b.toNat
    s.putDesc x d (n + 1) bs

end Sys2Proof.Machine
end

