-- ==== Sys2Proof/Machine/Rules.lean ====
section
/-!
DEFINITION. The rules over a whole parcel that Skogete checks at PARCEL_LOAD after its
records: the form of its kind (R594), tags and sides (R331, R342), branch targets
(R592), hazards (R153), pigeonhole ports (R317, R321), banked tensors (R373), the
tables of a job (R433-R436) and serving parcels (R483, R511).
-/

namespace Sys2Proof.Machine

/-! ### The form of a parcel (R594) -/

/-- Records that are declarations. -/
def RecBody.isDecl : RecBody → Bool
  | .classCoef _ => true
  | .layer _ => true
  | .scale _ => true
  | .pigeonhole _ => true
  | .save _ => true
  | .collection _ => true
  | .bucket _ => true
  | .tree _ => true
  | .route _ _ => true
  | .roleTable _ _ => true
  | _ => false

/-- Records between STEP_BEGIN and STEP_END. -/
def RecBody.inTemplate : RecBody → Bool
  | .stepCoef _ => true
  | .stepCoefs _ => true
  | .collSet _ _ _ => true
  | .collSets _ => true
  | b => b.isRun

def RecBody.isTurnout : RecBody → Bool
  | .turnout _ => true
  | _ => false

/-- A template from its STEP_BEGIN on: STEP_END is its last record and the parcel's. -/
def templateOk (l : List Rec) : Bool :=
  match l with
  | ⟨_, .stepBegin _⟩ :: rest => rest.getLast?.map Rec.body == some .stepEnd && rest.dropLast.all (·.body.inTemplate)
  | _ => false

/-- Records up to the first that is not one of a kind, and the rest. -/
def splitRecs (f : Rec → Bool) (l : List Rec) : List Rec × List Rec := (l.takeWhile f, l.dropWhile f)

/-- The phases of a generate-and-learn parcel: GENERATE and SCORE with their records, then LEARN with its turnout records and the template. -/
def phasesOk (l : List Rec) : Bool :=
  let run (r : Rec) : Bool := r.body.isRun
  match l with
  | ⟨_, .phase 0 _ _⟩ :: l =>
    match (splitRecs run l).2 with
    | ⟨_, .phase 1 _ _⟩ :: l =>
      match (splitRecs run l).2 with
      | ⟨_, .phase 2 _ _⟩ :: l => templateOk (splitRecs (·.body.isTurnout) l).2
      | _ => false
    | _ => false
  | _ => false

/-- The parcel fits the form of its kind (R594). -/
def Parcel.formOk (x : Parcel) : Bool :=
  let rest := (splitRecs (fun r => r.body.isDecl || (x.kind == 1 && r.isLoad)) x.recs).2
  if x.kind = 0 then templateOk rest
  else if x.kind = 2 then phasesOk rest
  else if x.kind = 1 then
    match rest with
    | ⟨_, .serving _⟩ :: l => l.all (·.body.isRun)
    | _ => false
  else rest.all (·.body.isRun)

/-! ### Tags, sides and branches (R331, R342, R492, R592) -/

/-- First ordinal and end of the template of a training or generate-and-learn parcel. -/
def Parcel.template (x : Parcel) : Nat × Nat := (x.seek 0 RecBody.isStepBegin + 1, x.seek 0 RecBody.isStepEnd)

/-- A parcel whose records run by tags. -/
def Parcel.tagged (x : Parcel) : Bool := x.kind == 0 || x.kind == 2

def Parcel.inTemplate (x : Parcel) (i : Nat) : Bool := x.tagged && decide (x.template.1 ≤ i ∧ i < x.template.2)

/-- Record types that carry a state tag (R331). -/
def RecBody.carriesTag : RecBody → Bool
  | .branch _ => false
  | .xferSend _ _ _ => false
  | .xferRecv _ _ _ _ => false
  | b => b.isRun

def nonDecreasing : List Nat → Bool
  | a :: b :: l => decide (a ≤ b) && nonDecreasing (b :: l)
  | _ => true

/-- Tags of the template are present and run in the order of R330. -/
def Parcel.tagsOk (x : Parcel) : Bool :=
  let tags := ((x.recs.take x.template.2).drop x.template.1).filterMap fun r => if r.body.carriesTag then some r.head.tag else none
  !x.tagged || (!tags.contains 0 && nonDecreasing tags)

/-- Sides that R342 allows. -/
def Parcel.sideOk (x : Parcel) (i : Nat) (r : Rec) : Bool :=
  match r.body with
  | .kernel _ =>
    if (x.inTemplate i || x.kind == 2) && r.head.tag != 0 then
      if r.head.tag ≤ 2 then r.head.side == 1 || r.head.side == 2
      else if r.head.tag = 3 then r.head.side == 2
      else r.head.side == 2 || r.head.side == 3
    else r.head.side == 0 || r.head.side == 3
  | _ => r.head.side == 0 || r.head.side == 3

/-- First ordinal and end of the records that run with record i (R594). -/
def Parcel.partOf (x : Parcel) (i : Nat) : Nat × Nat :=
  if x.inTemplate i then x.template
  else if x.kind = 1 then (x.seek 0 RecBody.isServing + 1, x.recs.length)
  else if x.kind = 2 then
    let gen := if i < x.phaseRec 2 then 1 else 2
    (x.phaseRec gen + 1, x.phaseRec (gen + 1))
  else (x.seek 0 RecBody.isRun, x.recs.length)

/-- A branch reaches a record of its own tag in its own part (R592). -/
def Parcel.reaches (x : Parcel) (i dest : Nat) : Bool :=
  let (lo, hi) := x.partOf i
  let tag (j : Nat) : Nat := if x.inTemplate i then x.tagAt lo j else x.tagOf j
  decide (lo ≤ dest ∧ dest < hi) && tag dest == tag i

def Parcel.branchOk (x : Parcel) (i : Nat) : RecBody → Bool
  | .branch b => x.reaches i b.target && (b.other == 0xFFFFFFFF || x.reaches i b.other)
  | _ => true

/-- Classes that a record names are declared (R223, R229), and the sampling flag stands on a kernel record of a serving parcel (R492). -/
def Parcel.classesOk (x : Parcel) (r : Rec) : Bool :=
  match r.body with
  | .kernel k =>
    [k.srefA, k.srefB, k.srefC].all (fun v => !bitOf v 15 || x.scaleRecs.any fun c => c.cls == v % 4096) && (!r.head.sampling || x.kind == 1)
  | _ => !r.head.sampling

/-- A step finishes its sampling within one record, which samples one row for each stream and position: no second record of the parcel samples (R492; log 153). -/
def Parcel.samplesOnce (x : Parcel) : Bool := decide ((x.recs.filter (·.head.sampling)).length ≤ 1)

/-! ### Hazards within a record (R153) -/

/-- Ranges of the loads of a program that follow the K.* destination, or of the others. -/
def Parcel.loadSpans (x : Parcel) (k : KernelRec) (follow : Bool) : Spans :=
  ((x.words k).filter fun w => (GW.op w == 0x01 && GW.follow w == follow) || (GW.op w == 0x05 && !follow)).flatMap fun w =>
    x.spansOf (k.gdesc.getD (GW.desc w) 0xFFFF) (GW.fmt w) 0

/-- The bits that operation by operation of a record of sheds writes: the operation, the first bit, the width. A shed of S.MV has the rows i of its number modulo 8 (R277), one of S.ATTN a segment (R282). -/
def Parcel.shedStores (x : Parcel) : RecBody → List (Nat × Nat × Nat)
  | .mv r => (List.range (r.nv * r.n)).filterMap fun n =>
    ((x.desc r.cDesc).place r.fmtC n).map fun a => (n % r.n % 8, 8 * a.1 + a.2, fmtBits r.fmtC)
  | .attn r =>
    let w := r.g * partWords r.d
    if r.final then [] else (List.range (r.segments * w)).filterMap fun n =>
      ((x.desc r.outDesc).place 0x01 n).map fun a => (n / w, 8 * a.1, 32)
  | _ => []

/-- Two sheds of a record write one bit (R271). -/
def Parcel.storesMeet (x : Parcel) (b : RecBody) : Bool :=
  let ws := x.shedStores b
  ws.any fun u => ws.any fun v => u.1 != v.1 && decide (u.2.1 < v.2.1 + v.2.2) && decide (v.2.1 < u.2.1 + u.2.2)

/-- A write of the record falls inside what it reads (R153); eight sheds share a record, and none may write what another reads or writes (R271). -/
def Parcel.hazard (x : Parcel) : RecBody → Bool
  | .kernel k =>
    let stores := x.groomSpans k 0x02 0x06
    let plain := x.loadSpans k false
    let areas := x.rowAreas k
    stores.meet (x.kReads k ++ plain ++ x.loadSpans k true) || (x.kWrites k).meet (x.kReads k ++ plain) || areas.1.meet areas.2
  | .mv r => (x.writes (.mv r)).meet (x.reads (.mv r)) || x.storesMeet (.mv r)
  | .attn r => (x.writes (.attn r)).meet (x.reads (.attn r)) || x.storesMeet (.attn r)
  | .copy r => (x.writes (.copy r)).meet (x.reads (.copy r))
  | _ => false

/-! ### Pigeonhole ports (R317, R321) -/

/-- A descriptor reaches port addresses. -/
def Parcel.onPort (x : Parcel) (n : Nat) : Bool :=
  let d := x.desc n
  n != 0xFFFF && (decide (portBase < (d.span 1).2) || (d.mx && decide (portBase < d.sbase + ceilDiv d.count 32)))

/-- Every descriptor of a record that a port may not take. -/
def Parcel.portless (x : Parcel) : RecBody → List Nat
  | .kernel k => [k.aDesc, k.bDesc, k.cDesc, k.preDesc, k.rowMask] ++
      ((x.words k).filter fun w => GW.op w == 0x05 || GW.op w == 0x06).map fun w => k.gdesc.getD (GW.desc w) 0xFFFF
  | .mv r => [r.vDesc, r.cDesc]
  | .attn r => [r.qDesc, r.outDesc]
  | .acomb r => [r.partials, r.outDesc]
  | .copy r => [r.pen]
  | .turnout r => [r.src, r.dst]
  | .xferSend _ _ src => [src]
  | .xferRecv _ _ dst _ => [dst]
  | .layer l => [l.stage]
  | .save r => [r.home]
  | .bucket b => [b.grad]
  | .collection r => [r.sealLog]
  | .stepBegin b => b.inputs
  | .pigeonhole r => [r.tokenMap]
  | .serving r => r.kvPool
  | _ => []

/-- Ranges that a record's address fields name (R276, R280, R285, R286, R372). -/
def Parcel.fieldSpans (x : Parcel) : RecBody → Spans
  | .mv r => [(r.wBase, r.wBase + stripedBytes r.n r.itemBytes)] ++
      (if isMx r.fmtW then [(r.sBase, r.sBase + stripedBytes r.n r.scaleBytes)] else [])
  | .attn r => [(r.kvList, r.kvList + 8 * r.nblk)]
  | .copy r => [(r.base, r.base + r.length)]
  | .fill r => [(r.base, r.base + r.length)]
  | .layer _ => x.bankedSpans
  | _ => []

/-- Addresses of a descriptor's valid positions, in order. -/
def Desc.addrs (d : Desc) : List Nat := (List.range d.count).filterMap fun n => (d.place 0x08 n).map (·.1)

/-- The pigeonhole and part that a descriptor stays in, with the letter of each position; none where it leaves one part, one handle or the 4-byte positions. -/
def Parcel.portUse (x : Parcel) (n : Nat) : Option (PhRec × Nat × List Nat) :=
  let as := (x.desc n).addrs
  match portAt (as.headD 0) with
  | none => none
  | some q =>
    match x.pigeonRec? q.handle with
    | none => none
    | some r =>
      let ps := as.filterMap portAt
      let ok := as.all (fun a => a % 4 == 0) && ps.length == as.length && ps.all fun t => t.handle == q.handle && t.part == q.part
      if ok && r.perLetter q.part != 0 then some (r, q.part, ps.map fun t => t.pos / r.perLetter q.part) else none

/-- Port accesses of a record's program: the word and its descriptor. -/
def Parcel.portWords (x : Parcel) (k : KernelRec) (store : Bool) : List (Nat × Nat) :=
  ((x.words k).filter fun w => GW.op w == (if store then 0x02 else 0x01)).filterMap fun w =>
    let n := k.gdesc.getD (GW.desc w) 0xFFFF
    if x.onPort n then some (w, n) else none

/-- One access keeps R317 and the order of R321; a load may read a letter again (R320). -/
def Parcel.portWordOk (x : Parcel) (store : Bool) (wn : Nat × Nat) : Bool :=
  match x.portUse wn.2 with
  | none => false
  | some (r, part, letters) =>
    decide (r.perLetter part ≠ 0) && GW.fmt wn.1 == partFmt part && !(store && part == 4) && nonDecreasing (if store then letters else letters.eraseDups)

/-- Port accesses of a record (R317): stores by teacher-side FORWARD records, loads by student-side records. -/
def Parcel.portsOk (x : Parcel) (r : Rec) : Bool :=
  !((x.portless r.body).any x.onPort) && !((x.fieldSpans r.body).any fun e => decide (portBase < e.2)) &&
    match r.body with
    | .kernel k =>
      let st := x.portWords k true
      let ld := x.portWords k false
      st.all (x.portWordOk true) && ld.all (x.portWordOk false) &&
        (st.isEmpty || (x.tagged && r.head.side == 1 && r.head.tag == 2)) && (ld.isEmpty || (x.tagged && r.head.side == 2))
    | _ => true

/-- Letters of a pigeonhole that a record's loads reach. -/
def Parcel.lettersRead (x : Parcel) (h : Nat) (k : KernelRec) : Nat :=
  ((x.portWords k false).flatMap fun wn => match x.portUse wn.2 with
    | some (r, _, ls) => if r.handle = h then ls else []
    | none => []).eraseDups.length

/-- Letters that one store writes: the most among its runs of CNT positions. -/
def Parcel.lettersWritten (x : Parcel) (h : Nat) (k : KernelRec) : Nat :=
  ((x.portWords k true).map fun wn => match x.portUse wn.2 with
    | some (r, _, ls) =>
      if r.handle = h then
        ((List.range (ceilDiv ls.length (GW.cnt wn.1))).map fun i => ((ls.drop (i * GW.cnt wn.1)).take (GW.cnt wn.1)).eraseDups.length).foldl max 0
      else 0
    | none => 0).foldl max 0

def Parcel.kernels (x : Parcel) : List KernelRec := x.bodies fun | .kernel k => some k | _ => none

/-- S holds R + W letters (R321). -/
def Parcel.slotsOk (x : Parcel) (r : PhRec) : Bool :=
  decide ((x.kernels.map (x.lettersRead r.handle)).foldl max 0 + (x.kernels.map (x.lettersWritten r.handle)).foldl max 0 ≤ r.slots)

/-- The words of a program in the order in which they issue, each loop unrolled; of these, those with a property (R171). -/
def unrollWords (f : Nat → Bool) : Nat → List Nat → List Nat
  | 0, _ => []
  | _, [] => []
  | n + 1, w :: ws =>
    if GW.op w = 0x3C then
      (List.replicate (GW.iter w) (unrollWords f n (ws.take (GW.len w)))).flatten ++ unrollWords f n (ws.drop (GW.len w))
    else if f w then w :: unrollWords f n ws else unrollWords f n ws

/-- Letters of one part of a pigeonhole that port accesses reach in their order of issue: each takes CNT further positions of its descriptor, restricted to the share's rows. -/
def Parcel.lettersAlong (x : Parcel) (r : PhRec) (part : Nat) (k : KernelRec) (rows : Desc → Desc) : List (Nat × Nat) → List Nat → List Nat
  | _, [] => []
  | pos, w :: ws =>
    let j := GW.desc w
    let at_ := ((pos.find? (·.1 == j)).map (·.2)).getD 0
    let d := rows (x.desc (k.gdesc.getD j 0xFFFF))
    ((span at_ (GW.cnt w)).filterMap fun n => match (d.place 0x08 n).bind fun a => portAt a.1 with
      | some q => if q.handle = r.handle ∧ q.part = part ∧ r.perLetter q.part ≠ 0 then some (q.pos / r.perLetter q.part) else none
      | none => none) ++ x.lettersAlong r part k rows ((j, at_ + GW.cnt w) :: pos.filter (·.1 != j)) ws

/-- Letters whose part one kernel record reaches on stable i of a side of n stables (R321, R343). -/
def Parcel.shareLetters (x : Parcel) (r : PhRec) (store : Bool) (part n i : Nat) (h : RecHead) (k : KernelRec) : List Nat :=
  let ws := unrollWords (fun w => GW.op w == (if store then 0x02 else 0x01) && x.onPort (k.gdesc.getD (GW.desc w) 0xFFFF)) (x.words k).length (x.words k)
  if h.rows = 0 then (if h.lstable = i then x.lettersAlong r part k id [] ws else [])
  else
    let g := ceilDiv h.rows h.grain
    let a := i * g / n * h.grain
    let b := min ((i + 1) * g / n * h.grain) h.rows
    if b ≤ a then [] else x.lettersAlong r part k (·.rowsOf a (b - a)) [] ws

/-- Each stable of a side, under every split that the step allows, reaches each part of the letters of a pigeonhole in increasing ordinal over all its records; within one record it may read a letter again (R320, R321; log 156). -/
def Parcel.letterOrderOk (x : Parcel) (n : Nat) (r : PhRec) (store : Bool) : Bool :=
  match x.stepBegin with
  | none => true
  | some b =>
    (span b.tLo (if b.balance then b.tHi + 1 - b.tLo else 1)).all fun t =>
      let m := if store then t else n - t
      (List.range m).all fun i => (List.range 5).all fun part => nonDecreasing (x.recs.flatMap fun e => match e.body with
        | .kernel k =>
          if e.head.side = (if store then 1 else 2) then
            let ls := x.shareLetters r store part m i e.head k
            if store then ls else ls.eraseDups
          else []
        | _ => [])

/-! ### Banked tensors (R373) -/

/-! ### All of them (R595) -/

/-- The serving parcels of a paddock that are loaded. -/
def State.servers (s : State) (p : Nat) : List ServingRec := (s.pd p).servers.filterMap fun cx => cx.2.parcel.servingRec

/-- The rules of the earlier chapters, in the order of the rules that set them; the statuses that they find. -/
def Parcel.ruleChecks (x : Parcel) (s : State) (p : Nat) : List Nat :=
  let each (f : Nat → Rec → Bool) : Bool := x.recs.zipIdx.all fun e => f e.2 e.1
  refuse (!x.formOk) 0x0201 ++
  refuse (x.recs.any fun r => x.hazard r.body) 0x0203 ++
  invalidIf (!(each fun _ r => x.classesOk r) || !x.samplesOnce) ++
  refuse (!(each fun _ r => x.portsOk r) || !(x.pigeonRecs.all x.slotsOk) ||
    !(x.pigeonRecs.all fun r => [true, false].all (x.letterOrderOk (s.stablesOf p).length r))) 0x0204 ++
  refuse (!x.tagsOk) 0x0203 ++
  invalidIf (!(each fun i r => x.sideOk i r)) ++
  invalidIf (x.recs.any fun r => (x.writes r.body).meet x.bankedSpans) ++
  (if x.tagged then lacks s 5 else []) ++
  invalidIf (x.bucketRecs.map (·.bucket) != List.range x.bucketCount) ++
  (match x.collection with
    | some _ => invalidIf ((x.tree? 0).isNone || x.roleBlob.isNone || (x.bodies fun | .route a b => some (a, b) | _ => none).length != 1 || decide (1 < (x.bodies fun | .collection c => some c | _ => none).length))
    | none => invalidIf (!x.treeRecs.isEmpty || x.roleBlob.isSome)) ++
  (match x.servingRec with
    | some v => invalidIf ((s.servers p).any fun w => w.model == v.model || w.swap != v.swap)
    | none => []) ++
  invalidIf (!(each fun i r => x.branchOk i r.body))

end Sys2Proof.Machine
end

