-- ==== Sys2Proof/Machine/Collect.lean ====
section
/-!
DEFINITION. The collection of a training attempt (R433-R467): local contributions,
link adders, owners' checks and updates, the SEAL and CLOSE rounds, the column
exchange, parameter frames and transfers.
-/

namespace Sys2Proof.Machine

/-! ### Blocks (R440-R443, R474) -/

/-- m of R443. -/
def sealM : Nat := 2 ^ 31 - 1

/-- Largest magnitude of one contribution (R221). -/
def qMax : Nat := 2 ^ 21 - 1

/-- seal(q) (R443). -/
def sealOf (qs : List Int) : Nat :=
  qs.zipIdx.foldl (fun s (qi : Int × Nat) => (s + (qi.2 + 1) * (qi.1 % (sealM : Int)).toNat) % sealM) 0

/-- A bucket seal takes block b (R474). -/
def bucketSeal (acc b sl : Nat) : Nat := (acc + (b + 1) * sl) % sealM

/-- The wire conversion of one value: integer, clamped, non-finite (R221). -/
def wireOf (g : Ext) (e : Int) (word : W64) : Int × Bool × Bool :=
  match g with
  | .nan => (0, false, true)
  | .inf _ => (0, false, true)
  | x =>
    let q := roundSrInt (Dyn.scale (Extn.dy x) (-e)) (word.toNat % 2 ^ 32)
    if (qMax : Int) < q then (qMax, true, false) else if q < -(qMax : Int) then (-(qMax : Int), true, false) else (q, false, false)

/-- Patterns of a run of 32 gradient positions; 0 past the bucket's end (R440). -/
def State.gradVals (s : State) (x : Ctx) (b : BucketRec) (k : Nat) : Except Nat (List W32) :=
  (span (32 * k) 32).mapM fun (i : Nat) =>
    if x.parcel.bucketElems b ≤ i then .ok (0 : W32)
    else match s.loadBits x 0x01 (x.parcel.desc b.grad) i with
      | .error e => .error e
      | .ok v => .ok (w32 (v.getD 0))

/-- A member's contribution to a block, with the largest |g| (R217, R221, R225, R359, R440, R443). -/
def State.localBlock (s : State) (x : Ctx) (b : BucketRec) (k : Nat) : Except Nat (GBlock × W32) :=
  if x.tr.verdict = some .lossNf then .ok (⟨List.replicate 32 0, false, false, true, 1, 0⟩, 0)
  else match s.gradVals x b k with
    | .error e => .error e
    | .ok gs =>
      let key := randKey x.parcel.jobSeed (BitVec.ofNat 64 x.stepNow) x.parcel.role domWire
        (BitVec.ofNat 64 b.bucket) (BitVec.ofNat 64 k)
      let rs := gs.zipIdx.map fun gi => wireOf (Fp.val32 gi.1) (x.tr.scaleOf b.cls) (randWord key gi.2)
      let qs := rs.map (·.1)
      let top := (gs.map fun g => if Extn.isFinite (Fp.val32 g) then g &&& 0x7FFFFFFF else 0).foldl maxW 0
      .ok (⟨qs, false, rs.any (·.2.1), rs.any (·.2.2), 1, sealOf qs⟩, top)

/-! ### Jobs, peers and frames taken (R413, R415, R454) -/

/-- Roles that a job's trees put on a port (R436). -/
def Parcel.rolesOn (x : Parcel) (port : Nat) : List Nat :=
  x.treeRecs.flatMap fun t =>
    (if t.upPort = port then [t.upPeer] else []) ++ (t.downPeer.filter (·.1 == port)).map (·.2)

/-- The port's peer is a member that the job places on this port (R415). -/
def State.peerOk (s : State) (x : Ctx) (port : Nat) : Bool :=
  (x.tr.roles ++ (match x.tr.proposal with | some q => q.roles | none => [])).any fun r => r.serial == (s.port port).serial &&
    ((x.parcel.rolesOn port).contains r.role || x.parcel.routeTo r.role == some port)

def State.dropFrame (s : State) (port : Nat) : State := s.modPort port fun q => { q with dropped := q.dropped + 1 }

/-- PEER_MISMATCH, once for a job on a port (R415). -/
def State.peerMismatch (s : State) (port p tag : Nat) : State :=
  if (s.port port).mismatch.contains tag then s
  else
    let s := s.modPort port fun q => { q with mismatch := q.mismatch ++ [tag] }
    s.postEvent p (event 0x00D2 0 port 0xFF 0 0 [tag, (s.port port).serial])

/-- Cells that a taken frame leaves free: at the update path or the memory writer at once; a transfer was granted its credit whole (R85, R414, R467). -/
def Port.frees (q : Port) (stage cells : Nat) : Port := if stage = pathStage ∨ stage = writerStage then q.giveBack stage cells else q

/-- A frame that is dropped frees the cells of an adder too (R414, R415). -/
def State.dropAt (s : State) (port stage cells : Nat) : State :=
  (s.dropFrame port).modPort port fun q => if stage < pathStage then q.giveBack stage cells else q

/-- Take a frame in order, or the n frames of a record (R458), once, for the job that has registered its tag and from the peer that the job names (R413, R415). What it frees goes back as credit (R85). -/
def State.takeFrame (s : State) (port : Nat) (f : FrameHead) (n stage : Nat) (act : Nat → Nat → Ctx → State → State) : State :=
  let q := s.port port
  if !s.running || !q.carries then s
  else
    let s := s.hearsPort port
    if !f.crcOk || seqAfter q.lseqIn f.lseq then s.askResend port
    else if seqFrom q.lseqIn f.lseq ≠ 0 then s
    else
      let s := s.modPort port fun q =>
        ({ q with lseqIn := (q.lseqIn + n) % 2 ^ 32, asksResend := false, owes := true } : Port).frees stage f.cells
      match s.jobOf f.tag with
      | none => s.dropAt port stage f.cells
      | some (p, c, x) =>
        if !s.peerOk x port then (s.dropAt port stage f.cells).peerMismatch port p f.tag else act p c x s

/-- A frame that the paddock's ostler acts on waits while none serves (R46). -/
def State.frameWaits (s : State) (tag : Nat) : Bool :=
  match s.jobOf tag with
  | some (p, _, _) => !s.served p
  | none => false

/-- A frame whose work would reach what lies only in the next table of its job (R545). -/
def State.frameAwaits (s : State) (tag : Nat) : Bool :=
  match s.jobOf tag with
  | some (_, _, x) => x.updateWaits
  | none => false

/-- A frame of a job that takes part in no round (R357, R473) is dropped. -/
def State.takeLive (s : State) (port : Nat) (f : FrameHead) (n stage : Nat) (act : Nat → Nat → Ctx → State → State) : State :=
  if s.frameAwaits f.tag then s else
  s.takeFrame port f n stage fun p c x s => if x.state = .halted then s.dropAt port stage f.cells else act p c x s

/-! ### Sending (R441, R447, R458, R464) -/

def gradCells (blocks : Nat) : Nat := ceilDiv (32 + 168 * blocks) 128

/-- Send one complete block up its tree, in a frame of its own (R445; log 55). -/
def State.sendBlock (s : State) (port : Nat) (o : OpenBlock) : State :=
  s.sendFrame port (gradCells 1) o.tree o.tag (.grad o.head [o.sum])

def TreeRec.downPorts (t : TreeRec) : List Nat := bitsSet 32 t.downMask

/-- Send a frame to every child on a tree. -/
def State.sendDown (s : State) (t : TreeRec) (cells tag : Nat) (body : FrameBody) : State :=
  t.downPorts.foldl (fun (s : State) (q : Nat) => s.sendFrame q cells t.tree tag body) s

/-! ### Owners (R369, R389, R450, R451) -/

def Ctx.modRun (x : Ctx) (bucket : Nat) (f : BucketRun → BucketRun) : Ctx :=
  x.modColl fun k => { k with buckets := k.buckets.map fun r => if r.bucket = bucket then f r else r }

def Coll.run? (k : Coll) (bucket : Nat) : Option BucketRun := k.buckets.find? (·.bucket == bucket)

def BucketRun.fresh (bucket : Nat) : BucketRun :=
  ⟨bucket, 0, false, 0, [], false, false, false, false, false, false, false, Long.zero, []⟩

/-- SEAL_FAULT (R446, R450). -/
def sealFault (c port tree bucket block step : Nat) : OutLetter := event 0x00D1 0 port c tree bucket [block, step]

/-- Stage a reduced block (R369; log 35). -/
def State.stageBlock (s : State) (x : Ctx) (b : BucketRec) (k : Nat) (qs : List Int) : Except Nat State :=
  match x.parcel.layer? b.layer with
  | none => .ok s
  | some l =>
    let n := min 32 (x.parcel.bucketElems b - 32 * k)
    s.store x ((x.parcel.desc l.stage).base + 5 * (b.row0 * l.cols + 32 * k)) ((qs.take n).map fun q => leBytes 5 (unsignedOf 40 q)).flatten

/-- What an update hands to the collection. -/
def BucketRun.take (r : BucketRun) (o : UpOut) : BucketRun :=
  { r with updated := true, bad := o.bad, live := o.live, columns := o.cols.map (·.p) }

/-- The sheds whose replicas update a bucket of a SHED layer: every tensor of the layer lies in one package, each row in one channel (R255, R368; log 127). -/
def State.bucketSheds (s : State) (x : Ctx) (l : LayerRec) (b : BucketRec) : Except Nat (List Nat) := do
  let ts := [(l.hiBase, 2), (l.rBase, 2), (l.s1Base, 4)] ++ (if x.parcel.factored l then [] else [(l.s2Base, 4)])
  let at_ (t : Nat × Nat) : Except Nat Nat := do
    let k ← s.packageAt (s.placeRaw x true t.1)
    if x.inPackage k t.1 (l.tensorBytes true t.2) then pure k else .error 0x0301
  let ks ← (ts ++ ts.map fun t => (t.1 + l.bstride, t.2)).mapM at_
  match ks with
  | [] => .ok []
  | k :: rest => if rest.all (· == k) then .ok (((span b.row0 b.rows).map fun i => 8 * k + i % 8).eraseDups) else .error 0x0301

/-- A layer of a bucket that the SHED engine updates (R366). -/
def Parcel.shedLayer (x : Parcel) (b : BucketRec) : Bool := match x.layer? b.layer with | some l => x.striped l | none => false

/-- The operation boundary of the sheds that are to update a bucket (R289). -/
def State.bucketBoundary (s : State) (x : Ctx) (b : BucketRec) : State :=
  if x.parcel.shedLayer b then
    match s.bucketSheds x ((x.parcel.layer? b.layer).getD default) b with
    | .ok chs => chs.foldl State.shedBoundary s
    | .error _ => s
  else s

/-- Update an owned bucket with a clip factor (R366, R390, R391). A SHED layer stops where one of its sheds is gone (R290, R291). -/
def State.applyBucket (s : State) (p c : Nat) (x : Ctx) (b : BucketRec) (clip : W32) : Except Nat State :=
  match x.parcel.coefAt x.stepNow with
  | none => .error 0x0202
  | some sc => do
    let l := (x.parcel.layer? b.layer).getD default
    let chs ← if x.parcel.shedLayer b then s.bucketSheds x l b else pure []
    if chs.any fun ch => !(s.shed ch).ok then .error 0x0305
    else do
      let r ← s.updateBucket p c x b sc clip x.stepNow
      pure ((r.1.hasRead x x.updateSpans).modCtx p c fun x => (x.modRun b.bucket fun t => t.take r.2).modTr fun t =>
        { t with flags := flagOr t.flags r.2.flags })

/-- Every block of an owned bucket has passed or failed (R450, R451). -/
def State.bucketDone (s : State) (p c : Nat) (b : BucketRec) : State :=
  match s.ctx p c with
  | none => s
  | some x =>
    match x.tr.coll.run? b.bucket with
    | none => s
    | some r =>
      if r.done.length < x.parcel.bucketBlocks b || r.updated || r.failed || r.late || x.parcel.frozen b.layer then s
      else if r.nf then s
      else match (s.bucketBoundary x b).applyBucket p c x b x.tr.cPrev with
        | .error e => (s.bucketBoundary x b).haltJob p c e
        | .ok s => s

/-- What a block of an owned bucket adds to nsq: its terms of R389 (R451). -/
def Ctx.squares (x : Ctx) (b : BucketRec) (qs : List Int) : Acc :=
  match x.parcel.coefAt x.stepNow with
  | some sc => gradSquares (x.tr.scaleOf b.cls) sc.gscale qs
  | none => Long.zero

/-- A block's reduction is complete at its owner (R450). -/
def State.ownerTakes (s : State) (p c port : Nat) (b : BucketRec) (k : Nat) (g : GBlock) : State :=
  match s.ctx p c with
  | none => s
  | some x =>
    match x.tr.coll.run? b.bucket with
    | none => s
    | some r =>
      if r.late || r.done.contains k then s
      else
        let good := !g.bad && sealOf g.q == g.blkSeal && g.members == x.parcel.members
        let s := s.modCtx p c fun x => x.modRun b.bucket fun r =>
          { r with done := r.done ++ [k], reduced := bucketSeal r.reduced k g.blkSeal, nf := r.nf || g.nf, sat := r.sat || g.sat
                   failed := r.failed || !good, nsq := if good && !x.parcel.frozen b.layer then Long.add r.nsq (x.squares b g.q) else r.nsq }
        if !good then (s.postEvent p (sealFault c port b.tree b.bucket k x.stepNow)).bucketDone p c b
        else if x.parcel.frozen b.layer then s.bucketDone p c b
        else match s.stageBlock x b k g.q with
          | .error e => s.haltJob p c e
          | .ok s => s.bucketDone p c b

/-! ### Link adders (R444-R449) -/

def OpenBlock.is (o : OpenBlock) (w : WaitIn) : Bool :=
  o.tree == w.tree && o.tag == w.tag && o.head.bucket == w.head.bucket && o.head.block == w.head.block

/-- An adder has room for an input: its block is open, or fewer than 1,024 are (R447). -/
def Port.hasRoom (q : Port) (w : WaitIn) : Bool := q.adder.any (·.is w) || decide (q.adder.length < 1024)

/-- What an adder finds wrong with an input (R445). -/
def blockWrong (g : GBlock) (own opened : GradHead) : Bool :=
  sealOf g.q != g.blkSeal || g.q.any (fun q => decide (g.members * qMax < q.natAbs)) ||
    own.exp != opened.exp || own.attempt != opened.attempt || own.epoch != opened.epoch || own.step != opened.step

/-- Two inputs of a block combined (R445). -/
def blockSum (a b : GBlock) : GBlock :=
  ⟨(a.q.zip b.q).map fun ab => ab.1 + ab.2, a.bad || b.bad, a.sat || b.sat, a.nf || b.nf, a.members + b.members,
    (a.blkSeal + b.blkSeal) % sealM⟩

/-- An input enters the adder of a port: checked, summed, and handed on when the block is complete (R445, R446). -/
def State.adderTakes (s : State) (port p c : Nat) (x : Ctx) (w : WaitIn) : State :=
  let q := s.port port
  let open? := q.adder.find? (·.is w)
  let first := (open?.map (·.head)).getD w.head
  let wrong := blockWrong w.blk w.head first
  let g := { w.blk with bad := w.blk.bad || wrong }
  let o : OpenBlock := match open? with
    | some o => { o with sum := blockSum o.sum g }
    | none => ⟨w.tree, w.tag, w.head, g⟩
  let s := if wrong then s.postEvent p (sealFault c port w.tree w.head.bucket w.head.block x.stepNow) else s
  let rest := q.adder.filter fun o => !o.is w
  match x.parcel.tree? w.tree with
  | none => s
  | some t =>
    if o.sum.members ≠ t.below then s.modPort port fun q => { q with adder := rest ++ [o] }
    else
      let s := s.modPort port fun q => { q with adder := rest }
      if t.isRoot then
        match x.parcel.bucket? w.head.bucket with
        | some b => s.ownerTakes p c port b w.head.block o.sum
        | none => s
      else s.sendBlock port o

/-- The port whose adder takes the inputs of a tree (R444). -/
def TreeRec.adderPort (t : TreeRec) : Nat := if t.isRoot then t.finalPort else t.upPort

/-- The first input of each source that an adder has room for; what stands behind a waiting one waits (R447). -/
def Port.ready (q : Port) : Option WaitIn :=
  let rec go (blocked : List (Nat × Nat)) : List WaitIn → Option WaitIn
    | [] => none
    | w :: ws =>
      if blocked.contains (w.src, w.tree) then go blocked ws
      else if q.hasRoom w then some w
      else go ((w.src, w.tree) :: blocked) ws
  go [] q.inputs

/-- Inputs in turn, as far as there is room. -/
def State.drainInputs (s : State) (port : Nat) : Nat → State
  | 0 => s
  | n + 1 =>
    match (s.port port).ready with
    | none => s
    | some w =>
      let s := (s.modPort port fun q => { q with inputs := q.inputs.erase w }).modPort w.src fun q => q.giveBack w.tree w.cells
      match s.jobOf w.tag with
      | none => s.drainInputs port n
      | some (p, c, x) => (s.adderTakes port p c x w).drainInputs port n

/-- Headers of a block's frame (R441). -/
def Ctx.gradHead (x : Ctx) (b : BucketRec) (k : Nat) : GradHead :=
  ⟨b.bucket, k, x.tr.scaleOf b.cls, x.tr.attempt % 256, x.tr.epoch % 65536, x.stepNow % 2 ^ 32⟩

/-- The local stage's next block on a tree, where its adder has room; a job with one member has no adder (R444, R447). -/
def State.nextOwed (s : State) (x : Ctx) (tag : Nat) : Option (BucketRec × Nat) :=
  let rec go (blocked : List Nat) : List (Nat × Nat) → Option (BucketRec × Nat)
    | [] => none
    | (n, k) :: rest =>
      match x.parcel.bucket? n with
      | none => go blocked rest
      | some b =>
        if blocked.contains b.tree then go blocked rest
        else if x.parcel.collection.isNone then some (b, k)
        else match x.parcel.tree? b.tree with
          | none => go blocked rest
          | some t =>
            if (s.port t.adderPort).hasRoom ⟨32, 0, b.tree, tag, x.gradHead b k, default⟩ then some (b, k)
            else go (b.tree :: blocked) rest
  go [] x.tr.coll.owed

/-- A block of the local stage enters its adder, or goes to its owner's checks where the job has one member. -/
def State.enterLocal (s : State) (p c : Nat) (x : Ctx) (b : BucketRec) (k : Nat) : State :=
  match s.localBlock x b k with
  | .error e => s.haltJob p c e
  | .ok (g, top) =>
    let s := (s.hasRead x (x.parcel.spansOf b.grad 0x01 0)).modCtx p c fun x => (x.modRun b.bucket fun r =>
      { r with own := bucketSeal r.own k g.blkSeal, ownNf := r.ownNf || g.nf, sat := r.sat || g.sat }).modTr fun t =>
        { t with coll := { t.coll with owed := t.coll.owed.erase (b.bucket, k) }
                 amax := if b.cls = 0 then t.amax else (t.amaxIn b.cls top).amax }
    match x.parcel.collection, x.parcel.tree? b.tree with
    | some col, some t => s.adderTakes t.adderPort p c x ⟨32, 0, b.tree, col.tag, x.gradHead b k, g⟩
    | some _, none => s
    | none, _ => s.ownerTakes p c 0 b k g

/-- Local blocks and waiting inputs in turn, until no adder has room. -/
def State.collectOn (s : State) (p c : Nat) : Nat → State
  | 0 => s
  | n + 1 =>
    match s.ctx p c with
    | none => s
    | some x =>
      if x.state = .halted ∨ x.tr.phase < 5 then s
      else
        let s := (List.range 32).foldl (fun (s : State) (q : Nat) => s.drainInputs q (s.port q).inputs.length) s
        match s.nextOwed x (match x.parcel.collection with | some col => col.tag | none => 0) with
        | none => s
        | some (b, k) => (s.enterLocal p c x b k).collectOn p c n

def State.collectAll (s : State) (p c : Nat) : State :=
  match s.ctx p c with
  | some x => s.collectOn p c (x.tr.coll.owed.length + 1)
  | none => s

/-- Stale: not of the current attempt, epoch or step, or of a bucket already voted late (R454). -/
def Ctx.staleGrad (x : Ctx) (g : GradHead) : Bool :=
  g.attempt != x.tr.attempt % 256 || g.epoch != x.tr.epoch % 65536 || g.step != x.stepNow % 2 ^ 32 || x.tr.phase == 9 ||
    (match x.tr.coll.run? g.bucket with | some r => r.late | none => false)

/-- GRAD: the frame's blocks go to the adder of their tree (R441, R444, R454). -/
def gradFrame (port : Nat) (f : FrameHead) (g : GradHead) (blocks : List GBlock) (s : State) : State :=
  s.takeLive port f 1 (f.tree % pathStage) fun p c x s =>
    match x.parcel.tree? f.tree, x.parcel.bucket? g.bucket with
    | some t, some b =>
      if x.staleGrad g || b.tree != f.tree || !t.downPorts.contains port then s.dropAt port (f.tree % pathStage) f.cells
      else
        let ws := blocks.zipIdx.map fun gi => (⟨port, if gi.2 + 1 = blocks.length then f.cells else 0, f.tree, f.tag, { g with block := g.block + gi.2 }, gi.1⟩ : WaitIn)
        let s := s.modPort t.adderPort fun q => { q with inputs := q.inputs ++ ws }
        (s.drainInputs t.adderPort (s.port t.adderPort).inputs.length).collectAll p c
    | _, _ => s.dropAt port (f.tree % pathStage) f.cells

def execGrad (port : Nat) (f : FrameHead) (g : GradHead) (blocks : List GBlock) (s : State) : Out :=
  onUnit (port < 32) (gradFrame port f g blocks s)

/-! ### The end of an attempt (R355, R449, R474) -/

def State.writeSealLog (s : State) (p c : Nat) : State :=
  match s.ctx p c with
  | none => s
  | some x =>
    match x.parcel.collection with
    | none => s
    | some col =>
      if col.sealLog = 0xFFFF then s
      else
        let (v, s) := s.draw
        let (w, s) := s.draw
        match s.store x.plain (x.parcel.desc col.sealLog).base (x.sealLog v w) with
        | .error e => s.haltJob p c e
        | .ok s => s

/-- Adders discard every open block of the job (R449). -/
def State.discardBlocks (s : State) (x : Ctx) : State := s.dropBlocks x

def State.dropPhaseExpiries (s : State) (p c : Nat) : State :=
  s.dropExpiries fun e => e.paddock == p && e.ctx == c && (e.kind == .collect || e.kind == .sealing || e.kind == .broadcast)

/-- An attempt ends without COMMIT and enters DRAIN; the span that could not be pre-empted ends (R399, R449, R455, R535). -/
def State.toDrain (s : State) (p c : Nat) (v : Verdict) : State :=
  let s := s.writeSealLog p c
  match s.ctx p c with
  | none => s
  | some x =>
    if x.state = .halted then s
    else
      let s := s.discardBlocks x
      let s := s.modCtx p c fun x => x.modTr fun t => { t with
        verdict := some v, phase := 9, layers := t.layers.map LayerSt.unpend
        coll := { t.coll with owed := [], partials := [], columnsDone := [], paramGot := [] } }
      (s.dropPhaseExpiries p c).spanEnds p c 0

/-! ### The column exchange and CLOSE (R393, R394, R457, R461, R462) -/

/-- The layer's lowest-numbered bucket. -/
def Parcel.leadBucket (x : Parcel) (layer : Nat) : Option BucketRec := x.bucketRecs.find? (·.layer == layer)

/-- Factored, not frozen layers with a touched bucket, in increasing number (R393, R395). -/
def Ctx.columnLayers (x : Ctx) : List LayerRec :=
  let touched := (x.parcel.touched x.stepNow).map (·.layer)
  x.parcel.layers.filter fun l => !l.frozen && x.parcel.factored l && touched.contains l.layer

/-- This module leads a layer (R393). -/
def Parcel.leads (x : Parcel) (layer : Nat) : Bool := match x.leadBucket layer with | some b => x.owns b | none => false

def pairBytes (q : Fp.Pair) : List Byte := leBytes 4 q.hi.toNat ++ leBytes 4 q.lo.toNat
def pairsOf (bs : List Byte) : List Fp.Pair :=
  (chunksOf 8 (bs.length / 8) bs).map fun b => ⟨w32 (fieldAt b 0 4), w32 (fieldAt b 4 4)⟩

def Coll.partialOf (k : Coll) (bucket : Nat) : List Byte := ((k.partials.find? (·.1 == bucket)).map (·.2)).getD []
def Coll.addPartial (k : Coll) (bucket : Nat) (bs : List Byte) : Coll :=
  { k with partials := (bucket, k.partialOf bucket ++ bs) :: k.partials.filter (·.1 != bucket) }

/-- The bytes of a layer's column statistic and μ (R464). -/
def columnBytes (col : List W32) (mu : W32) : List Byte := (col.map fun v => leBytes 4 v.toNat).flatten ++ leBytes 4 mu.toNat

/-- Send a stream down a bucket's tree in PARAM frames (R464). -/
def State.sendParams (s : State) (x : Ctx) (b : BucketRec) (kind : Nat) (bs : List Byte) : State :=
  match x.parcel.tree? b.tree, x.parcel.collection with
  | some t, some col => (framesOf bs).foldl (fun (s : State) (f : Nat × List Byte) =>
      s.sendDown t (cellsFor f.2.length) col.tag (.param ⟨b.bucket, kind, f.1, x.stepNow % 2 ^ 32⟩ f.2)) s
  | _, _ => s

/-- The column statistic of a layer that this module leads, once every partial is there (R393, R394, R461). -/
def State.leadLayer (s : State) (p c : Nat) (l : LayerRec) : State :=
  match s.ctx p c with
  | none => s
  | some x =>
    let bs := (x.parcel.touched x.stepNow).filter (·.layer == l.layer)
    let have_ := bs.all fun b => (x.tr.coll.partialOf b.bucket).length == 8 * l.cols
    match x.layerSt l.layer, x.parcel.coef? l.cls, x.parcel.coefAt x.stepNow, x.parcel.leadBucket l.layer with
    | some t, some k, some sc, some b0 =>
      if !have_ || x.tr.coll.columnsDone.contains l.layer then s
      else
        let r := t.columnStep (k.inStep sc) l.rows l.cols x.stepNow (bs.map fun b => pairsOf (x.tr.coll.partialOf b.bucket))
        let s := s.modCtx p c fun x => (x.modLayer l.layer fun t => t.setColumns r.1 r.2.1).modColl fun k =>
          { k with columnsDone := k.columnsDone ++ [l.layer], leadNf := k.leadNf || r.2.2 }
        s.sendParams x b0 1 (columnBytes r.1 r.2.1)
    | _, _, _, _ => s

/-- This member's CLOSE record (R462). -/
def Ctx.ownClose (x : Ctx) : CloseRec :=
  let k := x.tr.coll
  let nf := k.leadNf || k.buckets.any fun r => r.updated && r.bad
  let live := ((k.buckets.filter fun r => r.updated && r.live).filterMap fun r => (x.parcel.bucket? r.bucket).map (·.layer)).eraseDups
  ⟨x.stepNow, x.tr.epoch, x.tr.attempt, bit nf + 2 * bit k.lateVote, x.parcel.nlayer, (live.map fun l => 2 ^ l).sum⟩

/-- Two CLOSE records combined (R462): the lower of unequal values, and DSTEP. -/
def closeJoin (a b : CloseRec) : CloseRec :=
  let diff := a.step != b.step || a.epoch != b.epoch || a.attempt != b.attempt || a.nlayer != b.nlayer
  ⟨min a.step b.step, min a.epoch b.epoch, min a.attempt b.attempt, a.votes ||| b.votes ||| (if diff then 16 else 0),
    min a.nlayer b.nlayer, a.live ||| b.live⟩

/-- Ports whose records a member waits for on tree 0, with 32 for its own (R457). -/
def Parcel.roundFrom (x : Parcel) : List Nat :=
  32 :: (match x.collection, x.tree? 0 with | some _, some t => t.downPorts | _, _ => [])

/-- The agreed CLOSE record is acted on (R463). -/
def State.actClose (s : State) (p c : Nat) (r : CloseRec) : State :=
  match s.ctx p c with
  | none => s
  | some x =>
    let s := match x.parcel.tree? 0, x.parcel.collection with
      | some t, some col => s.sendDown t (recCells (closeSize r)) col.tag (.close r)
      | _, _ => s
    let s := s.modCtx p c fun x => x.modColl fun k => { k with closed := some r }
    if bitOf r.votes 4 then s.toDrain p c .counters
    else if bitOf r.votes 0 then s.toDrain p c .gradNf
    else if bitOf r.votes 1 then s.toDrain p c .late
    else
      let s := s.modCtx p c fun x => x.modTr fun t => { t with verdict := some .commit, phase := 7 }
      (s.dropPhaseExpiries p c).writeSealLog p c

/-- A CLOSE record of this member (32) or of a child joins the round; a full set goes up, or is agreed at the root (R457, R463). -/
def State.offerClose (s : State) (p c src : Nat) (r : CloseRec) : State :=
  match s.ctx p c with
  | none => s
  | some x =>
    let k := x.tr.coll
    if k.closeFrom.contains src then s
    else
      let all := match k.closeIn with | some a => closeJoin a r | none => r
      let from_ := src :: k.closeFrom
      let s := s.modCtx p c fun x => x.modColl fun k => { k with closeIn := some all, closeFrom := from_ }
      if !(x.parcel.roundFrom.all from_.contains) then s
      else match x.parcel.tree? 0, x.parcel.collection with
        | some t, some col =>
          if t.isRoot then s.actClose p c all
          else (s.sendFrame t.upPort (recCells (closeSize all)) 0 col.tag (.close all)).modCtx p c fun x =>
            x.modColl fun k => { k with closeSent := true }
        | _, _ => s.actClose p c all

/-- Stage 3 and the sending of CLOSE, once an agreed seal record leads on and no recompute is owed (R457, R461, R462). -/
def State.closeOn (s : State) (p c : Nat) : State :=
  match s.ctx p c with
  | none => s
  | some x =>
    if x.tr.phase ≠ 6 ∨ x.tr.coll.agreed.isNone ∨ x.tr.coll.recompute ∨ x.tr.coll.closeFrom.contains 32 then s
    else
      let s := x.columnLayers.foldl (fun (s : State) (l : LayerRec) => if x.parcel.leads l.layer then s.leadLayer p c l else s) s
      match s.ctx p c with
      | none => s
      | some y =>
        if y.columnLayers.all fun l => y.tr.coll.columnsDone.contains l.layer then s.offerClose p c 32 y.ownClose else s

/-- The owner's partial of a bucket goes to the layer's lead (R461; log 34). -/
def State.sendPartial (s : State) (p c : Nat) (x : Ctx) (r : BucketRun) : State :=
  match x.parcel.bucket? r.bucket with
  | none => s
  | some b =>
    if !x.parcel.owns b || x.parcel.frozen b.layer || !(match x.parcel.layer? b.layer with | some l => x.parcel.factored l | none => false) then s
    else
      let bs := (r.columns.map pairBytes).flatten
      match x.parcel.leadBucket b.layer with
      | none => s
      | some l =>
        if x.parcel.owns l then s.modCtx p c fun x => x.modColl fun k => k.addPartial b.bucket bs
        else s.sendXfer x l.owner b.bucket bs

/-- A layer lead grants the credit for the partial column sums of the other owners as COLLECT begins (R461, R467; log 54). -/
def State.grantPartials (s : State) (x : Ctx) : State :=
  (x.parcel.touched x.stepNow).foldl (fun (s : State) (b : BucketRec) =>
    match x.parcel.layer? b.layer with
    | some l => if x.parcel.leads b.layer && !x.parcel.owns b && !l.frozen && x.parcel.factored l then s.grantXfer x b.owner b.bucket (8 * l.cols) else s
    | none => s) s

/-- Stage 3 begins. -/
def State.columnsOn (s : State) (p c : Nat) : State :=
  match s.ctx p c with
  | none => s
  | some x => (x.tr.coll.buckets.foldl (fun (s : State) (r : BucketRun) => s.sendPartial p c x r) s).closeOn p c

/-! ### The SEAL round (R457-R460) -/

/-- This member's seal record (R438, R458, R459). -/
def Ctx.ownSeal (x : Ctx) : SealRec :=
  let k := x.tr.coll
  let mine := k.buckets.filter fun r => match x.parcel.bucket? r.bucket with | some b => x.parcel.owns b | none => false
  let nf := x.tr.verdict == some .lossNf || mine.any (·.nf)
  let late := k.lateVote || mine.any (·.late)
  let sat := k.buckets.any (·.sat)
  let cls := x.parcel.agreedClasses
  let coef := match x.parcel.coefAt x.stepNow with | some c => c.bytes | none => []
  ⟨x.stepNow, x.tr.epoch, x.tr.attempt, bit nf + 2 * bit late + 4 * bit (mine.any (·.failed)) + 8 * bit sat, cls.length,
    Long.toBits ((mine.map (·.nsq)).foldl Long.add Long.zero), sha256 (x.parcel.setBytes x.stepNow), sha256 coef,
    cls.map fun n => ((x.tr.amax.find? (·.1 == n)).map (·.2)).getD 0⟩

/-- The lower of two byte strings, as little-endian numbers (R459; log 56). -/
def lowerBytes (a b : List Byte) : List Byte := if leVal a ≤ leVal b then a else b

/-- Two seal records combined (R458, R459). -/
def sealJoin (a b : SealRec) : SealRec :=
  let dstep := a.step != b.step || a.epoch != b.epoch || a.attempt != b.attempt
  let dset := a.nclass != b.nclass || a.setdig != b.setdig || a.coefdig != b.coefdig
  ⟨min a.step b.step, min a.epoch b.epoch, min a.attempt b.attempt,
    a.votes ||| b.votes ||| (if dstep then 16 else 0) ||| (if dset then 32 else 0), min a.nclass b.nclass,
    Long.toBits (Long.add (Long.ofBits a.nsq) (Long.ofBits b.nsq)), lowerBytes a.setdig b.setdig, lowerBytes a.coefdig b.coefdig,
    (a.amax.zip b.amax).map fun ab => maxW ab.1 ab.2⟩

/-- Conditions 1 to 5 of R460 on the agreed record. -/
def State.actSeal (s : State) (p c : Nat) (r : SealRec) : State :=
  match s.ctx p c with
  | none => s
  | some x =>
    let s := match x.parcel.tree? 0, x.parcel.collection with
      | some t, some col => s.sendDown t (recCells (sealSize r)) col.tag (.sealed r)
      | _, _ => s
    let s := s.modCtx p c fun x => x.modTr fun t => { t with votes := r.votes, coll := { t.coll with agreed := some r } }
    if bitOf r.votes 4 then s.toDrain p c .counters
    else if bitOf r.votes 5 then s.toDrain p c (.failed 0x0201)
    else if bitOf r.votes 0 then s.toDrain p c .gradNf
    else if bitOf r.votes 1 then s.toDrain p c .late
    else if bitOf r.votes 2 then s.toDrain p c .mismatch
    else match x.parcel.coefAt x.stepNow with
      | none => s.toDrain p c (.failed 0x0202)
      | some sc =>
        let cl := clipOf sc.clipNorm (Long.ofBits r.nsq)
        let out := driftsOut sc cl.v x.tr.cPrev
        let s := s.modCtx p c fun x => x.modTr fun t =>
          { t with c := cl.v, flags := flagOr t.flags cl.flags, coll := { t.coll with recompute := out } }
        if out then s else s.columnsOn p c

/-- A seal record of this member (32) or of a child joins the round (R457). -/
def State.offerSeal (s : State) (p c src : Nat) (r : SealRec) : State :=
  match s.ctx p c with
  | none => s
  | some x =>
    let k := x.tr.coll
    if k.sealFrom.contains src then s
    else
      let all := match k.sealIn with | some a => sealJoin a r | none => r
      let from_ := src :: k.sealFrom
      let s := s.modCtx p c fun x => x.modColl fun k => { k with sealIn := some all, sealFrom := from_ }
      if !(x.parcel.roundFrom.all from_.contains) then s
      else match x.parcel.tree? 0, x.parcel.collection with
        | some t, some col =>
          if t.isRoot then s.actSeal p c all
          else (s.sendFrame t.upPort (recCells (sealSize all)) 0 col.tag (.sealed all)).modCtx p c fun x =>
            x.modColl fun k => { k with sealSent := true }
        | _, _ => s.actSeal p c all

/-- The step's collect_timeout (R335, R452). -/
def Parcel.collectTimeout (x : Parcel) : Nat := match x.stepBegin with | some b => b.collectTimeout | none => noLimit

/-- SEAL begins: its duration runs, the seal record goes up (R452, R453, R457). -/
def State.enterSeal (s : State) (p c : Nat) : State :=
  match s.ctx p c with
  | none => s
  | some x =>
    let s := s.dropPhaseExpiries p c
    let s := s.modCtx p c fun x => x.modTr fun t => { t with phase := 6 }
    (s.addExpiry p c .sealing x.parcel.collectTimeout).offerSeal p c 32 x.ownSeal

/-- SEAL frames on tree 0: from a child upward, from the parent the agreed record (R457, R460). -/
def sealFrameIn (port : Nat) (f : FrameHead) (r : SealRec) (s : State) : State :=
  if s.frameWaits f.tag then s
  else s.takeLive port f (FrameBody.sealed r).frames pathStage fun p c x s =>
    match x.parcel.tree? 0 with
    | none => s.dropFrame port
    | some t =>
      if r.attempt ≠ x.tr.attempt % 256 ∨ f.tree ≠ 0 ∨ x.tr.phase = 9 then s.dropFrame port
      else if t.downPorts.contains port then s.offerSeal p c port r
      else if t.upPort = port ∧ x.tr.phase = 6 ∧ x.tr.coll.sealSent ∧ x.tr.coll.agreed.isNone then s.actSeal p c r
      else s.dropFrame port

def execSealFrame (port : Nat) (f : FrameHead) (r : SealRec) (s : State) : Out := onUnit (port < 32) (sealFrameIn port f r s)

/-- CLOSE frames on tree 0 (R457, R463). -/
def closeFrameIn (port : Nat) (f : FrameHead) (r : CloseRec) (s : State) : State :=
  if s.frameWaits f.tag then s
  else s.takeLive port f (FrameBody.close r).frames pathStage fun p c x s =>
    match x.parcel.tree? 0 with
    | none => s.dropFrame port
    | some t =>
      if r.attempt ≠ x.tr.attempt % 256 ∨ f.tree ≠ 0 ∨ x.tr.phase = 9 then s.dropFrame port
      else if t.downPorts.contains port then s.offerClose p c port r
      else if t.upPort = port ∧ x.tr.phase = 6 ∧ x.tr.coll.closeSent ∧ x.tr.coll.closed.isNone then s.actClose p c r
      else s.dropFrame port

def execClose (port : Nat) (f : FrameHead) (r : CloseRec) (s : State) : Out := onUnit (port < 32) (closeFrameIn port f r s)

/-- DRIFT_RECOMPUTE_DONE: every owned update has been made again with c from the staged gradients; stage 3 follows (R391, R462). -/
def State.recomputeAll (s : State) (p c : Nat) (clip : W32) : List BucketRec → Except Nat State
  | [] => .ok s
  | b :: bs =>
    match s.ctx p c with
    | none => .ok s
    | some x =>
      match s.applyBucket p c x b clip with
      | .error e => .error e
      | .ok s => s.recomputeAll p c clip bs

def recomputed (p c : Nat) (s : State) : State :=
  match s.ctx p c with
  | none => s
  | some x =>
    if !s.runs p || x.updateWaits || x.tr.phase != 6 || !x.tr.coll.recompute || x.state == .halted then s
    else
      let bs := (x.tr.coll.buckets.filter (·.updated)).filterMap fun r => x.parcel.bucket? r.bucket
      let s := bs.foldl (fun (s : State) b => s.bucketBoundary x b) s
      match s.recomputeAll p c x.tr.c bs with
      | .error e => s.haltJob p c e
      | .ok s => (s.modCtx p c fun x => x.modColl fun k => { k with recompute := false }).columnsOn p c

def execDriftRecomputeDone (p ctx : Nat) (s : State) : Out := onUnit (p < 16 ∧ ctx < 8) (recomputed p ctx s)

/-! ### Parameter frames (R394, R398, R461, R464, R465) -/

def Coll.gotOf (k : Coll) (bucket : Nat) : Nat := ((k.paramGot.find? (·.1 == bucket)).map (·.2)).getD 0

/-- Bytes of hi that a replica of a bucket expects (R464). -/
def Parcel.paramBytes (x : Parcel) (b : BucketRec) : Nat := 4096 * (b.blockRange (x.cols b)).length

/-- Replica buckets that a committed step brings to this module (R398, R465). -/
def Ctx.replicas (x : Ctx) : List BucketRec :=
  (x.parcel.touched x.stepNow).filter fun b => !x.parcel.owns b && !x.parcel.frozen b.layer && (x.parcel.layer? b.layer).isSome

/-- Every replica block of a layer has arrived (R398). -/
def Ctx.layerArrived (x : Ctx) (layer : Nat) : Bool :=
  x.replicas.all fun b => b.layer != layer || decide (x.parcel.paramBytes b ≤ x.tr.coll.gotOf b.bucket)

/-- The sweep of chosen blocks of a layer: PEND blocks change bank (R396). -/
def LayerSt.flipAt (f : Blk → Bool) (n : Nat) (t : LayerSt) : LayerSt :=
  let hit := t.blocks.any fun b => b.pend && f b
  { t with
    blocks := t.blocks.map fun b => if b.pend && f b then ⟨n % 2 ^ 48, true, b.owned, false, !b.bank⟩ else b
    last := if hit then n else t.last }

/-- A layer whose replica blocks have all arrived flips, once the step has committed (R398). -/
def Ctx.flipReplicas (x : Ctx) (layer : Nat) : Ctx :=
  if x.tr.phase = 8 ∧ x.layerArrived layer then x.modLayer layer (LayerSt.flipAt (fun b => !b.owned) x.stepNow) else x

/-- BROADCAST ends when every parameter that the module holds is current (R330, R398). -/
def State.broadcastOn (s : State) (p c : Nat) : State :=
  match s.ctx p c with
  | none => s
  | some x =>
    if x.tr.phase ≠ 8 then s
    else
      let x' := (x.parcel.layers.map (·.layer)).foldl Ctx.flipReplicas x
      let allIn := x'.parcel.layers.all fun l => x'.layerArrived l.layer
      let s := s.modCtx p c fun _ => if allIn then x'.modTr fun t => { t with phase := 9 } else x'
      if allIn then s.dropPhaseExpiries p c else s

/-- Write payload bytes into the next bank of a bucket's hi, from byte `off` of its stream (R464). -/
def State.putParams (s : State) (x : Ctx) (striped : Bool) (b : BucketRec) (l : LayerRec) (t : LayerSt) (off : Nat) :
    List Byte → Except Nat State
  | [] => .ok s
  | v :: vs => do
    let o := 2 * b.row0 * l.cols + off
    let s ← if striped && decide (l.elems ≤ o / 2) then pure s
      else s.store x (l.inBank l.hiBase (!(t.block (o / 4096)).bank) (l.elemOff striped 2 (o / 2) + o % 2)) [v]
    s.putParams x striped b l t (off + 1) vs

/-- FP32 words of a payload into the next column statistic and μ, from word i on. -/
def LayerSt.putColumns (cols : Nat) (t : LayerSt) (i : Nat) : List W32 → LayerSt
  | [] => t
  | v :: vs =>
    let t := if i < cols then (if t.lbank then { t with col0 := t.col0.set i v } else { t with col1 := t.col1.set i v })
      else if i = cols then (if t.lbank then { t with mu0 := v } else { t with mu1 := v }) else t
    LayerSt.putColumns cols t (i + 1) vs

def wordsOf (bs : List Byte) : List W32 := (chunksOf 4 (bs.length / 4) bs).map fun b => w32 (leVal b)

/-- A payload of kind 0 is written into replica blocks; those that are whole are PEND (R398). -/
def State.takeHi (s : State) (p c : Nat) (x : Ctx) (b : BucketRec) (l : LayerRec) (t : LayerSt) (off : Nat) (bs : List Byte) : State :=
  match s.putParams x.plain (x.parcel.striped l) b l t off bs with
  | .error e => s.haltJob p c e
  | .ok s =>
    let got := off + bs.length
    let whole := (b.blockRange l.cols).take (got / 4096)
    let s := s.modCtx p c fun x => (x.modLayer l.layer (LayerSt.pendAt whole)).modColl fun k =>
      { k with paramGot := (b.bucket, got) :: k.paramGot.filter (·.1 != b.bucket) }
    s.broadcastOn p c

/-- PARAM: forwarded to every child of the tree, and written where the module holds the layer (R394, R398, R464, R465). -/
def paramFrame (port : Nat) (f : FrameHead) (h : ParamHead) (payload : List Byte) (s : State) : State :=
  s.takeLive port f 1 writerStage fun p c x s =>
    match x.parcel.tree? f.tree, x.parcel.bucket? h.bucket with
    | some t, some b =>
      if h.step ≠ x.stepNow % 2 ^ 32 ∨ t.upPort ≠ port then s.dropFrame port
      else
        let s := s.sendDown t f.cells f.tag (.param h payload)
        match x.parcel.layer? b.layer, x.layerSt b.layer with
        | some l, some st =>
          if x.tr.phase = 9 ∨ l.frozen then s
          else if h.kind = 0 then (if x.parcel.owns b then s else s.takeHi p c x b l st h.offset payload)
          else
            let s := s.modCtx p c fun x => x.modLayer b.layer fun t => t.putColumns l.cols (h.offset / 4) (wordsOf payload)
            if h.offset + payload.length < 4 * l.cols + 4 then s
            else (s.modCtx p c fun x => (x.modLayer b.layer fun t => { t with cpend := true }).modColl fun k =>
              { k with columnsDone := k.columnsDone ++ [b.layer] }).closeOn p c
        | _, _ => s
    | _, _ => s.dropFrame port

def execParam (port : Nat) (f : FrameHead) (h : ParamHead) (payload : List Byte) (s : State) : Out :=
  onUnit (port < 32) (paramFrame port f h payload s)

/-! ### Transfers (R437, R461, R467) -/

/-- Bytes of a transfer go to the positions of its destination, in order (log 50). -/
def State.putXfer (s : State) (x : Ctx) (d : Desc) (n : Nat) : List Byte → Except Nat State
  | [] => .ok s
  | b :: bs =>
    match s.storeBits x 0x08 d n b.toNat with
    | .error e => .error e
    | .ok s => s.putXfer x d (n + 1) bs

/-- A receiving record takes a frame; it ends when every byte has arrived (R467). -/
def State.takeXfer (s : State) (p c : Nat) (x : Ctx) (r : XferRx) (dst : Nat) (bs : List Byte) : State :=
  match s.putXfer x (x.parcel.desc dst) r.got bs with
  | .error e => s.haltJob p c e
  | .ok s =>
    let got := r.got + bs.length
    if got < x.parcel.xferBytes dst then
      let s := s.modCtx p c fun x => x.modTr fun t => { t with xfers := t.xfers.map fun y => if y = r then { r with got := got } else y }
      if x.state = .blocked then s.makeReady p c else s
    else
      let s := s.modCtx p c fun x => (x.modFlight r.ordinal fun f => { f with fin := true }).modTr fun t =>
        { t with xfers := t.xfers.filter (· != r) }
      let s := s.dropExpiries fun e => e.paddock == p && e.ctx == c && e.kind == .xfer r.number
      if x.state = .blocked then s.makeReady p c else s

/-- The destination of a receive lies only in the next table (R545), or in pens of a context that is swapped out, so that no credit is granted for it (R540). -/
def Ctx.holdsXfer (x : Ctx) (dst : Nat) : Bool :=
  x.awaits ((x.parcel.desc dst).span 1).1 ((x.parcel.desc dst).span 1).2 || (!x.resident && x.descMeets 1 dst 1)

/-- A transfer frame that its receiver cannot take yet; its sender waits (R414, R540, R545). -/
def State.xferWaits (s : State) (tag dest src number : Nat) : Bool :=
  match s.jobOf tag with
  | some (_, _, x) => dest == x.parcel.role && x.tr.xfers.any fun r => r.role == src && r.number == number &&
      match (x.parcel.recs[r.ordinal]?).map Rec.body with
      | some (.xferRecv _ _ dst _) => x.holdsXfer dst
      | _ => false
  | none => false

/-- XFER: forwarded by the route table, or taken by a receiving record, or by a layer lead as a column partial (R437, R461, R467). -/
def xferFrame (port : Nat) (f : FrameHead) (dest src number offset : Nat) (payload : List Byte) (s : State) : State :=
  if s.xferWaits f.tag dest src number then s
  else s.takeLive port f 1 (xferStage f.tag src number) fun p c x s =>
    if dest ≠ x.parcel.role then
      match x.parcel.routeTo dest with
      | some q => s.sendFrame q f.cells f.tree f.tag (.xfer dest src number offset payload)
      | none => s.dropFrame port
    else match x.tr.xfers.find? fun r => r.role == src && r.number == number with
      | some r =>
        match (x.parcel.recs[r.ordinal]?).map Rec.body with
        | some (.xferRecv _ _ dst _) => if offset = r.got then s.takeXfer p c x r dst payload else s.dropFrame port
        | _ => s.dropFrame port
      | none =>
        match x.parcel.bucket? number with
        | some b =>
          if x.parcel.leads b.layer && b.owner == src && offset == (x.tr.coll.partialOf number).length && decide (5 ≤ x.tr.phase ∧ x.tr.phase ≤ 6) then
            (s.modCtx p c fun x => x.modColl fun k => k.addPartial number payload).closeOn p c
          else s.dropFrame port
        | none => s.dropFrame port

def execXfer (port : Nat) (f : FrameHead) (dest src number offset : Nat) (payload : List Byte) (s : State) : Out :=
  onUnit (port < 32) (xferFrame port f dest src number offset payload s)

/-! ### COLLECT_END and the expiries (R452, R453, R456, R466) -/

/-- Every bucket that this module owns has completed (R453). -/
def Ctx.ownedDone (x : Ctx) : Bool :=
  x.tr.coll.buckets.all fun r => match x.parcel.bucket? r.bucket with
    | some b => !x.parcel.owns b || decide (x.parcel.bucketBlocks b ≤ r.done.length)
    | none => true

/-- COLLECT_END: every owed block has been sent and every owned bucket has been checked (R453). -/
def collectEnds (p c : Nat) (s : State) : State :=
  match s.ctx p c with
  | none => s
  | some x =>
    if !s.runs p || x.tr.phase != 5 || x.state == .halted || !x.tr.coll.owed.isEmpty || !x.ownedDone then s else s.enterSeal p c

def execCollectEnd (p ctx : Nat) (s : State) : Out := onUnit (p < 16 ∧ ctx < 8) (collectEnds p ctx s)

/-- Incomplete owned buckets are late (R453, R454). -/
def Ctx.markLate (x : Ctx) : Ctx :=
  x.modColl fun k => { k with buckets := k.buckets.map fun r => match x.parcel.bucket? r.bucket with
    | some b => if x.parcel.owns b && decide (r.done.length < x.parcel.bucketBlocks b) then { r with late := true } else r
    | none => r }

/-- COLLECT expires: a member with an owned bucket incomplete votes LATE, then enters SEAL (R453). -/
def collectExpires (p c : Nat) (s : State) : State :=
  match s.takeExpiry p c .collect with
  | none => s
  | some s => (s.modCtx p c Ctx.markLate).enterSeal p c

def execCollectExpiry (p ctx : Nat) (s : State) : Out := onUnit (p < 16 ∧ ctx < 8) (collectExpires p ctx s)

/-- SEAL expires without the agreed CLOSE record: COLLECT_LOST, DRAIN, and the job halts (R456). -/
def sealExpires (p c : Nat) (s : State) : State :=
  match s.takeExpiry p c .sealing with
  | none => s
  | some s =>
    match s.ctx p c with
    | none => s
    | some x => (s.postEvent p (event 0x00D4 0 0 c 0 0 [x.stepNow])).toDrain p c (.failed 0x0604)

def execSealExpiry (p ctx : Nat) (s : State) : Out := onUnit (p < 16 ∧ ctx < 8) (sealExpires p ctx s)

/-- BROADCAST expires: BROADCAST_LOST names the layers that lack a block, and the job halts (R466). -/
def broadcastExpires (p c : Nat) (s : State) : State :=
  match s.takeExpiry p c .broadcast with
  | none => s
  | some s =>
    match s.ctx p c with
    | none => s
    | some x =>
      let lost := (x.parcel.layers.map (·.layer)).filter fun l => !x.layerArrived l
      let s := s.postEvent p (event 0x00D5 0 0 c 0 lost.length (x.stepNow :: lost.take 4))
      s.haltNow p c 0x0605

def execBroadcastExpiry (p ctx : Nat) (s : State) : Out := onUnit (p < 16 ∧ ctx < 8) (broadcastExpires p ctx s)

end Sys2Proof.Machine
end

