-- ==== Sys2Proof/Machine/ReplayRun.lean ====
section
/-!
DEFINITION. The end of a replay (R476, R477): local contributions and, in OWNER mode,
staged blocks are compared with the seal log, updates are applied, and the reply goes
out. The records of the attempt run as those of a step do.
-/

namespace Sys2Proof.Machine

/-- Bucket seal of this member's contribution, with its NF bit as the log has it (R440, R474). -/
def State.localSeal (s : State) (x : Ctx) (b : BucketRec) : Except Nat Nat := do
  let gs ← (List.range (x.parcel.bucketBlocks b)).mapM fun (k : Nat) => s.localBlock x b k
  let v := gs.zipIdx.foldl (fun (a : Nat) (g : (GBlock × W32) × Nat) => bucketSeal a g.2 g.1.1.blkSeal) 0
  pure (v + bit (gs.any fun g => g.1.nf) * 2 ^ 31)

/-- Bucket seal of the reduced blocks in the staging range (R369, R474). -/
def State.stagedSeal (s : State) (x : Ctx) (b : BucketRec) : Except Nat Nat :=
  match x.parcel.layer? b.layer with
  | none => .error 0x0202
  | some l => do
    let n := x.parcel.bucketElems b
    let qs ← s.staged x.plain (x.parcel.desc l.stage).base (b.row0 * l.cols) n
    pure ((List.range (x.parcel.bucketBlocks b)).foldl (fun (a : Nat) (k : Nat) =>
      let q := (qs.drop (32 * k)).take 32
      bucketSeal a k (sealOf (q ++ List.replicate (32 - q.length) 0))) 0)

/-- What the seal log holds for the i-th touched bucket: local and reduced seals (R474). -/
def Parcel.logEntryAt (x : Parcel) (log : List Byte) (i : Nat) : Nat × Nat :=
  let e := (log.drop (64 + x.sealLen + x.closeLen + 16 * i)).take 16
  (fieldAt e 4 4, fieldAt e 8 4)

/-- Layers whose live bit the logged CLOSE record carries (R462). -/
def Parcel.loggedLive (x : Parcel) (log : List Byte) (layer : Nat) : Bool :=
  let at_ := 64 + x.sealLen + 32
  bitOf (fieldAt log (at_ + layer / 8) 1) (layer % 8)

/-- Pairs of seals that a replay compares for a bucket: logged, replayed. -/
def State.replayBucket (s : State) (x : Ctx) (owner : Bool) (b : BucketRec) (logged : Nat × Nat) : Except Nat (List (Nat × Nat)) := do
  let own ← s.localSeal x b
  if owner && x.parcel.owns b && !x.parcel.frozen b.layer then
    let red ← s.stagedSeal x b
    pure [(logged.1, own), (logged.2, red)]
  else pure [(logged.1, own)]

def State.replayBuckets (s : State) (x : Ctx) (owner : Bool) (log : List Byte) : Nat → List BucketRec → Except Nat (List (BucketRec × List (Nat × Nat)))
  | _, [] => .ok []
  | i, b :: bs => do
    let r ← s.replayBucket x owner b (x.parcel.logEntryAt log i)
    let rs ← s.replayBuckets x owner log (i + 1) bs
    pure ((b, r) :: rs)

/-- Apply the updates of the owned buckets with the c of the logged seal record (R389, R476). -/
def State.replayUpdates (s : State) (p c : Nat) (clip : W32) : List BucketRec → Except Nat State
  | [] => .ok s
  | b :: bs =>
    match s.ctx p c with
    | none => .ok s
    | some x =>
      if !x.parcel.owns b || x.parcel.frozen b.layer then s.replayUpdates p c clip bs
      else do
        let s ← (s.bucketBoundary x b).applyBucket p c x b clip
        s.replayUpdates p c clip bs

/-- The logged CLOSE record votes NF (R462). -/
def Parcel.loggedNf (x : Parcel) (log : List Byte) : Bool := bitOf (fieldAt log (64 + x.sealLen + 13) 1) 0

/-- Buckets of a layer that the step touched. -/
def Parcel.touchedOf (x : Parcel) (step layer : Nat) : List BucketRec := (x.touched step).filter (·.layer == layer)

/-- The first layer whose replayed next bank cannot be that of the log: one of its updates is live or not finite while the logged CLOSE record says that none is; or the record has it live, the role owns every touched bucket of it, and none is (R462, R476, R477; log 79). -/
def Ctx.replayDiffers (x : Ctx) (log : List Byte) : Option Nat :=
  (List.range x.parcel.nlayer).find? fun n =>
    let runs := x.tr.coll.buckets.filter fun r => r.updated && (match x.parcel.bucket? r.bucket with | some b => b.layer == n | none => false)
    let whole := (x.parcel.touchedOf x.counter n).all fun b => x.parcel.owns b
    if x.parcel.loggedLive log n then whole && !(runs.any (·.live)) else runs.any (·.live) || (!x.parcel.loggedNf log && runs.any (·.bad))

/-- The reply of REPLAY (R477, R576); what has no bucket or layer to name is a free value. -/
def replayPayload (rs : List (BucketRec × List (Nat × Nat))) (layer : Option Nat) (v : Nat) : List Byte :=
  let same (r : BucketRec × List (Nat × Nat)) : Bool := r.2.all fun q => q.1 == q.2
  let miss := rs.find? fun r => !same r
  let pair : Nat × Nat := match miss.bind fun r => r.2.find? fun q => q.1 != q.2 with
    | some q => q
    | none => (v, v)
  leBytes 4 rs.length ++ leBytes 4 (rs.filter same).length ++
    leBytes 4 (match miss with | some r => r.1.bucket | none => v) ++ leBytes 4 pair.1 ++ leBytes 4 pair.2 ++ leBytes 2 (layer.getD v)

/-- What a replay leaves: nothing of the attempt but the restored state (log 79). -/
def Ctx.afterReplay (x : Ctx) : Ctx :=
  let x := x.endReplay
  { x with tr := { x.tr with
    phase := 0, gen := 0, attempt := 0, coll := Coll.none, verdict := none, digests := [], amax := [], summaries := []
    layers := x.tr.layers.map LayerSt.unpend } }

/-- BACKWARD of a replay has ended. -/
def State.replayEnds (s : State) (p c : Nat) (x : Ctx) (r : Replay) : State :=
  let bs := x.parcel.touched x.counter
  let work : Except Nat (State × List Byte) := do
    let log ← s.descBytes x.plain r.log (64 + x.parcel.sealLen + x.parcel.closeLen + 16 * bs.length)
    let rs ← s.replayBuckets x r.owner log 0 bs
    let (v, s) := s.draw
    if r.owner then
      let norm : W32 := match x.parcel.coefAt x.counter with | some k => k.clipNorm | none => 0
      let clip := (clipOf norm (Long.ofBits (fieldAt log (64 + 16) 16))).v
      let s := s.modCtx p c fun x => x.modColl fun k => { k with buckets := bs.map fun b => BucketRun.fresh b.bucket }
      let s ← s.replayUpdates p c clip bs
      pure (s, replayPayload rs ((s.ctx p c).bind fun y => y.replayDiffers log) v)
    else pure (s, replayPayload rs none v)
  match work with
  | .error e => s.haltJob p c e
  | .ok (s, payload) =>
    let s := s.modCtx p c Ctx.afterReplay
    ((if (s.ctx p c).map (·.stepsLeft) = some 0 then s.enterState p c .idle else s)).reply p 0x0081 ⟨r.tag, r.quiet⟩ 0 payload

end Sys2Proof.Machine
end

