-- ==== Sys2Proof/Machine/StepFlow.lean ====
section
/-!
DEFINITION. The training step (R330-R365): the phases of generate-and-learn, the
beginning of a step with its split, scales and digests, the passes, COMMIT and DRAIN
with reports, repeats and self-balancing (R57-R61).
-/

namespace Sys2Proof.Machine

/-! ### Between steps -/

/-- Steps are still asked of the context (R577). -/
def Ctx.wantsStep (x : Ctx) : Bool := !x.inStep && decide (x.stepsLeft ≠ 0) && !x.stopAsked

/-- A step has ended: the next one, or IDLE (R577, R525). -/
def State.stepOver (s : State) (p c : Nat) : State :=
  let s := s.modCtx p c fun x =>
    let left := if x.stepsLeft = 0xFFFFFFFF then x.stepsLeft else x.stepsLeft - 1
    { x with
      inStep := false, stepsLeft := if x.stopAsked then 0 else left, stopAsked := false, jumps := []
      pigeons := []
      tr := { x.tr with phase := 0, gen := 0, attempt := 0, coll := Coll.none, verdict := none, digests := [], amax := [], summaries := [] } }
  match s.ctx p c with
  | some x => if x.stepsLeft = 0 ∧ x.state = .running then s.enterState p c .idle else s
  | none => s

/-! ### PHASE (R362) -/

/-- The phase that follows, among those that the parcel has: 1 GENERATE, 2 SCORE, 3 LEARN. -/
def Ctx.nextGen (x : Ctx) : Option Nat :=
  (span (x.tr.gen + 1) (3 - x.tr.gen)).find? fun g => decide (x.parcel.phaseRec g < x.parcel.recs.length)

/-- PHASE: the previous phase has ended; the named turnout jobs run, then the phase's records (R362, R365). -/
def phaseStarts (p c : Nat) (s : State) : State :=
  match s.active? p c with
  | none => s
  | some x =>
    let passed := if x.tr.gen = 0 then x.wantsStep else (x.tr.gen != 3 && x.passOver)
    if s.preempts p c ∨ x.parcel.kind ≠ 2 ∨ x.tr.phase ≠ 0 ∨ x.inStep ∨ !passed then s
    else match x.nextGen with
      | none => s
      | some g =>
        let s := s.modCtx p c fun x => x.modTr fun t => { t with gen := g, summaries := [], pre := span (x.parcel.phasePre g).1 (x.parcel.phasePre g).2 }
        let s := s.modCtx p c fun x => { x.setCursor x.segment.1 with jumps := [] }
        s.runOn p c

def execPhase (p ctx : Nat) (s : State) : Out := onUnit (p < 16 ∧ ctx < 8) (phaseStarts p ctx s)

/-! ### STEP_BEGIN (R224, R228-R232, R335, R336, R341) -/

/-- Teacher stables of a step (R341): t_lo without balancing; else t_hi first, and the split in force clamped to t_lo to t_hi. -/
def bindSplit (b : StepBeginRec) (prev : Option Nat) : Nat :=
  if !b.balance then b.tLo else match prev with
    | none => b.tHi
    | some t => max b.tLo (min t b.tHi)

/-- A change of N takes effect: a shorter history keeps its newest entries (R224). -/
def Paddock.cutHistories (d : Paddock) : Paddock :=
  let n := d.histNext
  { d with histN := n, hist := d.hist.map fun h => (h.1, h.2.drop (h.2.length - n)) }

/-- Classes in probe whose history is full leave it (R232). -/
def State.leaveProbe (s : State) (p c step : Nat) : State :=
  let out := (s.pd p).probe.filter fun n => decide ((s.pd p).histN ≤ ((s.pd p).history n).length)
  let s := out.foldl (fun (s : State) (n : Nat) => s.postEvent p (event 0x00CC 0 0 c 0 n [step])) s
  s.modPd p fun d => { d with probe := d.probe.filter fun n => !out.contains n }

/-- LOAD takes the histories with the N that is set now; a class whose history is full by it is in probe no longer (R224, R232). -/
def State.takeN (s : State) (p c step : Nat) : State := (s.modPd p Paddock.cutHistories).leaveProbe p c step

/-- Classes whose history is empty and that are not in probe yet (R232). -/
def Paddock.emptyClasses (d : Paddock) (x : Ctx) : List Nat :=
  ((x.parcel.scaleRecs.map (·.cls)).filter fun n => (d.history n).isEmpty && !d.probe.contains n).eraseDups

/-- The exponents of a step (R228, R230, R232). -/
def Ctx.chooseScales (x : Ctx) (d : Paddock) : List (Nat × Int) :=
  x.parcel.scaleRecs.map fun r =>
    let h := (d.history r.cls).foldl maxW 0
    (r.cls, r.exponent (if r.target = 0 && d.probe.contains r.cls then 0 else h) x.tr.shift)

/-- The ranges whose digests the step takes: those that STEP_BEGIN names and the token maps, with the bytes of an element past its first (R336; log 58). -/
def Parcel.inputRanges (x : Parcel) : List (Nat × Nat) :=
  let named := match x.stepBegin with | some b => b.inputs.map fun n => (x.desc n).span 1 | none => []
  named ++ (x.pigeonRecs.filter (·.tokenMap != 0xFFFF)).map fun r => (x.desc r.tokenMap).span 8

/-- A digest would read what lies only in the next table (R545). -/
def Ctx.digestWaits (x : Ctx) : Bool := x.parcel.inputRanges.any fun r => x.awaits r.1 r.2

def State.digest (s : State) (x : Ctx) : List (Nat × Nat) → Except Nat (List (List Byte))
  | [] => .ok []
  | r :: rs => do
    let bs ← s.load x r.1 (r.2 - r.1)
    let ds ← s.digest x rs
    pure (sha256 bs :: ds)

/-- A step that is refused at STEP_BEGIN changes no state and is reported REFUSED (R335, R337, R377, R593; log 57). -/
def State.refuseStep (s : State) (p c : Nat) (x : Ctx) : State :=
  let s := s.postEvent p ({ x with tr := { x.tr with attempt := 0, nfAttempts := 0, flags := 0, votes := 0 } }.report c 2 0 x.counter ⟨0, 0⟩ 0)
  let s := s.modCtx p c fun x => { (x.modTr fun t => { t with gen := 0, pre := [] }) with stepsLeft := 0, stopAsked := false }
  s.enterState p c .idle

/-- What a first attempt sets beyond what every attempt sets. -/
def Ctx.firstAttempt (x : Ctx) (b : StepBeginRec) (now : Nat) : Ctx :=
  { x with
    inStep := true
    tr := { x.tr with
      attempt := 0, nfLeft := 1, otherLeft := b.repeatLimit, nfAttempts := 0, flags := 0, digests := [], votes := 0, shift := 0, startAt := now
      split := some (bindSplit b x.tr.split) } }

/-- What every attempt sets at LOAD. -/
def Ctx.loadAttempt (x : Ctx) (now : Nat) : Ctx :=
  let x := { x with
    jumps := [], flights := [], ended := [], pigeons := x.parcel.emptyPigeons now
    tr := { x.tr with
      phase := 1, micro := 0, loss := ⟨0, 0⟩, meanNum := 0, meanDen := 0, amax := [], verdict := none, summaries := [], coll := x.tr.coll.early } }
  x.setCursor x.segment.1

/-- The step's exponents are chosen, and classes with an empty history enter probe; 0x0404 where SCALE_PROBE is not granted (R228, R229, R232). -/
def State.bindScales (s : State) (p c step : Nat) (x : Ctx) : Except Nat State :=
  let new := (s.pd p).emptyClasses x
  if !new.isEmpty && !bitOf s.grant 14 then .error 0x0404
  else
    let s := new.foldl (fun (s : State) (n : Nat) => s.postEvent p (event 0x00CC 0 0 c 1 n [step])) s
    let s := s.modPd p fun d => { d with probe := d.probe ++ new }
    let d := s.pd p
    .ok (s.modCtx p c fun x => x.modTr fun t => { t with scales := x.chooseScales d })

/-! ### What LOAD binds (R316, R343, R349, R372) -/

/-- Die of the pen bytes of a range. -/
def Range.penDie (r : Range) : Nat := dieOfPen ((r.dbase - penBase 0) / penSize)

/-- The slots of a pigeonhole lie in pens on one die, its token map in pens (R316). -/
def Ctx.pigeonPlaced (x : Ctx) (r : PhRec) : Bool :=
  let a := r.base
  let b := r.base + r.slots * r.slotBytes
  let m := (x.parcel.desc r.tokenMap).span 8
  let here := x.table.filter fun t => decide (t.pbase < b ∧ a < t.pbase + t.length)
  x.liesIn (fun t => t.kind == 1) a b && (here.map Range.penDie).eraseDups.length ≤ 1 &&
    x.liesIn (fun t => t.kind == 1) m.1 m.2

/-- Bytes of a seal log by the parcel's own tables (R474). -/
def Parcel.sealLogBytes (x : Parcel) : Nat := 64 + x.sealLen + x.closeLen + 16 * x.bucketCount

/-- Saved tensors and staging ranges lie in pens or LPDDR5X, off-loaded copies in the companion window, pigeonholes in pens of one die, the seal log in LPDDR5X, local gradients in the paddock (R316, R349, R372, R434, R435; log 128). -/
def Ctx.placedOk (x : Ctx) : Bool :=
  let memory (r : Range) : Bool := decide (r.kind ≤ 1)
  x.parcel.pigeonRecs.all x.pigeonPlaced &&
    (match x.parcel.collection with
      | some k => k.sealLog == 0xFFFF ||
        x.liesIn (·.kind == 0) (x.parcel.desc k.sealLog).base ((x.parcel.desc k.sealLog).base + x.parcel.sealLogBytes)
      | none => true) &&
    (x.parcel.bucketRecs.all fun b => (x.parcel.spansOf b.grad 0x01 0).all fun e => x.liesIn (·.kind != 3) e.1 e.2) &&
    (x.parcel.saveRecs.all fun r => ((x.parcel.spansOf r.home r.fmt 0).all fun e => x.liesIn memory e.1 e.2) &&
      (r.mode != 1 || x.liesIn (·.kind == 3) r.far (r.far + 1))) &&
    x.parcel.layers.all fun l => l.frozen || x.liesIn memory (x.parcel.desc l.stage).base ((x.parcel.desc l.stage).base + 5 * l.elems)

/-- Every record of the step that names one side stable by its number has it (R343). -/
def Ctx.sidesOk (x : Ctx) (n : Nat) : Bool :=
  let t := x.tr.split.getD 0
  let (lo, hi) := ({ x with tr := { x.tr with phase := 1 } } : Ctx).segment
  ((x.parcel.recs.take hi).drop lo).all fun r => match r.body with
    | .kernel _ => r.head.rows != 0 || (if r.head.side = 1 then decide (r.head.lstable < t) else if r.head.side = 2 then decide (r.head.lstable < n - t) else true)
    | _ => true

/-- Every layer that SHED updates holds its tensors in one package (R255, R368). -/
def State.shedLayersOk (s : State) (x : Ctx) : Bool :=
  x.parcel.layers.all fun l => l.frozen || !x.parcel.striped l || match s.bucketSheds x l default with
    | .ok _ => true
    | .error e => e == awaitsSwitch

/-- LOAD binds the sides; the job halts with 0x0202 where a record's stable, a declared range or a layer of SHED is not where it must be (R316, R343, R349, R368, R372, R434, R435). -/
def State.bindRecords (s : State) (p c : Nat) (x : Ctx) : Except Nat State :=
  let ls := (s.stablesOf p).map (·.1)
  if !x.placedOk || !x.sidesOk ls.length || !s.shedLayersOk x then .error 0x0202
  else .ok (s.modCtx p c fun x => x.modTr fun t => { t with bound := ls })

/-- What a fresh LOAD binds: records, then scales (R330, R343). -/
def State.bindStep (s : State) (p c step : Nat) (x : Ctx) : Except Nat State :=
  match s.bindRecords p c x with
  | .error e => .error e
  | .ok s => s.bindScales p c step x

/-- LOAD of an attempt that waits for a table switch: STEP_BEGIN starts it (R545). -/
def State.defersLoad (s : State) (p c : Nat) : State := s.modCtx p c fun x => (x.modTr fun t => { t with phase := 0 })

/-- The digests differ from those of the step's first LOAD, where this context has them: in a repeat, and in a replay of the step that it ran last (R336, R476; log 79). -/
def Ctx.digestsDiffer (x : Ctx) (ds : List (List Byte)) : Bool :=
  if x.tr.replay.isSome then match x.tr.inputs with | some e => e.1 == x.counter && e.2 != ds | none => false
  else x.tr.attempt ≠ 0 && x.tr.digests != ds

/-- The digests of an attempt; those of a first LOAD stay for a replay of the step (R336, R476). -/
def Ctx.takesDigests (x : Ctx) (ds : List (List Byte)) : Ctx :=
  x.modTr fun t => { t with digests := ds, inputs := if t.attempt = 0 && t.replay.isNone then some (x.counter, ds) else t.inputs }

/-- LOAD of an attempt: the histories' length, then records, scales and probe where the step is `fresh` (a re-run and a repeat keep what the step chose: R229, R230), digests, then the records tagged LOAD (R224, R229, R232, R330, R336). -/
def State.loadStep (s : State) (p c : Nat) (fresh : Bool) : State :=
  let step := match s.ctx p c with | some x => x.counter | none => 0
  let s := (s.takeN p c step).modCtx p c (·.loadAttempt (s.now p))
  match s.ctx p c with
  | none => s
  | some x =>
    match if fresh then s.bindStep p c x.counter x else .ok s with
    | .error e => s.haltJob p c e
    | .ok s =>
      match s.digest x x.parcel.inputRanges with
      | .error e => if e = awaitsSwitch then s.defersLoad p c else s.haltJob p c e
      | .ok ds =>
        if x.digestsDiffer ds then s.haltJob p c 0x0205
        else ((s.hasRead x x.parcel.inputRanges).modCtx p c fun x => x.takesDigests ds).runOn p c

/-- STEP_BEGIN: a step, or a repeat of it, starts from LOAD (R335, R356), after a pre-emption that is due (R51). The steps of a plain parcel start here too. -/
def stepBegins (p c : Nat) (s : State) : State :=
  match s.active? p c with
  | none => s
  | some x =>
    if s.preempts p c || x.digestWaits then s
    else if x.parcel.kind = 3 then
      if !x.wantsStep then s
      else (s.modCtx p c fun x => { x.setCursor x.segment.1 with
        inStep := true, jumps := [], tr := { (x.setCursor x.segment.1).tr with startAt := s.now p, summaries := [] } }).runOn p c
    else match x.parcel.stepBegin with
      | none => s
      | some b =>
        let learn := x.parcel.kind = 0 ∨ (x.parcel.kind = 2 ∧ x.tr.gen = 3)
        if ¬ learn ∨ x.tr.phase ≠ 0 ∨ !x.tr.pre.isEmpty ∨ !x.flights.isEmpty then s
        else if x.inStep || x.tr.replay.isSome then s.loadStep p c (!x.inStep)
        else if !x.wantsStep then s
        else
          let n := (s.stablesOf p).length
          if (x.parcel.coefAt x.counter).isNone ∨ (x.parcel.setAt x.counter).isNone ∨ n < b.tHi + 1 ∨ b.tLo = 0 ∨ b.tHi < b.tLo then
            s.refuseStep p c x
          else (s.modCtx p c fun x => x.firstAttempt b (s.now p)).loadStep p c true

def execStepBegin (p ctx : Nat) (s : State) : Out := onUnit (p < 16 ∧ ctx < 8) (stepBegins p ctx s)

/-! ### FORWARD, LOSS and BACKWARD (R325, R330, R332, R347, R348, R359) -/

/-- Micro-batches of the step (R332). -/
def Parcel.micros (x : Parcel) : Nat := match x.stepBegin with | some b => b.micro + 1 | none => 1

/-- Start a phase of the pass from its first record. -/
def State.enterPhase (s : State) (p c ph micro : Nat) : State :=
  (s.modCtx p c fun x => (x.setCursor x.segment.1).modTr fun t => { t with phase := ph, micro := micro }).runOn p c

/-- FORWARD_PASS_END: every FORWARD record has ended; the occupancy is taken (R58, R325). -/
def forwardEnds (p c : Nat) (s : State) : State :=
  match s.active? p c with
  | none => s
  | some x =>
    if x.tr.phase ≠ 2 ∨ !x.passOver then s
    else
      let now := s.now p
      let y := x.settle now
      let m := y.meanOccupancy (now - x.tr.forwardAt)
      (s.modCtx p c fun _ => y.modTr fun t => { t with meanNum := t.meanNum + m.1, meanDen := t.meanDen + m.2 }).enterPhase p c 3 x.tr.micro

def execForwardPassEnd (p ctx : Nat) (s : State) : Out := onUnit (p < 16 ∧ ctx < 8) (forwardEnds p ctx s)

/-- What follows BACKWARD: COLLECT, or the end of a replay (R330, R476). -/
def State.passesEnd (s : State) (p c : Nat) (collect : State → Nat → Nat → State) : State :=
  match s.ctx p c with
  | none => s
  | some x =>
    match x.tr.replay with
    | some r => s.replayEnds p c x r
    | none => collect s p c

/-- COLLECT begins: its duration runs and the local stages start (R452, R453, R444). -/
def State.enterCollect (s : State) (p c : Nat) : State :=
  match s.ctx p c with
  | none => s
  | some x =>
    let bs := x.parcel.touched x.counter
    let s := s.modCtx p c fun x => x.modTr fun t => { t with
      phase := 5
      coll := { t.coll with
        owed := bs.flatMap fun b => (List.range (x.parcel.bucketBlocks b)).map fun k => (b.bucket, k)
        buckets := bs.map fun b => BucketRun.fresh b.bucket } }
    ((s.grantPartials x).addExpiry p c .collect x.parcel.collectTimeout).collectAll p c

/-- The loss pair of a pass: a wide VALUE in a summary register of the record that STEP_BEGIN names (R335, R347; log 41). -/
def Ctx.lossPair (x : Ctx) (b : StepBeginRec) : Fp.Pair :=
  let rs := ((x.tr.summaries.find? (·.1 == b.lossRec)).map (·.2)).getD []
  let v := nth (rs.headD []) b.lossReg
  ⟨w32 v, w32 (v / 2 ^ 32)⟩

/-- LOSS_PASS_END: the letters have been freed, the loss is added and tested; then the next pass, BACKWARD, or the end of the attempt (R323, R347, R348, R359); a pre-emption that is due goes first (R536). -/
def lossEnds (p c : Nat) (s : State) : State :=
  match s.active? p c with
  | none => s
  | some x =>
    match x.parcel.stepBegin with
    | none => s
    | some b =>
      if s.preempts p c ∨ x.updateWaits ∨ x.tr.phase ≠ 3 ∨ !x.passOver then s
      else if !x.allFreed then s.haltJob p c 0x0204
      else
        let pair := x.lossPair b
        let s := s.modCtx p c fun x => x.modTr fun t =>
          { t with loss := (Wide.add (Wide.ofPair t.loss) (Wide.ofPair pair)).p, summaries := t.summaries.filter (·.1 != b.lossRec) }
        if Wide.nonfinite pair then
          let s := s.modCtx p c fun x => x.modTr fun t => { t with verdict := some .lossNf }
          if x.parcel.members = 1 ∧ x.tr.replay.isNone then
            (s.modCtx p c fun x => x.modTr fun t => { t with votes := t.votes ||| 1 }).toDrain p c .lossNf
          else s.passesEnd p c State.enterCollect
        else if x.tr.micro + 1 < x.parcel.micros then
          (s.modCtx p c fun x => x.forward (x.tr.micro + 1) (s.now p)).runOn p c
        else s.enterPhase p c 4 0

def execLossPassEnd (p ctx : Nat) (s : State) : Out := onUnit (p < 16 ∧ ctx < 8) (lossEnds p ctx s)

/-- BACKWARD_END: the next micro-batch's pass, or COLLECT after the last, once no pre-emption is due (R330, R359, R536; log 36). -/
def backwardEnds (p c : Nat) (s : State) : State :=
  match s.active? p c with
  | none => s
  | some x =>
    if s.preempts p c ∨ x.updateWaits ∨ x.tr.phase ≠ 4 ∨ !x.passOver then s
    else if x.tr.micro + 1 < x.parcel.micros then s.enterPhase p c 4 (x.tr.micro + 1)
    else s.passesEnd p c State.enterCollect

def execBackwardEnd (p ctx : Nat) (s : State) : Out := onUnit (p < 16 ∧ ctx < 8) (backwardEnds p ctx s)

/-! ### COMMIT (R226, R227, R232, R334, R392, R396, R401, R404, R405, R464) -/

/-- One layer's flip and sweep: the column statistic, the owned PEND blocks, and replica blocks once all have arrived (R396, R398). -/
def Ctx.commitLayer (x : Ctx) (n : Nat) : Ctx :=
  let arrived := x.layerArrived n
  x.modLayer n fun t =>
    let t := if t.cpend then { t with lbank := !t.lbank, cpend := false } else t
    t.flipAt (fun b => b.owned || arrived) x.counter

/-- The run of zero gradients of a layer (R404). -/
def LayerSt.countZero (live : Bool) (t : LayerSt) : LayerSt :=
  if live then { t with zrun := 0, silent := false } else { t with zrun := min (t.zrun + 1) 65535 }

/-- SILENT_LAYER of a layer that this module leads (R405). -/
def State.postSilent (s : State) (p c : Nat) (x : Ctx) (n : Nat) : State :=
  match x.layerSt n with
  | none => s
  | some t =>
    let lim := x.parcel.silentLimit n
    if lim = 0 ∨ t.zrun < lim ∨ t.silent ∨ !x.parcel.leads n then s
    else (s.postEvent p (event 0x00CF 0 0 c 0 n [x.counter, t.zrun])).modCtx p c fun x => x.modLayer n fun t => { t with silent := true }

/-- Layers that are frozen and in which this module owned a collected bucket (R401). -/
def Ctx.frozenWritten (x : Ctx) : List Nat :=
  x.parcel.layerOrder.filter fun n => x.parcel.frozen n && x.tr.coll.buckets.any fun r =>
    match x.parcel.bucket? r.bucket with | some b => b.layer == n && x.parcel.owns b | none => false

/-- A class's maximum joins its history (R226). -/
def Paddock.push (d : Paddock) (cls : Nat) (v : W32) : Paddock :=
  let h := d.history cls ++ [v]
  { d with hist := (cls, h.drop (h.length - d.histN)) :: d.hist.filter (·.1 != cls) }

/-- What each class pushes: a shared or WIRE class the agreed maximum, a local class its own where it wrote a finite value (R226, R227; log 59). -/
def Ctx.pushes (x : Ctx) : List (Nat × W32) :=
  let agreed := x.parcel.agreedClasses.zip (match x.tr.coll.agreed with | some r => r.amax | none => [])
  agreed ++ x.tr.amax.filter fun cv => !x.parcel.agreedClasses.contains cv.1 && x.parcel.scaleRecs.any fun r => r.cls == cv.1

/-- The committed hi of a bucket's blocks, in block order (R464). -/
def State.hiBytes (s : State) (x : Ctx) (b : BucketRec) : Except Nat (List Byte) :=
  match x.parcel.layer? b.layer with
  | none => .ok []
  | some l =>
    let e0 := b.row0 * l.cols
    if x.parcel.striped l then do
      let es ← (span e0 (x.parcel.paramBytes b / 2)).mapM fun (e : Nat) =>
        if l.elems ≤ e then Except.ok [(0 : Byte), 0] else s.load x (l.hiBase + l.elemOff true 2 e) 2
      pure es.flatten
    else s.load x (l.hiBase + 4096 * (e0 / 2048)) (x.parcel.paramBytes b)

/-- Send every bucket that this module updated down its tree (R464, R465). -/
def State.broadcastBuckets (s : State) (p c : Nat) : List BucketRec → State
  | [] => s
  | b :: bs =>
    match s.ctx p c with
    | none => s
    | some x =>
      match s.hiBytes x b with
      | .error _ => s.broadcastBuckets p c bs
      | .ok v => (s.sendParams x b 0 v).broadcastBuckets p c bs

/-- COMMIT: layers flip in increasing number, the counter advances, the histories take their push, and BROADCAST begins. -/
def commits (p c : Nat) (s : State) : State :=
  match s.ctx p c with
  | none => s
  | some x =>
    if !s.runs p || x.tr.phase != 7 || x.state == .halted then s
    else
      let live := match x.tr.coll.closed with | some r => r.live | none => 0
      let y := x.parcel.layerOrder.foldl Ctx.commitLayer x
      let y := x.parcel.layerOrder.foldl (fun (y : Ctx) (n : Nat) =>
        if x.parcel.frozen n then y else y.modLayer n (LayerSt.countZero (bitOf live n))) y
      let s := s.modCtx p c fun _ => y
      let s := x.parcel.layerOrder.foldl (fun (s : State) (n : Nat) => if x.parcel.frozen n then s else s.postSilent p c y n) s
      let s := x.frozenWritten.foldl (fun (s : State) (n : Nat) => s.postEvent p (event 0x00D0 0 0 c 0 n [x.counter])) s
      let s := s.modPd p fun d => x.pushes.foldl (fun (d : Paddock) (cv : Nat × W32) => d.push cv.1 cv.2) d
      let s := s.leaveProbe p c x.counter
      let s := s.modCtx p c fun x => { x with counter := x.counter + 1, tr := { x.tr with cPrev := x.tr.c, phase := 8 } }
      let s := s.addExpiry p c .broadcast x.parcel.collectTimeout
      let mine := (x.tr.coll.buckets.filter (·.updated)).filterMap fun r => x.parcel.bucket? r.bucket
      ((s.broadcastBuckets p c mine).broadcastOn p c).spanEnds p c 0

def execCommit (p ctx : Nat) (s : State) : Out := onUnit (p < 16 ∧ ctx < 8) (commits p ctx s)

/-! ### DRAIN_END (R59, R60, R323, R337, R356, R358, R361, R399) -/

/-- 2 for a mean occupancy of 0.75 or more, 0 for 0.25 or less, 1 between; none without a pigeonhole that counts (R59, R325). -/
def occupancyClass (num den : Nat) : Option Nat :=
  if den = 0 then none else if 3 * den ≤ 4 * num then some 2 else if 4 * num ≤ den then some 0 else some 1

/-- The split after a committed step: one stable moves after four steps of one kind (R59, R60). -/
def Train.balance (t : Train) (b : StepBeginRec) : Train × Bool :=
  match b.balance, occupancyClass t.meanNum t.meanDen with
  | true, some k =>
    let h := t.occupancy ++ [k]
    let h := h.drop (h.length - 4)
    let n := t.split.getD b.tLo
    if h = [2, 2, 2, 2] ∧ b.tLo < n then ({ t with occupancy := [], split := some (n - 1) }, true)
    else if h = [0, 0, 0, 0] ∧ n < b.tHi then ({ t with occupancy := [], split := some (n + 1) }, true)
    else ({ t with occupancy := h }, false)
  | _, _ => (t, false)

/-- A committed step is reported, the split may move, and the run goes on (R59, R337, R361). -/
def State.reportCommitted (s : State) (p c : Nat) (x : Ctx) (b : StepBeginRec) : State :=
  let s := s.postEvent p (x.report c 0 0 x.stepNow x.stepLoss (s.now p - x.tr.startAt))
  let m := x.tr.balance b
  let s := s.modCtx p c fun x => { x with tr := (x.tr.balance b).1 }
  let n := (s.stablesOf p).length
  let t := m.1.split.getD 0
  let s := if m.2 then s.postEvent p (event 0x00C7 0 0 c 0 t [n - t, x.counter]) else s
  s.stepOver p c

/-- A repeat is announced and waits for its LOAD (R337, R356, R358). -/
def State.repeatStep (s : State) (p c cause : Nat) (f : Train → Train) : State :=
  match s.ctx p c with
  | none => s
  | some x =>
    let s := s.modCtx p c fun x => { x with
      pigeons := []
      tr := { f x.tr with phase := 0, attempt := x.tr.attempt + 1, coll := Coll.none, verdict := none, amax := [] } }
    s.postEvent p (event 0x00C1 0 0 c cause (x.tr.attempt + 1) [x.counter])

/-- The exponents of the repeat after a non-finite attempt (R230). -/
def Ctx.freshScales (x : Ctx) : List (Nat × Int) :=
  x.tr.scales.map fun e => match x.parcel.scaleRecs.find? (·.cls == e.1) with
    | some r => (e.1, r.shifted 1 e.2)
    | none => e

/-- An attempt that was not finite: one repeat with fresh scales, then a halt (R230, R358). -/
def State.repeatNf (s : State) (p c status : Nat) (x : Ctx) : State :=
  let s := s.modCtx p c fun x => x.modTr fun t => { t with nfAttempts := t.nfAttempts + 1 }
  if x.tr.nfLeft = 0 then s.haltNow p c status
  else s.repeatStep p c 1 fun t => { t with nfLeft := t.nfLeft - 1, shift := t.shift + 1, scales := x.freshScales }

/-- A late or mismatched attempt: repeats within the limit, then a halt (R358, R455). -/
def State.repeatOther (s : State) (p c cause status : Nat) (x : Ctx) : State :=
  if x.tr.otherLeft = 0 then s.haltNow p c status
  else s.repeatStep p c cause fun t => { t with otherLeft := t.otherLeft - 1 }

/-- A stable of the paddock is to be replaced, or to have stalls replaced, at the boundary that it has reached (R49, R51, R141). -/
def State.replacementsDue (s : State) (p : Nat) : Bool :=
  (s.stablesOf p).any fun l => (s.stable l.2).stopped || (s.stable l.2).copying.isSome || !(s.stable l.2).suspects.isEmpty

/-- DRAIN_END: nothing of the step is in flight (R330), and replacements have taken effect before the split moves (R51). The steps of a plain parcel end here too. -/
def drainEnds (p c : Nat) (s : State) : State :=
  match s.active? p c with
  | none => s
  | some x =>
    if x.parcel.kind = 3 then
      if !x.inStep ∨ !x.passOver then s else (s.modCtx p c fun x => { x with counter := x.counter + 1 }).stepOver p c
    else if x.tr.phase ≠ 9 ∨ !x.flights.isEmpty ∨ s.replacementsDue p then s
    else
      let s := (s.discardBlocks x).modCtx p c fun x => { x with
        pigeons := [], tr := { x.tr with layers := x.tr.layers.map LayerSt.unpend } }
      match x.tr.verdict, x.parcel.stepBegin with
      | some .commit, some b => s.reportCommitted p c x b
      | some .counters, _ => s.haltNow p c 0x0603
      | some (.failed st), _ => s.haltNow p c st
      | some .lossNf, _ => s.repeatNf p c 0x0401 x
      | some .gradNf, _ => s.repeatNf p c 0x0402 x
      | some .late, _ => s.repeatOther p c 2 0x0601 x
      | some .mismatch, _ => s.repeatOther p c 3 0x0602 x
      | _, _ => s

def execDrainEnd (p ctx : Nat) (s : State) : Out := onUnit (p < 16 ∧ ctx < 8) (drainEnds p ctx s)

end Sys2Proof.Machine
end

