-- ==== Sys2Proof/Machine/Load.lean ====
section
/-!
DEFINITION. The letters of contexts: PARCEL_LOAD (R522, R529, R538, R587, R595),
PARCEL_UNLOAD and STEP_RUN (R577), STATE_READ (R578) and DIAG_COUNTERS (R143).
-/

namespace Sys2Proof.Machine

/-! ### The bytes of a parcel (R587) -/

/-- Length of a parcel by its header. -/
def parcelLength (raw : List Byte) : Nat := 128 + 128 * fieldAt raw 8 4 + 80 * fieldAt raw 12 4 + fieldAt raw 16 4

/-- The header keeps its limits (R77, R78, R562, R587), and the length fits. -/
def headerOk (raw : List Byte) (length : Nat) : Bool :=
  let f := fieldAt raw
  let warn := if f 40 4 = 0 then 1000000 else f 40 4
  decide (10000 ≤ warn) && (f 44 4 == 0 || decide (10000 ≤ f 44 4 ∧ warn < f 44 4)) && decide (128 ≤ length) && f 0 4 == 0x43505850 && f 4 2 == 1 && decide (f 6 1 ≤ 3) && f 7 1 == 0 &&
    decide (1 ≤ f 8 4 ∧ f 8 4 ≤ 65535 ∧ f 12 4 ≤ 65535 ∧ f 16 4 ≤ 2 ^ 30) && f 20 4 == 0 &&
    (f 32 6 == 0 || decide (10000 ≤ f 32 6)) && f 38 2 == 0 && f 48 16 == 0 && f 96 32 == 0 && parcelLength raw == length

def rawRecs (raw : List Byte) : List (List Byte) := chunksOf 128 (fieldAt raw 8 4) (raw.drop 128)
def rawDescs (raw : List Byte) : List (List Byte) := chunksOf 80 (fieldAt raw 12 4) (raw.drop (128 + 128 * fieldAt raw 8 4))

/-- The parcel that bytes spell. -/
def parcelOf (raw : List Byte) : Parcel :=
  let f := fieldAt raw
  { kind := f 6 1, jobSeed := BitVec.ofNat 64 (f 24 8), mclTimeout := if f 32 6 = 0 then 1000000 else f 32 6
    watchWarn := f 40 4, watchHalt := f 44 4, digest := (raw.drop 64).take 32
    recs := (rawRecs raw).map recordOf, descs := (rawDescs raw).map descOf
    blob := raw.drop (128 + 128 * f 8 4 + 80 * f 12 4) }

/-- What the checks of R595 find, in their order. -/
def State.parcelChecks (s : State) (p length : Nat) (raw : List Byte) : List Nat :=
  let x := parcelOf raw
  if !headerOk raw length || x.digest != sha256 (raw.drop 128) then [0x0201]
  else
    ((rawRecs raw).zipIdx.flatMap fun e => recordForm e.2 e.1 ++ x.recordChecks s p e.2 (recordOf e.1) e.1) ++
      (rawDescs raw).flatMap descChecks ++ x.ruleChecks s p

/-! ### What a context reserves (R306, R529-R531, R538, R541, R587) -/

/-- What a parcel's yard layout takes of the pens for certain: the slots of its pigeonholes and their token maps of 8-byte entries, a shared one once (R306, R316; log 128). -/
def Parcel.yardBytes (x : Parcel) : Nat :=
  (x.pigeonRecs.map fun r => r.slots * r.slotBytes).sum + 8 * (((x.pigeonRecs.map (·.tokenMap)).eraseDups).map fun n => (x.desc n).count).sum

/-- Reserved structures in pens of a parcel's context, less stream-slot state and scale history (R306). -/
def Parcel.reserveBytes (x : Parcel) : Nat :=
  4096 * x.pigeonRecs.length + x.tableBytes

/-- Image bytes of the paddock's stables and sheds (R529-R531). -/
def Paddock.imageBytes (d : Paddock) : Nat :=
  4 * (bitsSet 16 d.owned.groups).length * 0x4B4000 + 8 * (bitsSet 24 d.owned.packages).length * 0x6E000

def Paddock.penBytes (d : Paddock) : Nat := penSize * (bitsSet 96 d.owned.pens).length

/-- The reserved LPDDR5X does not fit the paddock's packages, or reaches what a table maps (R529, R542). -/
def State.lacksRoom (s : State) (d : Paddock) : Bool :=
  decide (((bitsSet 24 d.owned.packages).map s.packageUsable).sum < d.reservedBytes) ||
    !(d.withCtx fun x => x.lastTable.any fun r => r.kind == 0 && s.reachesReserved d r.dbase (r.dbase + r.length)).isEmpty

/-! ### A new context (R370-R375, R468, R511, R522) -/

/-- Parameter blocks of a layer that this module owns (R374). -/
def Parcel.ownedBlocks (x : Parcel) (l : LayerRec) : List Nat :=
  (x.bucketRecs.filter fun b => b.layer == l.layer && x.owns b).flatMap fun b => b.blockRange l.cols

/-- A layer before its first update (R374, R375, R388). -/
def Parcel.freshLayer (x : Parcel) (l : LayerRec) : LayerSt :=
  let init : W32 := match x.coef? l.cls with | some k => k.colInit | none => 0
  let col := if x.factored l then List.replicate l.cols init else []
  let mu : W32 := if x.factored l then init else 0
  let mine := x.ownedBlocks l
  { layer := l.layer, flip := false, lbank := false, cpend := false, zrun := 0, last := 0, mu0 := mu, mu1 := mu
    col0 := col, col1 := col, silent := false
    blocks := (List.range l.blocks).map fun b => ⟨0, false, mine.contains b, false, false⟩ }

/-- The context that an accepted PARCEL_LOAD creates. -/
def State.freshCtx (s : State) (p : Nat) (x : Parcel) (length priority step : Nat) : Ctx :=
  let d := s.pd p
  let reserve := x.reserveBytes
  { home := p, parcel := x, priority := priority, state := .idle, since := s.now p, status := 0, haltAfter := none, resident := true, pens := []
    swapImage := [], swapBad := [], saveBytes := d.imageBytes, swapBytes := pageUp (x.yardBytes + reserve), parcelBytes := pageUp length, reserve := reserve
    image := none, counter := if x.kind = 1 then 0 else step, stepsLeft := 0, inStep := false, stopAsked := false
    table := [], rebuild := none, merged := none, ended := [], flights := [], jumps := []
    pigeons := x.emptyPigeons (s.now p)
    tr := { Train.start with layers := x.layers.map x.freshLayer, roles := x.roleTable }
    sv := { Serve.start with active := d.activeVariant.isNone } }

/-- Lowest free context number (R522). -/
def Paddock.freeCtx (d : Paddock) : Option Nat := (List.range 8).find? fun c => (d.ctx c).isNone

/-! ### PARCEL_LOAD -/

def loadPayload (c left : Nat) (x : Ctx) : List Byte :=
  leBytes 1 c ++ leBytes 8 left ++ leBytes 8 x.saveBytes ++ leBytes 8 x.swapBytes ++ leBytes 1 (bit x.resident)

/-- Yard bytes that a resident context takes: its pens, or its layout before it has any (R538). -/
def Ctx.penNeed (x : Ctx) : Nat := max (x.pens.length * penSize) x.parcel.yardBytes

/-- The allocation of a new context fits the pens that the others leave free (R538; log 25). -/
def Paddock.hasPens (d : Paddock) : Bool :=
  !d.pensTaken && decide (d.penReserve + ((d.withCtx (·.resident)).map fun cx => cx.2.penNeed).sum ≤ d.penBytes)

/-- PARCEL_LOAD: checks in the order of R595, then the room it needs (R306, R522, R529, R538), then the context. -/
def actParcelLoad (p address length priority step : Nat) (s : State) : Taken :=
  if 3 < priority then Taken.refuse s 0x0101
  else if inWindow address length = false then Taken.refuse s 0x0104
  else
    let raw := s.rdComp address length
    match s.parcelChecks p length raw with
    | st :: _ => Taken.refuse s st
    | [] =>
      match (s.pd p).freeCtx with
      | none => Taken.refuse s 0x0206
      | some c =>
        let y := s.freshCtx p (parcelOf raw) length priority step
        let d := (s.pd p).setCtx c (some y)
        if decide (d.penBytes < d.penReserve + y.parcel.yardBytes) || s.lacksRoom d then Taken.refuse s 0x0304
        else
          let y := { y with resident := d.hasPens }
          Taken.ok (s.modPd p (·.setCtx c (some y))) (loadPayload c (d.penBytes - d.penReserve) y)

def execParcelLoad (p : Nat) (h : LetterHead) (address length priority step : Nat) (s : State) : Out :=
  onUnit (p < 16) (s.takeLetter p 0x0040 21 h (actParcelLoad p address length priority step))

/-! ### PARCEL_UNLOAD and STEP_RUN (R577) -/

/-- What a letter about an IDLE or HALTED context does; 0x0003 otherwise (R573, R577). -/
def State.onQuiet (s : State) (p ctx : Nat) (f : Ctx → Taken) : Taken :=
  match s.ctx p ctx with
  | none => Taken.refuse s 0x0003
  | some x => if x.quiet then f x else Taken.refuse s 0x0003

/-- A RESIDENT paddock whose served variant has left serves the first that remains; a SWAP paddock waits for a swap (R511, R512; log 64). -/
def Paddock.servesNext (d : Paddock) : Paddock :=
  if d.activeVariant.isSome then d
  else match d.servers.find? fun cx => cx.2.parcel.servingRec.any (!·.swap) with
    | some (c, _) => d.modCtx c (·.modSv fun v => { v with active := true })
    | none => d

/-- PARCEL_UNLOAD releases the context's pens, its areas and its number; the ostler decides (R527). -/
def actParcelUnload (p ctx : Nat) (s : State) : Taken :=
  s.onQuiet p ctx fun _ => Taken.ok (((s.refuseEpoch p ctx).modPd p fun d =>
    Paddock.servesNext { d.setCtx ctx none with running := if d.running = some ctx then none else d.running }).reschedule p) []

def execParcelUnload (p : Nat) (h : LetterHead) (ctx : Nat) (s : State) : Out :=
  onUnit (p < 16) (s.takeLetter p 0x0041 1 h (actParcelUnload p ctx))

/-- Steps that remain when `count` steps from the counter on are asked for: the step in progress is the first of them until its COMMIT (R334, R577). -/
def Ctx.stepsFor (x : Ctx) (count : Nat) : Nat :=
  if count = 0xFFFFFFFF then count else if x.inStep && x.stepNow != x.counter then count + 1 else count

/-- STEP_RUN: count 0 stops the context after the step in progress; otherwise it becomes able to run. -/
def actStepRun (p ctx step count : Nat) (s : State) : Taken :=
  match s.ctx p ctx with
  | none => Taken.refuse s 0x0003
  | some x =>
    if x.parcel.kind = 1 ∨ x.state = .halted then Taken.refuse s 0x0003
    else if step ≠ x.counter then Taken.refuse s 0x0501
    else if count = 0 then
      if x.inStep || x.tr.gen != 0 then Taken.ok (s.modCtx p ctx fun x => { x with stopAsked := true }) []
      else Taken.ok ((s.modCtx p ctx fun x => { x with stepsLeft := 0 }).enterState p ctx .idle) []
    else
      let s := s.modCtx p ctx fun x => { x with stepsLeft := x.stepsFor count, stopAsked := false }
      Taken.ok (if x.state = .idle then s.makeReady p ctx else s) []

def execStepRun (p : Nat) (h : LetterHead) (ctx step count : Nat) (s : State) : Out :=
  onUnit (p < 16) (s.takeLetter p 0x0042 13 h (actStepRun p ctx step count))

/-! ### STATE_READ (R374, R375, R482, R578) -/

/-- Codes of R578 for the states of R525. -/
def CtxState.code : CtxState → Nat
  | .running => 0
  | .ready => 1
  | .blocked => 2
  | .idle => 3
  | .halted => 4

/-- The items of a selector as a list, layers in increasing number; none for an unlisted selector (R578). -/
def State.items (s : State) (p ctx selector first : Nat) (x : Ctx) : Option (List (List Byte)) :=
  let d := s.pd p
  let layers := x.layersIn
  match selector with
  | 1 => some [leBytes 8 x.keyStep ++ leBytes 4 x.tr.cPrev.toNat ++ [0, 0, 0, 0]]
  | 2 => some (layers.flatMap fun t => t.blocks.map (Blk.bytes (x.parcel.frozen t.layer)))
  | 3 => some (layers.map (x.layerBytes p ctx))
  | 4 => some ((List.range (512 * d.owned.blocks.length)).map d.slotBytes)
  | 5 => some [leBytes 4 (d.history first).length ++ ((d.history first).map fun w => leBytes 4 w.toNat).flatten]
  | 6 => some [leBytes 1 x.state.code ++ leBytes 1 (bit x.resident) ++ leBytes 6 0 ++ leBytes 8 d.overrun]
  | _ => none

/-- STATE_READ: items from `first` on, up to `count`; the history of class `first` whole. -/
def actStateRead (p ctx selector first count : Nat) (b : Bulk) (s : State) : Taken :=
  match s.ctx p ctx with
  | none => Taken.refuse s 0x0003
  | some x =>
    match s.items p ctx selector first x with
    | none => Taken.refuse s 0x0101
    | some l =>
      let l := if selector = 5 then l else (l.drop first).take count
      s.bulk b l.flatten []

def execStateRead (p : Nat) (h : LetterHead) (ctx selector first count : Nat) (b : Bulk) (s : State) : Out :=
  onUnit (p < 16) (s.takeLetter p 0x0027 22 h (actStateRead p ctx selector first count b))

/-! ### DIAG_COUNTERS (R143, R573) -/

/-- Counters of which the spec states neither number nor content (log 74). -/
def State.freeCounters (s : State) : List Byte × State :=
  let (n, s) := s.draw
  let (v, s) := s.draw
  (leBytes (n % 2 ^ 32) v, s)

/-- DIAG_COUNTERS: the six counters of a stable, 6 bytes each; those of a shed or a port are free values. -/
def actDiagCounters (unit index : Nat) (b : Bulk) (s : State) : Taken :=
  if unit = 0 ∧ index < 72 then s.bulk b ((s.stable index).diag.map (leBytes 6)).flatten []
  else if (unit = 1 ∧ index < 192) ∨ (unit = 2 ∧ index < 32) then
    let (bytes, s) := s.freeCounters
    s.bulk b bytes []
  else Taken.refuse s 0x0101

def execDiagCounters (p : Nat) (h : LetterHead) (unit index : Nat) (b : Bulk) (s : State) : Out :=
  onUnit (p < 16) (s.takeLetter p 0x00A0 15 h (actDiagCounters unit index b))

end Sys2Proof.Machine
end

