-- ==== Sys2Proof/Machine/Checkpoint.lean ====
section
/-!
DEFINITION. CHECKPOINT, RESTORE and INITIALISE (R373, R406, R576, R577). What a
checkpoint holds is R406's; how its bytes are laid out the spec does not say: they
are masked with free bytes (log 75).
-/

namespace Sys2Proof.Machine

/-! ### What a checkpoint holds (R406) -/

/-- Elements that a parameter block's bytes hold; the padding of a layer's last block counts where the tensor has it (R368, R370). -/
def LayerRec.blockElems (striped : Bool) (l : LayerRec) (b : Nat) : List Nat :=
  span (2048 * b) (if striped then min 2048 (l.elems - 2048 * b) else 2048)

/-- A part of a block: addresses of its elements without a bank, and their size. -/
structure Part where
  size : Nat
  addrs : List Nat
  deriving DecidableEq, Repr, Inhabited

/-- Parts of a block that a checkpoint holds: every part of an owned block, hi of any other (R406). -/
def Parcel.blockParts (x : Parcel) (l : LayerRec) (b : Nat) (owned : Bool) : List Part :=
  let st := x.striped l
  let part (base z : Nat) : Part := ⟨z, (l.blockElems st b).map fun e => base + l.elemOff st z e⟩
  let rows := (List.range l.rows).filter fun r => r * l.cols / 2048 == b
  part l.hiBase 2 :: (if owned && !l.frozen then
    [part l.rBase 2, part l.s1Base 4,
      if x.factored l then ⟨4, rows.map fun r => l.rowBase + 4 * r⟩ else part l.s2Base 4] else [])

/-- Every part of a layer, in block order. -/
def Parcel.layerParts (x : Parcel) (l : LayerRec) (t : LayerSt) : List Part :=
  t.blocks.zipIdx.flatMap fun e => x.blockParts l e.2 e.1.owned

/-- What ties a checkpoint to a parcel: its layers with their owned blocks, and its classes. -/
def LayerSt.tie (l : LayerRec) (fac : Bool) (t : LayerSt) : List Byte :=
  leBytes 2 l.layer ++ leBytes 1 l.cls ++ leBytes 1 (bit fac + 2 * bit l.frozen) ++ leBytes 4 l.rows ++ leBytes 4 l.cols ++
    t.blocks.map fun b => (BitVec.ofNat 8 (bit b.owned) : Byte)

def Ctx.tie (x : Ctx) : List Byte :=
  leBytes 2 x.tr.layers.length ++
    (x.tr.layers.flatMap fun t => match x.parcel.layer? t.layer with
      | some l => t.tie l (x.parcel.factored l)
      | none => []) ++
    leBytes 2 x.parcel.scaleRecs.length ++ x.parcel.scaleRecs.flatMap fun r => leBytes 2 r.cls

/-- A layer state and its block entries, PEND clear. -/
def LayerSt.stateBytes (t : LayerSt) : List Byte :=
  let col := if t.lbank then t.col1 else t.col0
  leBytes 2 t.zrun ++ leBytes 8 t.last ++ leBytes 4 (if t.lbank then t.mu1 else t.mu0).toNat ++
    (col.map fun c => leBytes 4 c.toNat).flatten ++ (t.blocks.map fun b => leBytes 1 (bit b.init) ++ leBytes 6 b.last).flatten

/-- A class's history in a fixed size, and whether the class is in probe (R231, R232). -/
def historyBytes (probe : Bool) (h : List W32) : List Byte :=
  leBytes 1 (h.length + 128 * bit probe) ++ ((List.range 64).map fun i => leBytes 4 (h.getD i 0).toNat).flatten

/-- Everything but the tensors. -/
def State.ckHead (s : State) (p : Nat) (x : Ctx) : List Byte :=
  x.tie ++ leBytes 8 x.counter ++ leBytes 4 x.tr.cPrev.toNat ++ (x.tr.layers.map LayerSt.stateBytes).flatten ++
    x.parcel.scaleRecs.flatMap fun r => historyBytes ((s.pd p).probe.contains r.cls) ((s.pd p).history r.cls)

def Ctx.parts (x : Ctx) : List Part :=
  x.tr.layers.flatMap fun t => match x.parcel.layer? t.layer with
    | some l => x.parcel.layerParts l t
    | none => []

def Part.bytes (q : Part) : Nat := q.size * q.addrs.length

/-- Mask or unmask the bytes of a checkpoint from a position on. -/
def maskBytes : Nat → List Byte → List Byte
  | _, [] => []
  | i, b :: bs => (b ^^^ Config.checkpointMask i) :: maskBytes (i + 1) bs

/-- Read every part in its effective bank. -/
def State.readParts (s : State) (x : Ctx) : List Part → Except Nat (List Byte)
  | [] => .ok []
  | q :: qs => do
    let here ← s.pieces x q.size q.addrs
    let rest ← s.readParts x qs
    pure (here.flatten ++ rest)

/-! ### CHECKPOINT -/

/-- CHECKPOINT: between steps, the checkpoint is written at the positions of a descriptor; 0x0105 where they are too few (R406, R576). -/
def actCheckpoint (p ctx dest : Nat) (s : State) : Taken :=
  s.onQuiet p ctx fun x => s.onPens p ctx x fun s =>
    match s.letterDesc dest with
    | .error e => Taken.refuse s e
    | .ok d =>
      match s.readParts x x.parts with
      | .error e => s.refuseCause e
      | .ok data =>
        let bytes := maskBytes 0 (s.ckHead p x ++ data)
        if d.count < bytes.length then Taken.refuse s 0x0105
        else match s.putDesc x.plain d 0 bytes with
          | .error e => s.refuseCause e
          | .ok s => Taken.ok (s.hasRead x x.parcel.bankedSpans) (leBytes 8 x.counter ++ leBytes 8 bytes.length)

def execCheckpoint (p : Nat) (h : LetterHead) (ctx dest : Nat) (s : State) : Out :=
  onUnit (p < 16) (s.takeLetter p 0x0043 9 h (actCheckpoint p ctx dest))

/-! ### RESTORE -/

/-- Take n bytes off a list. -/
def takeBytes (n : Nat) (bs : List Byte) : List Byte × List Byte := (bs.take n, bs.drop n)

/-- A layer state from its bytes, all in bank 0; what is left. -/
def LayerSt.fromBytes (t : LayerSt) (bs : List Byte) : LayerSt × List Byte :=
  let n := t.col0.length
  let f := fieldAt bs
  let mu := w32 (f 10 4)
  let col := (chunksOf 4 n (bs.drop 14)).map fun c => w32 (leVal c)
  let es := chunksOf 7 t.blocks.length (bs.drop (14 + 4 * n))
  let blocks := (t.blocks.zip es).map fun be => ⟨fieldAt be.2 1 6, fieldAt be.2 0 1 == 1, be.1.owned, false, false⟩
  ({ t with flip := false, lbank := false, cpend := false, zrun := f 0 2, last := f 2 8, mu0 := mu, mu1 := mu
            col0 := col, col1 := col, silent := false, blocks := blocks }, bs.drop (14 + 4 * n + 7 * t.blocks.length))

def layersFromBytes : List LayerSt → List Byte → List LayerSt × List Byte
  | [], bs => ([], bs)
  | t :: ts, bs =>
    let (u, bs) := t.fromBytes bs
    let (us, bs) := layersFromBytes ts bs
    (u :: us, bs)

/-- Histories of the parcel's classes from their bytes. -/
def historiesFrom : List Nat → List Byte → List (Nat × List W32)
  | [], _ => []
  | n :: ns, bs =>
    (n, ((chunksOf 4 64 (bs.drop 1)).map fun c => w32 (leVal c)).take (fieldAt bs 0 1 % 128)) :: historiesFrom ns (bs.drop 257)

/-- Classes in probe, of those whose histories the bytes hold. -/
def probesFrom : List Nat → List Byte → List Nat
  | [], _ => []
  | n :: ns, bs => (if 128 ≤ fieldAt bs 0 1 then [n] else []) ++ probesFrom ns (bs.drop 257)

/-- Cut bytes into the pieces of a part at its addresses in bank 0. -/
def Part.placed (q : Part) (bs : List Byte) : List (Nat × List Byte) := q.addrs.zip (chunksOf q.size q.addrs.length bs)

def partsPlaced : List Part → List Byte → List (Nat × List Byte)
  | [], _ => []
  | q :: qs, bs => q.placed bs ++ partsPlaced qs (bs.drop q.bytes)

/-- The histories of a paddock with those of some classes replaced. -/
def Paddock.setHistories (d : Paddock) (hs : List (Nat × List W32)) : Paddock :=
  { d with hist := hs ++ d.hist.filter fun e => !(hs.any fun h => h.1 == e.1) }

/-- The classes in probe of a paddock, with those of some classes replaced (R231). -/
def Paddock.setProbe (d : Paddock) (classes probe : List Nat) : Paddock :=
  { d with probe := probe ++ d.probe.filter fun n => !classes.contains n }

/-- SILENT_LAYER has been posted for a run of zeros that has reached the limit (R405). -/
def Parcel.markSilent (x : Parcel) (t : LayerSt) : LayerSt :=
  { t with silent := decide (0 < x.silentLimit t.layer ∧ x.silentLimit t.layer ≤ t.zrun) }

/-- A context as a checkpoint leaves it; a serving job that has halted takes no request until a new PARCEL_LOAD (R507). -/
def Ctx.restored (x : Ctx) (layers : List LayerSt) (step : Nat) (cPrev : W32) (now : Nat) : Ctx :=
  { (if x.parcel.kind = 1 ∧ x.state = .halted then x else { x.enter .idle now with status := 0 }) with
    counter := step
    tr := { x.tr with layers := layers.map x.parcel.markSilent, cPrev := cPrev, split := none, coll := Coll.none, verdict := none }
    sv := { x.sv with heads := [] } }

/-- Restore a context from the checkpoint at a descriptor: the parts go to bank 0, BANK and LBANK become 0 (R406). 0x0502 where it does not match the parcel's layers. -/
def State.restoreHere (s : State) (p ctx : Nat) (x : Ctx) (d : Desc) : Except Nat (State × Nat) := do
  let head := (s.ckHead p x).length
  let size := head + (x.parts.map Part.bytes).sum
  if d.count < size then throw 0x0502
  let raw ← s.descBytes x.plain d size
  let bs := maskBytes 0 raw
  let tie := x.tie
  if bs.take tie.length != tie then throw 0x0502
  let step := fieldAt bs tie.length 8
  let (layers, rest) := layersFromBytes x.tr.layers (bs.drop (tie.length + 12))
  let classes := x.parcel.scaleRecs.map (·.cls)
  let s ← s.putPieces x.plain (partsPlaced x.parts (bs.drop head))
  let now := s.now p
  let s := s.modPd p fun e => ((e.setHistories (historiesFrom classes rest)).setProbe classes (probesFrom classes rest)).modCtx ctx fun x => x.restored layers step (w32 (fieldAt bs (tie.length + 8) 4)) now
  pure (s, step)

/-- The same wherever the context's pen contents lie (R406, R538). -/
def State.restoreFrom (s : State) (p ctx : Nat) (x : Ctx) (d : Desc) : Except Nat (State × Nat) := do
  let r ← (s.lendPens x).restoreHere p ctx x d
  pure (r.1.returnPens s p ctx x, r.2)

/-- RESTORE (R406, R576, R577). -/
def actRestore (p ctx src : Nat) (s : State) : Taken :=
  s.onQuiet p ctx fun x =>
    match s.letterDesc src with
    | .error e => Taken.refuse s e
    | .ok d =>
      match s.restoreFrom p ctx x d with
      | .error e => s.refuseCause e
      | .ok (s, step) => Taken.ok s (leBytes 8 step)

def execRestore (p : Nat) (h : LetterHead) (ctx src : Nat) (s : State) : Out :=
  onUnit (p < 16) (s.takeLetter p 0x0044 9 h (actRestore p ctx src))

/-! ### INITIALISE (R373, R576) -/

/-- The number of elements of a part, its format's size, and the address of an element without a bank; none where the layer has no such part. -/
def Parcel.initPart (x : Parcel) (l : LayerRec) (part : Nat) : Option (Nat × Nat × (Nat → Nat)) :=
  let st := x.striped l
  let fac := x.factored l
  match part with
  | 0 => some (l.elems, 2, fun e => l.hiBase + l.elemOff st 2 e)
  | 1 => if l.frozen then none else some (l.elems, 2, fun e => l.rBase + l.elemOff st 2 e)
  | 2 => if l.frozen then none else some (l.elems, 4, fun e => l.s1Base + l.elemOff st 4 e)
  | 3 => if l.frozen || fac then none else some (l.elems, 4, fun e => l.s2Base + l.elemOff st 4 e)
  | 4 => if l.frozen || !fac then none else some (l.rows, 4, fun e => l.rowBase + 4 * e)
  | _ => none

/-- The column statistic in the committed bank, with its mean μ (R371; log 76). -/
def LayerSt.initColumns (t : LayerSt) (col : List W32) : LayerSt :=
  let mu := (Wide.round32 (Wide.divCount (Wide.tiledSum (col.map Wide.of32)) col.length)).v
  if t.lbank then { t with col1 := col, mu1 := mu } else { t with col0 := col, mu0 := mu }

/-- Elements of a source descriptor as bytes of a given size. -/
def State.initValues (s : State) (x : Ctx) (d : Desc) (size n : Nat) : Except Nat (List (List Byte)) := do
  let vs ← (List.range n).mapM fun (i : Nat) => s.loadBits x (if size = 2 then 0x02 else 0x22) d i
  pure (vs.map fun v => leBytes size (v.getD 0))

/-- INITIALISE writes one part of a layer into its committed bank; a layer or part that is not there gives 0x0101 (R373, R573; log 76). -/
def actInitialise (p ctx layer part src : Nat) (s : State) : Taken :=
  s.onQuiet p ctx fun x => s.onPens p ctx x fun s =>
    match x.parcel.layer? layer with
    | none => Taken.refuse s 0x0101
    | some l =>
      match s.letterDesc src with
      | .error e => Taken.refuse s e
      | .ok d =>
        if part = 5 then
          if l.frozen || !x.parcel.factored l || decide (d.count < l.cols) then Taken.refuse s 0x0101
          else match s.initValues x d 4 l.cols with
            | .error e => s.refuseCause e
            | .ok vs => Taken.ok (s.modCtx p ctx fun x => x.modLayer layer fun t => t.initColumns (vs.map fun b => w32 (leVal b))) []
        else match x.parcel.initPart l part with
          | none => Taken.refuse s 0x0101
          | some (n, size, addr) =>
            if d.count < n then Taken.refuse s 0x0101
            else match s.initValues x d size n with
              | .error e => s.refuseCause e
              | .ok vs =>
                match s.putPieces x ((vs.zipIdx).map fun ve => (addr ve.2, ve.1)) with
                | .error e => s.refuseCause e
                | .ok s => Taken.ok s []

def execInitialise (p : Nat) (h : LetterHead) (ctx layer part src : Nat) (s : State) : Out :=
  onUnit (p < 16) (s.takeLetter p 0x0045 12 h (actInitialise p ctx layer part src))

end Sys2Proof.Machine
end

