-- ==== Sys2Proof/Machine/Epoch.lean ====
section
/-!
DEFINITION. Membership epochs (R468-R473): MEMBERSHIP, the EPOCH round on tree 0 and
its timeout.
-/

namespace Sys2Proof.Machine

/-! ### The test of R470 -/

/-- Members of a table whose die serial appears in another. -/
def presentOf (old new : List Role) : Nat := (old.filter fun r => new.any fun q => q.serial == r.serial).length

/-- The member with the lowest role postcode appears in the new table. -/
def lowPresent (old new : List Role) : Bool :=
  let low := (old.map (·.role)).foldl min ((old.map (·.role)).headD 0)
  old.any fun r => r.role == low && new.any fun q => q.serial == r.serial

/-- accept(old, new) of R470. -/
def acceptEpoch (quorum : Bool) (oldEpoch : Nat) (accepted : List Nat) (old : List Role) (epoch : Nat) (new : List Role) : Bool :=
  let n := old.length
  let here := presentOf old new
  if epoch ≠ oldEpoch + 1 ∨ accepted.contains epoch then false
  else if !quorum then here == n
  else decide (n < 2 * here) || (2 * here == n && lowPresent old new)

/-- The parcels of a job: the contexts of the paddock that share a collection tag (log 77). -/
def Paddock.jobCtxs (d : Paddock) (tag : Nat) : List (Nat × Ctx) := d.withCtx fun x => x.parcel.hasTag tag

/-- The epoch of a job and its role table: those of its parcel with the latest epoch. -/
def Paddock.jobEpoch (d : Paddock) (tag : Nat) (x : Ctx) : Nat × List Role :=
  (d.jobCtxs tag).foldl (fun (a : Nat × List Role) (cx : Nat × Ctx) => if a.1 < cx.2.tr.epoch then (cx.2.tr.epoch, cx.2.tr.roles) else a)
    (x.tr.epoch, x.tr.roles)

/-! ### The round (R471) -/

/-- This module's EPOCH record. -/
def Proposal.record (q : Proposal) : EpochRec := ⟨q.epoch, sha256 (rolesBytes q.roles), q.step, false⟩

/-- Two EPOCH records combined: every field is compared. -/
def epochJoin (a b : EpochRec) : EpochRec :=
  ⟨min a.epoch b.epoch, lowerBytes a.roleDigest b.roleDigest, min a.step b.step,
    a.differs || b.differs || a.epoch != b.epoch || a.roleDigest != b.roleDigest || a.step != b.step⟩

/-- Cells of an EPOCH frame: its record fits one frame. -/
def epochCells : Nat := recCells 48

/-- The epoch takes effect: epoch and roles, then the checkpoint; where the restore fails the job stays halted with its cause (R472; log 78). -/
def State.epochInEffect (s : State) (p c : Nat) (q : Proposal) : State :=
  let s := s.dropExpiries fun e => e.paddock == p && e.ctx == c && e.kind == .agree
  let s := s.modCtx p c fun x => x.modTr fun t => { t with epoch := q.epoch, roles := q.roles, proposal := none, epochIn := [] }
  match s.ctx p c with
  | none => s
  | some x =>
    let r : Except Nat State := match s.restoreFrom p c x q.checkpoint with
      | .error e => .error e
      | .ok (s', step) => if step = q.step then .ok s' else .error 0x0502
    match r with
    | .ok s => s.reply p 0x0080 ⟨q.tag, q.quiet⟩ 0 (outcomePayload 0)
    | .error e =>
      let s := if e / 65536 = 0 then s else s.gaveBad (e / 65536 - 1)
      (s.haltFailed p c (e % 65536)).reply p 0x0080 ⟨q.tag, q.quiet⟩ (e % 65536) (outcomePayload 0)

/-- The agreed record: it goes on down the tree; without a difference the epoch takes effect, else it is refused. -/
def State.actEpoch (s : State) (p c : Nat) (q : Proposal) (r : EpochRec) : State :=
  match s.ctx p c with
  | none => s
  | some x =>
    let s := match x.parcel.tree? 0, x.parcel.collection with
      | some t, some col => s.sendDown t epochCells col.tag (.epoch r)
      | _, _ => s
    if r.differs || r != q.record then s.refuseEpoch p c else s.epochInEffect p c q

/-- Once this module and every child have given a record, the combined one goes up, or is agreed at the root. -/
def State.epochOn (s : State) (p c : Nat) : State :=
  match s.ctx p c with
  | none => s
  | some x =>
    match x.tr.proposal, x.parcel.tree? 0, x.parcel.collection with
    | some q, some t, some col =>
      if q.sent || !(t.downPorts.all fun port => x.tr.epochIn.any (·.1 == port)) then s
      else
        let all := ((x.tr.epochIn.filter fun e => t.downPorts.contains e.1).map (·.2)).foldl epochJoin q.record
        if t.isRoot then s.actEpoch p c q all
        else (s.sendFrame t.upPort epochCells 0 col.tag (.epoch all)).modCtx p c fun x => x.modTr fun t => { t with proposal := some { q with sent := true } }
    | _, _, _ => s

/-- EPOCH frames on tree 0: from a child a record of its subtree, from the parent the agreed record. -/
def epochFrameIn (port : Nat) (f : FrameHead) (r : EpochRec) (s : State) : State :=
  if s.frameWaits f.tag then s
  else s.takeFrame port f 1 pathStage fun p c x s =>
    match x.parcel.tree? 0 with
    | none => s.dropFrame port
    | some t =>
      if f.tree ≠ 0 then s.dropFrame port
      else if t.downPorts.contains port then
        if x.tr.epochIn.any (·.1 == port) then s.dropFrame port
        else (s.modCtx p c fun x => x.modTr fun t => { t with epochIn := t.epochIn ++ [(port, r)] }).epochOn p c
      else match x.tr.proposal with
        | some q => if t.upPort = port ∧ q.sent then s.actEpoch p c q r else s.dropFrame port
        | none => s.dropFrame port

def execEpoch (port : Nat) (f : FrameHead) (r : EpochRec) (s : State) : Out := onUnit (port < 32) (epochFrameIn port f r s)

/-- AGREE_TIMEOUT: no agreed record within agree_timeout (R471). -/
def agreeTimesOut (p c : Nat) (s : State) : State :=
  match s.takeExpiry p c .agree with
  | none => s
  | some s => s.refuseEpoch p c

def execAgreeTimeout (p ctx : Nat) (s : State) : Out := onUnit (p < 16 ∧ ctx < 8) (agreeTimesOut p ctx s)

/-! ### MEMBERSHIP (R469, R470) -/

/-- The parcel's collection and tree records cover exactly a table (R469). -/
def Parcel.covers (x : Parcel) (roles : List Role) : Bool :=
  x.members == roles.length && (roles.any fun r => r.role == x.role) &&
    x.treeRecs.all fun t => ((if t.isRoot then [] else [t.upPeer]) ++ t.downPeer.map (·.2)).all fun n => roles.any fun r => r.role == n

/-- The role table at a descriptor (R468). -/
def State.rolesAt (s : State) (x : Ctx) (d : Desc) : Except Nat (List Role) := do
  let bs ← s.descBytes x.plain d (d.count / 16 * 16)
  pure (rolesOf bs)

def refuseMembership (s : State) (status outcome : Nat) : Taken := ⟨s, some (status, outcomePayload outcome), false⟩

/-- A proposal that passes the test is put to the round. -/
def State.propose (s : State) (p c : Nat) (o : Owed) (epoch : Nat) (roles : List Role) (ck : Desc) (step agree : Nat) : State :=
  let s := s.modCtx p c fun x => x.modTr fun t =>
    { t with accepted := epoch :: t.accepted, proposal := some ⟨o.tag, o.quiet, epoch, roles, ck, step, false⟩ }
  (s.addExpiry p c .agree agree).epochOn p c

/-- MEMBERSHIP: the job is IDLE or HALTED, the parcel covers the new table, and the test of R470 passes. -/
def actMembership (p : Nat) (h : LetterHead) (epoch roles parcel checkpoint ckStep agree : Nat) (s : State) : Taken :=
  s.onQuiet p parcel fun x =>
    match x.parcel.collection with
    | none => refuseMembership s 0x0606 1
    | some col =>
      let job := (s.pd p).jobCtxs col.tag
      if !(job.all fun cx => cx.2.quiet) then Taken.refuse s 0x0003
      else match s.letterDesc roles, s.letterDesc checkpoint with
        | .error e, _ => Taken.refuse s e
        | _, .error e => Taken.refuse s e
        | .ok rd, .ok ck =>
          match s.rolesAt x rd with
          | .error e => s.refuseCause e
          | .ok new =>
            if rd.count % 16 != 0 || new.isEmpty || !rolesSorted (new.map (·.role)) then Taken.refuse s 0x0101
            else
              let old := (s.pd p).jobEpoch col.tag x
              let accepted := job.flatMap fun cx => cx.2.tr.accepted
              if !x.parcel.covers new || !acceptEpoch (bitOf s.grant 15) old.1 accepted old.2 epoch new then refuseMembership s 0x0606 1
              else Taken.later (s.propose p parcel (owedOf h) epoch new ck ckStep agree)

def execMembership (p : Nat) (h : LetterHead) (epoch roles parcel checkpoint ckStep agreeTimeout : Nat) (s : State) : Out :=
  onUnit (p < 16) (s.takeLetter p 0x0080 36 h (actMembership p h epoch roles parcel checkpoint ckStep agreeTimeout))

end Sys2Proof.Machine
end

