-- ==== Sys2Proof/Machine/Grooms.lean ====
section
/-!
DEFINITION. The groom's instructions as commands (R159): G.X issues the next
instruction of the program that a stable runs, where that instruction is G.X.
-/

namespace Sys2Proof.Machine

/-- The groom may issue: no pre-emption waits for it. An access that waits stands at its event boundary between two commands (R182). -/
def State.canIssue (s : State) (o : Kop) : Bool := o.canIssue (s.stable o.stable) && !s.preempts o.run.paddock o.run.ctx

/-- Issue the next instruction if its opcode is `op`; when the program has ended its share may end (R150, R151, R174). -/
def issueGroom (op : Nat) (f : Kop → Nat → State → State) (n : Nat) (s : State) : State :=
  if !s.running then s
  else
    let s := s.startShare n
    match s.kop? n with
    | none => s
    | some o =>
      if !s.canIssue o then s
      else match s.groomWord o (s.groom n).pc with
        | .error e => s.haltJob o.run.paddock o.run.ctx e
        | .ok w =>
          if GW.op w ≠ op then s
          else
            let s := f o w s
            match s.kop? n with
            | some o => (s.groomEnds o).shareEnds n
            | none => s

/-- An instruction that reads and writes the groom alone. -/
def onGroom (f : Nat → Groom → Groom) (o : Kop) (w : Nat) (s : State) : State := s.modGroom o.stable (f w)

def gLdIssues (n : Nat) (s : State) : State := issueGroom 0x01 (fun o w s => s.gLoad o w) n s
def execGLd (stable : Nat) (s : State) : Out := onUnit (stable < 72) (gLdIssues stable s)

def gStIssues (n : Nat) (s : State) : State := issueGroom 0x02 (fun o w s => s.gStore o w) n s
def execGSt (stable : Nat) (s : State) : Out := onUnit (stable < 72) (gStIssues stable s)

def gGathIssues (n : Nat) (s : State) : State := issueGroom 0x05 (fun o w s => s.gGather o w) n s
def execGGath (stable : Nat) (s : State) : Out := onUnit (stable < 72) (gGathIssues stable s)

def gScatIssues (n : Nat) (s : State) : State := issueGroom 0x06 (fun o w s => s.gScatter o w) n s
def execGScat (stable : Nat) (s : State) : Out := onUnit (stable < 72) (gScatIssues stable s)

def gRandIssues (n : Nat) (s : State) : State := issueGroom 0x08 (fun o w s => s.modGroom o.stable (Groom.rand o w)) n s
def execGRand (stable : Nat) (s : State) : Out := onUnit (stable < 72) (gRandIssues stable s)

def gLdkIssues (n : Nat) (s : State) : State := issueGroom 0x03 (onGroom (fun w g => Groom.ldk w g)) n s
def execGLdk (stable : Nat) (s : State) : Out := onUnit (stable < 72) (gLdkIssues stable s)

def gMovIssues (n : Nat) (s : State) : State := issueGroom 0x04 (onGroom (fun w g => Groom.elementwise (un El.copy) .rne w g)) n s
def execGMov (stable : Nat) (s : State) : Out := onUnit (stable < 72) (gMovIssues stable s)

def gSelIssues (n : Nat) (s : State) : State := issueGroom 0x07 (onGroom (fun w g => Groom.elementwise (tern El.sel) .rne w g)) n s
def execGSel (stable : Nat) (s : State) : Out := onUnit (stable < 72) (gSelIssues stable s)

def gAddIssues (n : Nat) (s : State) : State := issueGroom 0x10 (onGroom (fun w g => Groom.elementwise (bin (El.add (addMode w))) (GW.rnd w) w g)) n s
def execGAdd (stable : Nat) (s : State) : Out := onUnit (stable < 72) (gAddIssues stable s)

def gSubIssues (n : Nat) (s : State) : State := issueGroom 0x11 (onGroom (fun w g => Groom.elementwise (bin (El.sub (addMode w))) (GW.rnd w) w g)) n s
def execGSub (stable : Nat) (s : State) : Out := onUnit (stable < 72) (gSubIssues stable s)

def gMulIssues (n : Nat) (s : State) : State := issueGroom 0x12 (onGroom (fun w g => Groom.elementwise (bin El.mul) (GW.rnd w) w g)) n s
def execGMul (stable : Nat) (s : State) : Out := onUnit (stable < 72) (gMulIssues stable s)

def gFmaIssues (n : Nat) (s : State) : State := issueGroom 0x13 (onGroom (fun w g => Groom.elementwise (tern (El.fma (addMode w) false false)) (GW.rnd w) w g)) n s
def execGFma (stable : Nat) (s : State) : Out := onUnit (stable < 72) (gFmaIssues stable s)

def gFmsIssues (n : Nat) (s : State) : State := issueGroom 0x14 (onGroom (fun w g => Groom.elementwise (tern (El.fma (addMode w) false true)) (GW.rnd w) w g)) n s
def execGFms (stable : Nat) (s : State) : Out := onUnit (stable < 72) (gFmsIssues stable s)

def gFnmaIssues (n : Nat) (s : State) : State := issueGroom 0x15 (onGroom (fun w g => Groom.elementwise (tern (El.fma (addMode w) true false)) (GW.rnd w) w g)) n s
def execGFnma (stable : Nat) (s : State) : Out := onUnit (stable < 72) (gFnmaIssues stable s)

def gFnmsIssues (n : Nat) (s : State) : State := issueGroom 0x16 (onGroom (fun w g => Groom.elementwise (tern (El.fma (addMode w) true true)) (GW.rnd w) w g)) n s
def execGFnms (stable : Nat) (s : State) : Out := onUnit (stable < 72) (gFnmsIssues stable s)

def gMaxIssues (n : Nat) (s : State) : State := issueGroom 0x17 (onGroom (fun w g => Groom.elementwise (bin El.max) .rne w g)) n s
def execGMax (stable : Nat) (s : State) : Out := onUnit (stable < 72) (gMaxIssues stable s)

def gMinIssues (n : Nat) (s : State) : State := issueGroom 0x18 (onGroom (fun w g => Groom.elementwise (bin El.min) .rne w g)) n s
def execGMin (stable : Nat) (s : State) : Out := onUnit (stable < 72) (gMinIssues stable s)

def gAbsIssues (n : Nat) (s : State) : State := issueGroom 0x19 (onGroom (fun w g => Groom.elementwise (un El.abs) .rne w g)) n s
def execGAbs (stable : Nat) (s : State) : Out := onUnit (stable < 72) (gAbsIssues stable s)

def gNegIssues (n : Nat) (s : State) : State := issueGroom 0x1A (onGroom (fun w g => Groom.elementwise (un El.neg) .rne w g)) n s
def execGNeg (stable : Nat) (s : State) : Out := onUnit (stable < 72) (gNegIssues stable s)

def gCmpIssues (n : Nat) (s : State) : State := issueGroom 0x1B (onGroom (fun w g => Groom.elementwise (bin (El.cmp (GW.cond w))) .rne w g)) n s
def execGCmp (stable : Nat) (s : State) : Out := onUnit (stable < 72) (gCmpIssues stable s)

def gRcpIssues (n : Nat) (s : State) : State := issueGroom 0x20 (onGroom (fun w g => Groom.elementwise (un El.rcp) .rne w g)) n s
def execGRcp (stable : Nat) (s : State) : Out := onUnit (stable < 72) (gRcpIssues stable s)

def gDivIssues (n : Nat) (s : State) : State := issueGroom 0x21 (onGroom (fun w g => Groom.elementwise (bin El.div) (GW.rnd w) w g)) n s
def execGDiv (stable : Nat) (s : State) : Out := onUnit (stable < 72) (gDivIssues stable s)

def gSqrtIssues (n : Nat) (s : State) : State := issueGroom 0x22 (onGroom (fun w g => Groom.elementwise (un El.sqrt) (GW.rnd w) w g)) n s
def execGSqrt (stable : Nat) (s : State) : Out := onUnit (stable < 72) (gSqrtIssues stable s)

def gRsqrtIssues (n : Nat) (s : State) : State := issueGroom 0x23 (onGroom (fun w g => Groom.elementwise (un El.rsqrt) .rne w g)) n s
def execGRsqrt (stable : Nat) (s : State) : Out := onUnit (stable < 72) (gRsqrtIssues stable s)

def gExpIssues (n : Nat) (s : State) : State := issueGroom 0x28 (onGroom (fun w g => Groom.elementwise (un El.exp) .rne w g)) n s
def execGExp (stable : Nat) (s : State) : Out := onUnit (stable < 72) (gExpIssues stable s)

def gLogIssues (n : Nat) (s : State) : State := issueGroom 0x29 (onGroom (fun w g => Groom.elementwise (un El.ln) .rne w g)) n s
def execGLog (stable : Nat) (s : State) : Out := onUnit (stable < 72) (gLogIssues stable s)

def gTanhIssues (n : Nat) (s : State) : State := issueGroom 0x2A (onGroom (fun w g => Groom.elementwise (un El.tanh) .rne w g)) n s
def execGTanh (stable : Nat) (s : State) : Out := onUnit (stable < 72) (gTanhIssues stable s)

def gSigIssues (n : Nat) (s : State) : State := issueGroom 0x2B (onGroom (fun w g => Groom.elementwise (un El.sig) .rne w g)) n s
def execGSig (stable : Nat) (s : State) : Out := onUnit (stable < 72) (gSigIssues stable s)

def gErfIssues (n : Nat) (s : State) : State := issueGroom 0x2C (onGroom (fun w g => Groom.elementwise (un El.erf) .rne w g)) n s
def execGErf (stable : Nat) (s : State) : Out := onUnit (stable < 72) (gErfIssues stable s)

def gRsumIssues (n : Nat) (s : State) : State := issueGroom 0x30 (onGroom (fun w g => Groom.reduction true true El.add w g)) n s
def execGRsum (stable : Nat) (s : State) : Out := onUnit (stable < 72) (gRsumIssues stable s)

def gCsumIssues (n : Nat) (s : State) : State := issueGroom 0x31 (onGroom (fun w g => Groom.reduction false true El.add w g)) n s
def execGCsum (stable : Nat) (s : State) : Out := onUnit (stable < 72) (gCsumIssues stable s)

def gRmaxIssues (n : Nat) (s : State) : State := issueGroom 0x32 (onGroom (fun w g => Groom.reduction true false (fun _ => El.max) w g)) n s
def execGRmax (stable : Nat) (s : State) : Out := onUnit (stable < 72) (gRmaxIssues stable s)

def gCmaxIssues (n : Nat) (s : State) : State := issueGroom 0x33 (onGroom (fun w g => Groom.reduction false false (fun _ => El.max) w g)) n s
def execGCmax (stable : Nat) (s : State) : Out := onUnit (stable < 72) (gCmaxIssues stable s)

def gRminIssues (n : Nat) (s : State) : State := issueGroom 0x34 (onGroom (fun w g => Groom.reduction true false (fun _ => El.min) w g)) n s
def execGRmin (stable : Nat) (s : State) : Out := onUnit (stable < 72) (gRminIssues stable s)

def gCminIssues (n : Nat) (s : State) : State := issueGroom 0x35 (onGroom (fun w g => Groom.reduction false false (fun _ => El.min) w g)) n s
def execGCmin (stable : Nat) (s : State) : Out := onUnit (stable < 72) (gCminIssues stable s)

def gRepIssues (n : Nat) (s : State) : State := issueGroom 0x3C (onGroom (fun w g => Groom.rep w g)) n s
def execGRep (stable : Nat) (s : State) : Out := onUnit (stable < 72) (gRepIssues stable s)

def gScalIssues (n : Nat) (s : State) : State := issueGroom 0x3D (onGroom (fun w g => Groom.scal w g)) n s
def execGScal (stable : Nat) (s : State) : Out := onUnit (stable < 72) (gScalIssues stable s)

end Sys2Proof.Machine
end

