-- ==== Sys2Proof/Machine/Halter.lean ====
section
/-!
DEFINITION. Halter and thermal freeze (R620, R625-R635), the governor (R52-R56,
R598, R679, R680), temperature (R619, R621) and coolant (R623).
-/

namespace Sys2Proof.Machine

/-! ### The freeze record at the cut (R634) -/

/-- Contexts whose table switch is between steps 2 and 3 (R548, R634). -/
def Paddock.switchMask (d : Paddock) : Nat :=
  (List.range 8).foldl (fun m c => match d.ctx c with
    | some x => (match x.rebuild with | some r => if r.raised then m + 2 ^ c else m | none => m)
    | none => m) 0

/-- Entry of a paddock: the running context's step (R634). -/
def Paddock.freezeEntry (d : Paddock) : FreezeEntry :=
  match d.running.bind d.ctx with
  | none => ⟨d.state.code, 0xFF, 0, 0, 0, 0, 0xFFFFFFFF, d.switchMask⟩
  | some x =>
    ⟨d.state.code, d.running.getD 0xFF, x.phaseCode, x.tr.attempt, x.tr.micro,
      if x.parcel.kind = 1 then x.sv.step else x.counter, 0xFFFFFFFF, d.switchMask⟩

/-- Mask of the ports that are UP or SPARED. -/
def State.portsHeld (s : State) : Nat :=
  (List.range 32).foldl (fun m p => if (s.port p).state = .up ∨ (s.port p).state = .spared then m + 2 ^ p else m) 0

def State.freezeRecord (s : State) (reason count : Nat) : FreezeRec :=
  ⟨reason, count, s.now16, 0, (s.die 0).vcore, (s.die 1).vcore, (s.die 0).tj, (s.die 1).tj, s.portsHeld, 0,
    s.pads.map Paddock.freezeEntry⟩

/-- The cut of a freeze: the record of this moment, with the freeze counted (R628, R634). -/
def State.cutFor (s : State) (reason : Nat) : State :=
  let r := s.freezeRecord reason (s.freeze.count + 1)
  { s with freeze := { s.freeze with count := s.freeze.count + 1, cut := s.now16, heldFrom := if s.frozen then s.freeze.heldFrom else s.now16, record := some r } }

/-- A halter begins (R626 steps 1 to 5): blocks stop between events, active stables ramp down. -/
def State.enterHalter (s : State) : State :=
  let s := s.cutFor 1
  { s with
    freeze := { s.freeze with halter := true, acked := false, halterCut := s.now16 }
    stables := s.stables.map Stable.gate }

/-- HALTER_N, filtered, has been low for 100 ns (R625): ignored before phase 7 and while MRESET_N is low, but remembered for phase 7. -/
def halterLow (s : State) : State :=
  let s := { s with freeze := { s.freeze with pinLow := true } }
  if s.start.phase = 7 ∧ s.power.mreset ∧ !s.freeze.halter then s.enterHalter else s

def execHalterNLow (s : State) : Out := .next (halterLow s)

/-- Every block has acknowledged: HEALTH.HALTER, the record, the window (R626 step 6). -/
def execHalterAcknowledged (entryNs : Nat) (s : State) : Out :=
  .next (if s.freeze.halter && !s.freeze.acked then
    { s with freeze := { s.freeze with
      acked := true, record := s.freeze.record.map fun r => { r with entry := entryNs } } } else s)

def McReq.later (d : Nat) (r : McReq) : McReq := { r with since := r.since + d, again := r.again + d }
def Port.later (d : Nat) (x : Port) : Port := { x with since := x.since + d, heardAt := x.heardAt + d, windowAt := x.windowAt + d }
def Paddock.later (n : Nat) (d : Paddock) : Paddock := { d with ranSince := d.ranSince + n }

/-- Every pending expiry moves later, of slices, of accesses over MCL and of links too (R93). -/
def State.moveExpiries (s : State) (d : Nat) : State :=
  { s with
    expiries := s.expiries.map fun e => { e with endAt := e.endAt + d }
    pads := s.pads.map (Paddock.later d)
    ports := s.ports.map (Port.later d)
    mcl := { s.mcl with requests := s.mcl.requests.map (McReq.later d), heardAt := s.mcl.heardAt + d, windowAt := s.mcl.windowAt + d }
    bridge := { s.bridge with windowAt := (s.bridge.windowAt.1 + d, s.bridge.windowAt.2 + d) } }

def Ctx.holdIntegral (d : Nat) (x : Ctx) : Ctx := { x with pigeons := x.pigeons.map fun g => { g with since := g.since + d } }
def Paddock.holdIntegrals (n : Nat) (d : Paddock) : Paddock := { d with ctxs := d.ctxs.map (Option.map (Ctx.holdIntegral n)) }

/-- The occupancy integrals did not advance while the module was frozen (R329). -/
def State.holdIntegrals (s : State) (n : Nat) : State := { s with pads := s.pads.map (Paddock.holdIntegrals n) }

/-- Fill in the duration of the last record where it is of this reason (R634). -/
def State.fillDuration (s : State) (reason d : Nat) : State :=
  { s with freeze := { s.freeze with record := s.freeze.record.map fun r =>
    if r.reason = reason then { r with duration := d } else r } }

/-- A freeze has ended: once nothing freezes the module, the integrals run on from here and deferred letters are posted (R329, R635). -/
def State.thaw (s : State) : State :=
  if s.frozen then s else
  let s := s.holdIntegrals (s.now16 - s.freeze.heldFrom)
  (List.range 16).foldl (fun s p => s.flushRing p) s.undefer

/-- THERMAL (R635). -/
def State.thermal (s : State) (d aux : Nat) : State :=
  s.postShared (event 0x00E2 0 d 0xFF aux (unsignedOf 32 (s.die d).tj) [(s.die d).vcore])

/-- A thermal freeze ends when the hotter die is below 95 C (R619, R620); one that falls under a halter ends only when both have ended. -/
def State.leaveThermal (s : State) (d : Nat) : State :=
  let len := s.now16 - s.freeze.cut
  let s := (s.thermal d 3).fillDuration 2 len
  { s with freeze := { s.freeze with thermal := false } }

/-- Both dies are below 95 C. -/
def State.cool (s : State) : Bool := decide ((s.die 0).tj < 380 ∧ (s.die 1).tj < 380)

/-- HALTER_N, filtered, has been high for 100 ns: the halter ends (R629, R93). -/
def halterHigh (s : State) : State :=
  let s := { s with freeze := { s.freeze with pinLow := false } }
  if !s.freeze.halter then s
  else
    let d := s.now16 - s.freeze.halterCut
    let n := s.freeze.count
    let s := { s with freeze := { s.freeze with halter := false, acked := false } }
    let s := (s.moveExpiries d).fillDuration 1 d
    let s := if s.freeze.thermal && s.cool then s.leaveThermal (if (s.die 0).tj < (s.die 1).tj then 1 else 0) else s
    s.thaw.postShared (event 0x00E4 0 0 0xFF 0 0 [d, n])

def execHalterNHigh (s : State) : Out := .next (halterHigh s)

/-! ### VCTL (R597, R679, R680) -/

/-- CRC-8 with polynomial 0x07 over n bits, most significant first (R679). -/
def crc8 (v : Nat) : Nat → Nat → Nat
  | 0, c => c
  | n + 1, c =>
    let top := (bitOf c 7) != bitOf v n
    let c2 := 2 * c % 256
    crc8 v n (if top then c2 ^^^ 0x07 else c2)

/-- The frame of a set point (R679). -/
def vctlFrame (mv : Nat) : Nat :=
  let hi := 10 * 2 ^ 12 + (mv / 5) % 256 * 2 ^ 4
  hi * 256 + crc8 hi 16 0

/-- Send the frame of a die's set point, on supply D and outside a freeze (R597, R680). -/
def State.sendVctl (s : State) (d : Nat) : State :=
  if s.otp.supplyT || s.frozen then s else s.modDie d fun x => { x with vctl := some (vctlFrame x.vcore) }

/-- Set a die's VCORE; a change sends a frame. -/
def State.setVcore (s : State) (d mv : Nat) : State :=
  if (s.die d).vcore = mv then s else (s.modDie d fun x => { x with vcore := mv }).sendVctl d

def execVctlRepeat (die : Nat) (s : State) : Out :=
  onUnit (die < 2) (if s.start.phase = 0 ∨ s.power.thermtrip then s else s.sendVctl die)

/-! ### The governor (R52-R56, R598) -/

/-- The paddock has stables or sheds on the die (R55). -/
def Paddock.onDie (d : Paddock) (die : Nat) : Bool :=
  (bitsSet 16 d.owned.groups).any (dieOfGroup · == die) ||
    (bitsSet 24 d.owned.packages).any fun k => (if k < 12 then 0 else 1) == die

/-- The paddock on the die whose set cap a voltage breaks, if any (R55). -/
def State.capBreaker (s : State) (die v : Nat) (m : Measured) : Option Nat :=
  (List.range 16).find? fun p =>
    (s.pd p).onDie die && match (s.pd p).cap with
      | some w => decide (w * 1000 < Config.powerAt (nth m.paddockMw p) m.pace (s.die die).vcore v)
      | none => false

/-- The constraint that a voltage breaks: 0 none, 1 module cap, 2 paddock cap, 3 Tj (R55, R581), and the paddock. -/
def State.breaks (s : State) (die v : Nat) (m : Measured) : Nat × Nat :=
  let budget := s.power.moduleCap * 1000 - (s.die (1 - die)).powerMw
  if budget < Config.powerAt m.powerMw m.pace (s.die die).vcore v then (1, 0)
  else match s.capBreaker die v m with
    | some q => (2, q)
    | none => if 400 < Config.tjAt die m.tj m.pace (s.die die).vcore v then (3, 0) else (0, 0)

/-- The search of R55 from vmax down to vmin in steps of 5 mV: target, limiting constraint, its paddock. `c` is the constraint of the voltage above. -/
def State.search (s : State) (die : Nat) (m : Measured) : Nat → Nat → Nat × Nat → Nat × Nat × Nat
  | 0, _, c => (s.cfg.vmin, c.1, c.2)
  | n + 1, v, c =>
    if v < s.cfg.vmin then (s.cfg.vmin, c.1, c.2)
    else
      let b := s.breaks die v m
      if b.1 = 0 then (v, c.1, c.2) else s.search die m n (v - 5) b

/-- OPERATING_POINT at each change of VCORE by 25 mV or more from the last reported value, and at each change of the limiting constraint (R52, R581). -/
def State.reportPoint (s : State) (d c q : Nat) : State :=
  let x := s.die d
  let far := decide (x.reported + 25 ≤ x.vcore) || decide (x.vcore + 25 ≤ x.reported)
  if far || c != x.constraint then
    (s.modDie d fun x => { x with reported := x.vcore, constraint := c, capPaddock := q }).postShared
      (event 0x00C6 0 d 0xFF c x.vcore [x.pace, x.powerMw, q])
  else s

/-- A device ostler serves the die (R48). -/
def State.dieServed (s : State) (d : Nat) : Bool := (s.ostler (s.serving (16 + d))).ok && !s.start.fault

def Paddock.measured (d : Paddock) (mw : Nat) : Paddock := { d with powerMw := mw }

/-- One governor interval of a die: measure, search, drop at once or raise by at most 10 mV (R55). A die whose thermal limit binds stays at 550 mV (R619). -/
def governs (die : Nat) (m : Measured) (s : State) : State :=
  if s.start.phase = 0 ∨ s.frozen ∨ s.power.thermtrip ∨ !s.dieServed die then s
  else
    let s := s.modDie die fun x => { x with pace := m.pace, powerMw := m.powerMw, tj := m.tj }
    let s := { s with
      power := { s.power with moduleMw := (s.die 0).powerMw + (s.die 1).powerMw }
      pads := s.pads.zipIdx.map fun (x : Paddock × Nat) => x.1.measured (nth m.paddockMw x.2) }
    let t := s.search die m 61 s.cfg.vmax (0, 0)
    let now := (s.die die).vcore
    let v := if (s.die die).limited then 550 else if t.1 < now then t.1 else min t.1 (now + 10)
    (s.setVcore die v).reportPoint die (if (s.die die).limited then 3 else t.2.1) t.2.2

def execGovernorInterval (die : Nat) (m : Measured) (s : State) : Out := onUnit (die < 2) (governs die m s)

/-! ### Temperature (R619-R621) -/

/-- The thermal trip: THERMTRIP_N holds until power is removed; on supply T the module removes its rails itself; the next start is cold (R621). -/
def State.trip (s : State) : State :=
  let s := { s with
    power := { s.power with thermtrip := true }
    flash := { s.flash with warm := { s.flash.warm with valid := false } } }
  if s.otp.supplyT then
    let s := s.toReset
    { s with power := { s.power with railsUp := false } }
  else s

/-- 105 C: VCORE to 0.55 V at once and HEALTH.THERM; below 100 C the limit ends (R619). -/
def State.thermLimit (s : State) (d : Nat) : State :=
  let x := s.die d
  if 420 ≤ x.tj then
    let s := s.setVcore d 550
    if x.limited then s else (s.modDie d fun y => { y with limited := true }).thermal d 1
  else if x.tj < 400 ∧ x.limited then (s.modDie d fun y => { y with limited := false }).thermal d 0
  else s

/-- A thermal freeze begins (R619, R620). -/
def State.enterThermal (s : State) (d : Nat) : State :=
  let s := s.cutFor 2
  let s := { s with
    freeze := { s.freeze with thermal := true }
    stables := s.stables.map Stable.gate }
  s.thermal d 2

def samplesTj (die : Nat) (tj : Int) (s : State) : State :=
  if s.start.phase = 0 ∨ s.power.thermtrip then s
  else
    let s := s.modDie die fun x => { x with tj := tj }
    if 480 ≤ tj then s.trip
    else
      let s := s.thermLimit die
      if !s.freeze.thermal then
        (if 440 ≤ tj ∧ (s.die die).vcore ≤ 550 ∧ s.start.phase = 7 then s.enterThermal die else s)
      else if s.cool && !s.freeze.halter then (s.leaveThermal die).thaw
      else s

def execTjSample (die : Nat) (tj : Int) (s : State) : Out := onUnit (die < 2) (samplesTj die tj s)

/-- COOL_OK low for 1 ms trips the module (R619, R621). -/
def execCoolOkLow (s : State) : Out := .next (if s.power.thermtrip || decide (s.start.phase = 0) then s else s.trip)

/-! ### Coolant (R623) -/

/-- 0 within limits, 1 inlet outside 15-40 C, 2 rise above 0.0061 K per watt. -/
def coolantCode (inlet outlet : Int) (mw : Nat) : Nat :=
  if inlet < 60 ∨ 160 < inlet then 1
  else if 244 * (mw : Int) < (outlet - inlet) * 10000000 then 2 else 0

def checksCoolant (inlet outlet : Int) (mw : Nat) (s : State) : State :=
  if s.start.phase = 0 ∨ s.power.thermtrip then s
  else
    let c := coolantCode inlet outlet mw
    let was := s.power.coolant
    let s := { s with power := { s.power with coolant := c, inlet := inlet, outlet := outlet } }
    if c = was then s
    else s.postShared (event 0x00E3 0 0 0xFF c (unsignedOf 32 inlet) [unsignedOf 64 outlet, mw])

def execCoolantCheck (inlet outlet : Int) (powerMw : Nat) (s : State) : Out := .next (checksCoolant inlet outlet powerMw s)

/-! ### Phase 6, FINISH (R304, R308, R605, R625, R635, R662, R665, R666) -/

/-- The failures that a finished start leaves in the warm record: none, but for a start that fell back, whose failure stays counted (R611, R613; log 131). -/
def State.failuresKept (s : State) : Nat :=
  if s.start.warm || s.flash.warm.failures == s.start.failCount then 0 else s.flash.warm.failures

def finishes (portsUp : Nat) (peers : List (Nat × Nat)) (s : State) : State :=
  if s.start.phase ≠ 6 ∨ s.start.fault then s
  else
    let s := s.startPorts portsUp peers
    let kept := s.retainedPackages
    let s := ((List.range 24).filter fun k => !bitOf kept k).foldl State.rawFill s
    let s := s.zeroOnDie
    let s := { s with
      start := { s.start with phase := 7 }
      flash := { s.flash with warm := ⟨false, s.failuresKept, [], [], []⟩ } }
    let s := s.postShared (event 0x00E0 0 0 0xFF (bit s.start.warm) kept [s.now16])
    let left := indexCount - s.start.indexNext
    let s := if left < 1048576 then s.postShared (event 0x00E9 0 0 0xFF 0 left []) else s
    if s.freeze.pinLow then s.enterHalter else s

def execFinish (portsUp : Nat) (peers : List (Nat × Nat)) (s : State) : Out := .next (finishes portsUp peers s)

end Sys2Proof.Machine
end

