-- ==== Sys2Proof/Machine/Serving.lean ====
section
/-!
DEFINITION. The serving step (R484-R493, R505, R508): BIND with its batch and
sampling rows, the commit point with its tests, DELIVER and DRAIN.
-/

namespace Sys2Proof.Machine

/-! ### BIND (R484, R485, R492) -/

/-- Streams in PREFILL in the order in which they receive chunks: by class, and within a class in order of admission (R485). -/
def Serve.prefill (v : Serve) : List Stream :=
  (List.range 4).flatMap fun k => v.streams.filter fun r => r.isLive && !r.decode && !r.cancel && r.cls == k

/-- Chunks of the step: tag and tokens, until the next would pass the budget (R485). -/
def chunksFor (chunk : Nat) : Nat → List Stream → List (Nat × Nat)
  | _, [] => []
  | budget, r :: rs =>
    let n := min chunk (r.n - r.done)
    if budget < n then [] else (r.tag, n) :: chunksFor chunk (budget - n) rs

/-- What the batch gives a stream: its chunk, 0 in DECODE, none when it is left out (R485, R505). -/
def Stream.share (cs : List (Nat × Nat)) (r : Stream) : Stream :=
  { r with fresh := [], chunk :=
      if !r.isLive || r.cancel then none
      else if r.decode then some 0
      else (cs.find? (·.1 == r.tag)).map (·.2) }

/-- The chunk of a stream ends its prompt (R486). -/
def Stream.endsPrompt (r : Stream) : Bool :=
  match r.chunk with | some n => !r.decode && decide (r.n ≤ r.done + n) | none => false

/-- Tokens that the main head samples for a stream in the step (R486, R489). -/
def Stream.positions (r : Stream) : Nat :=
  if r.chunk.isNone then 0 else if r.decode then 1 + r.pend else if r.endsPrompt then 1 else 0

/-- Sampling rows of a stream: its seed and the position of each token that it samples (R486, R489, R492). -/
def Stream.rows (r : Stream) : List (Nat × Nat) :=
  let first := if r.decode then r.kvLen + 1 else r.n
  (span first r.positions).map fun i => (r.seed, i)

/-- The prompt tokens of a stream's chunk, read from companion memory: the token index is bits 19:0 (R479, R486). -/
def State.promptPart (s : State) (r : Stream) : List Nat :=
  match r.chunk with
  | some n => (span r.done n).map fun i => leVal (s.rdComp (r.prompt + 4 * i) 4) % 2 ^ 20
  | none => []

/-- A stream in PREFILL goes on with the text that its chunk reads (R479, R486). -/
def State.readPrompt (s : State) (r : Stream) : Stream :=
  if r.decode then r else { r with text := r.text.take r.done ++ s.promptPart r }

/-- The batch of a step: shares, the text of each stream, and the sampling rows (R485, R486, R492). -/
def Serve.batch (v : Serve) (s : State) (r : ServingRec) : Serve :=
  let cs := chunksFor r.chunk r.budget v.prefill
  let ss := v.streams.map fun q => s.readPrompt (q.share cs)
  { v with streams := ss, rows := ss.flatMap Stream.rows, bound := true }

/-- RUN begins with the first record of the step (R484). -/
def Ctx.serveRuns (x : Ctx) : Ctx :=
  let x := (x.modSv fun v => { v with phase := 17 }).setCursor x.segment.1
  { x with jumps := [], ended := [], tr := { x.tr with amax := [], summaries := [] } }

/-- BIND, after a pre-emption that is due (R51): the batch is fixed, scales are chosen, and RUN issues the body's records (R228, R484, R485, R594). A repeat of the step keeps its batch and its scales (R229, R230, R509). -/
def binds (p c : Nat) (s : State) : State :=
  match s.active? p c with
  | none => s
  | some x =>
    match x.parcel.servingRec with
    | none => s
    | some v =>
      if s.preempts p c ∨ x.parcel.kind ≠ 1 ∨ (x.sv.phase ≠ 0 ∧ x.sv.phase ≠ 16) ∨ !x.sv.active ∨ x.sv.live.isEmpty then s
      else if x.sv.bound then (s.modCtx p c Ctx.serveRuns).runOn p c
      else
        match (s.takeN p c x.sv.step).bindScales p c x.sv.step x with
        | .error e => s.haltJob p c e
        | .ok s => (s.modCtx p c fun x => (x.modSv fun w => w.batch s v).serveRuns).runOn p c

def execBind (p ctx : Nat) (s : State) : Out := onUnit (p < 16 ∧ ctx < 8) (binds p ctx s)

/-! ### The commit point (R486, R489-R491, R505) -/

/-- What the main head gave at each position: after the text and the pending guesses before it (R489, R493). -/
def Stream.heads (r : Stream) (y : Sampled) : List HeadToken :=
  y.tokens.zipIdx.map fun e => ⟨r.text ++ r.guesses.take e.2, r.seed, r.param, e.1⟩

/-- One text under one seed and parameters has one token (R493). -/
def agree (hs : List HeadToken) : Bool :=
  hs.all fun a => hs.all fun b => a.token == b.token || a.text != b.text || a.seed != b.seed || a.param != b.param

/-- What the step sampled for a stream has the form that the stream calls for. -/
def Stream.samples (r : Stream) (y : Sampled) : Bool :=
  decide (y.tokens.length = r.positions) && decide (y.guesses.length = r.spec) && y.guesses.all fun t => decide (t < 2 ^ 20)

/-- A sampled token that is an integer below the vocabulary's bound (R313, R491; log 69). -/
def validToken (t : Option Nat) : Option Nat := match t with | some v => if v < 2 ^ 20 then some v else none | none => none

/-- Guesses accepted: the first ones that the main head confirms (R489). -/
def acceptedOf : List Nat → List (Option Nat) → Nat
  | g :: gs, y :: ys => if y = some g then 1 + acceptedOf gs ys else 0
  | _, _ => 0

/-- A stream's positions are committed: tokens that would be delivered, each with whether it confirmed a guess; none where a sampled token is invalid (R486, R489, R490). -/
def Stream.advance (r : Stream) (y : Sampled) : Stream × Option (List (Nat × Bool)) :=
  match r.chunk with
  | none => (r, some [])
  | some n =>
    let r := { r with steps := r.steps + 1 }
    let ts := y.tokens.map validToken
    let a := if r.decode then acceptedOf (r.guesses.take r.pend) ts else 0
    let good : Option (List (Nat × Bool)) :=
      (ts.mapM id).map fun (vs : List Nat) => (vs.take (a + 1)).zipIdx.map fun (e : Nat × Nat) => (e.1, decide (e.2 < a))
    if r.decode then
      ({ r with kvLen := r.kvLen + a + 1, pend := r.spec, guesses := y.guesses, accepted := r.accepted + a }, good)
    else
      let ends := r.endsPrompt
      let r := { r with done := r.done + n, kvLen := r.kvLen + n }
      if ends then ({ r with decode := true, pend := r.spec, guesses := y.guesses }, good) else (r, some [])

/-- The tokens up to and including the first stop token (R479, R491). -/
def untilStop (stop : List Nat) : List (Nat × Bool) → List (Nat × Bool) × Bool
  | [] => ([], false)
  | t :: ts =>
    if t.1 ≠ 0xFFFFF ∧ stop.contains t.1 then ([t], true)
    else let (r, hit) := untilStop stop ts; (t :: r, hit)

/-- The tests of R505 in their order. -/
def Stream.decided (r : Stream) (tokens : Option (List (Nat × Bool))) : Stream :=
  if r.cancel then { r with ended := some 0x0712 }
  else match tokens with
    | none => { r with ended := some 0x0403 }
    | some ts =>
      let (keep, hit) := untilStop r.stop (ts.take (r.maxNew - r.delivered))
      let r := { r with fresh := keep, delivered := r.delivered + keep.length, text := r.text ++ keep.map fun (e : Nat × Bool) => e.1 }
      if hit ∨ r.maxNew ≤ r.delivered then { r with ended := some 0x0710 }
      else if r.late then { r with ended := some 0x0711 }
      else r

/-- A stream at the commit point (R505); `due`: its expiry has been reached. -/
def Stream.commit (ys : List Sampled) (due : Bool) (r : Stream) : Stream :=
  if !r.isLive then r
  else
    let r := { r with late := r.late || due }
    let y := (ys.find? fun y => r.slot == some y.slot).getD ⟨0, [], []⟩
    let (r, ts) := r.advance y
    r.decided ts

/-- The expiry of a live stream has been reached. -/
def State.pastDue (s : State) (p c : Nat) (r : Stream) : Bool :=
  s.expiries.any fun e => e.paddock == p && e.ctx == c && e.kind == .deadline r.tag && decide (e.endAt ≤ s.now p)

/-- Tokens that the step's main head gave, over all streams. -/
def Serve.stepHeads (v : Serve) (ys : List Sampled) : List HeadToken :=
  v.live.flatMap fun r => match ys.find? fun y => r.slot == some y.slot with | some y => (r.heads y).take r.positions | none => []

/-- What the records sampled is what such records can: the form of each stream, and, where every scale of the parcel is a literal, one token for one text (R489, R493; log 70). -/
def Ctx.samplesOk (x : Ctx) (ys : List Sampled) : Bool :=
  (x.sv.live.all fun r => decide (r.positions = 0) || (ys.find? fun y => r.slot == some y.slot).any r.samples) &&
    (!x.parcel.literalScales || agree (x.sv.heads ++ x.sv.stepHeads ys))

/-- COMMIT forms every stream's outcome and writes the commit record; the slot records stand until DELIVER (R484, R505). -/
def Serve.commits (v : Serve) (commit : Stream → Stream) (new : List HeadToken) : Serve :=
  let rs := v.streams.map commit
  let gone := (rs.filter fun r => !r.isLive).map (·.tag)
  { v with phase := 18, record := some rs, retired := v.retired ++ gone, heads := (v.heads ++ new).eraseDups }

/-- The commit point: COMMIT forms every stream's outcome in the commit record; DELIVER follows (R484, R486, R487, R505; log 151). A pre-emption that is due goes first. Its operand gives what the step's records sampled (log 70). -/
def commitPoint (p c : Nat) (ys : List Sampled) (s : State) : State :=
  match s.active? p c with
  | none => s
  | some x =>
    if s.preempts p c ∨ x.parcel.kind ≠ 1 ∨ x.sv.phase ≠ 17 ∨ !x.passOver ∨ !x.samplesOk ys then s
    else
      let new := if x.parcel.literalScales then x.sv.stepHeads ys else []
      let v := x.sv.commits (fun r => r.commit ys (s.pastDue p c r)) new
      let s := s.modCtx p c fun x => x.modSv fun _ => v
      s.dropExpiries fun e => e.paddock == p && e.ctx == c && v.retired.any fun t => e.kind == .deadline t

def execServingCommitPoint (p ctx : Nat) (sampled : List Sampled) (s : State) : Out :=
  onUnit (p < 16 ∧ ctx < 8) (commitPoint p ctx sampled s)

/-! ### DELIVER (R226, R480, R481, R484, R488) -/

/-- The token buffers of the batch, and of every stream that has retired (R480, R481). -/
def State.deliverBuffers (s : State) (p step : Nat) (rs : List Stream) : State :=
  rs.foldl (fun s r => (s.writeEntries p r).writeHeader p r (r.ended.getD 0) step) s

/-- Terminal letters of the streams that have retired (R488). -/
def State.postTerminals (s : State) (p c : Nat) (rs : List Stream) : State :=
  rs.foldl (fun s r => match r.ended with | some st => s.postSure p (r.terminal c st) | none => s) s

/-- Classes and maxima that a serving step pushes (R226). -/
def Ctx.servingPushes (x : Ctx) : List (Nat × W32) := x.tr.amax.filter fun cv => x.parcel.scaleRecs.any fun r => r.cls == cv.1

/-- DELIVER leaves the slot records of the streams that stay live, as the commit record has them (R484). -/
def Serve.delivered (v : Serve) : Serve :=
  { v with phase := 20, step := (v.step + 1) % 2 ^ 64, bound := false, record := none
           streams := v.live.map fun r => { r with fresh := [], chunk := none } }

/-- DELIVER, from the complete commit record: buffers, letters, slot records, then slots and KV freed, the scale history's push, the next step number; a halt or pre-emption that waited takes place (R226, R484, R508). -/
def delivers (p c : Nat) (s : State) : State :=
  match s.ctx p c with
  | none => s
  | some x =>
    if !s.runs p ∨ x.parcel.kind ≠ 1 ∨ x.sv.phase ≠ 18 ∨ x.state = .halted then s
    else
      let rs := x.sv.current.filter fun r => r.chunk.isSome || !r.isLive
      let s := (s.deliverBuffers p x.sv.step rs).postTerminals p c rs
      let s := s.modCtx p c fun x => x.modSv Serve.delivered
      let s := s.modPd p fun d => x.servingPushes.foldl (fun (d : Paddock) (cv : Nat × W32) => d.push cv.1 cv.2) d
      ((s.leaveProbe p c x.sv.step).modCtx p c fun x => x.modTr fun t => { t with amax := [] }).spanEnds p c 1

def execDeliver (p ctx : Nat) (s : State) : Out := onUnit (p < 16 ∧ ctx < 8) (delivers p ctx s)

/-! ### DRAIN (R484, R502) -/

/-- DRAIN: with nothing in flight the queue pass runs; the next BIND follows while a stream is live (R484, R502). -/
def servingDrains (p c : Nat) (s : State) : State :=
  match s.active? p c with
  | none => s
  | some x =>
    if x.parcel.kind ≠ 1 ∨ x.sv.phase ≠ 20 ∨ !x.flights.isEmpty then s
    else
      let s := s.queuePass p
      let s := s.modCtx p c fun x => x.modSv fun v => { v with phase := if v.live.isEmpty then 0 else 16 }
      s.settleServer p c

def execServingDrain (p ctx : Nat) (s : State) : Out := onUnit (p < 16 ∧ ctx < 8) (servingDrains p ctx s)

end Sys2Proof.Machine
end

