-- ==== Sys2Proof/Machine/Ostlers.lean ====
section
/-!
DEFINITION. Ostlers that fail and those that stand in for them (R43-R48, R94, R400,
R509), and self-checks (R43, R136).
-/

namespace Sys2Proof.Machine

/-! ### HEARTBEAT_MISS (R43-R48) -/

/-- Die of an ostler (R25). -/
def dieOfOstler (o : Nat) : Nat := if o < 8 ∨ o = 16 ∨ o = 18 then 0 else 1

/-- A remount ostler that is free. -/
def State.freeOstler (s : State) (o : Nat) : Bool := (s.ostler o).ok && (s.ostler o).standsFor.isNone

/-- The remount ostler that stands in for another: that of its die when both are free (R45). -/
def State.standIn (s : State) (o : Nat) : Option Nat :=
  let own := 18 + dieOfOstler o
  if s.freeOstler own then some own
  else if s.freeOstler (37 - own) then some (37 - own)
  else none

/-- The one entry of a failed ostler in the map: what serves in its place now (R29, R579). -/
def Remount.setOstler (m : Remount) (o repl : Nat) : Remount :=
  { m with entries := m.entries.filter (fun e => !(e.kind == 4 && e.unit == o)) ++ [⟨4, dieOfOstler o, o, repl, 0⟩] }

def State.listOstler (s : State) (o repl : Nat) : State := { s with remount := s.remount.setOstler o repl }

/-- The ostler that serves in the place of a failed one, its partner or a stand-in; none where there is none yet (R29, R48). -/
def State.servesFor (s : State) (o : Nat) : Nat := if s.served o then s.serving o else noUnit

/-- REMOUNT of an ostler, reported to every OPEN paddock (R43, R550). -/
def State.mapOstler (s : State) (o repl : Nat) : State :=
  (s.listOstler o repl).postShared (remountEvent 4 (dieOfOstler o) o repl)

/-- Expiries of a paddock counted on another counter: what is left stays (R94). -/
def State.rebase (s : State) (p old new : Nat) : State :=
  { s with expiries := s.expiries.map fun e => if e.paddock = p then { e with endAt := new + (e.endAt - old) } else e }

/-- Both device ostlers are without duty: both dies go to 0.55 V, the module stops and waits for a cold start (R48). -/
def State.bothDeviceFail (s : State) : State :=
  if s.served 16 || s.served 17 then s
  else
    let s := (s.setVcore 0 550).setVcore 1 550
    { s with start := { s.start with fault := true } }

/-- Every job of a paddock halts, in whatever span it is: no ostler is left that could end the span (R43). -/
def State.haltEach (s : State) (p status : Nat) : State := (List.range 8).foldl (fun s c => s.haltNow p c status) s

/-- No remount ostler is left for a duty: a paddock halts its jobs (R43; log 24). -/
def State.noStandIn (s : State) (q : Nat) : State :=
  let s := (s.modOstler q fun x => { x with waits := false }).mapOstler q (s.servesFor q)
  if q < 16 then s.haltEach q 0x0801 else s

/-- A duty is without its ostler; the map names what serves in its place, also for the other device ostler where that has failed (R29, R48). -/
def State.dutyLost (s : State) (q : Nat) : State :=
  let s := match s.standIn q with
    | some _ => (s.modOstler q fun x => { x with waits := true }).listOstler q (s.servesFor q)
    | none => s.noStandIn q
  if q = 16 ∨ q = 17 then
    let o := 33 - q
    let s := if (s.ostler o).ok then s else s.listOstler o (s.servesFor o)
    s.bothDeviceFail
  else s

/-- HEARTBEAT_MISS: the ostler is out of service. The partner of a device ostler serves at once; a paddock waits for its takeover (R46, R48). A remount ostler that fails is retired too, beside the duty that it leaves (R29, R43). -/
def heartbeatMisses (o : Nat) (s : State) : State :=
  if !(s.ostler o).ok ∨ s.start.phase = 0 ∨ s.start.fault then s
  else
    let duty := if o < 18 then some o else (s.ostler o).standsFor
    let at_ := (s.ostler o).count
    let s := s.modOstler o fun x => { x with ok := false, standsFor := none, waits := false }
    match duty with
    | none => s.mapOstler o noUnit
    | some q =>
      let s := if o = q then s else s.mapOstler o noUnit
      (if q < 16 ∧ o ≠ q then s.rebase q at_ (s.ostler q).count else s).dutyLost q

def execHeartbeatMiss (ostler : Nat) (s : State) : Out := onUnit (ostler < 20) (heartbeatMisses ostler s)

/-! ### OSTLER_TAKEOVER (R46, R47, R94, R509) -/

/-- What an attempt that is discarded leaves in its context: nothing written to a next bank counts (R46, R399). -/
def Ctx.discarded (x : Ctx) : Ctx :=
  { x with
    flights := [], jumps := [], ended := [], image := none
    tr := { x.tr with layers := x.tr.layers.map LayerSt.unpend, coll := x.tr.coll.early, verdict := none, xfers := [], summaries := [] } }

/-- Stop a context's records everywhere and release its entries. -/
def State.stopRecords (s : State) (p c : Nat) (x : Ctx) : State :=
  let s := { s with stables := s.stables.map (Stable.dropJob p c)
                    turnout := s.turnout.map fun (q : List TurnJob) => q.filter fun j => j.paddock != p || j.ctx != c }
  s.modPd p fun d =>
    { d.modCtx c Ctx.discarded with entriesUsed := if d.running = some c then d.entriesUsed - x.entriesHeld else d.entriesUsed }

/-- The attempt runs again from LOAD under the same number; what other members have sent for it stays (R46, R47, R413). -/
def State.rerun (s : State) (p c : Nat) (x : Ctx) : State :=
  ((s.stopRecords p c x).dropExpiries fun e => e.paddock == p && e.ctx == c).loadStep p c false

/-- LATE joins what this module has given to the rounds and not yet sent (R47). -/
def Coll.late (k : Coll) : Coll :=
  { k with
    lateVote := true
    sealIn := if k.sealSent ∨ k.agreed.isSome ∨ !k.sealFrom.contains 32 then k.sealIn else k.sealIn.map fun r => { r with votes := r.votes ||| 2 }
    closeIn := if k.closeSent ∨ k.closed.isSome ∨ !k.closeFrom.contains 32 then k.closeIn else k.closeIn.map fun r => { r with votes := r.votes ||| 2 } }

/-- The remount ostler acts on the state of a step in progress. -/
def State.actOnStep (s : State) (p c : Nat) : State :=
  match s.ctx p c with
  | none => s
  | some x =>
    if x.state = .halted then s
    else if x.parcel.kind = 1 then
      if x.sv.phase = 16 ∨ x.sv.phase = 17 then (s.stopRecords p c x).modCtx p c fun y => y.modSv fun v => { v with phase := 16 } else s
    else if 1 ≤ x.tr.phase ∧ x.tr.phase ≤ 4 then s.rerun p c x
    else if x.tr.phase = 5 ∨ x.tr.phase = 6 then
      if x.parcel.members = 1 then s.rerun p c x else s.modCtx p c fun y => y.modColl Coll.late
    else s

/-- The remount ostler takes up the duties of a failed one: its expiries are counted on its own counter, and it acts on the paddock's step; with none left by now, the duty stays without one (R43). -/
def takesOver (q : Nat) (s : State) : State :=
  if !(s.ostler q).waits ∨ s.start.fault then s
  else match s.standIn q with
    | none => s.noStandIn q
    | some r =>
      let old := (s.ostler q).count
      let s := (s.modOstler q fun x => { x with waits := false }).modOstler r fun x => { x with standsFor := some q }
      let s := s.mapOstler q r
      if 16 ≤ q then s
      else
        let s := s.rebase q old (s.ostler r).count
        (List.range 8).foldl (fun (s : State) (c : Nat) => s.actOnStep q c) s

def execOstlerTakeover (ostler : Nat) (s : State) : Out := onUnit (ostler < 20) (takesOver ostler s)

/-! ### SELF_CHECK_FAILURE (R43, R136) -/

/-- A stable's groom or feed controller fails its self-check: it runs no more, and a spare takes its place at once, or when COLLECT or COMMIT ends (R49). -/
def stableFails (n : Nat) (s : State) : State :=
  if !s.running || !s.remount.good.contains n then s
  else (s.modStable n fun x => { x with stopped := true }).replaceStable n

/-- SELF_CHECK_FAILURE of a stable, or of an ostler, which is replaced as after a missed heartbeat. -/
def execSelfCheckFailure (isStable : Bool) (unit : Nat) (s : State) : Out :=
  onUnit (if isStable then unit < 72 else unit < 20) (if isStable then stableFails unit s else heartbeatMisses unit s)

end Sys2Proof.Machine
end

