-- ==== Sys2Proof/Machine/PostBus.lean ====
section
/-!
DEFINITION. The post bus (R636-R645): seats, answers, arbitration.
-/

namespace Sys2Proof.Machine

/-- The ostler that serves the post bus: 16, else 17, else 18, else 19 (R640). -/
def State.busOstler (s : State) : Option Nat := [16, 17, 18, 19].find? fun o => (s.ostler o).ok

/-- The post bus is served: from 2 ms after MRESET_N rises (R640). -/
def State.busServed (s : State) : Bool :=
  decide (s.start.phase ≠ 0) && !s.power.thermtrip &&
    match s.busOstler with
    | some o => decide (200000 ≤ (s.ostler o).count)
    | none => false

/-- One byte into CRC-16 with polynomial 0x1021 (R637). -/
def crcBits : Nat → Nat → Nat
  | 0, c => c
  | n + 1, c => crcBits n (if 0x8000 ≤ c then (2 * c % 0x10000) ^^^ 0x1021 else 2 * c)

def crc16 (bs : List Byte) : Nat := bs.foldl (fun c b => crcBits 8 (c ^^^ (b.toNat * 256))) 0xFFFF

/-- An answer frame (R637): op + 0x80, the seat, the length, status and payload, CRC low byte first. -/
def answerFrame (op seat status : Nat) (payload : List Byte) : List Byte :=
  let body := leBytes 1 (op + 0x80) ++ leBytes 1 seat ++ leBytes 1 (payload.length + 1) ++ leBytes 1 status ++ payload
  body ++ leBytes 2 (crc16 body)

def State.modBus (s : State) (f : Bus → Bus) : State := { s with bus := f s.bus }

/-- Send an answer. -/
def State.answer (s : State) (op seat status : Nat) (payload : List Byte) : State :=
  s.modBus fun b => { b with answer := answerFrame op seat status payload, abandoned := 0 }

/-- An answer that collides is abandoned; after three in a row the seat is given up and POSTCODE posted with cause collision (R642). -/
def State.collide (s : State) : State :=
  let b := s.bus
  if 2 ≤ b.abandoned then
    let s := s.modBus fun b => { b with seat := none, abandoned := 0 }
    s.postShared (event 0x00E8 0 0 0xFF (bit s.bus.valid) s.bus.code [2])
  else s.modBus fun b => { b with abandoned := b.abandoned + 1 }

/-- Answer, unless the answer collides and is abandoned (R642). -/
def State.answers (s : State) (collided : Bool) (op seat status : Nat) (payload : List Byte) : State :=
  if collided then s.collide else s.answer op seat status payload

/-- The frame names the module's seat and the module answers (R638, R640). `inFreeze`: answered in a thermal freeze too. -/
def State.hears (s : State) (seat : Nat) (inFreeze : Bool) : Bool :=
  s.busServed && s.bus.seat == some seat && !s.freeze.halter && (inFreeze || !s.freeze.thermal)

/-- CALL: arbitration follows for a module that is served, holds no seat and is not frozen (R639, R643). -/
def execCall (s : State) : Out :=
  .next (if s.busServed && s.bus.seat.isNone && !s.frozen then s.modBus fun b => { b with calling := true } else s)

/-- What the module drives in a slot: 0 in slot 0; in slot 64 - k, 0 when bit k of its serial is 0 (R643). -/
def drivesZero (serial slot : Nat) : Bool := if slot = 0 then true else !bitOf serial (64 - slot)

/-- The slots in turn: whether each is driven to 0, and whether the module has withdrawn (R643). -/
def arbitrate (serial : Nat) : Nat → Bool → List Bool → List Bool × Bool
  | _, w, [] => ([], w)
  | slot, w, sampled :: rest =>
    let zero := !w && drivesZero serial slot
    let w' := w || (!zero && !sampled)
    let (ds, w'') := arbitrate serial (slot + 1) w' rest
    (zero :: ds, w'')

/-- The arbitration window runs: the samples are the levels of the 65 slots; a module that is not served, or is frozen, by then takes no part and drives nothing (R643, R644). -/
def arbitrationRuns (samples : List Bool) (s : State) : State :=
  if !s.bus.calling then s
  else if !s.busServed || s.frozen then s.modBus fun b => { b with calling := false, driven := List.replicate 65 false, withdrew := true }
  else
    let (ds, w) := arbitrate s.otp.serial 0 false (samples.take 65)
    s.modBus fun b => { b with calling := false, driven := ds, withdrew := w }

def execArbitrationWindow (samples : List Bool) (s : State) : Out := .next (arbitrationRuns samples s)

/-- ASSIGN gives the seat to the module whose serial matches, when it holds none (R641). -/
def assigns (serial seat : Nat) (collided : Bool) (s : State) : State :=
  if !s.busServed || s.frozen || serial != s.otp.serial then s
  else match s.bus.seat with
    | some held => s.answers collided 0x02 held 2 []
    | none =>
      if 63 < seat then s.answers collided 0x02 0xFF 1 []
      else
        let before := s.bus
        ((s.modBus fun b => { b with seat := some seat }).postcodeEvent before 0).answers collided 0x02 seat 0 []

def execAssign (serial seat : Nat) (collided : Bool) (s : State) : Out := .next (assigns serial seat collided s)

/-- RELEASE: the seat is given up after the answer (R641). -/
def releases (seat : Nat) (collided : Bool) (s : State) : State :=
  if !s.hears seat false then s
  else
    let s := s.answers collided 0x03 seat 0 []
    let before := s.bus
    if before.seat.isNone then s else (s.modBus fun b => { b with seat := none }).postcodeEvent before 1

def execRelease (seat : Nat) (collided : Bool) (s : State) : Out := .next (releases seat collided s)

/-- A register of the ID block (R563). -/
def State.idReg (s : State) (off : Nat) : Nat := if off < 0x1100 then s.configReg off else 0

/-- READ: 1 to 7 registers of the ID block from an aligned offset in 0x1000-0x10FF (R639). -/
def readAnswers (seat offset count : Nat) (collided : Bool) (s : State) : State :=
  if count = 0 ∨ 7 < count ∨ offset % 8 ≠ 0 ∨ offset < 0x1000 ∨ 0x10FF < offset then s.answers collided 0x04 seat 1 []
  else s.answers collided 0x04 seat 0 ((List.range count).map fun i => leBytes 8 (s.idReg (offset + 8 * i))).flatten

def execRead (seat offset count : Nat) (collided : Bool) (s : State) : Out :=
  .next (if !s.hears seat true then s else readAnswers seat offset count collided s)

/-- The payload of STATUS (R639). -/
def State.statusPayload (s : State) : List Byte :=
  leBytes 8 s.health ++ leBytes 2 (s.die 0).vcore ++ leBytes 2 (s.die 1).vcore ++
    leBytes 2 (unsignedOf 16 (s.die 0).tj) ++ leBytes 2 (unsignedOf 16 (s.die 1).tj) ++ leBytes 4 s.power.moduleMw ++
    leBytes 2 (unsignedOf 16 s.power.inlet) ++ leBytes 2 (unsignedOf 16 s.power.outlet) ++ leBytes 2 s.start.failCode

def execStatus (seat : Nat) (collided : Bool) (s : State) : Out :=
  .next (if !s.hears seat true then s else s.answers collided 0x05 seat 0 s.statusPayload)

/-- IDENTITY answers with the device public key (R639, R648). -/
def execIdentity (seat : Nat) (collided : Bool) (s : State) : Out :=
  .next (if !s.hears seat false then s
    else s.answers collided 0x06 seat 0 ((Config.deviceKey ++ List.replicate 60 0).take 60))

/-- An op that R639 does not list gets status 1 when it names the seat. -/
def execPostBusUnknownOp (op seat : Nat) (collided : Bool) (s : State) : Out :=
  .next (if !s.hears seat false || decide (1 ≤ op ∧ op ≤ 6) then s else s.answers collided op seat 1 [])

end Sys2Proof.Machine
end

