-- ==== Sys2Proof/Machine/Replay.lean ====
section
/-!
DEFINITION. The letter REPLAY (R475, R476): the checkpoint is restored and the
attempt starts from LOAD; STEP_BEGIN and the passes run it, and its end replies.
-/

namespace Sys2Proof.Machine

/-- The context as a replay starts (R230, R341, R475): the role, the attempt and the exponents of its repeats. -/
def Ctx.asReplay (x : Ctx) (b : StepBeginRec) (r : Replay) (role attempt nfBefore now : Nat) : Ctx :=
  { x with
    parcel := x.parcel.withRole role
    tr := { x.tr with
      phase := 0, gen := if x.parcel.kind = 2 then 3 else 0, attempt := attempt, nfAttempts := nfBefore, shift := nfBefore
      flags := 0, votes := 0, digests := [], startAt := now, split := some (bindSplit b none), replay := some r } }

/-- REPLAY: granted, of an IDLE or HALTED training context whose paddock holds the role; the checkpoint is the step's. -/
def actReplay (p : Nat) (h : LetterHead) (step attempt nfBefore mode role ctx checkpoint sealLog : Nat) (s : State) : Taken :=
  if !bitOf s.grant 9 then Taken.refuse s 0x0002
  else if 1 < mode then Taken.refuse s 0x0101
  else s.onQuiet p ctx fun x =>
    match x.parcel.stepBegin with
    | none => Taken.refuse s 0x0003
    | some b =>
      match s.letterDesc checkpoint, s.letterDesc sealLog with
      | .error e, _ => Taken.refuse s e
      | _, .error e => Taken.refuse s e
      | .ok ck, .ok log =>
        if (s.stablesOf p).length < b.tHi + 1 ∨ (x.parcel.coefAt step).isNone ∨ (x.parcel.setAt step).isNone then Taken.refuse s 0x0202
        else match s.restoreFrom p ctx x ck with
          | .error e => s.refuseCause e
          | .ok (s', held) =>
            if held ≠ step then Taken.refuse s 0x0502
            else
              let r : Replay := ⟨h.tag, h.flags % 2 == 1, mode == 1, x.parcel.role, log⟩
              let s' := s'.modCtx p ctx fun y => y.asReplay b r role attempt nfBefore (s.now p)
              Taken.later (s'.makeReady p ctx)

def execReplay (p : Nat) (h : LetterHead) (step attempt nfBefore mode role ctx checkpoint sealLog : Nat) (s : State) : Out :=
  onUnit (p < 16) (s.takeLetter p 0x0081 31 h (actReplay p h step attempt nfBefore mode role ctx checkpoint sealLog))

end Sys2Proof.Machine
end

