-- ==== Sys2Proof/Machine/Dispatch.lean ====
section
/-! DEFINITION. The dispatch of every command to its meaning, one arm per constructor of Instr. -/

namespace Sys2Proof.Machine

/-- The effect of a command on everything but the queue. -/
def exec (i : Instr) (s : State) : Host.Outcome State Fault Refusal :=
  match i with
  | .pad p h => Sys2Proof.Machine.execPad p h s
  | .hello p h ifMajor ifMinor => Sys2Proof.Machine.execHello p h ifMajor ifMinor s
  | .features p h requested => Sys2Proof.Machine.execFeatures p h requested s
  | .powerCap p h watts => Sys2Proof.Machine.execPowerCap p h watts s
  | .scrubSet p h hours => Sys2Proof.Machine.execScrubSet p h hours s
  | .remountMap p h b => Sys2Proof.Machine.execRemountMap p h b s
  | .warmPrepare p h retained => Sys2Proof.Machine.execWarmPrepare p h retained s
  | .warmHandback p h count map mapLen records => Sys2Proof.Machine.execWarmHandback p h count map mapLen records s
  | .trainingRead p h b => Sys2Proof.Machine.execTrainingRead p h b s
  | .configRead p h b => Sys2Proof.Machine.execConfigRead p h b s
  | .configWrite p h src => Sys2Proof.Machine.execConfigWrite p h src s
  | .attest p h nonce b unprogrammed => Sys2Proof.Machine.execAttest p h nonce b unprogrammed s
  | .firmwareWrite p h src length => Sys2Proof.Machine.execFirmwareWrite p h src length s
  | .rollbackCommit p h svn => Sys2Proof.Machine.execRollbackCommit p h svn s
  | .segmentSet p h segment => Sys2Proof.Machine.execSegmentSet p h segment s
  | .identityRead p h b => Sys2Proof.Machine.execIdentityRead p h b s
  | .paddockOpen p h u crypt retained drbgOk => Sys2Proof.Machine.execPaddockOpen p h u crypt retained drbgOk s
  | .openingComplete p => Sys2Proof.Machine.execOpeningComplete p s
  | .paddockClose p h => Sys2Proof.Machine.execPaddockClose p h s
  | .closingComplete p => Sys2Proof.Machine.execClosingComplete p s
  | .paddockResize p h add rem => Sys2Proof.Machine.execPaddockResize p h add rem s
  | .resizeComplete p => Sys2Proof.Machine.execResizeComplete p s
  | .paddockMap p h ctx nadd nremove list => Sys2Proof.Machine.execPaddockMap p h ctx nadd nremove list s
  | .schedSet p h slice blockAfter => Sys2Proof.Machine.execSchedSet p h slice blockAfter s
  | .paddockPower p h watts => Sys2Proof.Machine.execPaddockPower p h watts s
  | .historySet p h n => Sys2Proof.Machine.execHistorySet p h n s
  | .stateRead p h ctx selector first count b => Sys2Proof.Machine.execStateRead p h ctx selector first count b s
  | .parcelLoad p h address length priority step => Sys2Proof.Machine.execParcelLoad p h address length priority step s
  | .parcelUnload p h ctx => Sys2Proof.Machine.execParcelUnload p h ctx s
  | .stepRun p h ctx step count => Sys2Proof.Machine.execStepRun p h ctx step count s
  | .checkpoint p h ctx dest => Sys2Proof.Machine.execCheckpoint p h ctx dest s
  | .restore p h ctx src => Sys2Proof.Machine.execRestore p h ctx src s
  | .initialise p h ctx layer part src => Sys2Proof.Machine.execInitialise p h ctx layer part src s
  | .admitLetter p h f => Sys2Proof.Machine.execAdmitLetter p h f s
  | .cancel p h => Sys2Proof.Machine.execCancel p h s
  | .requestRead p h => Sys2Proof.Machine.execRequestRead p h s
  | .membership p h epoch roles parcel checkpoint ckStep agreeTimeout => Sys2Proof.Machine.execMembership p h epoch roles parcel checkpoint ckStep agreeTimeout s
  | .replay p h step attempt nfBefore mode role ctx checkpoint sealLog => Sys2Proof.Machine.execReplay p h step attempt nfBefore mode role ctx checkpoint sealLog s
  | .diagCounters p h unit index b => Sys2Proof.Machine.execDiagCounters p h unit index b s
  | .refcount p h ostler => Sys2Proof.Machine.execRefcount p h ostler s
  | .freezeInfo p h b => Sys2Proof.Machine.execFreezeInfo p h b s
  | .pbxbaseEnable m rtag p value => Sys2Proof.Machine.execPbxbaseEnable m rtag p value s
  | .pbxbaseDisable m rtag p value => Sys2Proof.Machine.execPbxbaseDisable m rtag p value s
  | .cfgWr m rtag offset value => Sys2Proof.Machine.execCfgWr m rtag offset value s
  | .apRd m rtag addr count => Sys2Proof.Machine.execApRd m rtag addr count s
  | .inv m rtag addr data => Sys2Proof.Machine.execInv m rtag addr data s
  | .cmp m rtag status => Sys2Proof.Machine.execCmp m rtag status s
  | .cmpD m rtag status data => Sys2Proof.Machine.execCmpD m rtag status data s
  | .credit m requests dataUnits invs => Sys2Proof.Machine.execCredit m requests dataUnits invs s
  | .ack m cseq => Sys2Proof.Machine.execAck m cseq s
  | .retry m cseq => Sys2Proof.Machine.execRetry m cseq s
  | .mclUncorrectableCodeword errors => Sys2Proof.Machine.execMclUncorrectableCodeword errors s
  | .mclAlignTimeout => Sys2Proof.Machine.execMclAlignTimeout s
  | .mclTrainingDone good taken valid => Sys2Proof.Machine.execMclTrainingDone good taken valid s
  | .postboxRetryTimer rtag => Sys2Proof.Machine.execPostboxRetryTimer rtag s
  | .mclTimeout p ctx => Sys2Proof.Machine.execMclTimeout p ctx s
  | .mclStall p => Sys2Proof.Machine.execMclStall p s
  | .link port f info => Sys2Proof.Machine.execLink port f info s
  | .grad port f g blocks => Sys2Proof.Machine.execGrad port f g blocks s
  | .sealFrame port f r => Sys2Proof.Machine.execSealFrame port f r s
  | .close port f r => Sys2Proof.Machine.execClose port f r s
  | .param port f h payload => Sys2Proof.Machine.execParam port f h payload s
  | .xfer port f dest src number offset payload => Sys2Proof.Machine.execXfer port f dest src number offset payload s
  | .epoch port f r => Sys2Proof.Machine.execEpoch port f r s
  | .linkUncorrectableCodeword port errors => Sys2Proof.Machine.execLinkUncorrectableCodeword port errors s
  | .linkAlignTimeout port => Sys2Proof.Machine.execLinkAlignTimeout port s
  | .holdTimeout port => Sys2Proof.Machine.execHoldTimeout port s
  | .linkRetrainRetry port ok => Sys2Proof.Machine.execLinkRetrainRetry port ok s
  | .linkTrainingDone port ok serial postcode => Sys2Proof.Machine.execLinkTrainingDone port ok serial postcode s
  | .laneLockLoss u lane => Sys2Proof.Machine.execLaneLockLoss u lane s
  | .laneWindowEnd u counts => Sys2Proof.Machine.execLaneWindowEnd u counts s
  | .heartbeatMiss ostler => Sys2Proof.Machine.execHeartbeatMiss ostler s
  | .governorInterval die m => Sys2Proof.Machine.execGovernorInterval die m s
  | .vctlRepeat die => Sys2Proof.Machine.execVctlRepeat die s
  | .watchdogWarning stable source => Sys2Proof.Machine.execWatchdogWarning stable source s
  | .watchdogHalt stable => Sys2Proof.Machine.execWatchdogHalt stable s
  | .blockAfterExpiry p => Sys2Proof.Machine.execBlockAfterExpiry p s
  | .sliceExpiry p => Sys2Proof.Machine.execSliceExpiry p s
  | .deadlineExpiry p tag => Sys2Proof.Machine.execDeadlineExpiry p tag s
  | .collectExpiry p ctx => Sys2Proof.Machine.execCollectExpiry p ctx s
  | .sealExpiry p ctx => Sys2Proof.Machine.execSealExpiry p ctx s
  | .broadcastExpiry p ctx => Sys2Proof.Machine.execBroadcastExpiry p ctx s
  | .xferDurationExpiry p ctx number => Sys2Proof.Machine.execXferDurationExpiry p ctx number s
  | .agreeTimeout p ctx => Sys2Proof.Machine.execAgreeTimeout p ctx s
  | .handbackTimeout => Sys2Proof.Machine.execHandbackTimeout s
  | .scrubPeriodEnd channel => Sys2Proof.Machine.execScrubPeriodEnd channel s
  | .patrolScrubRead channel ca o => Sys2Proof.Machine.execPatrolScrubRead channel ca o s
  | .yardScrub pen offset o => Sys2Proof.Machine.execYardScrub pen offset o s
  | .wck2dqTrack channel absorbed retrained temp => Sys2Proof.Machine.execWck2dqTrack channel absorbed retrained temp s
  | .mr4Poll channel above85 outOfRange => Sys2Proof.Machine.execMr4Poll channel above85 outOfRange s
  | .perBankRefresh channel rank bank managed => Sys2Proof.Machine.execPerBankRefresh channel rank bank managed s
  | .tjSample die tj => Sys2Proof.Machine.execTjSample die tj s
  | .coolOkLow => Sys2Proof.Machine.execCoolOkLow s
  | .coolantCheck inlet outlet powerMw => Sys2Proof.Machine.execCoolantCheck inlet outlet powerMw s
  | .railDip rail mv => Sys2Proof.Machine.execRailDip rail mv s
  | .railRecovered rail => Sys2Proof.Machine.execRailRecovered rail s
  | .railReset rail => Sys2Proof.Machine.execRailReset rail s
  | .v12InputGood coolOk => Sys2Proof.Machine.execV12InputGood coolOk s
  | .v12InputLow => Sys2Proof.Machine.execV12InputLow s
  | .mresetNFall => Sys2Proof.Machine.execMresetNFall s
  | .mresetNRise => Sys2Proof.Machine.execMresetNRise s
  | .boot c => Sys2Proof.Machine.execBoot c s
  | .repair badStables badStalls => Sys2Proof.Machine.execRepair badStables badStalls s
  | .mclPhase good => Sys2Proof.Machine.execMclPhase good s
  | .memory failed patternBad temps canaryBad => Sys2Proof.Machine.execMemory failed patternBad temps canaryBad s
  | .finish portsUp peers => Sys2Proof.Machine.execFinish portsUp peers s
  | .halterNLow => Sys2Proof.Machine.execHalterNLow s
  | .halterAcknowledged entryNs => Sys2Proof.Machine.execHalterAcknowledged entryNs s
  | .halterNHigh => Sys2Proof.Machine.execHalterNHigh s
  | .call => Sys2Proof.Machine.execCall s
  | .arbitrationWindow samples => Sys2Proof.Machine.execArbitrationWindow samples s
  | .assign serial seat collided => Sys2Proof.Machine.execAssign serial seat collided s
  | .release seat collided => Sys2Proof.Machine.execRelease seat collided s
  | .read seat offset count collided => Sys2Proof.Machine.execRead seat offset count collided s
  | .status seat collided => Sys2Proof.Machine.execStatus seat collided s
  | .identity seat collided => Sys2Proof.Machine.execIdentity seat collided s
  | .postBusUnknownOp op seat collided => Sys2Proof.Machine.execPostBusUnknownOp op seat collided s
  | .testLogicReset => Sys2Proof.Machine.execTestLogicReset s
  | .bypass die => Sys2Proof.Machine.execBypass die s
  | .idcode die => Sys2Proof.Machine.execIdcode die s
  | .samplePreload die pins cells => Sys2Proof.Machine.execSamplePreload die pins cells s
  | .extest die => Sys2Proof.Machine.execExtest die s
  | .clamp die => Sys2Proof.Machine.execClamp die s
  | .highz die => Sys2Proof.Machine.execHighz die s
  | .extestPulse die => Sys2Proof.Machine.execExtestPulse die s
  | .extestTrain die => Sys2Proof.Machine.execExtestTrain die s
  | .readout addr => Sys2Proof.Machine.execReadout addr s
  | .kernel p ctx => Sys2Proof.Machine.execKernel p ctx s
  | .kMm stable => Sys2Proof.Machine.execKMm stable s
  | .kConv stable => Sys2Proof.Machine.execKConv stable s
  | .kDist stable => Sys2Proof.Machine.execKDist stable s
  | .kTopk stable => Sys2Proof.Machine.execKTopk stable s
  | .kCompact stable => Sys2Proof.Machine.execKCompact stable s
  | .kExpand stable => Sys2Proof.Machine.execKExpand stable s
  | .feedEvent stable ready u => Sys2Proof.Machine.execFeedEvent stable ready u s
  | .rampDown stable ranks => Sys2Proof.Machine.execRampDown stable ranks s
  | .rampUp stable ranks => Sys2Proof.Machine.execRampUp stable ranks s
  | .kernelBoundary stable => Sys2Proof.Machine.execKernelBoundary stable s
  | .stableReplacement stable => Sys2Proof.Machine.execStableReplacement stable s
  | .stableCopyDone stable => Sys2Proof.Machine.execStableCopyDone stable s
  | .groomParityError stable => Sys2Proof.Machine.execGroomParityError stable s
  | .recordEnd p ctx ordinal => Sys2Proof.Machine.execRecordEnd p ctx ordinal s
  | .branch p ctx ordinal => Sys2Proof.Machine.execBranch p ctx ordinal s
  | .gLd stable => Sys2Proof.Machine.execGLd stable s
  | .gSt stable => Sys2Proof.Machine.execGSt stable s
  | .gLdk stable => Sys2Proof.Machine.execGLdk stable s
  | .gMov stable => Sys2Proof.Machine.execGMov stable s
  | .gGath stable => Sys2Proof.Machine.execGGath stable s
  | .gScat stable => Sys2Proof.Machine.execGScat stable s
  | .gSel stable => Sys2Proof.Machine.execGSel stable s
  | .gRand stable => Sys2Proof.Machine.execGRand stable s
  | .gAdd stable => Sys2Proof.Machine.execGAdd stable s
  | .gSub stable => Sys2Proof.Machine.execGSub stable s
  | .gMul stable => Sys2Proof.Machine.execGMul stable s
  | .gFma stable => Sys2Proof.Machine.execGFma stable s
  | .gFms stable => Sys2Proof.Machine.execGFms stable s
  | .gFnma stable => Sys2Proof.Machine.execGFnma stable s
  | .gFnms stable => Sys2Proof.Machine.execGFnms stable s
  | .gMax stable => Sys2Proof.Machine.execGMax stable s
  | .gMin stable => Sys2Proof.Machine.execGMin stable s
  | .gAbs stable => Sys2Proof.Machine.execGAbs stable s
  | .gNeg stable => Sys2Proof.Machine.execGNeg stable s
  | .gCmp stable => Sys2Proof.Machine.execGCmp stable s
  | .gRcp stable => Sys2Proof.Machine.execGRcp stable s
  | .gDiv stable => Sys2Proof.Machine.execGDiv stable s
  | .gSqrt stable => Sys2Proof.Machine.execGSqrt stable s
  | .gRsqrt stable => Sys2Proof.Machine.execGRsqrt stable s
  | .gExp stable => Sys2Proof.Machine.execGExp stable s
  | .gLog stable => Sys2Proof.Machine.execGLog stable s
  | .gTanh stable => Sys2Proof.Machine.execGTanh stable s
  | .gSig stable => Sys2Proof.Machine.execGSig stable s
  | .gErf stable => Sys2Proof.Machine.execGErf stable s
  | .gRsum stable => Sys2Proof.Machine.execGRsum stable s
  | .gCsum stable => Sys2Proof.Machine.execGCsum stable s
  | .gRmax stable => Sys2Proof.Machine.execGRmax stable s
  | .gCmax stable => Sys2Proof.Machine.execGCmax stable s
  | .gRmin stable => Sys2Proof.Machine.execGRmin stable s
  | .gCmin stable => Sys2Proof.Machine.execGCmin stable s
  | .gRep stable => Sys2Proof.Machine.execGRep stable s
  | .gScal stable => Sys2Proof.Machine.execGScal stable s
  | .sMv p ctx ordinal n fails => Sys2Proof.Machine.execSMv p ctx ordinal n fails s
  | .sAttn p ctx ordinal n fails => Sys2Proof.Machine.execSAttn p ctx ordinal n fails s
  | .sAcomb p ctx ordinal n => Sys2Proof.Machine.execSAcomb p ctx ordinal n s
  | .sCopy p ctx ordinal n => Sys2Proof.Machine.execSCopy p ctx ordinal n s
  | .sFill p ctx ordinal n => Sys2Proof.Machine.execSFill p ctx ordinal n s
  | .move engine => Sys2Proof.Machine.execMove engine s
  | .xpose engine => Sys2Proof.Machine.execXpose engine s
  | .turnoutJobEnd engine => Sys2Proof.Machine.execTurnoutJobEnd engine s
  | .xferSend p ctx ordinal => Sys2Proof.Machine.execXferSend p ctx ordinal s
  | .xferRecv p ctx ordinal => Sys2Proof.Machine.execXferRecv p ctx ordinal s
  | .phase p ctx => Sys2Proof.Machine.execPhase p ctx s
  | .stepBegin p ctx => Sys2Proof.Machine.execStepBegin p ctx s
  | .forwardPassEnd p ctx => Sys2Proof.Machine.execForwardPassEnd p ctx s
  | .lossPassEnd p ctx => Sys2Proof.Machine.execLossPassEnd p ctx s
  | .backwardEnd p ctx => Sys2Proof.Machine.execBackwardEnd p ctx s
  | .collectEnd p ctx => Sys2Proof.Machine.execCollectEnd p ctx s
  | .commit p ctx => Sys2Proof.Machine.execCommit p ctx s
  | .drainEnd p ctx => Sys2Proof.Machine.execDrainEnd p ctx s
  | .bind p ctx => Sys2Proof.Machine.execBind p ctx s
  | .servingCommitPoint p ctx sampled => Sys2Proof.Machine.execServingCommitPoint p ctx sampled s
  | .deliver p ctx => Sys2Proof.Machine.execDeliver p ctx s
  | .servingDrain p ctx => Sys2Proof.Machine.execServingDrain p ctx s
  | .modelSwap p => Sys2Proof.Machine.execModelSwap p s
  | .switch p => Sys2Proof.Machine.execSwitch p s
  | .saveComplete p => Sys2Proof.Machine.execSaveComplete p s
  | .resumeComplete p => Sys2Proof.Machine.execResumeComplete p s
  | .swap p => Sys2Proof.Machine.execSwap p s
  | .tableRebuildDone p ctx => Sys2Proof.Machine.execTableRebuildDone p ctx s
  | .tableSwitch p ctx => Sys2Proof.Machine.execTableSwitch p ctx s
  | .swapInComplete p ctx => Sys2Proof.Machine.execSwapInComplete p ctx s
  | .ostlerTakeover ostler => Sys2Proof.Machine.execOstlerTakeover ostler s
  | .selfCheckFailure isStable unit => Sys2Proof.Machine.execSelfCheckFailure isStable unit s
  | .driftRecomputeDone p ctx => Sys2Proof.Machine.execDriftRecomputeDone p ctx s

end Sys2Proof.Machine
end

