-- ==== Sys2Proof/Machine/Tick.lean ====
section
/-!
DEFINITION. One rising edge of REFCLK with no command waiting (R17, R89; log 2): the
reference counters, the counts of the progress watchdog (R76) and of block_after (R526).
-/

namespace Sys2Proof.Machine

/-- An ostler out of reset counts the edge (R89). -/
def Ostler.tick (o : Ostler) : Ostler := { o with count := o.count + 1 }

/-- The stable has work issued that makes no progress: its share has begun and not ended, the job runs, and no replacement holds it (R76; log 81). -/
def State.stalls (s : State) (n : Nat) : Bool :=
  s.running && (match s.kop? n with
    | some o => o.run.begun && !(o.run.kdone && o.run.gdone) && !(s.stable n).stopped && (s.stable n).copying.isNone
    | none => false)

/-- One more reference cycle without progress (R76). -/
def Stable.waitsOne (x : Stable) : Stable := { x with watch := x.watch + 1 }

/-- Every wait of the paddock's running context is on an external source (R526). -/
def State.waitsOn (s : State) (p : Nat) : Bool :=
  match (s.pd p).running.bind (s.ctx p) with
  | some x => x.state == .running && s.onlyOutside p x
  | none => false

/-- One more reference cycle of such a wait, or none. -/
def Paddock.waits (on : Bool) (d : Paddock) : Paddock := { d with waited := if on then d.waited + 1 else 0 }

/-- Every ostler that has left reset counts, the watchdog counts each stable that makes no progress, and, but in a freeze, each paddock the wait of its running context (R76, R89, R93, R526); the ports' codewords go on (R410, R411); a FIRMWARE_WRITE in progress ends (R653; log 2); nothing else changes. -/
def tick (s : State) : State :=
  if s.start.phase = 0 then s
  else
    ({ s with
      ostlers := s.ostlers.map Ostler.tick
      ports := s.ports.map (Port.cycle s.linkName s.freeze.halter s.now16)
      pads := if s.frozen then s.pads else s.pads.zipIdx.map fun dp => dp.1.waits (s.waitsOn dp.2)
      stables := s.stables.zipIdx.map fun xn => if s.stalls xn.2 then xn.1.waitsOne else xn.1 } : State).firmwareEnds

end Sys2Proof.Machine
end

