-- ==== Sys2Proof/Safety.lean ====
section
/-!
DEFINITION. The words in which claims speak of a run: what the exchange of letters
may change, a letter that is accepted, and the invariants of the machine.
-/

namespace Sys2Proof.Machine

/-! ### Invariants -/

/-- The state has as many units as the module: 2 dies, 20 ostlers, 192 channels and sheds, 72 stables, 16 paddocks, 32 ports (R25, R34). -/
abbrev State.full (s : State) : Prop :=
  s.dies.length = 2 ∧ s.ostlers.length = 20 ∧ s.channels.length = 192 ∧ s.sheds.length = 192 ∧
    s.stables.length = 72 ∧ s.pads.length = 16 ∧ s.ports.length = 32

/-- The settings of the device stand in their ranges: the module cap (R53), the scrub period (R264), and no feature granted that the fuses lack (R566, R585). -/
abbrev State.settingsOk (s : State) : Prop :=
  (800 ≤ s.power.moduleCap ∧ s.power.moduleCap ≤ 2400) ∧ (1 ≤ s.scrubHours ∧ s.scrubHours ≤ 168) ∧
    s.grant &&& s.otp.features % 2 ^ 16 = s.grant

/-- The invariant of the machine: memory in its canonical form, every unit there, settings in range. -/
abbrev State.Inv (s : State) : Prop := s.mem.wf = true ∧ s.full ∧ s.settingsOk

/-! ### Letters -/

/-- A command that is a letter: its ring, its kind, the bytes of payload that the kind needs (R573, R576), its header. -/
def letterOf : Instr → Option (Nat × Nat × Nat × LetterHead)
  | .hello p h _ _ => some (p, 0x0001, 4, h)
  | .features p h _ => some (p, 0x0002, 32, h)
  | .powerCap p h _ => some (p, 0x0003, 2, h)
  | .scrubSet p h _ => some (p, 0x0004, 1, h)
  | .remountMap p h _ => some (p, 0x0005, 12, h)
  | .warmPrepare p h _ => some (p, 0x0010, 2, h)
  | .warmHandback p h _ _ _ _ => some (p, 0x0011, 21, h)
  | .trainingRead p h _ => some (p, 0x0012, 12, h)
  | .configRead p h _ => some (p, 0x0013, 12, h)
  | .configWrite p h _ => some (p, 0x0014, 8, h)
  | .attest p h _ _ _ => some (p, 0x0018, 44, h)
  | .firmwareWrite p h _ _ => some (p, 0x0019, 12, h)
  | .rollbackCommit p h _ => some (p, 0x001A, 1, h)
  | .segmentSet p h _ => some (p, 0x001B, 2, h)
  | .identityRead p h _ => some (p, 0x001C, 12, h)
  | .paddockOpen p h _ _ _ _ => some (p, 0x0020, 20, h)
  | .paddockClose p h => some (p, 0x0021, 0, h)
  | .paddockResize p h _ _ => some (p, 0x0022, 38, h)
  | .paddockMap p h _ _ _ _ => some (p, 0x0023, 13, h)
  | .schedSet p h _ _ => some (p, 0x0024, 10, h)
  | .paddockPower p h _ => some (p, 0x0025, 2, h)
  | .historySet p h _ => some (p, 0x0026, 1, h)
  | .stateRead p h _ _ _ _ _ => some (p, 0x0027, 22, h)
  | .parcelLoad p h _ _ _ _ => some (p, 0x0040, 21, h)
  | .parcelUnload p h _ => some (p, 0x0041, 1, h)
  | .stepRun p h _ _ _ => some (p, 0x0042, 13, h)
  | .checkpoint p h _ _ => some (p, 0x0043, 9, h)
  | .restore p h _ _ => some (p, 0x0044, 9, h)
  | .initialise p h _ _ _ _ => some (p, 0x0045, 12, h)
  | .admitLetter p h _ => some (p, 0x0060, 63, h)
  | .cancel p h => some (p, 0x0061, 0, h)
  | .requestRead p h => some (p, 0x0062, 0, h)
  | .membership p h _ _ _ _ _ _ => some (p, 0x0080, 36, h)
  | .replay p h _ _ _ _ _ _ _ _ => some (p, 0x0081, 31, h)
  | .diagCounters p h _ _ _ => some (p, 0x00A0, 15, h)
  | .refcount p h _ => some (p, 0x00A1, 1, h)
  | .freezeInfo p h _ => some (p, 0x00A2, 12, h)
  | _ => none

/-- A paddock without what stands in its ring: only whether the ring is enabled, and where it lies. -/
def Paddock.noRing (d : Paddock) : Paddock := { d with ring := { Ring.off with en := d.ring.en, base := d.ring.base } }

/-- An address that the exchange of letters may write: the outbound slots and the index lines of an enabled ring (R554, R569). -/
def State.inRing (s : State) (a : Nat) : Prop :=
  ∃ q, (s.pd q).ring.en = true ∧ windowBase + (s.pd q).ring.base + 0x4000 ≤ a ∧ a < windowBase + (s.pd q).ring.base + 0x8100

/-- t is s but for what the exchange of letters changes: what stands in the rings, companion memory in the outbound slots and index lines of enabled rings, MCL, and letters that a freeze defers. -/
def Posted (s t : State) : Prop :=
  ∃ m c f ps, t = { s with mem := m, mcl := c, deferred := f, pads := ps } ∧
    ps.map Paddock.noRing = s.pads.map Paddock.noRing ∧
    (s.mem.wf = true → m.wf = true ∧ ∀ a, ¬ s.inRing a → memGet m a = memGet s.mem a)

/-- Ring p takes up a letter whose header and payload pass the checks that every letter passes (R558, R573, R584, R606, R513). -/
def State.accepts (s : State) (p kind need : Nat) (h : LetterHead) : Bool :=
  decide (p < 16) && s.takesLetters p && (s.letterCheck p kind need h).isNone

/-- The header and payload of a letter are in form and in sequence (R558, R573). -/
abbrev State.inForm (s : State) (p need : Nat) (h : LetterHead) : Prop :=
  1 ≤ h.length ∧ h.length ≤ 8 ∧ h.sequence % 2 ^ 32 = (s.pd p).ring.expected ∧ h.unlisted = none ∧ 16 + need ≤ 64 * h.length ∧ h.flags < 2 ∧
    h.reserved = 0

/-- The letter is taken up: the consumer index moves past it, and the next sequence is expected (R557, R558). -/
def State.took (s : State) (p : Nat) (h : LetterHead) : State :=
  (s.consume p (if h.length = 0 ∨ 8 < h.length then 1 else h.length)).modRing p fun r =>
    { r with expected := (h.sequence + 1) % 2 ^ 32 }

/-- A buffer that a bulk read of n bytes may use (R37, R575). -/
def bulkHolds (b : Bulk) (n : Nat) : Bool := decide (b.addr % 64 = 0) && inWindow b.addr b.len && decide (n ≤ b.len)

/-- The reply to a letter of kind `kind` on ring p goes out (R571). -/
def State.answered (s : State) (p kind : Nat) (h : LetterHead) (status : Nat) (payload : List Byte) : State :=
  s.reply p kind (owedOf h) status payload

/-! ### Companion messages -/

/-- A message of the companion: its place in the codewords, and the credit that it takes: request slots, data units, invalidation slots (R425, R429). -/
def mcOf : Instr → Option (McHead × Nat × Nat × Nat)
  | .pbxbaseEnable m _ p _ => if p < 16 then some (m, 1, 1, 0) else none
  | .pbxbaseDisable m _ p _ => if p < 16 then some (m, 1, 1, 0) else none
  | .cfgWr m _ _ v => some (m, 1, if v.isSome then 1 else 0, 0)
  | .apRd m _ _ _ => some (m, 1, 0, 0)
  | .inv m _ _ _ => some (m, 0, 0, 1)
  | .cmp m _ _ => some (m, 0, 0, 0)
  | .cmpD m _ _ _ => some (m, 0, 0, 0)
  | .credit m _ _ _ => some (m, 0, 0, 0)
  | .ack m _ => some (m, 0, 0, 0)
  | .retry m _ => some (m, 0, 0, 0)
  | _ => none

/-- The message stands in the codeword expected, under credit, with no reserved op or field, while MCL is trained (R425, R429, R430). -/
abbrev State.mcNext (s : State) (m : McHead) (requests dataUnits invs : Nat) : Prop :=
  s.hearsMcl = true ∧ m.cseq = s.mcl.cseqIn ∧ m.sound = true ∧ s.mcl.allows requests dataUnits invs = true

/-- MCL once the message has been taken (R429, R430). -/
def State.mcTook (s : State) (m : McHead) (requests dataUnits invs : Nat) : Mcl :=
  { s.mcl with heardAt := s.now16 }.took m requests dataUnits invs

/-- A CFG_WR has been taken and answered (R425, R432). -/
def State.mcWrote (s : State) (m : McHead) (tag : Nat) : State := { s with mcl := (s.mcTook m 1 1 0).answer tag 0 [] }

/-- A protocol error: MCL retrains (R425, R431). -/
def State.mcBad (s : State) : State := { s with mcl := { s.mcl with heardAt := s.now16, trained := false } }

/-! ### Frames -/

/-- A command that is a frame on a link other than LINK: its port and its header (R412). -/
def frameOf : Instr → Option (Nat × FrameHead)
  | .grad n f _ _ => some (n, f)
  | .sealFrame n f _ => some (n, f)
  | .close n f _ => some (n, f)
  | .param n f _ _ => some (n, f)
  | .xfer n f _ _ _ _ _ => some (n, f)
  | .epoch n f _ => some (n, f)
  | _ => none

/-- How many frames a record takes, when it comes as one command (R458). -/
def frameCount : Instr → Nat
  | .sealFrame _ _ r => (FrameBody.sealed r).frames
  | .close _ _ r => (FrameBody.close r).frames
  | _ => 1

/-- The stage that takes a frame (R414; log 54). -/
def frameStage : Instr → Nat
  | .grad _ f _ _ => f.tree % pathStage
  | .param _ _ _ _ => writerStage
  | .xfer _ f _ src k _ _ => xferStage f.tag src k
  | _ => pathStage

/-- A port that has taken a frame, or the n frames of a record, in order (R413, R414). -/
def Port.taken (x : Port) (now n stage cells : Nat) : Port :=
  { x with heardAt := now, lseqIn := (x.lseqIn + n) % 2 ^ 32, asksResend := false, owes := true }.frees stage cells

/-- The frame cannot be taken yet: its paddock has no ostler (R46), or what its work reaches waits for a table switch or a swap (R540, R545). -/
def frameHeld (i : Instr) (s : State) : Bool :=
  match i with
  | .grad _ f _ _ => s.frameAwaits f.tag
  | .param _ f _ _ => s.frameAwaits f.tag
  | .sealFrame _ f _ => s.frameWaits f.tag || s.frameAwaits f.tag
  | .close _ f _ => s.frameWaits f.tag || s.frameAwaits f.tag
  | .xfer _ f d src k _ _ => s.frameAwaits f.tag || s.xferWaits f.tag d src k
  | .epoch _ f _ => s.frameWaits f.tag
  | _ => false

/-- A frame stands next in its port's order, whole, while the module runs (R412, R413). -/
abbrev State.frameNext (s : State) (n : Nat) (f : FrameHead) : Prop :=
  n < 32 ∧ n < s.ports.length ∧ s.running = true ∧ (s.port n).carries = true ∧ f.crcOk = true ∧ f.lseq = (s.port n).lseqIn

/-- The frame's job is loaded in context c of paddock p, its paddock is served, the peer is the one that the job names (R415), and nothing that its work reaches waits for a table switch (R545). -/
abbrev State.frameFor (s : State) (n : Nat) (f : FrameHead) (p c : Nat) (x : Ctx) : Prop :=
  s.frameNext n f ∧ s.jobOf f.tag = some (p, c, x) ∧ s.served p = true ∧ s.peerOk x n = true ∧ x.updateWaits = false

/-! ### The groom -/

/-- A command that issues a groom instruction: its stable and the instruction's opcode (R159, R166-R171, R178). -/
def groomOp : Instr → Option (Nat × Nat)
  | .gLd n => some (n, 0x01)
  | .gSt n => some (n, 0x02)
  | .gLdk n => some (n, 0x03)
  | .gMov n => some (n, 0x04)
  | .gGath n => some (n, 0x05)
  | .gScat n => some (n, 0x06)
  | .gSel n => some (n, 0x07)
  | .gRand n => some (n, 0x08)
  | .gAdd n => some (n, 0x10)
  | .gSub n => some (n, 0x11)
  | .gMul n => some (n, 0x12)
  | .gFma n => some (n, 0x13)
  | .gFms n => some (n, 0x14)
  | .gFnma n => some (n, 0x15)
  | .gFnms n => some (n, 0x16)
  | .gMax n => some (n, 0x17)
  | .gMin n => some (n, 0x18)
  | .gAbs n => some (n, 0x19)
  | .gNeg n => some (n, 0x1A)
  | .gCmp n => some (n, 0x1B)
  | .gRcp n => some (n, 0x20)
  | .gDiv n => some (n, 0x21)
  | .gSqrt n => some (n, 0x22)
  | .gRsqrt n => some (n, 0x23)
  | .gExp n => some (n, 0x28)
  | .gLog n => some (n, 0x29)
  | .gTanh n => some (n, 0x2A)
  | .gSig n => some (n, 0x2B)
  | .gErf n => some (n, 0x2C)
  | .gRsum n => some (n, 0x30)
  | .gCsum n => some (n, 0x31)
  | .gRmax n => some (n, 0x32)
  | .gCmax n => some (n, 0x33)
  | .gRmin n => some (n, 0x34)
  | .gCmin n => some (n, 0x35)
  | .gRep n => some (n, 0x3C)
  | .gScal n => some (n, 0x3D)
  | _ => none

/-- What an element-wise instruction makes of element i of its sources, before the one rounding, and how that rounds (R159-R167). -/
def elementOp : Instr → Option (Nat × (Nat → Groom → Nat → Nat → ERes) × (Nat → Rnd))
  | .gMov n => some (n, fun _ => un El.copy, fun _ => .rne)
  | .gSel n => some (n, fun _ => tern El.sel, fun _ => .rne)
  | .gAdd n => some (n, fun w => bin (El.add (addMode w)), GW.rnd)
  | .gSub n => some (n, fun w => bin (El.sub (addMode w)), GW.rnd)
  | .gMul n => some (n, fun _ => bin El.mul, GW.rnd)
  | .gFma n => some (n, fun w => tern (El.fma (addMode w) false false), GW.rnd)
  | .gFms n => some (n, fun w => tern (El.fma (addMode w) false true), GW.rnd)
  | .gFnma n => some (n, fun w => tern (El.fma (addMode w) true false), GW.rnd)
  | .gFnms n => some (n, fun w => tern (El.fma (addMode w) true true), GW.rnd)
  | .gMax n => some (n, fun _ => bin El.max, fun _ => .rne)
  | .gMin n => some (n, fun _ => bin El.min, fun _ => .rne)
  | .gAbs n => some (n, fun _ => un El.abs, fun _ => .rne)
  | .gNeg n => some (n, fun _ => un El.neg, fun _ => .rne)
  | .gCmp n => some (n, fun w => bin (El.cmp (GW.cond w)), fun _ => .rne)
  | .gRcp n => some (n, fun _ => un El.rcp, fun _ => .rne)
  | .gDiv n => some (n, fun _ => bin El.div, GW.rnd)
  | .gSqrt n => some (n, fun _ => un El.sqrt, GW.rnd)
  | .gRsqrt n => some (n, fun _ => un El.rsqrt, fun _ => .rne)
  | .gExp n => some (n, fun _ => un El.exp, fun _ => .rne)
  | .gLog n => some (n, fun _ => un El.ln, fun _ => .rne)
  | .gTanh n => some (n, fun _ => un El.tanh, fun _ => .rne)
  | .gSig n => some (n, fun _ => un El.sig, fun _ => .rne)
  | .gErf n => some (n, fun _ => un El.erf, fun _ => .rne)
  | _ => none

/-- A reduction: whether along rows, whether it is a sum, and how two children combine under a rounding mode (R162, R166). -/
def reductionOp : Instr → Option (Nat × Bool × Bool × (Rnd → Ext → Ext → ERes))
  | .gRsum n => some (n, true, true, El.add)
  | .gCsum n => some (n, false, true, El.add)
  | .gRmax n => some (n, true, false, fun _ => El.max)
  | .gCmax n => some (n, false, false, fun _ => El.max)
  | .gRmin n => some (n, true, false, fun _ => El.min)
  | .gCmin n => some (n, false, false, fun _ => El.min)
  | _ => none

/-- The groom of stable n may issue word w of the share o at its head (R150, R159, R173). -/
abbrev State.groomAt (s : State) (n : Nat) (o : Kop) (w : Nat) : Prop :=
  n < 72 ∧ n < s.stables.length ∧ s.running = true ∧ s.kop? n = some o ∧ s.canIssue o = true ∧
    s.groomWord o (s.groom n).pc = .ok w

/-- The share goes on after the instruction: its K.* operation has not ended, or the program has a further word (R171, R174). -/
abbrev State.groomGoesOn (s : State) (n : Nat) (o : Kop) : Prop :=
  o.run.kdone = false ∨ (loopBack ((s.groom n).pc + 1) (s.groom n).loops).1 < o.k.progLen

/-- t is s but for the groom of stable n, which has ended an instruction with these flags, and the mark that its program has ended (R171, R174-R178). -/
def groomEnded (s t : State) (n : Nat) (o : Kop) (flags : Nat) : Prop :=
  t = { s with stables := t.stables } ∧ (∀ k, k ≠ n → t.stable k = s.stable k) ∧
    t.stable n = { s.stable n with groom := (t.stable n).groom, queue := (t.stable n).queue, watch := 0, warned := false } ∧
    (t.groom n).pc = (loopBack ((s.groom n).pc + 1) (s.groom n).loops).1 ∧ (t.groom n).elem = 0 ∧
    (t.groom n).last = flags ∧ (t.groom n).flags = (s.groom n).flags ||| flags ∧
    (t.stable n).queue.tail = (s.stable n).queue.tail ∧
    ((t.stable n).queue.head?.map (·.gdone)) = some (decide (o.k.progLen ≤ (t.groom n).pc))

/-! ### Stables and records -/

/-- A command that runs a K.* operation: its stable and the code of the operation (R591). -/
def kOp : Instr → Option (Nat × Nat)
  | .kMm n => some (n, 1)
  | .kConv n => some (n, 2)
  | .kDist n => some (n, 3)
  | .kTopk n => some (n, 4)
  | .kCompact n => some (n, 5)
  | .kExpand n => some (n, 6)
  | _ => none

/-- The stable works on a share that has begun and not ended. -/
def Stable.busy (x : Stable) : Prop := ∃ r rs, x.queue = r :: rs ∧ r.begun = true ∧ (r.kdone && r.gdone) = false

/-- Stable n works on the share o, whose K.* operation can go on: its ranks are up, and no pre-emption holds it at its point (R82, R136, R144, R523). -/
abbrev State.kopAt (s : State) (n : Nat) (o : Kop) : Prop :=
  n < 72 ∧ n < s.stables.length ∧ s.running = true ∧ s.kop? n = some o ∧ o.run.begun = true ∧ o.run.kdone = false ∧
    o.run.probed = false ∧ (s.stable n).stopped = false ∧ (s.stable n).copying = none ∧ (s.stable n).active = 4 ∧ s.rests o = false

/-- A context that runs, in a paddock that is served (R523, R524). -/
abbrev State.runsCtx (s : State) (p c : Nat) (x : Ctx) : Prop :=
  p < 16 ∧ c < 8 ∧ s.runs p = true ∧ s.ctx p c = some x ∧ x.state = .running

/-- Nothing of the context starts by itself: its next record has a command of its own, or none is left and LOAD is not at its end (R330, R524). -/
def Ctx.waitsForCommand (x : Ctx) : Prop :=
  match x.next? with
  | some (_, r) => ∀ t, r.body ≠ .turnout t
  | none => x.tr.phase ≠ 1 ∨ x.parcel.kind = 1 ∨ x.passOver = false

end Sys2Proof.Machine
end

