-- ==== Sys2Proof/Certificates/Slice0/Obligations.lean ====
section
/-!
DEFINITION. The statements for the provers. Each is about every state; where a
statement holds only with a unit that exists or an occasion that is there, its
hypotheses say so of the state and the operands alone.
-/

open Sys2Proof Sys2Proof.Machine

/-! ### The machine -/

/-- A step takes the command at the front of the queue and runs it with the queue's rest. -/
def Obligations.StepRunsFrontCommand : Prop :=
  ∀ (c : Instr) (cs : List Instr) (s : State), s.pending = c :: cs → step s = exec c { s with pending := cs }

/-- With no command waiting, a step is one rising edge of REFCLK: before phase 1 nothing changes; from phase 1 on every ostler counts one more, so does the watchdog of each stable whose share makes no progress, and, but in a freeze, each paddock counts the edges that its running context has waited for an external source alone; the codewords of each port that trains or carries frames go on, 25 in every 16 edges, and a LINK frame that is due goes out (R410, R411, R413); nothing else changes, unless a FIRMWARE_WRITE is in progress and the module is not frozen: then its image stands in the slot that does not run, and the write is over (R76, R89, R93, R526, R653; that an empty queue is an edge, and that a write lasts one edge, is the model's choice, log 2). -/
def Obligations.IdleStepCountsRefclkEdge : Prop :=
  ∀ s : State, s.pending = [] → ∃ t, step s = .next t ∧ (s.start.phase = 0 → t = s) ∧
    (s.start.phase ≠ 0 → t.ostlers.map (·.count) = s.ostlers.map (·.count + 1) ∧
      t.ostlers.map (fun o => (o.ok, o.standsFor, o.waits)) = s.ostlers.map (fun o => (o.ok, o.standsFor, o.waits)) ∧
      t.stables.length = s.stables.length ∧ (∀ n, n < s.stables.length →
        t.stable n = { s.stable n with watch := (s.stable n).watch + if s.stalls n then 1 else 0 }) ∧
      t.pads.length = s.pads.length ∧ (∀ p, p < s.pads.length →
        (t.pd p).noRing = ({ s.pd p with waited := if s.frozen then (s.pd p).waited else if s.waitsOn p then (s.pd p).waited + 1 else 0 } : Paddock).noRing)) ∧
    (s.start.fwWrite = none ∨ s.frozen = true → t = { s with ostlers := t.ostlers, stables := t.stables, pads := t.pads, ports := t.ports }) ∧
    (s.start.phase ≠ 0 → t.ports = s.ports.map (Port.cycle s.linkName s.freeze.halter s.now16)) ∧
    (∀ (x : Port) own held now, let y := x.cycle own held now
      (x.carries = false ∨ x.owes = false ∨ held = true → y = { x with wordOut := y.wordOut } ∧
        y.wordOut = (if x.state = .down ∨ x.state = .out then x.wordOut else (x.wordOut + (25 * (now + 1) / 16 - 25 * now / 16)) % 16)) ∧
      (x.carries = true → x.owes = true → held = false → y.owes = false ∧ y.returned = [] ∧
        ∃ w c i, y.link = some ⟨16, x.lseqOut, w, c, 0, 0, .link i⟩ ∧ i = x.linkInfo own.1 own.2)) ∧
    (s.start.phase ≠ 0 → s.frozen = false → ∀ slot p tag quiet, s.start.fwWrite = some (slot, p, tag, quiet) →
      t.spare = slot ∧ t.image = s.image ∧ t.start = { s.start with fwWrite := none } ∧ t.otp = s.otp)

/-- What reset leaves: phase 0 with READY and FAULT clear, both dies at 750 mV, no feature granted, a module cap of 2,400 W, a scrub period of 24 hours, every paddock CLOSED with its ring disabled and nothing loaded, no letter or expiry held, HALTER_N acting (R47, R53, R264, R513, R564, R585, R605). The invariant holds at reset. -/
def Obligations.ResetLeavesPhaseZero : Prop :=
  (State.reset.start.phase = 0 ∧ State.reset.start.ready = false ∧ State.reset.start.fault = false ∧
     (∀ d ∈ State.reset.dies, d.vcore = 750) ∧ State.reset.grant = 0 ∧ State.reset.power.moduleCap = 2400 ∧
     State.reset.scrubHours = 24 ∧ (∀ d ∈ State.reset.pads, d.state = .closed ∧ d.ring.en = false ∧ ∀ c ∈ d.ctxs, c = none) ∧
     State.reset.expiries = [] ∧ State.reset.deferred = [] ∧ State.reset.pending = [] ∧ State.reset.mem = []) ∧
  (State.reset.Inv)

/-- Every step keeps the invariant: memory stays in its canonical form, no unit appears or is lost, the module cap stays within 800 to 2,400 W, the scrub period within 1 to 168 hours, and no feature is granted that the fuses lack. -/
def Obligations.StepKeepsInvariant : Prop :=
  ∀ s t : State, s.Inv → step s = .next t → t.Inv

/-- No step lowers the rollback floor, forgets a reserved signature index or changes the fused serial and features (R647, R655, R659). A command leaves the queue of waiting commands alone. -/
def Obligations.StepKeepsWhatIsPermanent : Prop :=
  (∀ s t : State, step s = .next t →
     s.otp.floor ≤ t.otp.floor ∧ s.flash.idxA <:+ t.flash.idxA ∧ t.otp.serial = s.otp.serial ∧ t.otp.features = s.otp.features) ∧
  (∀ (c : Instr) (s t : State), exec c s = .next t → t.pending = s.pending)

/-! ### Letters in general -/

/-- A letter on a ring that takes none changes nothing: it waits (R557, R560, R608, R620, R624). A letter that fails a check is answered with that check's status and does nothing else: a length of 0 or above 8 (0x0101), another sequence than the expected one (0x0102), a kind that no table lists (0x0001), a payload too short for the kind or a reserved bit set (0x0101), a letter before HELLO (0x0003), a letter before phase 7 that waits for phase 7 (0x0003), PADDOCK_OPEN in a paddock that is not CLOSED, and any other letter of a paddock in one that is not OPEN (0x0801). -/
def Obligations.LettersNotAcceptedAreAnsweredOrWait : Prop :=
  (∀ (c : Instr) (s : State) (p kind need : Nat) (h : LetterHead), letterOf c = some (p, kind, need, h) → p < 16 →
     s.takesLetters p = false → exec c s = .next s) ∧
  (∀ (c : Instr) (s : State) (p kind need : Nat) (h : LetterHead), letterOf c = some (p, kind, need, h) → p < 16 →
     s.takesLetters p = true →
     let answers := fun st : Nat => exec c s = .next ((s.took p h).answered p (h.unlisted.getD kind) h st [])
     (h.length = 0 ∨ 8 < h.length → answers 0x0101) ∧
     (1 ≤ h.length → h.length ≤ 8 → h.sequence % 2 ^ 32 ≠ (s.pd p).ring.expected → answers 0x0102) ∧
     (1 ≤ h.length → h.length ≤ 8 → h.sequence % 2 ^ 32 = (s.pd p).ring.expected → h.unlisted.isSome = true → answers 0x0001) ∧
     (1 ≤ h.length → h.length ≤ 8 → h.sequence % 2 ^ 32 = (s.pd p).ring.expected → h.unlisted = none →
       64 * h.length < 16 + need ∨ 2 ≤ h.flags ∨ h.reserved ≠ 0 → answers 0x0101) ∧
     (s.inForm p need h → s.start.hello = false → kind ≠ 0x0001 → answers 0x0003) ∧
     (s.inForm p need h → s.start.hello = true ∨ kind = 0x0001 → s.start.phase ≠ 7 → beforePhase7 kind = false → answers 0x0003) ∧
     (s.inForm p need h → s.start.hello = true → s.start.phase = 7 → kind = 0x0020 → (s.pd p).state ≠ .closed → answers 0x0801) ∧
     (s.inForm p need h → s.start.hello = true → s.start.phase = 7 → 0x0020 < kind → (s.pd p).state ≠ .opened → answers 0x0801) ∧
     ∀ st, Posted s ((s.took p h).answered p (h.unlisted.getD kind) h st []))

/-- Sequences of letters: the ring expects 0 after EN; a letter with another sequence than the expected one is answered with 0x0102; after a letter of either kind the next sequence is expected, modulo 2^32, and PAD leaves the expected sequence alone (R558). Completes: pbxbaseEnable, pad. -/
def Obligations.LettersCarryRisingSequences : Prop :=
  (∀ m tag p v s, p < 16 → p < s.pads.length → s.mcNext m 1 1 0 → (s.pd p).state = .closed →
    ∃ t, exec (.pbxbaseEnable m tag p v) s = .next t ∧ (t.pd p).ring.expected = 0) ∧
  (∀ (c : Instr) (s : State) (p kind need : Nat) (h : LetterHead), letterOf c = some (p, kind, need, h) → p < 16 → p < s.pads.length →
    s.takesLetters p = true → 1 ≤ h.length → h.length ≤ 8 → h.sequence % 2 ^ 32 ≠ (s.pd p).ring.expected →
    ∃ t, exec c s = .next t ∧ t = (s.took p h).answered p (h.unlisted.getD kind) h 0x0102 [] ∧ (t.pd p).ring.expected = (h.sequence + 1) % 2 ^ 32) ∧
  (∀ (s : State) (p : Nat) (h : LetterHead), p < s.pads.length → ((s.took p h).pd p).ring.expected = (h.sequence + 1) % 2 ^ 32) ∧
  (∀ (p : Nat) (h : LetterHead) (s : State), p < 16 → s.takesLetters p = true → 1 ≤ h.length → h.length ≤ 8 →
    ∃ t, exec (.pad p h) s = .next t ∧ (t.pd p).ring.expected = (s.pd p).ring.expected)

/-- Taking a letter up moves the consumer index past its slots, in the ring and in the consumer line of companion memory, and makes its sequence plus one the expected one; every other byte of memory stays (R554, R557, R558). PAD is skipped without a reply: the consumer index moves past its slots, and the expected sequence stays (R556). Completes: pad. -/
def Obligations.TakenLetterMovesTheConsumer : Prop :=
  (∀ (s : State) (p : Nat) (h : LetterHead), s.mem.wf = true → p < s.pads.length → (s.pd p).ring.en = true → 1 ≤ h.length → h.length ≤ 8 →
     ((s.took p h).pd p).ring.consumer = ((s.pd p).ring.consumer + h.length) % 2 ^ 32 ∧
     ((s.took p h).pd p).ring.expected = (h.sequence + 1) % 2 ^ 32 ∧
     (s.took p h).rdComp ((s.pd p).ring.base + 0x8040) 4 = leBytes 4 (((s.pd p).ring.consumer + h.length) % 2 ^ 32) ∧
     (∀ a, a < windowBase + (s.pd p).ring.base + 0x8040 ∨ windowBase + (s.pd p).ring.base + 0x8044 ≤ a →
       memGet (s.took p h).mem a = memGet s.mem a) ∧
     Posted s (s.took p h)) ∧
  (∀ (p : Nat) (h : LetterHead) (s : State), s.mem.wf = true → p < 16 → s.takesLetters p = true → 1 ≤ h.length → h.length ≤ 8 →
     ∃ t, exec (.pad p h) s = .next t ∧ Posted s t ∧
       (t.pd p).ring = { (s.pd p).ring with consumer := ((s.pd p).ring.consumer + h.length) % 2 ^ 32 } ∧
       (∀ a, a < windowBase + (s.pd p).ring.base + 0x8040 ∨ windowBase + (s.pd p).ring.base + 0x8044 ≤ a →
         memGet t.mem a = memGet s.mem a))

/-- A letter posted on an enabled ring where nothing waits and which has room stands at once in the outbound slots, with the ring's own sequence, and the producer index moves past it in one write; every byte of memory outside its slots and the producer line stays (R556, R559, R560, R570, R571). Where the outbound ring lacks room for a reply, the reply waits and the ring takes no further letter (R560). An event letter joins the queue of its ring's events; with 4,096 waiting the oldest is dropped and counted (R560); in a freeze it is deferred (R635). -/
def Obligations.OutboundLettersAreQueuedAndPosted : Prop :=
  (∀ (s : State) (p : Nat) (l : OutLetter), s.mem.wf = true → p < s.pads.length → (s.pd p).ring.en = true →
     (s.pd p).ring.waiting = [] → (s.pd p).ring.events = [] → (s.pd p).ring.dropped = 0 →
     (s.pd p).ring.producer % 256 + l.slots ≤ 256 → s.fits p l = true →
     let r := (s.pd p).ring
     let at_ := r.base + 0x4000 + 64 * (r.producer % 256)
     (s.postSure p l).rdComp at_ (64 * l.slots) = l.bytes r.outSeq ∧
     (s.postSure p l).rdComp (r.base + 0x8080) 4 = leBytes 4 ((r.producer + l.slots) % 2 ^ 32) ∧
     ((s.postSure p l).pd p).ring.producer = (r.producer + l.slots) % 2 ^ 32 ∧
     ((s.postSure p l).pd p).ring.outSeq = (r.outSeq + 1) % 2 ^ 32 ∧ ((s.postSure p l).pd p).ring.waiting = [] ∧
     (∀ a, ¬ (windowBase + at_ ≤ a ∧ a < windowBase + at_ + 64 * l.slots) →
       ¬ (windowBase + r.base + 0x8080 ≤ a ∧ a < windowBase + r.base + 0x8084) →
       memGet (s.postSure p l).mem a = memGet s.mem a)) ∧
  (∀ (s : State) (p : Nat) (l : OutLetter), p < s.pads.length → (s.pd p).ring.en = true → (s.pd p).ring.waiting = [] →
     s.fits p l = false →
     ((s.postSure p l).pd p).ring.waiting = [l] ∧ (s.postSure p l).takesLetters p = false ∧ (s.postSure p l).mem = s.mem) ∧
  ((∀ (r : Ring) (l : OutLetter), r.events.length < 4096 →
     (r.pushEvent l).events = r.events ++ [l] ∧ (r.pushEvent l).dropped = r.dropped) ∧
   (∀ (r : Ring) (l : OutLetter), r.events.length = 4096 →
     (r.pushEvent l).events = r.events.drop 1 ++ [l] ∧ (r.pushEvent l).dropped = r.dropped + 1 ∧
       (r.pushEvent l).events.length = 4096) ∧
   (∀ (s : State) (p : Nat) (l : OutLetter), (s.pd p).ring.en = true → s.frozen = true →
     s.postEvent p l = { s with deferred := s.deferred ++ [(p, l)] }))

/-! ### The letters of the device -/

/-- HELLO opens the exchange (R584); FEATURES, while every paddock is CLOSED, grants requested AND FEATCAP AND the enable mask (R585); SCRUB_SET sets the scrub period, 1 to 168 hours (R264); SEGMENT_SET sets the segment (R645); ROLLBACK_COMMIT raises the floor to an svn that the running image reaches (R655). Each is answered, and changes nothing else but what the exchange of letters changes. A setting outside its range is refused and changes nothing but the exchange: SCRUB_SET, SEGMENT_SET and REFCOUNT with 0x0101 (R573), FEATURES with a paddock that is not CLOSED with 0x0003 (R585), ROLLBACK_COMMIT above the running image's svn with 0x0A04 (R655). Completes: hello, features, scrubSet, segmentSet, rollbackCommit. -/
def Obligations.DeviceSettingsTakeEffect : Prop :=
  ((∀ p h ma mi s, s.accepts p 0x0001 4 h = true →
     ∃ (t : State), exec (.hello p h ma mi) s = .next (t.answered p 0x0001 h 0 t.helloPayload) ∧ Posted { s with start := { s.start with hello := true } } t) ∧
   (∀ p h req s, s.accepts p 0x0002 32 h = true → s.allClosed = true →
     ∃ (t : State), exec (.features p h req) s = .next (t.answered p 0x0002 h 0 (leBytes 8 ((nth req 0 &&& s.featcap) &&& s.cfg.enable) ++ List.replicate 24 0)) ∧ Posted { s with grant := (nth req 0 &&& s.featcap) &&& s.cfg.enable } t) ∧
   (∀ p h n s, s.accepts p 0x0004 1 h = true → 1 ≤ n → n ≤ 168 →
     ∃ (t : State), exec (.scrubSet p h n) s = .next (t.answered p 0x0004 h 0 []) ∧ Posted { s with scrubHours := n } t) ∧
   (∀ p h n s, s.accepts p 0x001B 2 h = true → n ≤ 4095 →
     ∃ (t : State), exec (.segmentSet p h n) s = .next (t.answered p 0x001B h 0 (leBytes 4 t.bus.register)) ∧ Posted { s with bus := { s.bus with segment := some n } } t) ∧
   (∀ p h v s, s.accepts p 0x001A 1 h = true → v ≤ s.image.svn →
     ∃ (t : State), exec (.rollbackCommit p h v) s = .next (t.answered p 0x001A h 0 (leBytes 1 (max v s.otp.floor))) ∧ Posted { s with otp := { s.otp with floor := max v s.otp.floor } } t)) ∧
  ((∀ p h n s, s.accepts p 0x0004 1 h = true → n < 1 ∨ 168 < n →
     exec (.scrubSet p h n) s = .next ((s.took p h).answered p 0x0004 h 0x0101 [])) ∧
   (∀ p h n s, s.accepts p 0x001B 2 h = true → 4095 < n →
     exec (.segmentSet p h n) s = .next ((s.took p h).answered p 0x001B h 0x0101 [])) ∧
   (∀ p h n s, s.accepts p 0x00A1 1 h = true → 19 < n →
     exec (.refcount p h n) s = .next ((s.took p h).answered p 0x00A1 h 0x0101 [])) ∧
   (∀ p h req s, s.accepts p 0x0002 32 h = true → s.allClosed = false →
     exec (.features p h req) s = .next ((s.took p h).answered p 0x0002 h 0x0003 [])) ∧
   (∀ p h v s, s.accepts p 0x001A 1 h = true → s.image.svn < v →
     exec (.rollbackCommit p h v) s = .next ((s.took p h).answered p 0x001A h 0x0A04 [])))

/-- The module cap is 2,400 W at reset, and POWER_CAP sets it from 800 to 2,400 W; no paddock has a cap at reset, and PADDOCK_POWER sets one from 50 to 2,400 W, or unsets it with 0; a value outside is refused with 0x0902 and changes nothing but the exchange (R53). Completes: powerCap, paddockPower. -/
def Obligations.PowerCapsAreSetByLetter : Prop :=
  State.reset.power.moduleCap = 2400 ∧ (∀ d ∈ State.reset.pads, d.cap = none) ∧
  (∀ p h w s, s.accepts p 0x0003 2 h = true → 800 ≤ w → w ≤ 2400 →
    ∃ (t : State), exec (.powerCap p h w) s = .next (t.answered p 0x0003 h 0 []) ∧ Posted { s with power := { s.power with moduleCap := w } } t) ∧
  (∀ p h w s, s.accepts p 0x0003 2 h = true → w < 800 ∨ 2400 < w →
    exec (.powerCap p h w) s = .next ((s.took p h).answered p 0x0003 h 0x0902 [])) ∧
  (∀ p h w s, s.accepts p 0x0025 2 h = true → 50 ≤ w → w ≤ 2400 →
    ∃ (t : State), exec (.paddockPower p h w) s = .next (t.answered p 0x0025 h 0 []) ∧ Posted (s.modPd p fun d => { d with cap := some w }) t) ∧
  (∀ p h s, s.accepts p 0x0025 2 h = true →
    ∃ (t : State), exec (.paddockPower p h 0) s = .next (t.answered p 0x0025 h 0 []) ∧ Posted (s.modPd p fun d => { d with cap := none }) t) ∧
  (∀ p h w s, s.accepts p 0x0025 2 h = true → (w ≠ 0 ∧ w < 50) ∨ 2400 < w →
    exec (.paddockPower p h w) s = .next ((s.took p h).answered p 0x0025 h 0x0902 []))

/-- A bulk read writes its result into the buffer, granule by granule over MCL, and then answers with the number of bytes (R575): REMOUNT_MAP the map (R579), TRAINING_READ the 192 records (R247), CONFIG_READ the record of the flash (R615), IDENTITY_READ the certificate once its key is found right (R649), FREEZE_INFO the last freeze record (R634), DIAG_COUNTERS the six counters of a stable (R143). REFCOUNT answers with an ostler's reference count (R89). A bulk read whose buffer is too short writes nothing and is answered with 0x0105 and the number of bytes needed; one whose buffer is misaligned or lies past the window, with 0x0104 (R575, R37). Completes: remountMap, trainingRead, configRead, identityRead, freezeInfo, diagCounters, refcount. -/
def Obligations.DeviceReadsAnswer : Prop :=
  ((∀ p h b s, s.accepts p 0x0005 12 h = true → bulkHolds b s.remount.bytes.length = true →
     exec (.remountMap p h b) s = .next (((s.took p h).sendComp .buffer b.addr s.remount.bytes).answered p 0x0005 h 0
       (leBytes 4 s.remount.bytes.length))) ∧
   (∀ p h b s, s.accepts p 0x0012 12 h = true → bulkHolds b ((List.range 192).map s.trainingRecord).flatten.length = true →
     exec (.trainingRead p h b) s = .next (((s.took p h).sendComp .buffer b.addr ((List.range 192).map s.trainingRecord).flatten).answered
       p 0x0012 h 0 (leBytes 4 ((List.range 192).map s.trainingRecord).flatten.length))) ∧
   (∀ p h b s, s.accepts p 0x0013 12 h = true → bulkHolds b s.flash.config.length = true →
     exec (.configRead p h b) s = .next (((s.took p h).sendComp .buffer b.addr s.flash.config).answered p 0x0013 h 0
       (leBytes 4 s.flash.config.length))) ∧
   (∀ p h b s, s.accepts p 0x001C 12 h = true → s.start.certOk = some true → bulkHolds b 3204 = true →
     exec (.identityRead p h b) s = .next (((s.took p h).sendComp .buffer b.addr ((s.flash.cert ++ List.replicate 3204 0).take 3204)).answered
       p 0x001C h 0 (leBytes 4 3204))) ∧
   (∀ p h b s r, s.accepts p 0x00A2 12 h = true → s.freeze.record = some r → bulkHolds b r.bytes.length = true →
     exec (.freezeInfo p h b) s = .next (((s.took p h).sendComp .buffer b.addr r.bytes).answered p 0x00A2 h 0 (leBytes 4 r.bytes.length))) ∧
   (∀ p h i b s, s.accepts p 0x00A0 15 h = true → i < 72 → bulkHolds b ((s.stable i).diag.map (leBytes 6)).flatten.length = true →
     exec (.diagCounters p h 0 i b) s = .next (((s.took p h).sendComp .buffer b.addr ((s.stable i).diag.map (leBytes 6)).flatten).answered
       p 0x00A0 h 0 (leBytes 4 ((s.stable i).diag.map (leBytes 6)).flatten.length))) ∧
   (∀ p h o s, s.accepts p 0x00A1 1 h = true → o ≤ 19 →
     exec (.refcount p h o) s = .next ((s.took p h).answered p 0x00A1 h 0 (leBytes 8 (s.ostler o).count)))) ∧
  ((∀ p h b s, s.accepts p 0x0013 12 h = true → b.addr % 64 = 0 → inWindow b.addr b.len = true → b.len < s.flash.config.length →
     exec (.configRead p h b) s = .next ((s.took p h).answered p 0x0013 h 0x0105 (leBytes 4 s.flash.config.length))) ∧
   (∀ p h b s, s.accepts p 0x0013 12 h = true → b.addr % 64 ≠ 0 ∨ inWindow b.addr b.len = false →
     exec (.configRead p h b) s = .next ((s.took p h).answered p 0x0013 h 0x0104 [])) ∧
   (∀ p h b s, s.accepts p 0x0005 12 h = true → b.addr % 64 = 0 → inWindow b.addr b.len = true → b.len < s.remount.bytes.length →
     exec (.remountMap p h b) s = .next ((s.took p h).answered p 0x0005 h 0x0105 (leBytes 4 s.remount.bytes.length))) ∧
   (∀ p h b s, s.accepts p 0x0005 12 h = true → b.addr % 64 ≠ 0 ∨ inWindow b.addr b.len = false →
     exec (.remountMap p h b) s = .next ((s.took p h).answered p 0x0005 h 0x0104 [])))

/-- ATTEST with the certificate found right, index q left after u indices that did not program (u below 8) and a buffer of 6,452 bytes reserves q in both copies, then writes the report that names q, with its signature of 5,236 bytes under q, into the buffer, and answers with the number of bytes and q; but for the exchange of letters nothing else changes. With a certificate found wrong it is refused with 0x0A01; with no index left, or after eight that do not program, with 0x0A02 (R649, R658, R659, R661). FIRMWARE_WRITE of a whole image in the window whose svn reaches the floor makes the slot that does not run invalid and holds the image to be written there, and leaves the running slot, the floor and all else but the exchange of letters alone; the reply is owed (a step that counts an edge ends it). An image that is not whole is refused with 0x0A01, one below the floor with 0x0A04, and a second write while one is in progress with 0x0003; each leaves both slots alone (R652, R653, R655). Completes: attest, firmwareWrite. -/
def Obligations.TrustLettersAct : Prop :=
  ((∀ p h nonce b u s, s.accepts p 0x0018 44 h = true → s.start.certOk = some true → s.start.indexRefused = false → u < 8 →
     s.start.indexNext + u < indexCount → b.addr % 64 = 0 → inWindow b.addr b.len = true → 6452 ≤ b.len →
     let q := s.start.indexNext + u
     let t := (s.took p h).reserve q
     let report := t.reportBody p q nonce ++ (Config.sign q (t.reportBody p q nonce) ++ List.replicate 5236 0).take 5236
     exec (.attest p h nonce b u) s = .next ((t.sendComp .buffer b.addr report).signerLow.answered p 0x0018 h 0
       (leBytes 4 report.length ++ leBytes 4 q)) ∧
     t.flash = { s.flash with idxA := q :: s.flash.idxA, idxB := q :: s.flash.idxB } ∧
     t.start = { s.start with indexNext := q + 1 } ∧ Posted { s with flash := t.flash, start := t.start } t) ∧
   (∀ p h nonce b u s, s.accepts p 0x0018 44 h = true → s.start.certOk = some false →
     exec (.attest p h nonce b u) s = .next ((s.took p h).answered p 0x0018 h 0x0A01 [])) ∧
   (∀ p h nonce b u s, s.accepts p 0x0018 44 h = true → s.start.certOk = some true → indexCount ≤ s.start.indexNext →
     exec (.attest p h nonce b u) s = .next ((s.took p h).answered p 0x0018 h 0x0A02 [])) ∧
   (∀ p h nonce b u s, s.accepts p 0x0018 44 h = true → s.start.certOk = some true → b.addr % 64 = 0 →
     inWindow b.addr b.len = true → 6452 ≤ b.len → 8 ≤ u →
     ∃ (t : State), exec (.attest p h nonce b u) s = .next (t.answered p 0x0018 h 0x0A02 []) ∧ t.flash = s.flash)) ∧
  ((∀ p h a n s, s.accepts p 0x0019 12 h = true → s.start.fwWrite = none → n ≤ 0x800000 → inWindow a n = true →
     imageWhole ((s.took p h).rdComp a n) = true → s.otp.floor ≤ fieldAt ((s.took p h).rdComp a n) 6 1 →
     ∃ t, exec (.firmwareWrite p h a n) s = .next t ∧ t.image = s.image ∧ t.spare = ⟨false, []⟩ ∧
       t.start = { s.start with fwWrite := some (⟨true, ((s.took p h).rdComp a n).take 256⟩, p, h.tag, h.flags % 2 == 1) } ∧
       Posted (({ s with start := t.start } : State).putSpare ⟨false, []⟩) t) ∧
   (∀ p h a n s, s.accepts p 0x0019 12 h = true → s.start.fwWrite = none → n ≤ 0x800000 → inWindow a n = true →
     imageWhole ((s.took p h).rdComp a n) = false →
     exec (.firmwareWrite p h a n) s = .next ((s.took p h).answered p 0x0019 h 0x0A01 [])) ∧
   (∀ p h a n s, s.accepts p 0x0019 12 h = true → s.start.fwWrite = none → n ≤ 0x800000 → inWindow a n = true →
     imageWhole ((s.took p h).rdComp a n) = true → fieldAt ((s.took p h).rdComp a n) 6 1 < s.otp.floor →
     exec (.firmwareWrite p h a n) s = .next ((s.took p h).answered p 0x0019 h 0x0A04 [])) ∧
   (∀ p h a n s, s.accepts p 0x0019 12 h = true → s.start.fwWrite.isSome = true →
     exec (.firmwareWrite p h a n) s = .next ((s.took p h).answered p 0x0019 h 0x0003 [])))

/-- WARM_PREPARE, where every retained paddock is OPEN and no context is at work, leaves a valid warm record of the retained paddocks with their key handles and the measurement of the running image, the count of failures as it was (the model's choice, log 131), every package in self-refresh, and the module taking no further letter (R608). WARM_HANDBACK of a right map in phase 4 applies its bindings, retires its channels and goes on to phase 5 (R611, R613). CONFIG_WRITE of a right record while every paddock is CLOSED writes it to the flash (R616). Completes: warmPrepare, warmHandback, configWrite. -/
def Obligations.WarmAndConfigLettersTakeEffect : Prop :=
  (∀ p h m s, s.accepts p 0x0010 2 h = true → s.canPrepare m = true →
    ∃ t, exec (.warmPrepare p h m) s = .next t ∧ t.start = { s.start with prepared := true } ∧ t.flash.warm.valid = true ∧
      t.flash.warm.failures = s.flash.warm.failures ∧ t.flash.warm.measurement = s.image.measurement ∧
      t.flash.warm.paddocks = (bitsSet 16 m).map (fun q => ⟨q, (s.pd q).key.getD [], (s.pd q).crypt, (s.pd q).owned.packages⟩) ∧
      (∀ c ∈ t.channels, c.selfRefresh = true) ∧ t.flash.config = s.flash.config ∧ t.otp = s.otp ∧
      ∀ q, t.takesLetters q = false) ∧
  (∀ p h n a l r s, s.accepts p 0x0011 21 h = true → s.start.phase = 4 → max n s.start.failCount < 2 → inWindow a l = true →
    inWindow r 49152 = true → s.mapOk l (mapEntries (l / 16) ((s.took p h).rdComp a l)) = true →
    ∃ t, exec (.warmHandback p h n a l r) s = .next t ∧ t.start.phase = 5 ∧ t.start.handed = true ∧
      t.start.handback = some (p, h.tag, r, h.flags % 2 == 1) ∧
      t.remount.bind = bindsOf (mapEntries (l / 16) ((s.took p h).rdComp a l)) ∧
      t.remount.entries = (mapEntries (l / 16) ((s.took p h).rdComp a l)).filter (·.kind != 1) ∧
      t.flash = s.flash ∧ t.otp = s.otp ∧ t.stables = s.stables ∧ t.ports = s.ports) ∧
  (∀ p h a s, s.accepts p 0x0014 8 h = true → s.allClosed = true → inWindow a 256 = true →
    configOk ((s.took p h).rdComp a 256) = true →
    ∃ (t : State), exec (.configWrite p h a) s = .next (t.answered p 0x0014 h 0 []) ∧ Posted { s with flash := { s.flash with config := (s.took p h).rdComp a 256 } } t)

/-! ### Paddocks -/

/-- PADDOCK_OPEN of free units moves a CLOSED paddock to OPENING with its units, its slot blocks in increasing number, a key of 32 bytes of its own or the retained copy's, and encryption only where FEATURES granted it; OPENING_COMPLETE, where every pen and row store of its own reads zero, fills the packages of an encrypted paddock that is not a retained one, makes it OPEN and sends the reply with the grant; where one does not, the paddock stays OPENING (R513, R515, R516, R576, R663, R666). PADDOCK_OPEN does nothing but answer where its units cannot be had: 0x0803 where a kind of unit is missing or too many slot blocks or entries are asked for, 0x0802 where a group, package or pen belongs to another paddock (R514, R515). Completes: paddockOpen, openingComplete. -/
def Obligations.PaddocksAreOpened : Prop :=
  ((∀ p h u k ret s, s.accepts p 0x0020 20 h = true → ret ≠ 1 → s.retainedCopy p = none → s.openCheck p u = none →
     ∃ t key, exec (.paddockOpen p h u k ret true) s = .next t ∧ key.length = 32 ∧
       Posted { (s.modPd p fun d => { Paddock.closed with
         state := .opening, owned := ⟨u.groups, u.packages, u.pens, s.freeBlocks.take u.slotBlocks, u.entries⟩
         cryptAsked := k == 1, crypt := k == 1 && s.granted 10, key := some key
         opening := some (owedOf h, s.freeBlocks.take u.slotBlocks), ring := d.ring }) with free := s.free + 1, foreign := t.foreign } t) ∧
   (∀ p h u k w d s, s.accepts p 0x0020 20 h = true → s.retainedCopy p = some w → w.packages = u.packages →
     s.openCheck p u = none →
     ∃ t, exec (.paddockOpen p h u k 1 d) s = .next t ∧ (t.pd p).state = .opening ∧ (t.pd p).key = some w.handle ∧
       (t.pd p).owned = ⟨u.groups, u.packages, u.pens, s.freeBlocks.take u.slotBlocks, u.entries⟩ ∧
       t.retainedCopy p = none ∧ t.start.phase = s.start.phase ∧ t.stables = s.stables ∧ t.ports = s.ports) ∧
   (∀ p o blocks s, p < 16 → s.frozen = false → (s.pd p).state = .opening → (s.pd p).opening = some (o, blocks) →
     s.unitsZero (s.pd p).owned = true →
     exec (.openingComplete p) s = .next (((s.keyedFill p (s.pd p).owned.packages).modPd p fun d =>
       { d with state := .opened, opening := none }).reply p 0x0020 o 0 (grantPayload blocks))) ∧
   (∀ p s, p < 16 → s.unitsZero (s.pd p).owned = false → exec (.openingComplete p) s = .next s)) ∧
  (∀ p h u k ret s, s.accepts p 0x0020 20 h = true → ret ≠ 1 →
     let answers := fun st : Nat => exec (.paddockOpen p h u k ret true) s = .next ((s.took p h).answered p 0x0020 h st [])
     (u.groups = 0 ∨ u.packages = 0 ∨ u.pens = 0 ∨ 64 < u.slotBlocks ∨ u.entries = 0 ∨ 64 < u.entries → answers 0x0803) ∧
     (u.groups ≠ 0 → u.packages ≠ 0 → u.pens ≠ 0 → u.slotBlocks ≤ 64 → u.entries ≠ 0 → u.entries ≤ 64 →
       (∃ g q, g < 16 ∧ bitOf u.groups g = true ∧ q < s.pads.length ∧ bitOf (s.pd q).owned.groups g = true) ∨
         (∃ n q, n < 96 ∧ bitOf u.pens n = true ∧ q < s.pads.length ∧ bitOf (s.pd q).owned.pens n = true) → answers 0x0802))

/-- PADDOCK_CLOSE moves an OPEN paddock to CLOSING and halts every context, one inside COLLECT, SEAL, COMMIT, a serving commit or a table switch when that ends; the reply is owed. CLOSING_COMPLETE, once all are HALTED, leaves the paddock CLOSED with nothing but its ring, so without key, units and contexts; its packages, pens and row stores are zero, its expiries gone, every other paddock as it was, and the reply goes out with status 0 (R513, R518, R519, R665). PADDOCK_RESIZE of free units and of units of its own that nothing uses takes the removed units from the paddock at once and holds them, with the added ones, until RESIZE_COMPLETE, whose reply is owed; while a resize, a swap or a table rebuild is in progress the letter waits. RESIZE_COMPLETE, while no table is rebuilt and nothing is swapped in, leaves the removed packages, pens and row stores zero, gives the paddock the added units (zero where it is encrypted), leaves every other paddock as it was and sends the reply with the grant (R520, R521, R576). Completes: paddockClose, closingComplete, paddockResize, resizeComplete. -/
def Obligations.PaddocksAreClosedAndResized : Prop :=
  ((∀ p h s, s.accepts p 0x0021 0 h = true →
     ∃ t, exec (.paddockClose p h) s = .next t ∧ (t.pd p).state = .closing ∧ (t.pd p).closing = some (owedOf h) ∧
       (t.pd p).owned = (s.pd p).owned ∧ (∀ c x y, c < 8 → s.ctx p c = some x → t.ctx p c = some y →
         (x.spanCode = none → y.state = .halted) ∧
         (x.spanCode.isSome = true → y.state = .halted ∨ y.haltAfter.isSome = true)) ∧
       (∀ q c, q ≠ p → t.ctx q c = s.ctx q c) ∧ t.start = s.start ∧ t.otp = s.otp) ∧
   (∀ p o s, s.mem.wf = true → p < 16 → p < s.pads.length → s.frozen = false → (s.pd p).closing = some o →
     (s.pd p).allHalted = true →
     ∃ (t : State), exec (.closingComplete p) s = .next (t.reply p 0x0021 o 0 []) ∧
       (t.pd p).noRing = ({ Paddock.closed with ring := (s.pd p).ring } : Paddock).noRing ∧
       (∀ k off, k < 24 → bitOf (s.pd p).owned.packages k = true → off < packageSize → memGet t.mem (packageBase k + off) = 0) ∧
       (∀ n off, n < 96 → bitOf (s.pd p).owned.pens n = true → off < penSize → memGet t.mem (penBase n + off) = 0) ∧
       (∀ g l n off, g < 16 → bitOf (s.pd p).owned.groups g = true → l ∈ span (4 * g) 4 → s.remount.bind.getD l none = some n →
         off < rowStoreSize → memGet t.mem (rowStoreBase n + off) = 0) ∧
       (∀ q, q ≠ p → (t.pd q).noRing = (s.pd q).noRing) ∧ (∀ e ∈ t.expiries, e.paddock ≠ p) ∧ t.start = s.start ∧
       t.stables = s.stables)) ∧
  ((∀ p h a r s, s.accepts p 0x0022 38 h = true → (s.pd p).inMotion = false → s.resizeCheck p a r = none →
     ∃ t, exec (.paddockResize p h a r) s = .next t ∧ Posted (s.modPd p fun d =>
       { d with
         owned := ⟨d.owned.groups - r.groups, d.owned.packages - r.packages, d.owned.pens - r.pens,
           d.owned.blocks.take (d.owned.blocks.length - r.slotBlocks), d.owned.entries - r.entries⟩
         resizing := some ⟨owedOf h,
           ⟨r.groups, r.packages, r.pens, d.owned.blocks.drop (d.owned.blocks.length - r.slotBlocks), r.entries⟩,
           ⟨a.groups, a.packages, a.pens, s.freeBlocks.take a.slotBlocks, a.entries⟩⟩ }) t) ∧
   (∀ p h a r s, s.accepts p 0x0022 38 h = true → (s.pd p).inMotion = true → exec (.paddockResize p h a r) s = .next s) ∧
   (∀ p h a r st s, s.accepts p 0x0022 38 h = true → (s.pd p).inMotion = false → s.resizeCheck p a r = some st →
     exec (.paddockResize p h a r) s = .next ((s.took p h).answered p 0x0022 h st [])) ∧
   (∀ p r s, s.mem.wf = true → p < 16 → p < s.pads.length → s.frozen = false → (s.pd p).resizing = some r →
     (s.pd p).swappingIn = none → (∀ c x, s.ctx p c = some x → x.rebuild = none) →
     ∃ (t : State), exec (.resizeComplete p) s = .next (t.reply p 0x0022 r.owed 0 (grantPayload r.added.blocks)) ∧
       (t.pd p).noRing = ({ s.pd p with owned := (s.pd p).owned.plus r.added, resizing := none } : Paddock).noRing ∧
       (∀ k off, k < 24 → bitOf r.removed.packages k = true → off < packageSize → memGet t.mem (packageBase k + off) = 0) ∧
       (∀ n off, n < 96 → bitOf r.removed.pens n = true → off < penSize → memGet t.mem (penBase n + off) = 0) ∧
       (∀ g l n off, g < 16 → bitOf r.removed.groups g = true → l ∈ span (4 * g) 4 → s.remount.bind.getD l none = some n →
         off < rowStoreSize → memGet t.mem (rowStoreBase n + off) = 0) ∧
       ((s.pd p).crypt = true → ∀ k off, k < 24 → bitOf r.added.packages k = true → off < packageSize →
         memGet t.mem (packageBase k + off) = 0) ∧
       (∀ q, q ≠ p → (t.pd q).noRing = (s.pd q).noRing) ∧ t.start = s.start ∧ t.stables = s.stables))

/-- SCHED_SET sets the slice and the blocking threshold, a field of 0 leaving its setting (R527); HISTORY_SET sets the history length that the next LOAD takes (R224). Each is answered, and changes nothing else but the exchange. PADDOCK_MAP of an empty list of removals and entries that pass the checks of R542 and, of a resident context, reach no pen of another (R538) starts a rebuild of the context's table with the old ranges and the new ones, each as the remount map binds it; the current table stays until the switch (R541, R542, R545). TABLE_REBUILD_DONE, while no pre-emption waits, switches at once where the context does not run and otherwise raises the switch; TABLE_SWITCH makes the new table current (R546). Completes: schedSet, historySet, paddockMap, tableRebuildDone, tableSwitch. -/
def Obligations.PaddockSettingsTakeEffect : Prop :=
  ((∀ p h sl b s, s.accepts p 0x0024 10 h = true → (sl = 0 ∨ 100000 ≤ sl) → (b = 0 ∨ 1000 ≤ b) →
     ∃ (t : State), exec (.schedSet p h sl b) s = .next (t.answered p 0x0024 h 0 []) ∧ Posted (s.modPd p fun d =>
       { d with slice := if sl = 0 then d.slice else sl, blockAfter := if b = 0 then d.blockAfter else b }) t) ∧
   (∀ p h n s, s.accepts p 0x0026 1 h = true → 4 ≤ n → n ≤ 64 →
     ∃ (t : State), exec (.historySet p h n) s = .next (t.answered p 0x0026 h 0 []) ∧ Posted (s.modPd p fun d => { d with histNext := n }) t) ∧
   (∀ p h sl b s, s.accepts p 0x0024 10 h = true → (sl ≠ 0 ∧ sl < 100000) ∨ (b ≠ 0 ∧ b < 1000) →
     exec (.schedSet p h sl b) s = .next ((s.took p h).answered p 0x0024 h 0x0101 [])) ∧
   (∀ p h n s, s.accepts p 0x0026 1 h = true → n < 4 ∨ 64 < n →
     exec (.historySet p h n) s = .next ((s.took p h).answered p 0x0026 h 0x0101 []))) ∧
  ((∀ p h c na list s x, s.accepts p 0x0023 13 h = true → s.ctx p c = some x → x.rebuild = none → x.merged = none →
     inWindow list (32 * na) = true →
     let adds := (chunksOf 32 na ((s.took p h).rdComp list (32 * na))).map rangeOf
     (s.modCtx p c fun x => { x with resident := true }).mapCheck p x.table adds = none → x.table.length + na ≤ 4096 →
     (x.resident = true → ∀ e ∈ adds, (s.pd p).meetsOthers c e.1 = false) →
     ∃ t y, exec (.paddockMap p h c na 0 list) s = .next t ∧ t.ctx p c = some y ∧ y.table = x.table ∧
       y.rebuild = some ⟨(x.table ++ adds.map (·.1)).map s.remount.bound, false⟩ ∧
       Posted (s.modCtx p c fun x => { x with rebuild := y.rebuild, pens := y.pens }) t) ∧
   (∀ p c s x r, p < 16 → c < 8 → s.runs p = true → s.ctx p c = some x → x.rebuild = some r → r.raised = false → s.preempts p c = false →
     exec (.tableRebuildDone p c) s = .next (s.modCtx p c fun y => if x.state = .running then
       { y with rebuild := some { r with raised := true } } else
       { y with table := r.table, rebuild := x.merged.map fun t => ⟨t, false⟩, merged := none })) ∧
   (∀ p c s x r, p < 16 → c < 8 → s.runs p = true → s.ctx p c = some x → x.rebuild = some r → r.raised = true →
     x.haltAfter = none →
     ∃ t y, exec (.tableSwitch p c) s = .next t ∧ t.ctx p c = some y ∧ y.table = r.table ∧
       y.rebuild = x.merged.map (fun t => ⟨t, false⟩) ∧ y.merged = none ∧ t.stables = s.stables ∧ t.ports = s.ports ∧
       (∀ q, q ≠ p → (t.pd q).noRing = (s.pd q).noRing)))

/-! ### Contexts, requests and the job -/

/-- PARCEL_LOAD of a parcel that passes every check gives it the lowest free context number: the context is IDLE at the letter's step with an empty table and no record in flight, and the reply names the number, the pen bytes left, what it saves and swaps, and whether it is resident (R522, R576, R587, R595). PARCEL_UNLOAD of an IDLE or HALTED context with no proposed epoch releases its number, and the ostler decides anew (R527, R577). PARCEL_LOAD does nothing but answer where its parcel cannot be taken: a priority above 3 with 0x0101, bytes past the window with 0x0104, a failed check with the first check's status, no free context number with 0x0206 (R522, R573, R587, R595). Completes: parcelLoad, parcelUnload. -/
def Obligations.ParcelsAreLoadedAndUnloaded : Prop :=
  ((∀ p h a n pr st s c, s.accepts p 0x0040 21 h = true → pr ≤ 3 → inWindow a n = true →
     (s.took p h).parcelChecks p n ((s.took p h).rdComp a n) = [] → (s.pd p).freeCtx = some c →
     let y := s.freshCtx p (parcelOf ((s.took p h).rdComp a n)) n pr st
     let d := (s.pd p).setCtx c (some y)
     d.penReserve + y.parcel.yardBytes ≤ d.penBytes → s.lacksRoom d = false →
     ∃ z, exec (.parcelLoad p h a n pr st) s = .next (((s.took p h).modPd p (·.setCtx c (some z))).answered p 0x0040 h 0
         (leBytes 1 c ++ leBytes 8 (d.penBytes - d.penReserve) ++ leBytes 8 z.saveBytes ++ leBytes 8 z.swapBytes ++
           leBytes 1 (bit z.resident))) ∧ z = { y with resident := d.hasPens } ∧
       z.state = .idle ∧ z.priority = pr ∧ z.table = [] ∧ z.flights = [] ∧ z.counter = (if z.parcel.kind = 1 then 0 else st) ∧
       z.parcel = parcelOf ((s.took p h).rdComp a n)) ∧
   (∀ p h c s x, s.accepts p 0x0041 1 h = true → s.ctx p c = some x → x.state = .idle ∨ x.state = .halted → x.tr.proposal = none →
     ∃ t, exec (.parcelUnload p h c) s = .next t ∧ t.ctx p c = none ∧
       Posted ((s.modPd p fun d =>
         { d.setCtx c none with running := if d.running = some c then none else d.running }).reschedule p) t) ∧
   (∀ p h c s, s.accepts p 0x0041 1 h = true → s.ctx p c = none →
     exec (.parcelUnload p h c) s = .next ((s.took p h).answered p 0x0041 h 0x0003 []))) ∧
  (∀ p h a n pr st s, s.accepts p 0x0040 21 h = true →
     let answers := fun e : Nat => exec (.parcelLoad p h a n pr st) s = .next ((s.took p h).answered p 0x0040 h e [])
     (3 < pr → answers 0x0101) ∧ (pr ≤ 3 → inWindow a n = false → answers 0x0104) ∧
     (pr ≤ 3 → inWindow a n = true → headerOk ((s.took p h).rdComp a n) n = false → answers 0x0201) ∧
     (pr ≤ 3 → inWindow a n = true → (s.took p h).parcelChecks p n ((s.took p h).rdComp a n) = [] →
       (∀ c, c < 8 → (s.ctx p c).isSome = true) → answers 0x0206))

/-- STEP_RUN of a step that is the counter's: with a count above 0 the context owes that many steps and, when it was IDLE, becomes READY or RUNNING; with count 0 it stops after the step in progress, or is IDLE at once where none is. It is refused with 0x0501 for another step and with 0x0003 for a HALTED or serving context or a free number (R334, R577). Completes: stepRun. -/
def Obligations.StepRunStartsAndStopsSteps : Prop :=
  (∀ p h c n s x, s.accepts p 0x0042 13 h = true → s.ctx p c = some x → x.parcel.kind ≠ 1 → x.state = .idle → n ≠ 0 → x.inStep = false →
    ∃ t y, exec (.stepRun p h c x.counter n) s = .next t ∧ t.ctx p c = some y ∧ y.stepsLeft = n ∧ y.stopAsked = false ∧
      (y.state = .ready ∨ y.state = .running) ∧ y.counter = x.counter ∧ y.tr = x.tr ∧ y.parcel = x.parcel ∧
      Posted (s.modPd p fun _ => t.pd p) t) ∧
  (∀ p h c s x, s.accepts p 0x0042 13 h = true → s.ctx p c = some x → x.parcel.kind ≠ 1 → x.state ≠ .halted → x.inStep = true →
    ∃ (t : State), exec (.stepRun p h c x.counter 0) s = .next (t.answered p 0x0042 h 0 []) ∧ Posted (s.modCtx p c fun x => { x with stopAsked := true }) t) ∧
  (∀ p h c s x, s.accepts p 0x0042 13 h = true → s.ctx p c = some x → x.parcel.kind ≠ 1 → x.state ≠ .halted → x.inStep = false →
    x.tr.gen = 0 → ∃ t y, exec (.stepRun p h c x.counter 0) s = .next t ∧ t.ctx p c = some y ∧ y.stepsLeft = 0 ∧
      y.state = .idle ∧ Posted (s.modPd p fun _ => t.pd p) t) ∧
  (∀ p h c st n s x, s.accepts p 0x0042 13 h = true → s.ctx p c = some x → x.parcel.kind ≠ 1 → x.state ≠ .halted → st ≠ x.counter →
    exec (.stepRun p h c st n) s = .next ((s.took p h).answered p 0x0042 h 0x0501 [])) ∧
  (∀ p h c st n s, s.accepts p 0x0042 13 h = true →
    (match s.ctx p c with | none => true | some x => x.parcel.kind == 1 || x.state == .halted) = true →
    exec (.stepRun p h c st n) s = .next ((s.took p h).answered p 0x0042 h 0x0003 []))

/-- CHECKPOINT of an IDLE or HALTED context writes the checkpoint at the positions of its descriptor and answers with the step and the length; RESTORE takes one back: the context is IDLE at the checkpoint's step; INITIALISE writes the values of its source to one part of a layer in the committed bank; each acts on the pens of the context, wherever a swap keeps them. A context at work refuses all three with 0x0003 (R373, R406, R576, R577). STATE_READ writes the items of its selector from `first` on, up to `count`, into its buffer and answers with their length: 1 the step and c_prev, 4 the slot records, 6 the state, whether the context is resident, and the overrun; a selector that is not listed is refused with 0x0101 (R482, R537, R578). Completes: checkpoint, restore, initialise, stateRead. -/
def Obligations.StateIsSavedRestoredAndRead : Prop :=
  ((∀ p h c dest s x d data v, s.accepts p 0x0043 9 h = true → s.ctx p c = some x → x.state = .idle ∨ x.state = .halted →
     let u := (s.took p h).lendPens x
     u.letterDesc dest = .ok d → u.readParts x x.parts = .ok data → (u.ckHead p x ++ data).length ≤ d.count →
     u.putDesc x.plain d 0 (maskBytes 0 (u.ckHead p x ++ data)) = .ok v →
     exec (.checkpoint p h c dest) s = .next (((v.hasRead x x.parcel.bankedSpans).returnPens (s.took p h) p c x).answered p 0x0043 h 0
       (leBytes 8 x.counter ++ leBytes 8 (u.ckHead p x ++ data).length))) ∧
   (∀ p h c src s x d v step, s.accepts p 0x0044 9 h = true → s.ctx p c = some x → x.state = .idle ∨ x.state = .halted →
     (s.took p h).letterDesc src = .ok d → (s.took p h).restoreFrom p c x d = .ok (v, step) →
     ∃ t y, exec (.restore p h c src) s = .next t ∧ t = v.answered p 0x0044 h 0 (leBytes 8 step) ∧ t.ctx p c = some y ∧
       (x.parcel.kind ≠ 1 ∨ x.state = .idle → y.state = .idle ∧ y.status = 0) ∧ y.counter = step ∧ y.parcel = x.parcel ∧ t.otp = s.otp ∧ t.start = s.start) ∧
   (∀ p h c l part src s x r d n z f vs v, s.accepts p 0x0045 12 h = true → s.ctx p c = some x →
     let u := (s.took p h).lendPens x
     x.state = .idle ∨ x.state = .halted → x.parcel.layer? l = some r → u.letterDesc src = .ok d →
     part ≠ 5 → x.parcel.initPart r part = some (n, z, f) → n ≤ d.count → u.initValues x d z n = .ok vs →
     u.putPieces x (vs.zipIdx.map fun e => (f e.2, e.1)) = .ok v →
     exec (.initialise p h c l part src) s = .next ((v.returnPens (s.took p h) p c x).answered p 0x0045 h 0 [])) ∧
   (∀ (s t : State) p c x, x.resident = true → s.lendPens x = s ∧ t.returnPens s p c x = t) ∧
   (∀ p h c a l part s, (match s.ctx p c with | none => true | some x => x.state != .idle && x.state != .halted) = true →
     (s.accepts p 0x0043 9 h = true → exec (.checkpoint p h c a) s = .next ((s.took p h).answered p 0x0043 h 0x0003 [])) ∧
     (s.accepts p 0x0044 9 h = true → exec (.restore p h c a) s = .next ((s.took p h).answered p 0x0044 h 0x0003 [])) ∧
     (s.accepts p 0x0045 12 h = true → exec (.initialise p h c l part a) s = .next ((s.took p h).answered p 0x0045 h 0x0003 [])))) ∧
  ((∀ p h c s x b, s.accepts p 0x0027 22 h = true → s.ctx p c = some x → bulkHolds b 16 = true →
     exec (.stateRead p h c 1 0 1 b) s = .next (((s.took p h).sendComp .buffer b.addr
       (leBytes 8 x.keyStep ++ leBytes 4 x.tr.cPrev.toNat ++ [0, 0, 0, 0])).answered p 0x0027 h 0 (leBytes 4 16))) ∧
   (∀ p h c s x b i, s.accepts p 0x0027 22 h = true → s.ctx p c = some x → i < 512 * (s.pd p).owned.blocks.length →
     ((s.pd p).slotBytes i).length = 256 → bulkHolds b 256 = true →
     exec (.stateRead p h c 4 i 1 b) s = .next (((s.took p h).sendComp .buffer b.addr ((s.pd p).slotBytes i)).answered p 0x0027 h 0
       (leBytes 4 256))) ∧
   (∀ p h c s x b, s.accepts p 0x0027 22 h = true → s.ctx p c = some x → bulkHolds b 16 = true →
     exec (.stateRead p h c 6 0 1 b) s = .next (((s.took p h).sendComp .buffer b.addr (leBytes 1 x.state.code ++ leBytes 1 (bit x.resident) ++
       leBytes 6 0 ++ leBytes 8 (s.pd p).overrun)).answered p 0x0027 h 0 (leBytes 4 16))) ∧
   (∀ p h c sel f n s x b, s.accepts p 0x0027 22 h = true → s.ctx p c = some x → sel = 0 ∨ 6 < sel →
     exec (.stateRead p h c sel f n b) s = .next ((s.took p h).answered p 0x0027 h 0x0101 [])))

/-- ADMIT of a request that nothing keeps back and that has no deadline takes the lowest free slot and answers with it; one that must wait joins the queue of its variant where queueing is asked for and the queue has room, and the reply tells how many of its class are before it; a request that fails a check of R496 is refused with that check's status (R478, R482, R495, R500). CANCEL marks a live request, and REQUEST_READ answers with the state of a live, queued or retired one and the time left; an unknown tag is refused with 0x070B, a retired one's CANCEL with 0x070C. DEADLINE_EXPIRY, once due, marks a live request DEADLINE_PASSED (R482, R487, R503-R506, R576). Completes: admitLetter, cancel, requestRead, deadlineExpiry. -/
def Obligations.RequestsAreAdmittedCancelledAndRead : Prop :=
  ((∀ p h f s c x v slot, s.accepts p 0x0060 63 h = true → s.admitCheck p h.tag f = .ok (c, x, v) → f.deadline = noLimit →
     x.state ≠ .halted → (s.pd p).liveStreams = [] →
     s.shortOf p x v (streamOf f h.tag (s.pd p).nextSeq (v.need f)) = .ok slot →
     ∃ (t : State) (y : Ctx) (r : Stream), exec (.admitLetter p h f) s = .next (t.answered p 0x0060 h 0 (admitPayload 0 slot 0)) ∧ t.ctx p c = some y ∧ r ∈ y.sv.streams ∧ r.tag = h.tag ∧ r.slot = some slot ∧
       r.n = f.promptLen ∧ r.maxNew = f.maxNew ∧ r.delivered = 0 ∧ r.cls = f.cls ∧ r.ended = none ∧
       y.sv.streams.length = x.sv.streams.length + 1 ∧ t.stables = s.stables ∧ t.expiries = s.expiries ∧
       (∀ q k, q ≠ p → t.ctx q k = s.ctx q k)) ∧
   (∀ p h f s c x v st, s.accepts p 0x0060 63 h = true → s.admitCheck p h.tag f = .ok (c, x, v) → f.deadline = noLimit →
     s.shortOf p x v (streamOf f h.tag (s.pd p).nextSeq (v.need f)) = .error st → f.queue ≠ 0 →
     (s.pd p).queued.length < v.queueLimit →
     ∃ (t : State), exec (.admitLetter p h f) s = .next (t.answered p 0x0060 h 0
       (admitPayload 1 0 ((s.pd p).queued.filter fun e => e.2.cls == f.cls).length)) ∧ Posted ((s.modCtx p c fun x => x.modSv fun w =>
       { w with queue := w.queue ++ [streamOf f h.tag (s.pd p).nextSeq (v.need f)] }).settleServer p c) t) ∧
   (∀ p h f s st, s.accepts p 0x0060 63 h = true → s.admitCheck p h.tag f = .error st →
     exec (.admitLetter p h f) s = .next ((s.took p h).answered p 0x0060 h st (admitPayload 2 0 0)))) ∧
  ((∀ p h s c r, s.accepts p 0x0061 0 h = true → (s.pd p).request? h.tag = some (c, r, false) →
     ∃ (t : State), exec (.cancel p h) s = .next (t.answered p 0x0061 h 0 []) ∧ Posted (s.modCtx p c (·.modStream h.tag fun r => { r with cancel := true })) t) ∧
   (∀ p h s c r, s.accepts p 0x0061 0 h = true → (s.pd p).request? h.tag = some (c, r, true) →
     ∃ t y, exec (.cancel p h) s = .next t ∧ t.ctx p c = some y ∧ (∀ q ∈ y.sv.queue, q.tag ≠ h.tag) ∧ h.tag ∈ y.sv.retired ∧
       t.stables = s.stables ∧ (∀ q k, q ≠ p → t.ctx q k = s.ctx q k)) ∧
   (∀ p h s, s.accepts p 0x0061 0 h = true → (s.pd p).request? h.tag = none →
     exec (.cancel p h) s = .next ((s.took p h).answered p 0x0061 h (if (s.pd p).wasRetired h.tag then 0x070C else 0x070B) [])) ∧
   (∀ p h s c r, s.accepts p 0x0062 0 h = true → (s.pd p).request? h.tag = some (c, r, false) →
     exec (.requestRead p h) s = .next ((s.took p h).answered p 0x0062 h 0
       (leBytes 1 (if r.decode then 2 else 1) ++ leBytes 6 ((s.remaining p r).getD noLimit) ++ r.record))) ∧
   (∀ p h s c r, s.accepts p 0x0062 0 h = true → (s.pd p).request? h.tag = some (c, r, true) →
     exec (.requestRead p h) s = .next ((s.took p h).answered p 0x0062 h 0
       (leBytes 1 0 ++ leBytes 6 ((s.remaining p r).getD noLimit) ++ List.replicate 256 0))) ∧
   (∀ p h s, s.accepts p 0x0062 0 h = true → (s.pd p).request? h.tag = none →
     exec (.requestRead p h) s = .next ((s.took p h).answered p 0x0062 h (if (s.pd p).wasRetired h.tag then 0 else 0x070B)
       (if (s.pd p).wasRetired h.tag then leBytes 1 3 ++ leBytes 6 0 ++ List.replicate 256 0 else []))) ∧
   (∀ p tag s c r e, p < 16 → s.runs p = true → (s.pd p).request? tag = some (c, r, false) → e ∈ s.expiries →
     e.paddock = p → e.ctx = c → e.kind = .deadline tag → e.endAt ≤ s.now p →
     ∃ t, exec (.deadlineExpiry p tag) s = .next t ∧
       t.pads = (s.modCtx p c (·.modStream tag fun r => { r with late := true })).pads ∧
       t = { s with pads := t.pads, expiries := t.expiries } ∧
       (∀ e ∈ t.expiries, e.paddock = p → e.ctx = c → e.kind ≠ .deadline tag) ∧ ∀ e ∈ t.expiries, e ∈ s.expiries))

/-- MEMBERSHIP of a table that the parcel covers and that passes the test of R470 proposes the epoch: the round begins and the reply is owed; AGREE_TIMEOUT, once due, drops the proposal and answers 0x0606 with outcome 2 (R469-R471). A table that fails the test is answered 0x0606 with outcome 1 (R470, R576). acceptEpoch is the test of R470: the epoch must be the next one and never accepted before; without a quorum every member of the old table must be present by its serial, with one more than half of them must, and with exactly half the one with the lowest role. Completes: membership, agreeTimeout. -/
def Obligations.MembershipIsProposed : Prop :=
  ((∀ p h ep ra c ck st ag s x col rd cd new, s.accepts p 0x0080 36 h = true → s.ctx p c = some x →
     x.state = .idle ∨ x.state = .halted → x.parcel.collection = some col → (match x.parcel.tree? 0 with | none => true | some t => t.downPorts.any fun q => !(x.tr.epochIn.any (·.1 == q))) = true →
     ((s.pd p).jobCtxs col.tag).all (fun e => e.2.quiet) = true →
     (s.took p h).letterDesc ra = .ok rd → (s.took p h).letterDesc ck = .ok cd → (s.took p h).rolesAt x rd = .ok new →
     rd.count % 16 = 0 → new ≠ [] → rolesSorted (new.map (·.role)) = true →
     let old := (s.pd p).jobEpoch col.tag x
     let ok := x.parcel.covers new &&
       acceptEpoch (bitOf s.grant 15) old.1 (((s.pd p).jobCtxs col.tag).flatMap fun e => e.2.tr.accepted) old.2 ep new
     (ok = true → ∃ t y, exec (.membership p h ep ra c ck st ag) s = .next t ∧ t.ctx p c = some y ∧
       y.tr.proposal = some ⟨h.tag, h.flags % 2 == 1, ep, new, cd, st, false⟩ ∧ y.tr.accepted = ep :: x.tr.accepted ∧
       y.tr.epoch = x.tr.epoch ∧ y.parcel = x.parcel ∧ (ag ≠ noLimit → s.now p + ag ∈ t.expiries.map (·.endAt)) ∧
       t.stables = s.stables) ∧
     (ok = false → exec (.membership p h ep ra c ck st ag) s =
       .next ((s.took p h).answered p 0x0080 h 0x0606 (leBytes 1 1)))) ∧
   (∀ p c s x q e, p < 16 → c < 8 → s.runs p = true → s.ctx p c = some x → x.tr.proposal = some q → e ∈ s.expiries →
     e.paddock = p → e.ctx = c → e.kind = .agree → e.endAt ≤ s.now p →
     ∃ (t : State) (y : Ctx), exec (.agreeTimeout p c) s = .next (t.reply p 0x0080 ⟨q.tag, q.quiet⟩ 0x0606 (leBytes 1 2)) ∧ t.ctx p c = some y ∧ y.tr.proposal = none ∧ y.tr.epoch = x.tr.epoch ∧
       y.tr.roles = x.tr.roles ∧ t.stables = s.stables)) ∧
  (∀ (quorum : Bool) (oldEpoch epoch : Nat) (accepted : List Nat) (old new : List Role),
     let here := (old.filter fun r => new.any fun q => q.serial == r.serial).length
     (epoch ≠ oldEpoch + 1 ∨ epoch ∈ accepted → acceptEpoch quorum oldEpoch accepted old epoch new = false) ∧
     (epoch = oldEpoch + 1 → epoch ∉ accepted →
       (acceptEpoch false oldEpoch accepted old epoch new = true ↔ ∀ r ∈ old, ∃ q ∈ new, q.serial = r.serial) ∧
       (old.length < 2 * here → acceptEpoch true oldEpoch accepted old epoch new = true) ∧
       (2 * here < old.length → acceptEpoch true oldEpoch accepted old epoch new = false) ∧
       (2 * here = old.length → old ≠ [] →
         (acceptEpoch true oldEpoch accepted old epoch new = true ↔
           ∃ r ∈ old, (∀ q ∈ old, r.role ≤ q.role) ∧ ∃ q ∈ new, q.serial = r.serial))))

/-- REPLAY, granted, of an IDLE or HALTED training context restores the checkpoint, takes the letter's role and attempt, and the context becomes able to run; its reply is owed until the attempt ends. Without the grant it is refused with 0x0002, in another mode than 0 and 1 with 0x0101 (R475, R476, R573). Completes: replay. -/
def Obligations.ReplayStartsFromItsCheckpoint : Prop :=
  (∀ p h st at' nf md role c ck sl s x b kd ld v, s.accepts p 0x0081 31 h = true → bitOf s.grant 9 = true → md ≤ 1 →
    s.ctx p c = some x → x.state = .idle ∨ x.state = .halted → x.parcel.stepBegin = some b →
    (s.took p h).letterDesc ck = .ok kd → (s.took p h).letterDesc sl = .ok ld → b.tHi < (s.stablesOf p).length →
    (x.parcel.coefAt st).isSome = true → (x.parcel.setAt st).isSome = true →
    (s.took p h).restoreFrom p c x kd = .ok (v, st) →
    ∃ t y, exec (.replay p h st at' nf md role c ck sl) s = .next t ∧ t.ctx p c = some y ∧
      y.tr.replay = some ⟨h.tag, h.flags % 2 == 1, md == 1, x.parcel.role, ld⟩ ∧ y.parcel = x.parcel.withRole role ∧
      y.tr.attempt = at' ∧ y.tr.nfAttempts = nf ∧ y.tr.phase = 0 ∧ y.counter = st ∧
      (y.state = .ready ∨ y.state = .running) ∧ t.otp = s.otp) ∧
  (∀ p h st at' nf md role c ck sl s, s.accepts p 0x0081 31 h = true → bitOf s.grant 9 = false →
    exec (.replay p h st at' nf md role c ck sl) s = .next ((s.took p h).answered p 0x0081 h 0x0002 [])) ∧
  (∀ p h st at' nf md role c ck sl s, s.accepts p 0x0081 31 h = true → bitOf s.grant 9 = true → 1 < md →
    exec (.replay p h st at' nf md role c ck sl) s = .next ((s.took p h).answered p 0x0081 h 0x0101 []))

/-! ### Configuration space and MCL -/

/-- Writing PBXBASE of a CLOSED paddock with EN 1 starts its ring afresh at the base of bits 43 to 16, zeroes the module's two index lines and watches the inbound producer line; with EN 0 it stops the ring, discards what was not posted, keeps BASE as written and watches no line of the old ring any more. Each is answered. While the paddock is not CLOSED the write is answered and ignored (R20, R427, R555, R569). CFG_WR at the offsets of PBXBASE is the command of that register; at WINCTL it sets RAW to bit 0; at every other offset it is answered and ignored. CFG_RD, the form without a value, is answered with the register in bytes 0 to 7 and changes nothing else (R425, R432, R563, R569, R632). AP_RD of granules within one 4 KiB page is answered with their bytes, POISON where one of them could not be corrected; any other is a protocol error (R425, R631). Completes: pbxbaseEnable, pbxbaseDisable, cfgWr, apRd. -/
def Obligations.RingsAndConfigurationSpace : Prop :=
  ((∀ m tag p v s, s.mem.wf = true → p < 16 → p < s.pads.length → s.mcNext m 1 1 0 → (s.pd p).state = .closed →
     let b := bitsOf v 43 16 * 2 ^ 16
     ∃ t, exec (.pbxbaseEnable m tag p v) s = .next t ∧ t = { s with mem := t.mem, mcl := t.mcl, pads := t.pads } ∧
       t.pads = (s.modPd p fun d => { d with ring := { Ring.off with en := true, base := b } }).pads ∧
       (∀ a, windowBase + b + 0x8040 ≤ a → a < windowBase + b + 0x80C0 → memGet t.mem a = 0) ∧
       (∀ a, a < windowBase + b + 0x8040 ∨ windowBase + b + 0x80C0 ≤ a → memGet t.mem a = memGet s.mem a) ∧
       (∃ r ∈ t.mcl.requests, r.kind = .watch ∧ r.addr = b + 0x8000) ∧ t.mcl.reply = [] ∧ t.mcl.replyStatus = 0) ∧
   (∀ m tag p v s, p < 16 → s.mcNext m 1 1 0 → (s.pd p).state = .closed →
     ∃ t, exec (.pbxbaseDisable m tag p v) s = .next t ∧ t = { s with mcl := t.mcl, pads := t.pads } ∧
       t.pads = (s.modPd p fun d => { d with ring := { Ring.off with base := bitsOf v 43 16 * 2 ^ 16 } }).pads ∧
       ((s.pd p).ring.en = true → ∀ a ∈ t.mcl.watched, ¬ ((s.pd p).ring.base ≤ a ∧ a < (s.pd p).ring.base + 0x8100)) ∧
       t.mcl.reply = [] ∧ t.mcl.replyStatus = 0) ∧
   (∀ m tag p v s, p < 16 → s.mcNext m 1 1 0 → (s.pd p).state ≠ .closed →
     exec (.pbxbaseEnable m tag p v) s = .next (s.mcWrote m tag) ∧ exec (.pbxbaseDisable m tag p v) s = .next (s.mcWrote m tag))) ∧
  ((∀ m tag p v s, p < 16 → exec (.cfgWr m tag (0x1080 + 8 * p) (some v)) s =
     exec (if bitOf v 63 then .pbxbaseEnable m tag p v else .pbxbaseDisable m tag p v) s) ∧
   (∀ m tag v s, s.mcNext m 1 1 0 → exec (.cfgWr m tag 0x1100 (some v)) s =
     .next { s.mcWrote m tag with freeze := { s.freeze with raw := bitOf v 0 } }) ∧
   (∀ m tag o v s, s.mcNext m 1 1 0 → o ≠ 0x1100 → ¬ (0x1080 ≤ o ∧ o ≤ 0x10F8 ∧ o % 8 = 0) →
     exec (.cfgWr m tag o (some v)) s = .next (s.mcWrote m tag)) ∧
   (∀ m tag o s, s.mcNext m 1 0 0 → exec (.cfgWr m tag o none) s =
     .next { s with mcl := (s.mcTook m 1 0 0).answer tag 0 (leBytes 8 (s.configReg o) ++ List.replicate 56 0) }) ∧
   (∀ m tag a n s, s.mcNext m 1 0 0 → a % 64 = 0 → n ≤ 31 → a / 4096 = (a + 64 * n) / 4096 →
     let gs := (List.range (n + 1)).map fun i => a + 64 * i
     let u := { s with mcl := s.mcTook m 1 0 0 }
     exec (.apRd m tag a n) s = .next { s with
       mcl := u.mcl.answer tag (if gs.any u.granuleBad = true then 1 else 0) (gs.map u.granule).flatten }) ∧
   (∀ m tag a n s, s.mcNext m 1 0 0 → a % 64 ≠ 0 ∨ 31 < n ∨ a / 4096 ≠ (a + 64 * n) / 4096 →
     exec (.apRd m tag a n) s = .next s.mcBad))

/-- A message is taken while MCL is trained and when its codeword is the next one: before that nothing happens, one of another codeword and one without credit is dropped, and one with a reserved op or field is a protocol error and retrains MCL (R425, R429, R430; log 27). INV writes the companion's granule and answers; where the module watched it, the watch ends and the module reads it again. CMP and CMP_D close the request that they name: with OK a watch takes the granule's bytes and stands, and a job's read its bytes; with another status a postbox, token or watch access waits to be sent again after 1 ms, a letter's buffer access is over, and a job's access halts the job with the status of its kind; a status above 3 or an unaligned granule is a protocol error (R425, R427, R432). Completes: inv, cmp, cmpD. -/
def Obligations.CompanionMessagesAreTaken : Prop :=
  (∀ c m r d i s, mcOf c = some (m, r, d, i) →
    (s.hearsMcl = false → exec c s = .next s) ∧
    (s.hearsMcl = true → m.cseq ≠ s.mcl.cseqIn ∨ s.mcl.allows r d i = false → exec c s = .next { s with mcl := { s.mcl with heardAt := s.now16 } }) ∧
    (s.hearsMcl = true → m.cseq = s.mcl.cseqIn → s.mcl.allows r d i = true → m.sound = false → exec c s = .next s.mcBad)) ∧
  (∀ m tag a bs s, s.mem.wf = true → s.mcNext m 0 0 1 → a % 64 = 0 → inWindow a 64 = true → s.mcl.watched.contains a = false → bs.length = 64 →
    ∃ t, exec (.inv m tag a bs) s = .next t ∧
      t = { s with mem := t.mem, mcl := (s.mcTook m 0 0 1).sendMessage ⟨0x22, 0, tag, 0, 0, 0⟩ [] } ∧ t.rdComp a 64 = bs ∧
      ∀ x, x < windowBase + a ∨ windowBase + a + 64 ≤ x → memGet t.mem x = memGet s.mem x) ∧
  (∀ m tag a bs s, s.mcNext m 0 0 1 → a % 64 = 0 → inWindow a 64 = true → s.mcl.watched.contains a = true →
    ∃ t, exec (.inv m tag a bs) s = .next t ∧ a ∉ t.mcl.watched ∧ (∃ r ∈ t.mcl.requests, r.kind = .watch ∧ r.addr = a) ∧
      t.pads.map Paddock.noRing = s.pads.map Paddock.noRing ∧ t.stables = s.stables ∧ t.ports = s.ports) ∧
  (∀ m tag a bs s, s.mcNext m 0 0 1 → a % 64 ≠ 0 ∨ inWindow a 64 = false → exec (.inv m tag a bs) s = .next s.mcBad) ∧
  (∀ m tag s r, s.mcNext m 0 0 0 → (s.mcl.requests.find? fun q => q.rtag == tag) = some r → (∀ q, (s.pd q).ring.stalled = false) →
    exec (.cmp m tag 0) s = .next { s with mcl := (s.mcTook m 0 0 0).close tag }) ∧
  (∀ m tag bs s r, s.mem.wf = true → s.mcNext m 0 0 0 → (s.mcl.requests.find? fun q => q.rtag == tag) = some r →
    r.kind = .watch ∨ (∃ p c n, r.kind = .job p c n) → s.mcl.watched.length < 64 → bs.length = r.bytes → (∀ q, (s.pd q).ring.en = false) →
    ∃ t, exec (.cmpD m tag 0 bs) s = .next t ∧ t.rdComp r.addr r.bytes = bs ∧ t.stables = s.stables ∧
      t.mcl = { (s.mcTook m 0 0 0).close tag with watched := if r.kind = .watch then r.addr :: s.mcl.watched else s.mcl.watched } ∧
      ∀ x, x < windowBase + r.addr ∨ windowBase + r.addr + r.bytes ≤ x → memGet t.mem x = memGet s.mem x) ∧
  (∀ m tag st bs s r, s.mcNext m 0 0 0 → 1 ≤ st → st ≤ 3 → (s.mcl.requests.find? fun q => q.rtag == tag) = some r →
    (∀ p c n, r.kind ≠ .job p c n) → r.kind ≠ .buffer → r.kind ≠ .gone →
    exec (.cmp m tag st) s = .next { s with mcl := { s.mcTook m 0 0 0 with requests := s.mcl.requests.map fun q =>
      if q.rtag = r.rtag then { q with waits := true, again := s.now16 + 100000 } else q } } ∧
    exec (.cmpD m tag st bs) s = exec (.cmp m tag st) s) ∧
  (∀ m tag st s r, s.mcNext m 0 0 0 → 1 ≤ st → st ≤ 3 → (s.mcl.requests.find? fun q => q.rtag == tag) = some r →
    r.kind = .buffer ∨ r.kind = .gone → exec (.cmp m tag st) s = .next { s with mcl := (s.mcTook m 0 0 0).close r.rtag }) ∧
  (∀ m tag st s r p c n x, s.mcNext m 0 0 0 → 1 ≤ st → st ≤ 3 → (s.mcl.requests.find? fun q => q.rtag == tag) = some r →
    r.kind = .job p c n → s.ctx p c = some x → x.state ≠ .halted → x.phaseCode ≠ 7 →
    ∃ t y, exec (.cmp m tag st) s = .next t ∧ t.ctx p c = some y ∧ y.state = .halted ∧
      y.status = (if st = 1 then 0x0302 else if st = 2 then 0x0104 else 0x0103) ∧ ∀ q ∈ t.mcl.requests, q.kind.ofJob p c = false) ∧
  (∀ m tag st bs s, s.mcNext m 0 0 0 → 3 < st → exec (.cmp m tag st) s = .next s.mcBad ∧ exec (.cmpD m tag st bs) s = .next s.mcBad)

/-- The last message of a codeword moves the codeword expected on and is acknowledged by a codeword of the module, which gives back the credit that the message took (R429, R430). CREDIT adds request slots and data units, and the first request that waited goes out under the first free tag where they suffice and its paddock has room (R424, R428, R429, R551). ACK frees the replay buffer up to the codeword that it names, and waiting ones go out while it has room for 128; RETRY sends again from the one it names, and the eighth for one in a row retrains MCL (R430). Each changes nothing outside MCL. A codeword with errors that the code corrects counts them with their lanes; for one that it cannot correct RETRY goes out and the lane with most of the errors, if any, counts one: the eighth in a window retires that lane and retrains MCL (R417, R430). 5,000 cycles with no codeword retrain MCL, not fewer (R431). Training takes the lowest 16 good lanes that are not retired, or 8, grants 256 request slots and 1,024 data units afresh, frees what the far end has taken and sends the rest again; with fewer than 8 lanes, or a low serdes rail, MCL stays untrained (R429, R431). A postbox or token access that failed is sent again once its 1 ms has passed, and not before (R432); a job's window access past the MCL timeout of its parcel halts the job with 0x0103, no limit never does (R91, R562); a postbox or token access that has waited longer than 10 ms raises MCL_STALL (R562). Completes: credit, ack, retry, mclUncorrectableCodeword, mclAlignTimeout, mclTrainingDone, postboxRetryTimer, mclTimeout, mclStall. -/
def Obligations.McLinkKeepsItsCodewords : Prop :=
  ((∀ (h : McHead) (m : Mcl) a b c, h.last = true → m.trained = true → m.unsent = [] → m.held.length < 128 → a ≤ 1 → b ≤ 1 → c ≤ 1 →
     m.allows a b c = true → (m.took h a b c).cseqIn = (m.cseqIn + 1) % 256 ∧ (m.took h a b c).granted = m.granted ∧
       ∃ w ms, (m.took h a b c).held = m.held ++ [w] ∧ w.cseq = m.cseqOut ∧ w.units = [.messages (⟨0x31, 0, 0, 0, 0, m.cseqIn⟩ :: ms)]) ∧
   (∀ m r d i s, s.mcNext m 0 0 0 → ∃ t, exec (.credit m r d i) s = .next t ∧ t = { s with mcl := t.mcl } ∧
     t.mcl.cseqIn = (s.mcTook m 0 0 0).cseqIn ∧
     ((∀ q ∈ s.mcl.requests, q.sent = true) → t.mcl.requests = s.mcl.requests ∧ t.mcl.reqCredit = s.mcl.reqCredit + r ∧
       t.mcl.dataCredit = s.mcl.dataCredit + d) ∧
     ∀ q n, s.mcl.nextOf [] s.mcl.requests = some q → s.mcl.tagFrom noTag s.mcl.nextTag = some n → 1 ≤ s.mcl.reqCredit + r →
       q.data.length ≤ s.mcl.dataCredit + d → { q with rtag := n, sent := true } ∈ t.mcl.requests) ∧
   (∀ m q s, s.mcNext m 0 0 0 → s.mcl.held.length ≤ 128 → ∃ t, exec (.ack m q) s = .next t ∧ t = { s with mcl := t.mcl } ∧
     t.mcl.cseqIn = (s.mcTook m 0 0 0).cseqIn ∧ t.mcl.retry = (0, 0) ∧ t.mcl.held.length ≤ 128 ∧
     (t.mcl.held.length = 128 ∨ t.mcl.unsent = []) ∧
     ((∀ w ∈ (s.mcTook m 0 0 0).held, w.cseq ≠ q) → (s.mcTook m 0 0 0).held <+: t.mcl.held) ∧
     ∀ front w back, (s.mcTook m 0 0 0).held = front ++ w :: back → w.cseq = q → (∀ v ∈ front, v.cseq ≠ q) →
       back <+: t.mcl.held ∧ t.mcl.held.length + t.mcl.unsent.length = back.length + (s.mcTook m 0 0 0).unsent.length) ∧
   (∀ m q s, s.mcNext m 0 0 0 → ∃ t, exec (.retry m q) s = .next t ∧ t = { s with mcl := t.mcl } ∧
     t.mcl.cseqIn = (s.mcTook m 0 0 0).cseqIn ∧ t.mcl.held = (s.mcTook m 0 0 0).held ∧
     t.mcl.again = ((s.mcTook m 0 0 0).held.dropWhile fun w => w.cseq != q).map (·.cseq) ∧
     t.mcl.retry = (q, if s.mcl.retry.1 = q then s.mcl.retry.2 + 1 else 1) ∧ (t.mcl.trained = false ↔ 8 ≤ t.mcl.retry.2))) ∧
  ((∀ es s, s.hearsMcl = true → corrects es = true → s.mcl.active.Nodup →
     (∀ l ∈ s.mcl.active, (countOf s.mcl.counts l).corrected + laneErrors s.mcl.active es l ≤ 8388608) →
     ∃ t, exec (.mclUncorrectableCodeword es) s = .next t ∧ t = { s with mcl := { s.mcl with counts := t.mcl.counts, heardAt := s.now16 } } ∧
       ∀ l ∈ s.mcl.active, (countOf t.mcl.counts l).corrected = (countOf s.mcl.counts l).corrected + laneErrors s.mcl.active es l) ∧
   (∀ es s l, s.hearsMcl = true → corrects es = false → mostLane s.mcl.active es = some l → (countOf s.mcl.counts l).uncorrectable < 7 →
     ∃ t, exec (.mclUncorrectableCodeword es) s = .next t ∧ t = { s with mcl := t.mcl } ∧ t.mcl.asksRetry = true ∧
       t.mcl.trained = s.mcl.trained ∧ t.mcl.cseqIn = s.mcl.cseqIn ∧
       t.mcl.held.length + t.mcl.unsent.length = s.mcl.held.length + s.mcl.unsent.length + 1 ∧
       (countOf t.mcl.counts l).uncorrectable = (countOf s.mcl.counts l).uncorrectable + 1 ∧
       ∀ k, k ≠ l → countOf t.mcl.counts k = countOf s.mcl.counts k) ∧
   (∀ es s l, s.hearsMcl = true → corrects es = false → mostLane s.mcl.active es = some l → 7 ≤ (countOf s.mcl.counts l).uncorrectable →
     s.mcl.retired.contains l = false →
     ∃ t, exec (.mclUncorrectableCodeword es) s = .next t ∧ t.mcl.retired = l :: s.mcl.retired ∧ t.mcl.trained = false ∧
       ∃ e ∈ t.remount.entries, e.kind = 6 ∧ e.unit = l) ∧
   (∀ s, exec .mclAlignTimeout s =
     .next (if s.mcl.heardAt + 5000 ≤ s.now16 then { s with mcl := { s.mcl with trained := false } } else s)) ∧
   (∀ good q v s, s.mcl.trained = false → s.railLow 4 = false → 3 ≤ s.start.phase → 8 ≤ (s.mcl.pick good).length →
     ∃ t, exec (.mclTrainingDone good q v) s = .next t ∧ t = { s with mcl := t.mcl } ∧ t.mcl.trained = true ∧
       t.mcl.active = s.mcl.pick good ∧ t.mcl.counts = [] ∧ t.mcl.retry = (0, 0) ∧ t.mcl.asksRetry = false ∧
       ((∀ r ∈ s.mcl.requests, r.sent = true) → t.mcl.reqCredit = 256 ∧ t.mcl.dataCredit = 1024) ∧
       (v = false → t.mcl.again = s.mcl.held.map (·.cseq)) ∧
       (v = true → ∀ front w back, s.mcl.held = front ++ w :: back → w.cseq = q → (∀ u ∈ front, u.cseq ≠ q) →
         back <+: t.mcl.held ∧ t.mcl.again = back.map (·.cseq))) ∧
   (∀ good q v s, (s.mcl.pick good).length < 8 ∨ s.railLow 4 = true → exec (.mclTrainingDone good q v) s = .next s) ∧
   (∀ m : Mcl, ∀ good, ((m.pick good).length = 16 ∨ (m.pick good).length ≤ 8) ∧
     ∀ l ∈ m.pick good, l < 18 ∧ bitOf good l = true ∧ m.retired.contains l = false)) ∧
  ((∀ tag n s a r b, s.mcl.requests = a ++ r :: b → r.rtag = tag → r.waits = true → r.again ≤ s.now16 →
     (∀ q ∈ a ++ b, q.rtag ≠ tag ∧ q.sent = true) →
     let r' := { r with rtag := noTag, waits := false, sent := false }
     let m := { s.mcl with requests := a ++ r' :: b }
     m.fits r' = true → m.tagFrom noTag m.nextTag = some n → s.mcl.trained = true → 1 ≤ s.mcl.reqCredit → r.data.length ≤ s.mcl.dataCredit →
     ∃ t, exec (.postboxRetryTimer tag) s = .next t ∧ t = { s with mcl := t.mcl } ∧
       t.mcl.requests = a ++ { r with rtag := n, waits := false, sent := true } :: b ∧ t.mcl.reqCredit = s.mcl.reqCredit - 1 ∧
       t.mcl.dataCredit = s.mcl.dataCredit - r.data.length) ∧
   (∀ tag s, (∀ r ∈ s.mcl.requests, r.rtag = tag → r.waits = false ∨ s.now16 < r.again) → exec (.postboxRetryTimer tag) s = .next s) ∧
   (∀ p c s x, p < 16 → c < 8 → s.running = true → s.ctx p c = some x → x.parcel.mclTimeout ≠ noLimit →
     (∃ r ∈ s.mcl.requests, r.kind.ofJob p c = true ∧ r.since + x.parcel.mclTimeout ≤ s.now16) → x.state ≠ .halted → x.phaseCode ≠ 7 →
     ∃ t y, exec (.mclTimeout p c) s = .next t ∧ t.ctx p c = some y ∧ y.state = .halted ∧ y.status = 0x0103 ∧
       (∀ r ∈ t.mcl.requests, r.kind.ofJob p c = false)) ∧
   (∀ p c s x, p < 16 → c < 8 → s.ctx p c = some x → x.parcel.mclTimeout = noLimit → exec (.mclTimeout p c) s = .next s) ∧
   (∀ p s, p < 16 → s.postboxWaits p = true → exec (.mclStall p) s = .next (s.modRing p fun r => { r with stalled := true })) ∧
   (∀ p s, p < 16 → s.postboxWaits p = false → exec (.mclStall p) s = .next s))

/-! ### Links -/

/-- Retraining: 5,000 cycles without an aligned codeword, or of HOLD, take a port that carries frames to TRAINING, and fewer do nothing; a DOWN port tries again every 100,000 cycles and goes to TRAINING where that succeeds, the serdes rail being up; a training that ends well makes it UP, or SPARED when lane 4 stands in, records the peer, sends the module's LINK frame and sends again what was not acknowledged; one that fails leaves it DOWN; a LINK frame that falls due later names the postcode of that training and the cells freed since (R413, R414, R416, R418-R420, R646). A LINK frame that checks acknowledges the frames of the replay buffer up to the one it names, adds credit, so that a frame which waited for it goes out, passes on that of a transfer which this module forwards, and names the peer; one whose check fails is not taken; the eighth resend asked for one frame retrains the port; a port that carries no frames takes none (R85, R413, R414, R419, R420, R467). Lanes: a loss of lock counts one for its lane, a codeword that the code cannot correct one for the lane with most of its errors; a corrected codeword counts its symbols; the third loss of lock of a link lane puts lane 4 in its place and retrains the port; the window of 10,000,000 cycles ends with a fresh count, retiring no lane within its limits (R43, R410, R413, R417). Completes: linkAlignTimeout, holdTimeout, linkRetrainRetry, linkTrainingDone, link, laneLockLoss, linkUncorrectableCodeword, laneWindowEnd. -/
def Obligations.LinksTrainAcknowledgeAndRetireLanes : Prop :=
  ((∀ n s, n < 32 → let t := if (s.port n).heardAt + 5000 ≤ s.now16 then s.modPort n Port.retrain else s
     exec (.linkAlignTimeout n) s = .next t ∧ exec (.holdTimeout n) s = .next t) ∧
   (∀ (n : Nat) (s : State), n < s.ports.length → (s.port n).state = .up ∨ (s.port n).state = .spared →
     (s.modPort n Port.retrain).port n = { s.port n with state := .training }) ∧
   (∀ (n : Nat) (s : State), (s.port n).state ≠ .up → (s.port n).state ≠ .spared → (s.modPort n Port.retrain).port n = s.port n) ∧
   (∀ n ok s, n < 32 → n < s.ports.length → ∃ t, exec (.linkRetrainRetry n ok) s = .next t ∧ t = { s with ports := t.ports } ∧
     (∀ k, k ≠ n → t.port k = s.port k) ∧
     ((s.port n).state ≠ .down ∨ s.now16 < (s.port n).since + 100000 → t.port n = s.port n) ∧
     ((s.port n).state = .down → (s.port n).since + 100000 ≤ s.now16 → t.port n =
       if ok = true ∧ s.railLow 4 = false then { s.port n with state := .training } else { s.port n with since := s.now16 })) ∧
   (∀ n ok a b s, n < 32 → n < s.ports.length → (s.port n).state = .training → s.railLow 4 = false →
     ∃ t, exec (.linkTrainingDone n ok a b) s = .next t ∧ t = { s with ports := t.ports } ∧ (∀ k, k ≠ n → t.port k = s.port k) ∧
     t.port n = if ok then (s.port n).trained s.linkName s.now16 a b else { s.port n with state := .down, since := s.now16 }) ∧
   (∀ (x : Port) own now a b, let y := x.trained own now a b
     y.state = (if x.retired.isSome then .spared else .up) ∧ y.serial = a ∧ y.postcode = b ∧ y.named = own.2 ∧ y.lseqIn = x.lseqIn ∧ y.counts = [] ∧
     (∃ i, y.link = some ⟨16, x.lseqOut, x.wordOut, linkCells i, 0, 0, .link i⟩ ∧ i.serial = own.1 ∧ i.postcode = own.2 ∧
       i.acked = some ((x.lseqIn + 2 ^ 32 - 1) % 2 ^ 32)) ∧
     (x.queue = [] → x.waiting = [] → y.replay.map (fun f => (f.lseq, f.body)) = x.replay.map (fun f => (f.lseq, f.body)))) ∧
   (∀ (x : Port) own now, x.owes = true → x.carries = true → ∃ i, (Port.cycle own false now x).link = some ⟨16, x.lseqOut, x.wordOut, linkCells i, 0, 0, .link i⟩ ∧
     i.serial = own.1 ∧ i.postcode = x.named ∧ i.credits = x.returned)) ∧
  ((∀ n f i s, n < 32 → n < s.ports.length → (s.port n).carries = true → f.crcOk = true → i.resend = none →
     (s.port n).queue = [] → (s.port n).waiting = [] → (∀ c ∈ i.credits, c.1 < 2 ^ 96) →
     ∃ t, exec (.link n f i) s = .next t ∧ t = { s with ports := t.ports } ∧ (∀ k, k ≠ n → t.port k = s.port k) ∧
       (t.port n).replay = (match i.acked with
         | none => (s.port n).replay
         | some a => (s.port n).replay.filter fun x => seqAfter a (x.lseq + x.body.frames - 1)) ∧
       (t.port n).serial = i.serial ∧ (t.port n).postcode = i.postcode ∧ (t.port n).state = (s.port n).state ∧
       (t.port n).heardAt = s.now16 ∧ (t.port n).lseqIn = (s.port n).lseqIn ∧ (t.port n).lseqOut = (s.port n).lseqOut ∧
       ∀ stage (c : Nat), i.credits = [(stage, c)] → (t.port n).creditFor stage = (s.port n).creditFor stage + c) ∧
   (∀ n f i s g (c : Nat), n < 32 → n < s.ports.length → (s.port n).carries = true → f.crcOk = true → i.resend = none → i.acked = none →
     (s.port n).replay = [] → (s.port n).queue = [g] → (s.port n).waiting = [] → g.stage < 2 ^ 96 → i.credits = [(g.stage, c)] →
     (min 16 g.cells : Int) ≤ (s.port n).creditFor g.stage + c →
     ∃ t, exec (.link n f i) s = .next t ∧ (t.port n).queue = [] ∧ (t.port n).lseqOut = ((s.port n).lseqOut + g.body.frames) % 2 ^ 32 ∧
       (t.port n).creditFor g.stage = (s.port n).creditFor g.stage + c - g.cells) ∧
   (∀ n f i s tag src k cells p c x q, n < 32 → (s.port n).carries = true → f.crcOk = true → i.credits = [(xferStage tag src k, cells)] →
     tag < 2 ^ 32 → src < 2 ^ 32 → k < 2 ^ 32 → s.jobOf tag = some (p, c, x) → x.parcel.role ≠ src → x.parcel.routeTo src = some q → q ≠ n →
     q < s.ports.length → ∃ t, exec (.link n f i) s = .next t ∧ t.port q = (s.port q).giveBack (xferStage tag src k) cells) ∧
   (∀ n f i s, n < 32 → (s.port n).carries = true → f.crcOk = false → exec (.link n f i) s = .next ((s.hearsPort n).askResend n)) ∧
   (∀ n f i s a, n < 32 → n < s.ports.length → (s.port n).carries = true → f.crcOk = true → i.acked = none → i.resend = some a →
     (∀ c ∈ i.credits, c.1 < 2 ^ 96) → (s.port n).resent = (a, 7) →
     ∃ t, exec (.link n f i) s = .next t ∧ (t.port n).state = .training ∧ (t.port n).resent = (a, 8)) ∧
   (∀ n f i s, n < 32 → (s.port n).carries = false → exec (.link n f i) s = .next s)) ∧
  ((∀ n l s, n < 32 → l < 5 → n < s.ports.length → (countOf (s.port n).counts l).locks < 2 →
     ∃ t, exec (.laneLockLoss (.port n) l) s = .next t ∧ t = { s with ports := t.ports } ∧
       (countOf (t.port n).counts l).locks = (countOf (s.port n).counts l).locks + 1 ∧ (t.port n).state = (s.port n).state ∧
       (∀ k, k ≠ l → countOf (t.port n).counts k = countOf (s.port n).counts k) ∧ ∀ k, k ≠ n → t.port k = s.port k) ∧
   (∀ n l s, n < 32 → l < 4 → n < s.ports.length → (s.port n).state ≠ .out → (s.port n).retired = none → 2 ≤ (countOf (s.port n).counts l).locks →
     ∃ t, exec (.laneLockLoss (.port n) l) s = .next t ∧ (t.port n).retired = some l ∧ (t.port n).state = .training ∧
       (∃ e ∈ t.remount.entries, e.kind = 5 ∧ e.unit = 8 * n + l ∧ e.replacement = 4) ∧ ∀ k, k ≠ n → t.port k = s.port k) ∧
   (∀ n l es s, n < 32 → n < s.ports.length → (s.port n).carries = true → corrects es = false → mostLane (s.port n).active es = some l →
     (countOf (s.port n).counts l).uncorrectable < 7 →
     ∃ t, exec (.linkUncorrectableCodeword n es) s = .next t ∧ t = { s with ports := t.ports } ∧ (t.port n).asksResend = true ∧
       (countOf (t.port n).counts l).uncorrectable = (countOf (s.port n).counts l).uncorrectable + 1 ∧
       (t.port n).lseqIn = (s.port n).lseqIn) ∧
   (∀ n es s, n < 32 → n < s.ports.length → (s.port n).carries = true → corrects es = true → (s.port n).active.Nodup →
     (∀ l ∈ (s.port n).active, (countOf (s.port n).counts l).corrected + laneErrors (s.port n).active es l ≤ 16777216) →
     ∃ t, exec (.linkUncorrectableCodeword n es) s = .next t ∧ t = { s with ports := t.ports } ∧
       t.port n = { s.port n with counts := (t.port n).counts, heardAt := s.now16 } ∧ ∀ l ∈ (s.port n).active,
         (countOf (t.port n).counts l).corrected = (countOf (s.port n).counts l).corrected + laneErrors (s.port n).active es l) ∧
   (∀ n cs s, n < 32 → (∀ c ∈ cs.zipIdx, c.1.1 + (countOf (s.port n).counts c.2).corrected ≤ 16777216 ∧
       c.1.2 + (countOf (s.port n).counts c.2).uncorrectable < 8) →
     exec (.laneWindowEnd (.port n) cs) s = .next (if (s.port n).windowAt + 10000000 ≤ s.now16 then
       s.modPort n fun x => { x with counts := [], windowAt := x.windowAt + 10000000 } else s)))

/-! ### The collection of gradients -/

/-- Every frame is taken in order and once: none while the module does not run, the port carries no frames or its job's work must wait; a frame that fails its check or is ahead of the next one asks for a resend and is not taken; one taken before is not taken again; one of a job that is not loaded is dropped and counted, and the cells that it frees go back. A record that takes several frames moves the order, modulo 2^32, by as many (R85, R412-R415, R458). -/
def Obligations.FramesAreTakenInOrderOnce : Prop :=
  ∀ (i : Instr) (n : Nat) (f : FrameHead) (s : State), frameOf i = some (n, f) → n < 32 →
    (frameHeld i s = true ∨ s.running = false ∨ (s.port n).carries = false → exec i s = .next s) ∧
    (frameHeld i s = false → s.running = true → (s.port n).carries = true → f.crcOk = false ∨ seqAfter (s.port n).lseqIn f.lseq = true →
      exec i s = .next ((s.hearsPort n).askResend n)) ∧
    (frameHeld i s = false → s.running = true → (s.port n).carries = true → f.crcOk = true → seqAfter (s.port n).lseqIn f.lseq = false →
      seqFrom (s.port n).lseqIn f.lseq ≠ 0 → exec i s = .next (s.hearsPort n)) ∧
    (frameHeld i s = false → s.frameNext n f → s.jobOf f.tag = none → ∃ t, exec i s = .next t ∧ t = { s with ports := t.ports } ∧
      (let y := { (s.port n).taken s.now16 (frameCount i) (frameStage i) f.cells with dropped := (s.port n).dropped + 1 }
      t.port n = if frameStage i < pathStage then y.giveBack (frameStage i) f.cells else y) ∧
      ∀ k, k ≠ n → t.port k = s.port k)

/-- The seal of R443 is linear: where two blocks of equal length pass an adder's checks, their sum has the sum of their seals modulo 2^31 - 1 and passes the checks too (R443, R445). GRAD brings the block of a child's frame to the adder of its tree, where it opens the block, and the frame's cells of credit go back to the child (R85, R414, R441, R444). An adder adds a good block to its open one: while members are missing the sum stays open with its members; once all below have come, the sum leaves the adder and goes up the tree in one frame (R444, R445). A frame goes where the port holds credit for it, and stays in the replay buffer; without credit it waits at the port, or in its paddock where that has 64 frames there (R413, R414, R447, R551). Completes: grad. -/
def Obligations.SealsAndBlocksAreSummed : Prop :=
  ((∀ a b : List Int, a.length = b.length →
     sealOf ((a.zip b).map fun e => e.1 + e.2) = (sealOf a + sealOf b) % (2 ^ 31 - 1)) ∧
   (∀ (a b : GBlock) (h : GradHead), a.q.length = b.q.length → blockWrong a h h = false → blockWrong b h h = false →
     blockWrong (blockSum a b) h h = false ∧ (blockSum a b).members = a.members + b.members ∧
     ((blockSum a b).nf = true ↔ a.nf = true ∨ b.nf = true) ∧ ((blockSum a b).bad = true ↔ a.bad = true ∨ b.bad = true))) ∧
  ((∀ n f g blk s p c x tr b, s.frameFor n f p c x → x.state ≠ .halted → x.parcel.tree? f.tree = some tr →
     x.parcel.bucket? g.bucket = some b → x.staleGrad g = false → b.tree = f.tree → n ∈ tr.downPorts → tr.adderPort < s.ports.length →
     (∀ k, (s.port k).inputs = []) → x.tr.coll.owed = [] → (s.port tr.adderPort).adder = [] → blockWrong blk g g = false →
     blk.bad = false → blk.members < tr.below →
     ∃ t, exec (.grad n f g [blk]) s = .next t ∧ t = { s with ports := t.ports } ∧
       (t.port tr.adderPort).adder = [⟨f.tree, f.tag, g, blk⟩] ∧ (t.port n).lseqIn = ((s.port n).lseqIn + 1) % 2 ^ 32 ∧
       (t.port n).returned = ((s.port n).giveBack f.tree f.cells).returned) ∧
   (∀ (s : State) (n p c : Nat) (x : Ctx) (w : WaitIn) (o : OpenBlock) (tr : TreeRec), n < s.ports.length → (s.port n).adder = [o] →
     o.is w = true → x.parcel.tree? w.tree = some tr → blockWrong w.blk w.head o.head = false → w.blk.bad = false →
     (o.sum.members + w.blk.members < tr.below →
       (s.adderTakes n p c x w) = s.modPort n fun q => { q with adder := [{ o with sum := blockSum o.sum w.blk }] }) ∧
     (o.sum.members + w.blk.members = tr.below → tr.isRoot = false →
       s.adderTakes n p c x w = s.modPort n fun q =>
         { q with adder := [] }.sendFrame (s.padOf o.tag) (gradCells 1) o.tree o.tag (.grad o.head [blockSum o.sum w.blk]))) ∧
   (∀ (x : Port) (f : SentFrame), (∀ g ∈ x.waiting, g.pad ≠ f.pad) →
     (x.carries = true → x.keeps f = true → (∀ g ∈ x.queue, g.stage ≠ f.stage) → (min 16 f.cells : Int) ≤ x.creditFor f.stage →
       (x.offer f).lseqOut = (x.lseqOut + f.body.frames) % 2 ^ 32 ∧ (x.offer f).creditFor f.stage = x.creditFor f.stage - f.cells ∧
       (x.offer f).replay = x.replay ++ [{ f with lseq := x.lseqOut, index := x.wordOut }] ∧ (x.offer f).queue = x.queue) ∧
     (x.carries = false ∨ x.creditFor f.stage < (min 16 f.cells : Int) →
       x.offer f = if (x.queue.filter (·.pad == f.pad)).length < 64 then { x with queue := x.queue ++ [f] } else { x with waiting := x.waiting ++ [f] })))

/-- SEAL, CLOSE and EPOCH frames from a child join the round of tree 0: the record is combined with those that have come and its port is noted, and nothing goes up while another child's record is missing (R457, R462, R471). Combining seal records keeps the larger of each AMAX, adds the square sums, and votes DSTEP where step, epoch or attempt differ and DSET where the digests or the classes do; votes are never lost (R458, R459). Combining CLOSE records keeps every live bit and every vote (R462). Completes: sealFrame, close, epoch. -/
def Obligations.RecordsJoinTheirRound : Prop :=
  ((∀ n f r s p c x tr, s.frameFor n f p c x → x.state ≠ .halted → x.parcel.tree? 0 = some tr → f.tree = 0 → x.tr.phase ≠ 9 →
     r.attempt = x.tr.attempt % 256 → n ∈ tr.downPorts → n ∉ x.tr.coll.sealFrom →
     (x.parcel.roundFrom.all (n :: x.tr.coll.sealFrom).contains) = false →
     ∃ t, exec (.sealFrame n f r) s = .next t ∧ t = { s with ports := t.ports, pads := t.pads } ∧
       t.pads = (s.modCtx p c fun x => x.modColl fun k => { k with
         sealIn := some (match x.tr.coll.sealIn with | some a => sealJoin a r | none => r), sealFrom := n :: x.tr.coll.sealFrom }).pads) ∧
   (∀ n f r s p c x tr, s.frameFor n f p c x → x.state ≠ .halted → x.parcel.tree? 0 = some tr → f.tree = 0 → x.tr.phase ≠ 9 →
     r.attempt = x.tr.attempt % 256 → n ∈ tr.downPorts → n ∉ x.tr.coll.closeFrom →
     (x.parcel.roundFrom.all (n :: x.tr.coll.closeFrom).contains) = false →
     ∃ t, exec (.close n f r) s = .next t ∧ t = { s with ports := t.ports, pads := t.pads } ∧
       t.pads = (s.modCtx p c fun x => x.modColl fun k => { k with
         closeIn := some (match x.tr.coll.closeIn with | some a => closeJoin a r | none => r), closeFrom := n :: x.tr.coll.closeFrom }).pads) ∧
   (∀ n f r s p c x tr, s.frameFor n f p c x → x.parcel.tree? 0 = some tr → f.tree = 0 → n ∈ tr.downPorts →
     (x.tr.epochIn.all fun e => e.1 != n) = true → x.tr.proposal = none →
     ∃ t, exec (.epoch n f r) s = .next t ∧ t = { s with ports := t.ports, pads := t.pads } ∧
       t.pads = (s.modCtx p c fun x => x.modTr fun t => { t with epochIn := t.epochIn ++ [(n, r)] }).pads)) ∧
  ((∀ (a b : SealRec) (i : Nat), i < 8 → bitOf a.votes i = true ∨ bitOf b.votes i = true → bitOf (sealJoin a b).votes i = true) ∧
   (∀ a b : SealRec, bitOf a.votes 4 = false → bitOf b.votes 4 = false →
     (bitOf (sealJoin a b).votes 4 = true ↔ a.step ≠ b.step ∨ a.epoch ≠ b.epoch ∨ a.attempt ≠ b.attempt)) ∧
   (∀ a b : SealRec, bitOf a.votes 5 = false → bitOf b.votes 5 = false →
     (bitOf (sealJoin a b).votes 5 = true ↔ a.nclass ≠ b.nclass ∨ a.setdig ≠ b.setdig ∨ a.coefdig ≠ b.coefdig)) ∧
   (∀ (a b : CloseRec) (l : Nat), (closeJoin a b).live.testBit l = (a.live.testBit l || b.live.testBit l)) ∧
   (∀ (a b : CloseRec) (i : Nat), i < 8 → bitOf a.votes i = true ∨ bitOf b.votes i = true → bitOf (closeJoin a b).votes i = true))

/-- PARAM is forwarded to every child of its tree and its words of a column statistic go to the bank that is not in use (R394, R464); XFER for another role is forwarded by the route table, and one for this role goes on at the bytes that its receiving record expects (R437, R467). Completes: param, xfer. -/
def Obligations.ParamAndXferFramesMove : Prop :=
  (∀ n f h bs s p c x tr b l st, s.frameFor n f p c x → x.state ≠ .halted → x.parcel.tree? f.tree = some tr →
    x.parcel.bucket? h.bucket = some b → h.step = x.stepNow % 2 ^ 32 → tr.upPort = n → x.parcel.layer? b.layer = some l →
    x.layerSt b.layer = some st → x.tr.phase ≠ 9 → l.frozen = false → h.kind = 1 → h.offset + bs.length < 4 * l.cols + 4 →
    ∃ t, exec (.param n f h bs) s = .next t ∧ t = { s with ports := t.ports, pads := t.pads } ∧
      t.pads = (s.modCtx p c fun x => x.modLayer b.layer fun t => t.putColumns l.cols (h.offset / 4) (wordsOf bs)).pads ∧
      ∀ q ∈ tr.downPorts, q ≠ n → q < s.ports.length → 
        t.port q = (s.port q).sendFrame p f.cells tr.tree f.tag (.param h bs)) ∧
  (∀ n f d src k off bs s p c x q, s.frameFor n f p c x → x.state ≠ .halted → d ≠ x.parcel.role → x.parcel.routeTo d = some q →
    q ≠ n → q < s.ports.length → ∃ t, exec (.xfer n f d src k off bs) s = .next t ∧ t = { s with ports := t.ports } ∧
      t.port q = (s.port q).sendFrame p f.cells f.tree f.tag (.xfer d src k off bs)) ∧
  (∀ n f src k bs s p c x r w u dst e v, s.frameFor n f p c x → x.state ≠ .halted →
    (x.tr.xfers.find? fun r => r.role == src && r.number == k) = some r →
    (x.parcel.recs[r.ordinal]?).map Rec.body = some (.xferRecv w u dst e) → r.got + bs.length < x.parcel.xferBytes dst →
    s.xferWaits f.tag x.parcel.role src k = false → x.state ≠ .blocked →
    (s.modPort n (·.taken s.now16 1 (xferStage f.tag src k) f.cells)).putXfer x (x.parcel.desc dst) r.got bs = .ok v →
    exec (.xfer n f x.parcel.role src k r.got bs) s = .next (v.modCtx p c fun x => x.modTr fun t =>
      { t with xfers := t.xfers.map fun y => if y = r then { r with got := r.got + bs.length } else y }))

/-- COLLECT_END, once nothing is owed and every owned bucket is done, and COLLECT_EXPIRY, once due, enter SEAL with this member's record in the round, the expiry marking unfinished owned buckets late (R452-R454, R457); SEAL_EXPIRY ends the attempt in DRAIN as failed with 0x0604 (R456); BROADCAST_EXPIRY halts the job with 0x0605 (R466). Here another member's record is still missing. Completes: collectEnd, collectExpiry, sealExpiry, broadcastExpiry, driftRecomputeDone. -/
def Obligations.CollectionPhasesEnd : Prop :=
  (∀ p c s x, p < 16 → c < 8 → s.runs p = true → s.ctx p c = some x → x.tr.phase = 5 → x.state ≠ .halted → x.tr.coll.owed = [] →
    x.ownedDone = true → 32 ∉ x.tr.coll.sealFrom → (x.parcel.roundFrom.all (32 :: x.tr.coll.sealFrom).contains) = false →
    ∃ t y, exec (.collectEnd p c) s = .next t ∧ t.ctx p c = some y ∧ y.tr.phase = 6 ∧ 32 ∈ y.tr.coll.sealFrom ∧
      y.tr.coll.buckets = x.tr.coll.buckets ∧ t = { s with pads := t.pads, expiries := t.expiries }) ∧
  (∀ p c s x e, p < 16 → c < 8 → s.runs p = true → s.ctx p c = some x → e ∈ s.expiries → e.paddock = p → e.ctx = c →
    e.kind = .collect → e.endAt ≤ s.now p → 32 ∉ x.tr.coll.sealFrom →
    (x.parcel.roundFrom.all (32 :: x.tr.coll.sealFrom).contains) = false →
    ∃ t y, exec (.collectExpiry p c) s = .next t ∧ t.ctx p c = some y ∧ y.tr.phase = 6 ∧ 32 ∈ y.tr.coll.sealFrom ∧
      y.tr.coll.buckets = x.markLate.tr.coll.buckets ∧ t = { s with pads := t.pads, expiries := t.expiries }) ∧
  (∀ p c s x e, p < 16 → c < 8 → s.runs p = true → s.ctx p c = some x → e ∈ s.expiries → e.paddock = p → e.ctx = c →
    e.kind = .sealing → e.endAt ≤ s.now p → x.state ≠ .halted → x.haltAfter = none →
    (∀ col, x.parcel.collection = some col → col.sealLog = 0xFFFF) →
    ∃ t y, exec (.sealExpiry p c) s = .next t ∧ t.ctx p c = some y ∧ y.tr.phase = 9 ∧ y.tr.verdict = some (.failed 0x0604) ∧
      y.tr.coll.owed = [] ∧ (∀ l ∈ y.tr.layers, l.cpend = false) ∧ t.stables = s.stables) ∧
  (∀ p c s x e, p < 16 → c < 8 → s.runs p = true → s.ctx p c = some x → e ∈ s.expiries → e.paddock = p → e.ctx = c →
    e.kind = .broadcast → e.endAt ≤ s.now p → x.state ≠ .halted →
    ∃ t y, exec (.broadcastExpiry p c) s = .next t ∧ t.ctx p c = some y ∧ y.state = .halted ∧ y.status = 0x0605 ∧ y.flights = [] ∧
      (∀ e ∈ t.expiries, ¬ (e.paddock = p ∧ e.ctx = c))) ∧
  (∀ p c s x v z, p < 16 → c < 8 → s.runs p = true → s.ctx p c = some x → x.tr.phase = 6 → x.tr.coll.recompute = true →
    x.state ≠ .halted → x.updateWaits = false →
    let bs := (x.tr.coll.buckets.filter (·.updated)).filterMap fun r => x.parcel.bucket? r.bucket
    (bs.foldl (fun (s : State) b => s.bucketBoundary x b) s).recomputeAll p c x.tr.c bs = .ok v → v.ctx p c = some z →
    ∃ t y, exec (.driftRecomputeDone p c) s = .next t ∧ t.ctx p c = some y ∧ y.tr.coll.recompute = false)

/-! ### The start, rails and freezes -/

/-- MRESET_N falling resets the module: phase 0 with every setting of the start lost, every paddock CLOSED, every stable (but for its diagnostic counters, R143) and port as after power-up, and OTP, flash and memory kept, with the pins driven as the TAP instruction in force says (R669); rising with the rails up begins phase 1 with reference counters at zero (R89, R599, R605, R641). A rail below its warning level and not below its reset level counts as a dip, and its lowest voltage is kept; in a VSERDES dip the ports that carried frames and MCL stop, to train again. When the rail has stayed above its level for 100 cycles, its dip has ended, the other rails' have not. A rail below its reset level resets the module and, where its rails are up, starts it again, save VSERDES, which has no reset level; the next start is cold once every rail with such a level has fallen, or where a thermal trip was in force (R88, R596, R600, R617, R618, R621; that the falls since the last BOOT count together is the model's choice, log 161). On supply T the module brings up its rails when its input is good and takes them away when it is low (R600, R602). Completes: mresetNFall, mresetNRise, railDip, railRecovered, railReset, v12InputGood, v12InputLow. -/
def Obligations.ResetPinAndRailsAct : Prop :=
  ((∀ s, s.power.mreset = true → ∃ t, exec .mresetNFall s = .next t ∧ t.power.mreset = false ∧ t.start.phase = 0 ∧ t.start.ready = false ∧
     t.grant = 0 ∧ t.power.moduleCap = 2400 ∧ t.pads = List.replicate 16 Paddock.closed ∧ t.stables = s.stables.map (fun x => { Stable.reset with diag := x.diag }) ∧
     t.ports = List.replicate 32 Port.down ∧ t.expiries = [] ∧ t.bus.seat = none ∧ t.mcl.trained = false ∧
     t.freeze.halter = false ∧ t.tap.pins = s.tap.ir.map pinModeOf ∧ t.otp = s.otp ∧ t.flash = s.flash ∧ t.mem = s.mem ∧ t.pending = s.pending) ∧
   (∀ s, s.power.mreset = false → exec .mresetNFall s = .next s) ∧
   (∀ s, s.power.mreset = false → s.power.railsUp = true → s.power.thermtrip = false →
     ∃ t, exec .mresetNRise s = .next t ∧ t.start.phase = 1 ∧ t.power.mreset = true ∧ t.start.fault = false ∧
       (∀ o, (t.ostler o).count = 0) ∧ t.otp = s.otp ∧ t.flash = s.flash ∧ t.mem = s.mem) ∧
   (∀ s, s.power.mreset = true ∨ s.power.railsUp = false ∨ s.power.thermtrip = true → exec .mresetNRise s = .next s)) ∧
  ((∀ r mv s, r < 9 → r < s.power.rails.length → s.start.phase ≠ 0 → mv < warnLevel r → resetLevel r ≤ mv →
     ∃ t x, exec (.railDip r mv) s = .next t ∧
       t = { s with
         power := { s.power with rails := t.power.rails }
         ports := if r = 4 then s.ports.map Port.retrain else s.ports
         mcl := if r = 4 then { s.mcl with trained := false } else s.mcl } ∧
       t.power.rails[r]? = some x ∧ x.dipped = true ∧ x.lowest ≤ mv ∧
       (∀ k, k ≠ r → t.power.rails[k]? = s.power.rails[k]?)) ∧
   (∀ r mv s, r < 9 → warnLevel r ≤ mv → exec (.railDip r mv) s = .next s) ∧
   (∀ r s x, r < 9 → s.power.rails[r]? = some x → x.dipped = true → x.last + 100 ≤ s.now16 → r ≠ 4 →
     ∃ t, exec (.railRecovered r) s = .next t ∧ t.power.rails[r]? = some Rail.good ∧ t.ports = s.ports ∧ t.mcl.trained = s.mcl.trained ∧
       (∀ k, k ≠ r → t.power.rails[k]? = s.power.rails[k]?)) ∧
   (∀ s x, s.power.rails[4]? = some x → x.dipped = true → x.last + 100 ≤ s.now16 →
     ∃ t, exec (.railRecovered 4) s = .next t ∧ t.power.rails[4]? = some Rail.good ∧ t.ports = s.ports.map Port.retrain ∧
       t.mcl.trained = false) ∧
   (∀ r s x, r < 9 → s.power.rails[r]? = some x → s.now16 < x.last + 100 → exec (.railRecovered r) s = .next s) ∧
   (∀ r s, r < 9 → r ≠ 4 → s.power.mreset = true → ∃ t, exec (.railReset r) s = .next t ∧
     t.start.phase = (if s.power.railsUp then 1 else 0) ∧
     t.pads = List.replicate 16 Paddock.closed ∧ t.power.rails = List.replicate 9 Rail.good ∧ t.otp = s.otp ∧ t.mem = s.mem ∧
     t.flash.warm.valid = (s.flash.warm.valid && !(s.power.thermtrip || powerLost (r :: s.power.lost).eraseDups))) ∧
   (∀ s, exec (.railReset 4) s = .next s) ∧
   (∀ s, s.otp.supplyT = true → s.power.railsUp = false → s.power.mreset = true →
     ∃ t, exec (.v12InputGood true) s = .next t ∧ t.power.railsUp = true ∧ t.start.phase = 1) ∧
   (∀ s, s.otp.supplyT = true → s.power.railsUp = true →
     ∃ t, exec .v12InputLow s = .next t ∧ t.power.railsUp = false ∧ t.start.phase = 0 ∧ t.flash.warm.valid = false ∧ t.otp = s.otp))

/-- BOOT takes a whole slot that reaches the floor, the one with the higher svn, then the higher build, and A on a tie; a cold start reads the configuration record and voids the warm record. Without such a slot the start fails with 0x0A01, or with 0x0A04 where one is whole (R603, R607, R610, R652, R655). REPAIR binds the logical stables of each die to its good stables in increasing order and goes on to phase 3; no stable that the fuses or the scan name is bound; where no group can be bound the start fails (R27, R28, R605, R607). The later phases: MCL trains and sets READY, and a cold start goes on to phase 5; with fewer than 8 good lanes the start fails. MEMORY trains every channel, retires those that fail, repairs the soft-repaired rows for good and goes on to phase 6. FINISH trains the link ports, fills every package that was not retained and every pen with zeros and enters phase 7. WARM_HANDBACK not coming for 30 s makes a warm start a cold one (R243, R261, R304, R308, R431, R605, R607, R613). Completes: boot, repair, mclPhase, memory, finish, handbackTimeout. -/
def Obligations.StartPhasesGoOn : Prop :=
  (∀ (c : SlotCheck) (s : State), s.start.phase = 1 → s.start.fault = false →
     let wholeA := c.aOk = true ∧ s.flash.slotA.whole = true
     let wholeB := c.bOk = true ∧ s.flash.slotB.whole = true
     let okA := wholeA ∧ s.otp.floor ≤ s.flash.slotA.svn
     let okB := wholeB ∧ s.otp.floor ≤ s.flash.slotB.svn
     let newer := s.flash.slotA.svn < s.flash.slotB.svn ∨
       (s.flash.slotA.svn = s.flash.slotB.svn ∧ s.flash.slotA.build < s.flash.slotB.build)
     (okA ∨ okB → ∃ t, exec (.boot c) s = .next t ∧ t.start.phase = 2 ∧ (t.start.slotB = true ↔ okB ∧ (okA → newer)) ∧
       t.start.indexNext = nextIndex s.flash ∧ t.otp = s.otp ∧ t.mem = s.mem ∧
       (s.flash.warm.valid = false → t.start.warm = false ∧ t.start.retained = [] ∧ t.cfg = configOf s.flash.config)) ∧
     (¬ okA → ¬ okB → exec (.boot c) s = .next { s with start := { s.start with
       fault := true, failCode := if wholeA ∨ wholeB then 0x0A04 else 0x0A01 } })) ∧
  (∀ (bs bl : List Nat) (s : State), s.start.phase = 2 → s.start.fault = false → s.start.warm = false →
     ∃ t, exec (.repair bs bl) s = .next t ∧ t.otp = s.otp ∧ t.mem = s.mem ∧ t.pads = s.pads ∧
       (t.start.phase = 3 ∨ (t.start.phase = 2 ∧ t.start.fault = true)) ∧ t.remount.bind.length = 64 ∧
       (∀ l g, t.remount.bind.getD l none = some g → g ∉ bs ∧ g ∉ s.otp.badStables ∧ g < 72 ∧ dieOfStable g = l / 32) ∧
       (∀ l m g h, l < m → l / 32 = m / 32 → t.remount.bind.getD l none = some g → t.remount.bind.getD m none = some h → g < h) ∧
       (∀ k ∈ t.remount.groupLost, ∃ l, l / 4 = k ∧ t.remount.bind.getD l none = none)) ∧
  ((∀ good s, s.start.phase = 3 → s.start.fault = false → s.start.warm = false → 8 ≤ (bitsSet 18 good).length →
     exec (.mclPhase good) s = .next { s with mcl := s.mcl.trainedWith good s.now16, start := { s.start with ready := true, phase := 5 } }) ∧
   (∀ good s, s.start.phase = 3 → s.start.fault = false → (bitsSet 18 good).length < 8 →
     exec (.mclPhase good) s = .next { s with start := { s.start with fault := true, failCode := 0 } }) ∧
   (∀ failed bad temps cb s, s.start.phase = 5 → s.start.fault = false → s.start.warm = false → s.channels.length = 192 →
     ∃ t, exec (.memory failed bad temps cb) s = .next t ∧ t.start.phase = 6 ∧ t.channels.length = 192 ∧
       (∀ c, c < 192 → (t.channel c).trained = true ∧ (t.channel c).temp = temps.getD (c / 8) 0 ∧ (t.channel c).selfRefresh = false ∧
         (t.channel c).hard = (s.channel c).hard ++ (s.channel c).soft ∧ (t.channel c).soft = []) ∧
       (∀ c, c < 192 → c ∈ failed → (t.channel c).retired = true ∧ ((s.channel c).retired = false → c < s.sheds.length → (t.shed c).ok = false)) ∧
       (∀ c, c < 192 → c ∉ failed → (t.channel c).retired = (s.channel c).retired)) ∧
   (∀ up peers s, s.mem.wf = true → s.start.phase = 6 → s.start.fault = false → s.freeze.pinLow = false →
     ∃ t, exec (.finish up peers) s = .next t ∧ t.start.phase = 7 ∧ t.flash.warm.valid = false ∧ t.freeze.halter = s.freeze.halter ∧
       (∀ n o, n < 96 → o < penSize → memGet t.mem (penBase n + o) = 0) ∧
       (∀ k o, k < 24 → bitOf s.retainedPackages k = false → o < packageSize → memGet t.mem (packageBase k + o) = 0) ∧
       (∀ p, p < s.ports.length → (t.port p).state = .down ∨ (t.port p).state = .out ∨ (bitOf up p = true ∧ (t.port p).carries = true))) ∧
   (∀ s, s.start.phase = 4 → s.start.phaseAt + 3000000000 ≤ s.now16 → ∃ t, exec .handbackTimeout s = .next t ∧ t = s.warmFallback 3 ∧ t.start.warm = false) ∧
   (∀ s, s.start.phase ≠ 4 ∨ s.now16 < s.start.phaseAt + 3000000000 → exec .handbackTimeout s = .next s))

/-- A halter in phase 7 with MRESET_N high counts one freeze, takes the freeze record and stops every stable between events; before phase 7 the pin is only remembered. When every block has acknowledged, HEALTH.HALTER is set; while it lasts the module's own work stands still. HALTER_N high ends it, and every pending expiry, those of links among them, moves later by its length (R93, R625, R626, R628, R629, R634). Completes: halterNLow, halterAcknowledged, halterNHigh. -/
def Obligations.HalterFreezesAndThaws : Prop :=
  (∀ s, s.start.phase = 7 → s.power.mreset = true → s.freeze.halter = false →
    ∃ t, exec .halterNLow s = .next t ∧ t.freeze.halter = true ∧ t.freeze.acked = false ∧ t.freeze.count = s.freeze.count + 1 ∧
      t.freeze.halterCut = s.now16 ∧ (∃ r, t.freeze.record = some r ∧ r.reason = 1 ∧ r.count = s.freeze.count + 1 ∧ r.duration = 0) ∧
      (∀ x ∈ t.stables, x.active = 0) ∧ t.running = false ∧ (∀ p, t.takesLetters p = false) ∧
      t.pads = s.pads ∧ t.mem = s.mem ∧ t.expiries = s.expiries) ∧
  (∀ s, s.start.phase ≠ 7 ∨ s.power.mreset = false → exec .halterNLow s = .next { s with freeze := { s.freeze with pinLow := true } }) ∧
  (∀ ns s, s.freeze.halter = true → s.freeze.acked = false → ∃ t, exec (.halterAcknowledged ns) s = .next t ∧
    t = { s with freeze := t.freeze } ∧ t.freeze.acked = true ∧ t.freeze.halter = true ∧
    t.freeze.record = s.freeze.record.map fun r => { r with entry := ns }) ∧
  (∀ s, s.freeze.halter = true → s.freeze.thermal = false → ∃ t, exec .halterNHigh s = .next t ∧ t.freeze.halter = false ∧
    (∀ p, (t.pd p).ranSince = if p < s.pads.length then (s.pd p).ranSince + (s.now16 - s.freeze.halterCut) else 0) ∧
    t.freeze.pinLow = false ∧ t.expiries = s.expiries.map (fun e => { e with endAt := e.endAt + (s.now16 - s.freeze.halterCut) }) ∧
    t.deferred = [] ∧ t.stables = s.stables ∧ t.ports = s.ports.map (Port.later (s.now16 - s.freeze.halterCut))) ∧
  (∀ s, s.freeze.halter = false → exec .halterNHigh s = .next { s with freeze := { s.freeze with pinLow := false } })

/-! ### Power, temperature and upkeep -/

/-- A governor interval takes up what was measured and moves the die's voltage: at once down to the target of the search, up by at most 10 mV, and 550 mV while the thermal limit binds; the target lies within vmin and vmax and, above vmin, breaks no cap and no temperature limit (R52, R55, R619, R680). Power and temperature at a voltage are the configuration's own functions (log 17). Temperature: from 105 C a die goes to 550 mV and is limited; below 100 C the limit ends; from 110 C in phase 7 at 550 mV a thermal freeze begins and takes a freeze record, and it ends when both dies are below 95 C; from 120 C, and when COOL_OK is low for 1 ms, the module trips and its next start is cold (R619-R621). The codes are quarters of a degree: 380, 400, 420, 440, 480. Completes: governorInterval, tjSample, coolOkLow. -/
def Obligations.PowerAndTemperatureAreGoverned : Prop :=
  ((∀ d m s, d < 2 → s.dies.length = 2 → s.start.phase ≠ 0 → s.frozen = false → s.power.thermtrip = false → s.dieServed d = true →
     ∃ t, exec (.governorInterval d m) s = .next t ∧ (t.die d).pace = m.pace ∧ (t.die d).powerMw = m.powerMw ∧ (t.die d).tj = m.tj ∧
       (t.die d).limited = (s.die d).limited ∧ t.power.moduleMw = m.powerMw + (s.die (1 - d)).powerMw ∧
       (∀ p, p < s.pads.length → (t.pd p).powerMw = nth m.paddockMw p ∧ (t.pd p).ctxs = (s.pd p).ctxs) ∧
       ((s.die d).limited = true → (t.die d).vcore = 550) ∧
       ((s.die d).limited = false → (t.die d).vcore ≤ (s.die d).vcore + 10 ∧
         (s.cfg.vmin ≤ s.cfg.vmax → (t.die d).vcore ≤ s.cfg.vmax ∧ (s.cfg.vmin ≤ (s.die d).vcore → s.cfg.vmin ≤ (t.die d).vcore))) ∧
       (t.die (1 - d)).vcore = (s.die (1 - d)).vcore ∧ t.stables = s.stables ∧ t.expiries = s.expiries) ∧
   (∀ (s : State) (d n v : Nat) (m : Measured) (c : Nat × Nat), (s.search d m n v c).1 = s.cfg.vmin ∨
     (s.breaks d (s.search d m n v c).1 m).1 = 0) ∧
   (∀ d m s, d < 2 → s.start.phase = 0 ∨ s.frozen = true ∨ s.power.thermtrip = true → exec (.governorInterval d m) s = .next s)) ∧
  ((∀ d tj s, d < 2 → s.dies.length = 2 → s.start.phase ≠ 0 → s.power.thermtrip = false → s.freeze.thermal = false → 420 ≤ tj → tj < 440 →
     ∃ t, exec (.tjSample d tj) s = .next t ∧ (t.die d).tj = tj ∧ (t.die d).vcore = 550 ∧ (t.die d).limited = true ∧
       t.freeze.thermal = false ∧ t.power.thermtrip = false ∧ t.die (1 - d) = s.die (1 - d)) ∧
   (∀ d tj s, d < 2 → s.dies.length = 2 → s.start.phase ≠ 0 → s.power.thermtrip = false → s.freeze.thermal = false → tj < 400 →
     ∃ t, exec (.tjSample d tj) s = .next t ∧ (t.die d).tj = tj ∧ (t.die d).limited = false ∧ (t.die d).vcore = (s.die d).vcore) ∧
   (∀ d tj s, d < 2 → s.dies.length = 2 → s.start.phase = 7 → s.power.thermtrip = false → s.freeze.thermal = false → 440 ≤ tj → tj < 480 →
     ∃ t, exec (.tjSample d tj) s = .next t ∧ t.freeze.thermal = true ∧ t.freeze.count = s.freeze.count + 1 ∧ t.running = false ∧
       (∃ r, t.freeze.record = some r ∧ r.reason = 2) ∧ (∀ x ∈ t.stables, x.active = 0) ∧ (∀ p c, t.ctx p c = s.ctx p c)) ∧
   (∀ d tj s, d < 2 → s.dies.length = 2 → s.start.phase ≠ 0 → s.power.thermtrip = false → s.freeze.thermal = true → s.freeze.halter = false →
     tj < 380 → (s.die (1 - d)).tj < 380 → ∃ t, exec (.tjSample d tj) s = .next t ∧ t.freeze.thermal = false ∧ t.deferred = [] ∧ t.stables = s.stables) ∧
   (∀ d tj s, d < 2 → s.start.phase ≠ 0 → s.power.thermtrip = false → s.otp.supplyT = false → 480 ≤ tj →
     ∃ t, exec (.tjSample d tj) s = .next t ∧ t.power.thermtrip = true ∧ t.running = false ∧ t.flash.warm.valid = false ∧ t.pads = s.pads) ∧
   (∀ s, s.start.phase ≠ 0 → s.power.thermtrip = false → s.otp.supplyT = false → exec .coolOkLow s = .next { s with
     power := { s.power with thermtrip := true }, flash := { s.flash with warm := { s.flash.warm with valid := false } } }) ∧
   (∀ s, s.start.phase ≠ 0 → s.power.thermtrip = false → s.otp.supplyT = true → ∃ t, exec .coolOkLow s = .next t ∧
     t.power.railsUp = false ∧ t.start.phase = 0 ∧ t.flash.warm.valid = false))

/-- The set-point frame is repeated on supply D outside a freeze (R597, R680). The coolant check keeps the temperatures and posts COOLANT exactly when its code changes: 1 for an inlet outside 15 to 40 C, 2 for a rise above 0.0061 K per watt (R623). Completes: vctlRepeat, coolantCheck. -/
def Obligations.SetPointAndCoolantAreReported : Prop :=
  (∀ d s, d < 2 → s.start.phase ≠ 0 → s.power.thermtrip = false → s.otp.supplyT = false → s.frozen = false →
    exec (.vctlRepeat d) s = .next (s.modDie d fun x => { x with vctl := some (vctlFrame x.vcore) })) ∧
  (∀ d s, d < 2 → s.otp.supplyT = true ∨ s.frozen = true → exec (.vctlRepeat d) s = .next s) ∧
  (∀ mv, 550 ≤ mv → mv ≤ 850 → vctlFrame mv / 2 ^ 20 = 10 ∧ vctlFrame mv / 2 ^ 12 % 256 = mv / 5 ∧ vctlFrame mv / 2 ^ 8 % 16 = 0) ∧
  (∀ i o mw s, s.start.phase ≠ 0 → s.power.thermtrip = false →
    ∃ t, exec (.coolantCheck i o mw) s = .next t ∧ Posted { s with power := t.power } t ∧
      t.power = { s.power with coolant := coolantCode i o mw, inlet := i, outlet := o } ∧
      (coolantCode i o mw = s.power.coolant → t.deferred = s.deferred ∧ t.pads = s.pads)) ∧
  (∀ i o mw, (coolantCode i o mw = 1 ↔ i < 60 ∨ 160 < i) ∧
    (coolantCode i o mw = 2 ↔ 60 ≤ i ∧ i ≤ 160 ∧ 244 * (mw : Int) < (o - i) * 10000000))

/-- The progress watchdog: once a stable's count reaches the warning threshold, its warning posts STALL_LONG to the paddock whose share stands at the stable's head, once for each wait, and the job goes on; once it reaches the halt threshold that the parcel sets, its halt halts the job with 0x0004. Below the thresholds neither does anything (R76-R78). Completes: watchdogWarning, watchdogHalt. -/
def Obligations.WatchdogWarnsAndHalts : Prop :=
  (∀ n src s p c x l, n < 72 → n < s.stables.length → src < 4 → s.watchedJob n = some (p, c, x) → s.remount.logical n = some l →
    x.parcel.warnAt ≤ (s.stable n).watch → (s.stable n).warned = false →
    ∃ t, exec (.watchdogWarning n src) s = .next t ∧
      t = (s.modStable n fun x => { x with warned := true }).postEvent p (event 0x00CD 0 l c src 0 [x.parcel.warnAt]) ∧
      Posted { s with stables := t.stables } t ∧ (t.stable n).warned = true ∧ ∀ k, k ≠ n → t.stable k = s.stable k) ∧
  (∀ n s p c x, n < 72 → s.watchedJob n = some (p, c, x) → x.parcel.watchHalt ≠ 0 → x.parcel.watchHalt ≤ (s.stable n).watch →
    s.ctx p c = some x → x.state ≠ .halted →
    x.phaseCode ≠ 7 → ∃ t y, exec (.watchdogHalt n) s = .next t ∧ t.ctx p c = some y ∧ y.state = .halted ∧ y.status = 0x0004 ∧
      y.inStep = false ∧ y.flights = []) ∧
  (∀ n s, n < 72 → s.watchedJob n = none → exec (.watchdogHalt n) s = .next s ∧ exec (.watchdogWarning n 0) s = .next s) ∧
  (∀ n s p c x, n < 72 → s.watchedJob n = some (p, c, x) → x.parcel.watchHalt = 0 ∨ (s.stable n).watch < x.parcel.watchHalt →
    exec (.watchdogHalt n) s = .next s) ∧
  (∀ n src s p c x, n < 72 → src < 4 → s.watchedJob n = some (p, c, x) →
    (s.stable n).watch < x.parcel.warnAt ∨ (s.stable n).warned = true → exec (.watchdogWarning n src) s = .next s)

/-- Patrol scrub counts each burst of a channel whose shed is in service and whose package has inline ECC. A burst whose one flipped bit is corrected is written back and counted for its row; the third different burst of a row repairs it, or retires its page where its bank has no resource left. A burst that cannot be corrected stays bad and, in the second row of a period, retires the channel. Unused addresses are not read, and a channel that is not scrubbed counts nothing (R254, R260-R264, R290). The end of the period clears the channel's table (R260, R263). Yard scrub writes a corrected word of a pen back, and leaves one bad that it cannot correct (R305). A memory controller that cannot absorb its drift retrains at the package's temperature, and is retired where that fails (R249); its poll sets the refresh rate and halves the command rate above the operating range, posting MEMORY_HOT at each change (R250, R251); a per-bank refresh, or one of refresh management where the package needs it, changes no contents (R243, R250). While a rail of the memory dips, a controller issues no command but refresh (R617). Completes: patrolScrubRead, scrubPeriodEnd, yardScrub, wck2dqTrack, mr4Poll, perBankRefresh. -/
def Obligations.MemoryIsKeptUp : Prop :=
  ((∀ ch ca s, ch < 192 → ca < 0x1F0000000 → s.scrubs ch = true → s.spoilt (unitOf (deviceOf ch ca)) = false →
     s.flipsOf (unitOf (deviceOf ch ca)) = [] →
     exec (.patrolScrubRead ch ca .clean) s = .next (s.modChannel ch fun x => { x with scrubbed := x.scrubbed + 1 })) ∧
   (∀ ch ca s, ch < 192 → 0x1F0000000 ≤ ca → ca < 0x1FF800000 → s.scrubs ch = true →
     exec (.patrolScrubRead ch ca .clean) s = .next (s.modChannel ch fun x => { x with scrubbed := x.scrubbed + 1 })) ∧
   (∀ ch ca o s, ch < 192 → 0x1FF800000 ≤ ca → ca < 2 ^ 33 → exec (.patrolScrubRead ch ca o) s = .next s) ∧
   (∀ ch ca s, ch < 192 → ch < s.channels.length → ca < 0x1F0000000 → s.scrubs ch = true →
     s.spoilt (unitOf (deviceOf ch ca)) = false → s.remount.hasRow ch (rowAt ca) = false →
     3 ≤ burstsOf (countCorrected (s.channel ch).rows (rowAt ca) (ca / 64)) (rowAt ca) →
     ∃ t, exec (.patrolScrubRead ch ca .corrected) s = .next t ∧ t.bad = s.bad ∧ t.flipsOf (unitOf (deviceOf ch ca)) = [] ∧
       (t.channel ch).retired = false ∧
       ((s.channel ch).canRepair (rowAt ca) = true → (t.channel ch).repaired = (s.channel ch).repaired + 1 ∧
         (t.channel ch).pages = (s.channel ch).pages ∧
         t.remount.entries = s.remount.entries ++ [⟨8, dieOfChannel ch, ch, 0xFFFFFFFF, rowAt ca⟩]) ∧
       ((s.channel ch).canRepair (rowAt ca) = false → (t.channel ch).repaired = (s.channel ch).repaired ∧
         (t.channel ch).pages = (s.channel ch).pages ++ [rowAt ca] ∧
         t.remount.entries = s.remount.entries ++ [⟨9, dieOfChannel ch, ch, 0xFFFFFFFF, rowAt ca⟩])) ∧
   (∀ ch ca s, ch < 192 → ch < s.channels.length → ca < 0x1F0000000 → s.scrubs ch = true →
     s.spoilt (unitOf (deviceOf ch ca)) = false →
     burstsOf (countCorrected (s.channel ch).rows (rowAt ca) (ca / 64)) (rowAt ca) < 3 →
     ∃ t, exec (.patrolScrubRead ch ca .corrected) s = .next t ∧ t.flipsOf (unitOf (deviceOf ch ca)) = [] ∧ t.bad = s.bad ∧
       t = { s with flips := t.flips, channels := t.channels } ∧
       (t.channel ch).rows = countCorrected (s.channel ch).rows (rowAt ca) (ca / 64)) ∧
   (∀ ch ca s, ch < 192 → ch < s.channels.length → ca < 0x1F0000000 → s.scrubs ch = true →
     (∃ r ∈ (s.channel ch).uncorrectableRows, r ≠ rowAt ca) → rowAt ca ∉ (s.channel ch).uncorrectableRows →
     ∃ t, exec (.patrolScrubRead ch ca .uncorrectable) s = .next t ∧ (t.channel ch).retired = true ∧
       unitOf (deviceOf ch ca) ∈ t.bad) ∧
   (∀ ch s, ch < 192 → s.running = true →
     exec (.scrubPeriodEnd ch) s = .next (s.modChannel ch fun x => { x with rows := [], uncorrectableRows := [], scrubbed := 0 })) ∧
   (∀ ch ca o s, ch < 192 → ca < 2 ^ 33 → s.running = false ∨ (s.channel ch).retired = true ∨ (s.shed ch).ok = false ∨
     bitOf s.cfg.ecc (ch / 8) = false → exec (.patrolScrubRead ch ca o) s = .next s)) ∧
  ((∀ n off s, n < 96 → off < penSize → s.running = true → s.spoilt (unitOf (penBase n + off)) = false →
     (∃ t, exec (.yardScrub n off .uncorrectable) s = .next t ∧ t.bad = s.bad ++ [unitOf (penBase n + off)] ∧
       Posted { s with bad := t.bad, flips := t.flips } t) ∧
     exec (.yardScrub n off .clean) s = .next (s.unflip (unitOf (penBase n + off))) ∧
     exec (.yardScrub n off .corrected) s = .next (s.unflip (unitOf (penBase n + off)))) ∧
   (∀ (u : Nat) (s : State), (s.unflip u).flipsOf u = []) ∧
   (∀ ch x temp s, ch < 192 → (s.channel ch).up = true → s.memoryLow = false →
     exec (.wck2dqTrack ch true x temp) s = .next s ∧
     exec (.wck2dqTrack ch false true temp) s = .next (s.modChannel ch fun c => { c with
       trained := true, temp := temp, trainings := c.trainings + 1, settings := none }) ∧
     exec (.wck2dqTrack ch false false temp) s = .next (s.retireChannel ch)) ∧
   (∀ (ch : Nat) (s : State), ch < s.channels.length → ch < s.sheds.length → (s.channel ch).retired = false →
     ((s.retireChannel ch).channel ch).retired = true ∧ ((s.retireChannel ch).shed ch).ok = false ∧
     ∃ e ∈ (s.retireChannel ch).remount.entries, e.kind = 10 ∧ e.unit = ch) ∧
   (∀ ch a o s, ch < 192 → ch < s.channels.length → (s.channel ch).up = true → s.memoryLow = false →
     ∃ t, exec (.mr4Poll ch a o) s = .next t ∧
     t.channel ch = { s.channel ch with fastRefresh := a, hot := o } ∧ (∀ k, k ≠ ch → t.channel k = s.channel k) ∧
     Posted { s with channels := t.channels } t ∧ ((s.channel ch).hot = o → t.pads = s.pads) ∧
     ((s.channel ch).hot ≠ o → t = ({ s with channels := t.channels } : State).postHot ch o)) ∧
   (∀ ch r b s, ch < 192 → r < 2 → b < 16 → (s.channel ch).up = true →
     exec (.perBankRefresh ch r b false) s = .next (s.modChannel ch fun x => { x with refreshes := x.refreshes + 1 }) ∧
     exec (.perBankRefresh ch r b true) s = .next (if Config.refreshManaged (ch / 8) then s.modChannel ch fun x => { x with managed := x.managed + 1 } else s)) ∧
   (∀ ch r b a o x y temp s, ch < 192 → r < 2 → b < 16 → (s.channel ch).up = false → exec (.perBankRefresh ch r b x) s = .next s ∧
     exec (.mr4Poll ch a o) s = .next s ∧ exec (.wck2dqTrack ch x y temp) s = .next s) ∧
   (∀ ch a o x y temp s, ch < 192 → s.memoryLow = true →
     exec (.mr4Poll ch a o) s = .next s ∧ exec (.wck2dqTrack ch x y temp) s = .next s))

/-! ### The post bus and the test access port -/

/-- CALL starts arbitration in a module without a seat; ASSIGN gives the seat to the module whose serial it names, answers status 2 where a seat is held and 1 for a seat above 63; RELEASE answers and gives the seat up (R639, R641, R643, R645). Outside its time on the bus the module changes nothing (R640). Arbitration by serial: in the window every slot drives 0 exactly where the module has not withdrawn and slot 0, or bit 64 - k of its serial being 0, says so; the module withdraws where it drives nothing and another drives 0 (R643, R644); a module that is no longer served, or is frozen, by the window drives nothing in it (R643). A module that is addressed on its seat answers: READ with up to seven registers of the ID block, STATUS, IDENTITY with 60 bytes of the device key, an op that is not listed with status 1; a READ outside its limits with status 1. An answer that collides is abandoned, and the third in a row gives the seat up (R563, R637-R639, R642, R648). Completes: call, assign, release, read, status, identity, arbitrationWindow, postBusUnknownOp. -/
def Obligations.PostBusSeatsAndAnswers : Prop :=
  ((∀ s, s.busServed = true → s.bus.seat = none → s.frozen = false →
     exec .call s = .next { s with bus := { s.bus with calling := true } }) ∧
   (∀ n s, s.busServed = true → s.frozen = false → s.bus.seat = none → n ≤ 63 →
     ∃ t, exec (.assign s.otp.serial n false) s = .next t ∧ Posted { s with bus := t.bus } t ∧ t.bus.seat = some n ∧
       t.bus.answer = answerFrame 0x02 n 0 [] ∧ t.bus.segment = s.bus.segment ∧ t.bus.calling = s.bus.calling) ∧
   (∀ n k s, s.busServed = true → s.frozen = false → s.bus.seat = some k →
     exec (.assign s.otp.serial n false) s = .next { s with bus := { s.bus with answer := answerFrame 0x02 k 2 [], abandoned := 0 } }) ∧
   (∀ n s, s.busServed = true → s.frozen = false → s.bus.seat = none → 63 < n →
     exec (.assign s.otp.serial n false) s = .next { s with bus := { s.bus with answer := answerFrame 0x02 0xFF 1 [], abandoned := 0 } }) ∧
   (∀ k n x s, k ≠ s.otp.serial → exec (.assign k n x) s = .next s) ∧
   (∀ k s, s.hears k false = true → ∃ t, exec (.release k false) s = .next t ∧ Posted { s with bus := t.bus } t ∧ t.bus.seat = none ∧
     t.bus.answer = answerFrame 0x03 k 0 []) ∧
   (∀ k n a b x s, s.busServed = false → exec .call s = .next s ∧ exec (.assign k n x) s = .next s ∧ exec (.release k x) s = .next s ∧
     exec (.read k a b x) s = .next s ∧ exec (.status k x) s = .next s ∧ exec (.identity k x) s = .next s)) ∧
  ((∀ xs s, s.bus.calling = true → s.busServed = true → s.frozen = false → xs.length = 65 → ∃ t, exec (.arbitrationWindow xs) s = .next t ∧ t = { s with bus := t.bus } ∧
     t.bus.calling = false ∧ t.bus.driven.length = 65 ∧ t.bus.driven[0]? = some true ∧ t.bus.seat = s.bus.seat ∧
     (t.bus.withdrew = false ↔ ∀ k, k < 65 → xs.getD k true = false → drivesZero s.otp.serial k = true) ∧
     (t.bus.withdrew = false → ∀ k, k < 65 → t.bus.driven[k]? = some (drivesZero s.otp.serial k))) ∧
   (∀ xs s, s.bus.calling = true → s.busServed = false ∨ s.frozen = true → exec (.arbitrationWindow xs) s = .next { s with bus :=
      { s.bus with calling := false, driven := List.replicate 65 false, withdrew := true } }) ∧
   (∀ xs s, s.bus.calling = false → exec (.arbitrationWindow xs) s = .next s)) ∧
  ((∀ k o n s, s.hears k true = true → 1 ≤ n → n ≤ 7 → o % 8 = 0 → 0x1000 ≤ o → o ≤ 0x10FF →
     exec (.read k o n false) s = .next { s with bus := { s.bus with
       answer := answerFrame 0x04 k 0 ((List.range n).map fun i => leBytes 8 (s.idReg (o + 8 * i))).flatten, abandoned := 0 } }) ∧
   (∀ k o n s, s.hears k true = true → n = 0 ∨ 7 < n ∨ o % 8 ≠ 0 ∨ o < 0x1000 ∨ 0x10FF < o →
     exec (.read k o n false) s = .next { s with bus := { s.bus with answer := answerFrame 0x04 k 1 [], abandoned := 0 } }) ∧
   (∀ k s, s.hears k true = true →
     exec (.status k false) s = .next { s with bus := { s.bus with answer := answerFrame 0x05 k 0 s.statusPayload, abandoned := 0 } }) ∧
   (∀ k s, s.hears k false = true → ∃ key, key.length = 60 ∧
     exec (.identity k false) s = .next { s with bus := { s.bus with answer := answerFrame 0x06 k 0 key, abandoned := 0 } }) ∧
   (∀ op k s, s.hears k false = true → op = 0 ∨ 6 < op →
     exec (.postBusUnknownOp op k false) s = .next { s with bus := { s.bus with answer := answerFrame op k 1 [], abandoned := 0 } }) ∧
   (∀ k o n s, s.hears k true = true → s.bus.abandoned < 2 →
     exec (.read k o n true) s = .next { s with bus := { s.bus with abandoned := s.bus.abandoned + 1 } } ∧
     exec (.status k true) s = .next { s with bus := { s.bus with abandoned := s.bus.abandoned + 1 } }) ∧
   (∀ k s, s.hears k false = true → s.bus.abandoned = 2 →
     ∃ t, exec (.identity k true) s = .next t ∧ t.bus.seat = none ∧ t.bus.abandoned = 0 ∧ Posted { s with bus := t.bus } t) ∧
   (∀ s : State, s.statusPayload.length = 26))

/-- An answer frame carries op + 0x80, the seat, the length, the status and the payload, then two bytes of CRC-16 over all of them, low byte first (R637). PXID, POSTCODE and HEALTH read as R564, R567 and R568 lay them out. The TAP: Test-Logic-Reset and IDCODE select the identification register; BYPASS one bit that captures 0; SAMPLE/PRELOAD takes the pins and loads the cells; an instruction that drives pins does so only while MRESET_N is low; READOUT captures the granule of its address in the halter view. Each changes the TAP alone (R667-R669). Completes: testLogicReset, bypass, idcode, samplePreload, extest, clamp, highz, extestPulse, extestTrain, readout. -/
def Obligations.IdentityAndTapRead : Prop :=
  ((∀ op k st bs, (answerFrame op k st bs).length = 6 + bs.length ∧ (answerFrame op k st bs).take 4 =
     leBytes 1 (op + 0x80) ++ leBytes 1 k ++ leBytes 1 (bs.length + 1) ++ leBytes 1 st ∧
     (answerFrame op k st bs).drop (4 + bs.length) = leBytes 2 (crc16 ((answerFrame op k st bs).take (4 + bs.length)))) ∧
   (∀ s : State, s.idReg 0x1000 / 2 ^ 48 = 0x5058 ∧ s.idReg 0x1000 / 2 ^ 32 % 2 ^ 16 = 0x4824 ∧
     (s.idReg 0x1000 / 2 ^ 24 % 2 ^ 8 = if s.otp.gradeQ then 0x51 else 0x4A) ∧
     (s.idReg 0x1000 / 2 ^ 16 % 2 ^ 8 = if s.otp.supplyT then 0x54 else 0x44)) ∧
   (∀ s : State, s.bus.seat = none ∨ s.bus.segment = none →
     s.idReg 0x1050 = s.bus.segment.getD 0 * 64 + s.bus.seat.getD 0) ∧
   (∀ (s : State) (k g : Nat), s.bus.seat = some k → s.bus.segment = some g → s.idReg 0x1050 = 2 ^ 31 + g * 64 + k) ∧
   (∀ s : State, s.start.phase < 8 → s.idReg 0x1058 / 2 ^ 12 = s.start.phase ∧ (s.idReg 0x1058 % 2 = 1 ↔ s.start.ready = true) ∧
     (s.idReg 0x1058 / 2 % 2 = 1 ↔ s.start.fault = true) ∧ (s.idReg 0x1058 / 2 ^ 11 % 2 = 1 ↔ s.start.warm = true)) ∧
   (∀ (s : State) (p : Nat), p < 16 → s.configReg (0x1080 + 8 * p) = (s.pd p).ring.register)) ∧
  ((∀ s, s.tap.ir.length = 2 → s.tap.data.length = 2 → ∃ t, exec .testLogicReset s = .next t ∧ t = { s with tap := t.tap } ∧
     t.tap.ir = [1, 1] ∧ t.tap.data = [s.idcode, s.idcode]) ∧
   (∀ d s, d < 2 → exec (.bypass d) s = .next { s with tap := s.tap.select d 0xFF 0 .system } ∧
     exec (.idcode d) s = .next { s with tap := s.tap.select d 0x01 s.idcode .system }) ∧
   (∀ d a b s, d < 2 → d < s.tap.sampled.length → d < s.tap.preload.length → ∃ t, exec (.samplePreload d a b) s = .next t ∧
     t = { s with tap := t.tap } ∧ t.tap.sampled[d]? = some a ∧ t.tap.preload[d]? = some b ∧ t.tap.readData = s.tap.readData) ∧
   (∀ d s, d < 2 → s.power.mreset = false →
     exec (.extest d) s = .next { s with tap := s.tap.select d 0x00 0 .cells } ∧
     exec (.clamp d) s = .next { s with tap := s.tap.select d 0x03 0 .cells } ∧
     exec (.highz d) s = .next { s with tap := s.tap.select d 0x04 0 .highz } ∧
     exec (.extestPulse d) s = .next { s with tap := s.tap.select d 0x05 0 .pulse } ∧
     exec (.extestTrain d) s = .next { s with tap := s.tap.select d 0x06 0 .train }) ∧
   (∀ d s, d < 2 → s.power.mreset = true →
     exec (.extest d) s = .next { s with tap := s.tap.select d 0x00 0 .system } ∧
     exec (.clamp d) s = .next { s with tap := s.tap.select d 0x03 0 .system } ∧
     exec (.highz d) s = .next { s with tap := s.tap.select d 0x04 0 .system } ∧
     exec (.extestPulse d) s = .next { s with tap := s.tap.select d 0x05 0 .system } ∧
     exec (.extestTrain d) s = .next { s with tap := s.tap.select d 0x06 0 .system }) ∧
   (∀ a s, a < 2 ^ 48 → ∃ t, exec (.readout a) s = .next t ∧ t = { s with tap := t.tap } ∧ t.tap.readAddr = a ∧
     t.tap.readData = s.granule a ∧ (s.windowOpen = false → t.tap.readData = List.replicate 64 0)) ∧
   (∀ s : State, s.idcode % 2 = 1 ∧ s.idcode / 2 % 2 ^ 11 = 0x2C5 ∧ s.idcode / 2 ^ 12 % 2 ^ 16 = 0x4824))

/-! ### The groom -/

/-- A groom command issues only the instruction that stands next in the program that the stable runs: where the next word has another opcode, where nothing may issue, while a pre-emption waits for the groom, or while the module does not run, it changes nothing (R150, R159, R173, R182). G.LDK fills CNT elements with its value, a NaN as the canonical one; G.RAND fills them with the random values of its stream and counts one issue; G.SCAL writes the summary of its kind to a summary register and raises no flag; G.REP begins a loop over the words that follow it (R156, R170, R171, R178, R188, R217). Completes: gLdk, gRand, gScal, gRep. -/
def Obligations.GroomIssuesInProgramOrder : Prop :=
  ((∀ i n op s o w, groomOp i = some (n, op) → s.groomAt n o w → GW.op w ≠ op → exec i s = .next s) ∧
   (∀ i n op s, groomOp i = some (n, op) → n < 72 → s.running = false → exec i s = .next s) ∧
   (∀ i n op s, groomOp i = some (n, op) → n < 72 → s.kop? n = none → exec i s = .next s) ∧
   (∀ i n op s o, groomOp i = some (n, op) → n < 72 → s.kop? n = some o → o.run.begun = true → s.canIssue o = false →
     exec i s = .next s) ∧
   (∀ i n op s, groomOp i = some (n, op) → 72 ≤ n → exec i s = .fault .noSuchUnit)) ∧
  ((∀ n s o w, s.groomAt n o w → GW.op w = 0x03 → s.groomGoesOn n o → (s.groom n).tiles.length = 8 →
     ∃ t, exec (.gLdk n) s = .next t ∧ groomEnded s t n o 0 ∧
       (∀ k, k < GW.cnt w → (t.groom n).elemAt (GW.dst w) k = Fp.canon32 (GW.value w)) ∧
       (GW.wd w = true → GW.dst w ≠ 7 → ∀ k, k < GW.cnt w → (t.groom n).elemAt (GW.dst w + 1) k = 0) ∧
       ∀ r k, (r ≠ GW.dst w ∧ (GW.wd w = true → r ≠ GW.dst w + 1)) ∨ GW.cnt w ≤ k → (t.groom n).elemAt r k = (s.groom n).elemAt r k) ∧
   (∀ n s o w, s.groomAt n o w → GW.op w = 0x08 → s.groomGoesOn n o → (s.groom n).tiles.length = 8 →
     ∃ t, exec (.gRand n) s = .next t ∧ groomEnded s t n o 0 ∧ (t.groom n).rands = (s.groom n).rands + 1 ∧
       (∀ k, k < GW.cnt w → (t.groom n).elemAt (GW.dst w) k = o.randElem w (s.groom n).rands k) ∧
       ∀ r k, r ≠ GW.dst w ∨ GW.cnt w ≤ k → (t.groom n).elemAt r k = (s.groom n).elemAt r k) ∧
   (∀ n s o w, s.groomAt n o w → GW.op w = 0x3D → s.groomGoesOn n o → GW.sreg w < (s.groom n).sums.length →
     ∃ t, exec (.gScal n) s = .next t ∧ groomEnded s t n o 0 ∧ (t.groom n).sums[GW.sreg w]? = some ((s.groom n).summary w) ∧
       (∀ k, k ≠ GW.sreg w → (t.groom n).sums[k]? = (s.groom n).sums[k]?) ∧ (t.groom n).tiles = (s.groom n).tiles) ∧
   (∀ n s o w, s.groomAt n o w → GW.op w = 0x3C → (s.groom n).pc + 1 < o.k.progLen →
     ∃ t, exec (.gRep n) s = .next t ∧ t = { s with stables := t.stables } ∧ (t.groom n).pc = (s.groom n).pc + 1 ∧
       (t.groom n).loops = ⟨(s.groom n).pc + 1, (s.groom n).pc + GW.len w, GW.iter w - 1⟩ :: (s.groom n).loops ∧
       (t.groom n).tiles = (s.groom n).tiles ∧ (t.groom n).sums = (s.groom n).sums ∧ ∀ k, k ≠ n → t.stable k = s.stable k))

/-- An element-wise instruction writes CNT elements: each is the exact result of its source elements as they stood before the instruction, rounded once to FP32 or to a pair; every other element and register keeps its value, the flags are those of the elements, and the program goes on (R156-R164, R171, R175, R176). A reduction writes one result for each row, or for each column, combined by the tree of R166 from the elements that are present, sums rounded at each node and a maximum or minimum once at its end, and leaves every other element alone (R160, R162, R166). Completes: gMov, gSel, gAdd, gSub, gMul, gFma, gFms, gFnma, gFnms, gMax, gMin, gAbs, gNeg, gCmp, gRcp, gDiv, gSqrt, gRsqrt, gExp, gLog, gTanh, gSig, gErf, gRsum, gCsum, gRmax, gCmax, gRmin, gCmin. -/
def Obligations.GroomInstructionsWriteTheirResults : Prop :=
  (∀ i n op f mode s o w, elementOp i = some (n, f, mode) → groomOp i = some (n, op) → s.groomAt n o w → GW.op w = op →
     s.groomGoesOn n o → (s.groom n).tiles.length = 8 →
     let res := fun k => placed (GW.wd w) (mode w) (f w (s.groom n) w k)
     ∃ t, exec i s = .next t ∧ groomEnded s t n o (flagsAll ((List.range (GW.cnt w)).map fun k => (res k).flags)) ∧
       (∀ k, k < GW.cnt w → (t.groom n).elemAt (GW.dst w) k = (res k).v.hi) ∧
       (GW.wd w = true → GW.dst w ≠ 7 → ∀ k, k < GW.cnt w → (t.groom n).elemAt (GW.dst w + 1) k = (res k).v.lo) ∧
       (∀ r k, (r ≠ GW.dst w ∧ (GW.wd w = true → r ≠ GW.dst w + 1)) ∨ GW.cnt w ≤ k →
         (t.groom n).elemAt r k = (s.groom n).elemAt r k) ∧
       (t.groom n).sums = (s.groom n).sums ∧ (t.groom n).pos = (s.groom n).pos) ∧
  (∀ i n op rows isSum f s o w, reductionOp i = some (n, rows, isSum, f) → groomOp i = some (n, op) → s.groomAt n o w → GW.op w = op →
     s.groomGoesOn n o → (s.groom n).tiles.length = 8 →
     let mode := if isSum then addMode w else .rne
     let many := if rows then ceilDiv (GW.cnt w) 64 else min (min (GW.cnt w) 64) (GW.ncol w)
     let res := fun k => reduceTo (GW.wd w) isSum mode (f mode)
       ((List.range 64).map fun j => if rows then (s.groom n).present w k j else (s.groom n).present w j k)
     ∃ t, exec i s = .next t ∧ groomEnded s t n o (flagsAll ((List.range many).map fun k => (res k).flags)) ∧
       (∀ k, k < many → (t.groom n).elemAt (GW.dst w) k = (res k).v.hi) ∧
       (∀ r k, (r ≠ GW.dst w ∧ (GW.wd w = true → r ≠ GW.dst w + 1)) ∨ many ≤ k → (t.groom n).elemAt r k = (s.groom n).elemAt r k))

/-- G.LD and G.GATH from memory write the values at the positions of their descriptor, +0 outside its valid range, and NaN for an index that names no element; the position advances by CNT, or by whole rows (R113, R160, R168, R169). G.ST to memory writes, in element order, the code of each element at the positions of its descriptor, or of a wide source its two words, hi then lo, and G.SCAT the code of its element at the position that its index names, or nothing where the index names none; the position advances, and no register changes (R168, R169, R175, R213). Completes: gLd, gGath, gSt, gScat. -/
def Obligations.GroomLoadsAndStores : Prop :=
  ((∀ n s o w (val : Nat → Ext), s.groomAt n o w → GW.op w = 0x01 → s.groomGoesOn n o → (s.groom n).tiles.length = 8 → (s.groom n).elem = 0 →
     (s.groom n).partFlags = 0 → GW.follow w = false → GW.wd w = false →
     let d := o.groomDesc (GW.desc w)
     let at_ := fun k => (s.groom n).posOf (GW.desc w) + k
     (∀ k, k < GW.cnt w → match d.place (GW.fmt w) (at_ k) with
       | none => val k = Ext.zero false
       | some a => portAt a.1 = none ∧ s.loadVal o.x (GW.fmt w) d (at_ k) = .ok (val k)) → GW.fmt w ≠ 0x20 →
     ∃ t, exec (.gLd n) s = .next t ∧ t = { s with stables := t.stables } ∧ (t.groom n).elem = 0 ∧
       (t.groom n).posOf (GW.desc w) = (s.groom n).posOf (GW.desc w) + GW.cnt w ∧
       (∀ k, k < GW.cnt w → (t.groom n).elemAt (GW.dst w) k = (Fp.toNarrow (GW.memRnd w) (Fp.ofExt (val k))).v) ∧
       (∀ r k, r ≠ GW.dst w ∨ GW.cnt w ≤ k → (t.groom n).elemAt r k = (s.groom n).elemAt r k) ∧
       ∀ k, k ≠ n → t.stable k = s.stable k) ∧
   (∀ n s o w, s.groomAt n o w → GW.op w = 0x05 → s.groomGoesOn n o → (s.groom n).tiles.length = 8 → (s.groom n).elem = 0 →
     (s.groom n).partFlags = 0 → GW.wd w = false →
     let d := o.groomDesc (GW.desc w)
     (∀ k, k < GW.cnt w → indexOf ((s.groom n).src1 w k) d.first = none) →
     ∃ t, exec (.gGath n) s = .next t ∧ t = { s with stables := t.stables } ∧
       (∀ k, k < GW.cnt w → (t.groom n).elemAt (GW.dst w) k = Fp.nan32) ∧ (t.groom n).last &&& flagINV = flagINV ∧
       (t.groom n).posOf (GW.desc w) = (s.groom n).posOf (GW.desc w) + gatherRows o w) ∧
   (∀ n s o w x v bits, s.groomAt n o w → GW.op w = 0x05 → s.groomGoesOn n o → (s.groom n).tiles.length = 8 → (s.groom n).elem = 0 →
     (s.groom n).partFlags = 0 → GW.wd w = false → GW.cnt w = 1 → GW.fmt w ≠ 0x20 →
     let d := o.groomDesc (GW.desc w)
     indexOf ((s.groom n).src1 w 0) d.first = some x →
     s.loadBits o.x (GW.fmt w) d ((s.groom n).posOf (GW.desc w) + x) = .ok (some bits) →
     s.loadVal o.x (GW.fmt w) d ((s.groom n).posOf (GW.desc w) + x) = .ok v →
     ∃ t, exec (.gGath n) s = .next t ∧ t = { s with stables := t.stables } ∧
       (t.groom n).elemAt (GW.dst w) 0 = (Fp.toNarrow .rne (Fp.ofExt v)).v ∧
       (t.groom n).posOf (GW.desc w) = (s.groom n).posOf (GW.desc w) + d.first)) ∧
  ((∀ n s o w v, s.groomAt n o w → GW.op w = 0x02 → s.groomGoesOn n o → (s.groom n).elem = 0 → (s.groom n).partFlags = 0 →
     isMx (GW.fmt w) = false → ¬ (GW.fmt w = 0x01 ∧ GW.w1 w = true) → o.run.probing = false →
     let d := o.groomDesc (GW.desc w)
     let at_ := fun k => (s.groom n).posOf (GW.desc w) + k
     let code := fun k => storedCode (GW.fmt w) (GW.memRnd w) (2 ^ 20) ((s.groom n).src1 w k)
     (∀ k, k < GW.cnt w → ∀ a, d.place (GW.fmt w) (at_ k) = some a → portAt a.1 = none) →
     (List.range (GW.cnt w)).foldlM (fun u k => State.storeBits u o.x (GW.fmt w) d (at_ k) (code k).bits) s = .ok v →
     v.pads = s.pads →
     ∃ t, exec (.gSt n) s = .next t ∧ t = { v with stables := t.stables } ∧ (t.groom n).elem = 0 ∧
       (t.groom n).tiles = (s.groom n).tiles ∧
       (t.groom n).posOf (GW.desc w) = (s.groom n).posOf (GW.desc w) + GW.cnt w ∧ ∀ k, k ≠ n → t.stable k = s.stable k) ∧
   (∀ n s o w v a, s.groomAt n o w → GW.op w = 0x02 → s.groomGoesOn n o → (s.groom n).elem = 0 → (s.groom n).partFlags = 0 →
     GW.fmt w = 0x01 → GW.w1 w = true → o.run.probing = false → GW.cnt w = 1 →
     let d := o.groomDesc (GW.desc w)
     let p := (s.groom n).pairAt true (GW.s1 w) 0
     d.place 0x01 ((s.groom n).posOf (GW.desc w)) = some a → portAt a.1 = none →
     s.store o.x a.1 (leBytes 4 (Fp.canon32 p.hi).toNat ++ leBytes 4 (Fp.canon32 p.lo).toNat) = .ok v → v.pads = s.pads →
     ∃ t, exec (.gSt n) s = .next t ∧ t = { v with stables := t.stables } ∧ (t.groom n).tiles = (s.groom n).tiles ∧
       (t.groom n).posOf (GW.desc w) = (s.groom n).posOf (GW.desc w) + 1 ∧ ∀ k, k ≠ n → t.stable k = s.stable k) ∧
   (∀ n s o w x v a, s.groomAt n o w → GW.op w = 0x06 → s.groomGoesOn n o → (s.groom n).elem = 0 → (s.groom n).partFlags = 0 →
     isMx (GW.fmt w) = false → o.run.probing = false → GW.cnt w = 1 →
     let d := o.groomDesc (GW.desc w)
     let at_ := (s.groom n).posOf (GW.desc w) + x
     indexOf ((s.groom n).src2 w 0) d.first = some x → d.place (GW.fmt w) at_ = some a →
     s.storeBits o.x (GW.fmt w) d at_ (storedCode (GW.fmt w) .rne (2 ^ 20) ((s.groom n).src1 w 0)).bits = .ok v → v.pads = s.pads →
     ∃ t, exec (.gScat n) s = .next t ∧ t = { v with stables := t.stables } ∧ (t.groom n).tiles = (s.groom n).tiles ∧
       (t.groom n).posOf (GW.desc w) = (s.groom n).posOf (GW.desc w) + d.first) ∧
   (∀ n s o w, s.groomAt n o w → GW.op w = 0x06 → s.groomGoesOn n o → (s.groom n).elem = 0 → (s.groom n).partFlags = 0 →
     (∀ k, k < GW.cnt w → indexOf ((s.groom n).src2 w k) (o.groomDesc (GW.desc w)).first = none) →
     ∃ t, exec (.gScat n) s = .next t ∧ t = { s with stables := t.stables } ∧ (t.groom n).tiles = (s.groom n).tiles))

/-- The element operations on any values: a NaN operand gives NaN and raises INV, save in G.SEL and G.CMP; additions and products commute; a finite value less itself is +0, and -0 only when rounding down; G.MAX and G.MIN give one of their operands; the comparisons of G.CMP are EQ, LT and GT, exactly one of which holds where no operand is NaN, and what follows from them; G.RCP, G.RSQRT and G.LOG of zero raise DZ and G.MAX(+0, -0) is +0, G.MIN(+0, -0) is -0 (R159-R167, R175). -/
def Obligations.ElementOperationsObeyTheirRules : Prop :=
  (∀ (m : Rnd) (a b c : Ext) (p q : Bool), a = .nan ∨ b = .nan → El.add m a b = ⟨.nan, flagINV⟩ ∧ El.sub m a b = ⟨.nan, flagINV⟩ ∧
    El.mul a b = ⟨.nan, flagINV⟩ ∧ El.div a b = ⟨.nan, flagINV⟩ ∧ El.max a b = ⟨.nan, flagINV⟩ ∧ El.min a b = ⟨.nan, flagINV⟩ ∧
    El.fma m p q a b c = ⟨.nan, flagINV⟩) ∧
  (El.copy .nan = ⟨.nan, flagINV⟩ ∧ El.rcp .nan = ⟨.nan, flagINV⟩ ∧ El.sqrt .nan = ⟨.nan, flagINV⟩ ∧ El.rsqrt .nan = ⟨.nan, flagINV⟩ ∧
    El.exp .nan = ⟨.nan, flagINV⟩ ∧ El.ln .nan = ⟨.nan, flagINV⟩ ∧ El.tanh .nan = ⟨.nan, flagINV⟩ ∧ El.sig .nan = ⟨.nan, flagINV⟩ ∧
    El.erf .nan = ⟨.nan, flagINV⟩) ∧
  (∀ (m : Rnd) (a b : Ext), El.add m a b = El.add m b a ∧ El.mul a b = El.mul b a) ∧
  (∀ (m : Rnd) (x : Dy), El.sub m (.fin x) (.fin x) = ⟨.zero (decide (m = .rd)), 0⟩) ∧
  (∀ a b : Ext, a ≠ .nan → b ≠ .nan →
    (El.compares 2 a b = true ∧ El.compares 0 a b = false ∧ El.compares 4 a b = false) ∨
    (El.compares 2 a b = false ∧ El.compares 0 a b = true ∧ El.compares 4 a b = false) ∨
    (El.compares 2 a b = false ∧ El.compares 0 a b = false ∧ El.compares 4 a b = true)) ∧
  (∀ a b : Ext, a ≠ .nan → b ≠ .nan → El.compares 3 a b = (El.compares 2 a b || El.compares 0 a b) ∧
    El.compares 5 a b = (El.compares 4 a b || El.compares 0 a b) ∧ El.compares 1 a b = !El.compares 0 a b ∧ El.compares 6 a b = false) ∧
  (∀ (k : Nat) (a b : Ext), a = .nan ∨ b = .nan → (El.compares k a b = true ↔ k = 1 ∨ 6 ≤ k)) ∧
  (∀ a b : Ext, a ≠ .nan → b ≠ .nan → (El.max a b = El.copy a ∨ El.max a b = El.copy b) ∧ (El.min a b = El.copy a ∨ El.min a b = El.copy b)) ∧
  El.max (.zero false) (.zero true) = El.copy (.zero false) ∧ El.min (.zero false) (.zero true) = El.copy (.zero true) ∧
  (∀ z : Bool, El.rcp (.zero z) = ⟨.inf z, flagDZ⟩ ∧ El.rsqrt (.zero z) = ⟨.inf z, flagDZ⟩ ∧ El.ln (.zero z) = ⟨.inf true, flagDZ⟩)

/-! ### Scheduling -/

/-- SLICE_EXPIRY: a running context gives way to the best READY resident one of no lower priority, and goes on where there is none; BLOCK_AFTER_EXPIRY: a context that has only waited outside for block_after becomes BLOCKED (R525-R527). SWITCH saves the units' state of the pre-empted context once every unit stands at its point, not inside a span and after a job at a row store, the context going BLOCKED where it waits outside alone; SAVE_COMPLETE goes on to the resume, RESUME_COMPLETE puts the chosen context's state back and runs it (R144, R528-R533, R535). SWAP brings in the READY context that is not resident where no resident one is READY and its pens can be had; for a shed out of service a MOVE job goes to the engine of its die, and must end first; a context swapped out keeps the bytes of its pens, which read 0 then, and which of their words cannot be corrected; SWAP_IN_COMPLETE puts them back, and the context is resident; beside the pens only the rings may hold a new letter, of a shed's lane (R289, R291, R305, R538-R540). Completes: sliceExpiry, blockAfterExpiry, switch, saveComplete, resumeComplete, swap, swapInComplete. -/
def Obligations.ContextsAreSwitchedAndSwapped : Prop :=
  ((∀ p c b s x y, p < 16 → c < 8 → b < 8 → s.runs p = true → (s.pd p).slice ≠ noLimit → (s.pd p).switching = none → (s.pd p).running = some c →
     s.ctx p c = some x → x.state = .running → x.spanCode = none → s.ctx p b = some y → y.state = .ready → y.resident = true →
     y.priority ≤ x.priority → (∀ k z, s.ctx p k = some z → z.state = .ready → z.resident = true → k ≠ b → y.priority < z.priority) →
     (s.pd p).ranSince + (s.pd p).slice ≤ s.now p →
     exec (.sliceExpiry p) s = .next (s.modPd p fun d => { d with sliceOver := true, switching := some ⟨some c, b, .requested⟩ })) ∧
   (∀ p c s, p < 16 → s.runs p = true → (s.pd p).slice ≠ noLimit → (s.pd p).running = some c →
     (s.pd p).ranSince + (s.pd p).slice ≤ s.now p → (∀ k z, s.ctx p k = some z → z.state = .ready → z.resident = false) →
     exec (.sliceExpiry p) s = .next (s.modPd p fun d => { d with sliceOver := true })) ∧
   (∀ p s, p < 16 → (s.pd p).slice = noLimit ∨ s.now p < (s.pd p).ranSince + (s.pd p).slice → exec (.sliceExpiry p) s = .next s) ∧
   (∀ p c s x, p < 16 → s.runs p = true → (s.pd p).running = some c → s.ctx p c = some x → x.state = .running → s.onlyOutside p x = true →
     (s.pd p).blockAfter ≤ (s.pd p).waited → (∀ k z, s.ctx p k = some z → z.state = .ready → z.resident = false) →
     exec (.blockAfterExpiry p) s = .next (s.modCtx p c fun x => { x with state := .blocked, since := s.now p })) ∧
   (∀ p c s x, p < 16 → s.runs p = true → (s.pd p).running = some c → s.ctx p c = some x →
     s.onlyOutside p x = false ∨ (s.pd p).waited < (s.pd p).blockAfter → exec (.blockAfterExpiry p) s = .next s) ∧
   (∀ p c b s x, p < 16 → s.runs p = true → (s.pd p).switching = some ⟨some c, b, .requested⟩ → s.ctx p c = some x →
     x.spanCode = none → s.unitsAtPoints p = true → s.rowJob p c x = false →
     ∃ t y, exec (.switch p) s = .next t ∧ t = { s with pads := t.pads } ∧ t.ctx p c = some y ∧ y.image = some (s.capture p) ∧
       y.state = (if x.state = .running then (if s.onlyOutside p x then .blocked else .ready) else x.state) ∧ y.parcel = x.parcel ∧ y.flights = x.flights ∧ (t.pd p).running = none ∧
       (t.pd p).switching = some ⟨some c, b, .saving⟩ ∧ (t.pd p).entriesUsed = (s.pd p).entriesUsed - x.entriesHeld) ∧
   (∀ p c b s x, p < 16 → (s.pd p).switching = some ⟨some c, b, .requested⟩ → s.ctx p c = some x →
     x.spanCode.isSome = true ∨ s.unitsAtPoints p = false ∨ s.rowJob p c x = true → exec (.switch p) s = .next s) ∧
   (∀ p w s, p < 16 → s.runs p = true → (s.pd p).switching = some w → w.stage = .saving →
     exec (.saveComplete p) s = .next (s.modPd p fun d => { d with switching := some { w with stage := .resuming } })) ∧
   (∀ p c w s x im, p < 16 → c < 8 → s.runs p = true → (s.pd p).switching = some w → w.stage = .resuming → w.chosen = c →
     s.ctx p c = some x → x.rebuild = none → x.state = .ready → x.image = some im → ((s.stablesOf p).map (·.2)).Nodup →
     ∃ t y, exec (.resumeComplete p) s = .next t ∧ t.ctx p c = some y ∧ y.state = .running ∧ y.image = none ∧
       (t.pd p).running = some c ∧ (t.pd p).sliceOver = false ∧ (t.pd p).entriesUsed = (s.pd p).entriesUsed + x.entriesHeld ∧
       (∀ l n, (l, n) ∈ s.stablesOf p → n < s.stables.length →
         t.stable n = Stable.resumed (s.stable n) ((im.stables.find? (·.1 == l)).map (·.2))) ∧
       (∀ n, (∀ l, (l, n) ∉ s.stablesOf p) → t.stable n = s.stable n) ∧
       (∀ ch ∈ (s.pd p).channels, ch < s.sheds.length →
         t.shed ch = Shed.resumed (s.shed ch) ((im.sheds.find? (·.1 == ch)).map (·.2))) ∧ t.ports = s.ports)) ∧
  ((∀ p c s x, p < 16 → c < 8 → s.runs p = true → (s.pd p).swappingIn = none → s.ctx p c = some x → x.state = .ready →
     x.resident = false → (∀ k z, s.ctx p k = some z → z.state = .ready → k = c) → ((s.pd p).place c x).isSome = true →
     exec (.swap p) s = .next ((s.modPd p fun d => { d with swappingIn := some c }).swapJobs p c)) ∧
   (∀ (s : State) (p c : Nat), (∀ ch ∈ (s.pd p).channels, (s.shed ch).ok = true) → s.swapJobs p c = s) ∧
   (∀ (s : State) (p c ch : Nat), ch ∈ (s.pd p).channels → (s.shed ch).ok = false → dieOfChannel ch < s.turnout.length → (s.swapJobs p c).swapMoves p = true) ∧
   (∀ p s, p < 16 → (∃ k z, k < 8 ∧ s.ctx p k = some z ∧ z.state = .ready ∧ z.resident = true) → exec (.swap p) s = .next s) ∧
   (∀ (s : State) (p c : Nat) (x : Ctx), s.mem.wf = true → s.ctx p c = some x →
     (s.swapOut p c).ctx p c = some { x with resident := false, swapImage := s.penImage x, swapBad := s.penSpoilt x } ∧
     (∀ n o, n ∈ x.pens → o < penSize → memGet (s.swapOut p c).mem (penBase n + o) = 0) ∧
     ∀ a, (∀ n ∈ x.pens, a < penBase n ∨ penBase n + penSize ≤ a) → ¬ s.inRing a → memGet (s.swapOut p c).mem a = memGet s.mem a) ∧
   (∀ p c s x, s.mem.wf = true → p < 16 → c < 8 → s.runs p = true → (s.pd p).swappingIn = some c → s.swapMoves p = false → s.ctx p c = some x →
     (s.pd p).place c x = some 0 → (x.swapImage.map (·.1)).Nodup →
     ∃ t y, exec (.swapInComplete p c) s = .next t ∧ t.ctx p c = some y ∧ y.resident = true ∧ y.swapImage = [] ∧ y.swapBad = [] ∧ (∀ u ∈ x.swapBad, u ∈ t.bad) ∧ y.pens = x.pens ∧
       y.table = x.table ∧ (t.pd p).swappingIn = none ∧ (∀ e ∈ x.swapImage, memGet t.mem e.1 = e.2) ∧
       (∀ a, a ∉ x.swapImage.map (·.1) → ¬ s.inRing a → memGet t.mem a = memGet s.mem a) ∧ t.stables = s.stables))

/-- HEARTBEAT_MISS takes an ostler out of service: a paddock then waits for its stand-in, or without one its jobs halt with 0x0801; with both device ostlers lost both dies go to 550 mV and the module stops (R43, R46, R48). OSTLER_TAKEOVER gives the duty to a remount ostler, counts the expiries on and adds the LATE vote where the step is inside COLLECT or SEAL (R45-R47, R94). SELF_CHECK_FAILURE of an ostler is a missed heartbeat, of a stable its replacement (R43, R136). Completes: heartbeatMiss, ostlerTakeover, selfCheckFailure. -/
def Obligations.OstlersFailAndStandIn : Prop :=
  (∀ o s, o < 16 → (s.ostler o).ok = true → s.start.phase ≠ 0 → s.start.fault = false → (s.standIn o).isSome = true →
    (s.ostler 18).standsFor ≠ some o → (s.ostler 19).standsFor ≠ some o →
    exec (.heartbeatMiss o) s =
      .next ((s.modOstler o fun x => { x with ok := false, standsFor := none, waits := true }).listOstler o noUnit)) ∧
  (∀ o s, o < 16 → o < s.ostlers.length → (s.ostler o).ok = true → s.start.phase ≠ 0 → s.start.fault = false → s.standIn o = none →
    ∃ t, exec (.heartbeatMiss o) s = .next t ∧ (t.ostler o).ok = false ∧ (∃ e ∈ t.remount.entries, e.kind = 4 ∧ e.unit = o) ∧
      (∀ c x, c < 8 → t.ctx o c = some x → x.state = .halted) ∧ t.start = s.start) ∧
  (∀ o s, o = 16 ∨ o = 17 → s.ostlers.length = 20 → s.dies.length = 2 → (s.ostler o).ok = true → s.start.phase ≠ 0 → s.start.fault = false →
    (s.ostler (33 - o)).ok = false → (∀ k, k = 18 ∨ k = 19 → (s.ostler k).ok = false ∧ (s.ostler k).standsFor = none) →
    ∃ t, exec (.heartbeatMiss o) s = .next t ∧ t.start.fault = true ∧ (t.die 0).vcore = 550 ∧ (t.die 1).vcore = 550) ∧
  (∀ o s, o < 20 → (s.ostler o).ok = false ∨ s.start.phase = 0 ∨ s.start.fault = true → exec (.heartbeatMiss o) s = .next s) ∧
  (∀ q r s, q < 16 → s.ostlers.length = 20 → (s.ostler q).waits = true → s.start.fault = false → s.standIn q = some r →
    (∀ c, s.ctx q c = none) →
    ∃ t, exec (.ostlerTakeover q) s = .next t ∧ (t.ostler q).waits = false ∧ (t.ostler r).standsFor = some q ∧
      (∃ e ∈ t.remount.entries, e.kind = 4 ∧ e.unit = q ∧ e.replacement = r) ∧
      t.expiries = s.expiries.map fun e => if e.paddock = q then { e with endAt := (s.ostler r).count + (e.endAt - (s.ostler q).count) } else e) ∧
  (∀ q r c s x, q < 16 → c < 8 → s.ostlers.length = 20 → (s.ostler q).waits = true → s.start.fault = false → s.standIn q = some r →
    s.ctx q c = some x → (∀ k, k ≠ c → s.ctx q k = none) → x.state ≠ .halted → x.parcel.kind ≠ 1 → x.tr.phase = 5 ∨ x.tr.phase = 6 →
    x.parcel.members ≠ 1 →
    ∃ t, exec (.ostlerTakeover q) s = .next t ∧ t.ctx q c = some (x.modColl Coll.late) ∧ (x.modColl Coll.late).tr.coll.lateVote = true) ∧
  (∀ o s, o < 20 → exec (.selfCheckFailure false o) s = exec (.heartbeatMiss o) s) ∧
  (∀ n s, n < 72 → n < s.stables.length → s.running = true → n ∈ s.remount.good →
    exec (.selfCheckFailure true n) s = exec (.stableReplacement n) (s.modStable n fun x => { x with stopped := true })) ∧
  (∀ n s, n < 72 → s.running = false ∨ n ∉ s.remount.good → exec (.selfCheckFailure true n) s = .next s)

/-! ### Kernel records on stables -/

/-- KERNEL puts a share of the next record behind what each of its stables works on, and an idle stable begins its share at once from the groom's start; while a pre-emption waits no record starts (R51, R149, R343, R523, R524). A record that would write into its own program or partial area in a row store halts the job (R153). A divided record's shares cover its rows once, in order, in whole grains, on the stables of its side in their order (R343). RECORD_END, once its units have ended, takes the record out of flight, ORs its flags into the step's, hands over its summaries and releases its entries; while a unit runs it changes nothing (R177, R179, R523). BRANCH, once the kernel before it has ended, goes to its target where its condition holds and else to the other; a backward jump past its limit halts the job with 0x0202 (R592). Completes: kernel, recordEnd, branch. -/
def Obligations.KernelRecordsRun : Prop :=
  ((∀ p c s x i h k sh, s.runsCtx p c x → x.next? = some (i, ⟨h, .kernel k⟩) → s.shares p x h k = .ok sh →
     s.preempts p c = false → x.rowHazard k (sh.map (·.1)) = false → s.canStart p x i sh.length = true → (sh.map (·.1)).Nodup → (∀ u ∈ sh, u.1 < s.stables.length ∧ (s.stable u.1).busy) →
     ∃ t y, exec (.kernel p c) s = .next t ∧ t.ctx p c = some y ∧
       (∃ f ∈ y.flights, f.ordinal = i ∧ f.units = sh.map (fun u => UnitId.stable u.1) ∧ f.ended = []) ∧
       (∀ u ∈ sh, (t.stable u.1).queue = (s.stable u.1).queue ++ [Run.fresh p c i u (x.probes (s.pd p) k)]) ∧
       (∀ n, (∀ u ∈ sh, u.1 ≠ n) → t.stable n = s.stable n) ∧ t.mem = s.mem) ∧
   (∀ p c s x i h k n a m, s.runsCtx p c x → x.next? = some (i, ⟨h, .kernel k⟩) → s.shares p x h k = .ok [(n, a, m)] →
     s.preempts p c = false → x.rowHazard k [n] = false → s.canStart p x i 1 = true → n < s.stables.length → (s.stable n).queue = [] → (s.stable n).stopped = false →
     (s.stable n).copying = none → (s.stable n).suspects = [] → k.kop ≠ 0 → k.progBlob = 0xFFFFFFFF →
     ∃ t, exec (.kernel p c) s = .next t ∧
       (t.stable n).queue = [{ Run.fresh p c i (n, a, m) (x.probes (s.pd p) k) with begun := true, gdone := true }] ∧
       (t.stable n).groom = Groom.start ∧ (t.stable n).pos = FeedPos.start ∧ (t.stable n).diag = (s.stable n).diag ∧
       ∀ q, q ≠ n → t.stable q = s.stable q) ∧
   (∀ p c s x i h k e, s.runsCtx p c x → x.next? = some (i, ⟨h, .kernel k⟩) → s.preempts p c = false → s.shares p x h k = .error e →
     e < 0xFFFF → x.phaseCode ≠ 7 →
     ∃ t y, exec (.kernel p c) s = .next t ∧ t.ctx p c = some y ∧ y.state = .halted ∧ y.status = e) ∧
   (∀ p c s x i h k sh, s.runsCtx p c x → x.next? = some (i, ⟨h, .kernel k⟩) → s.preempts p c = false → s.shares p x h k = .ok sh →
     x.rowHazard k (sh.map (·.1)) = true → x.phaseCode ≠ 7 →
     ∃ t y, exec (.kernel p c) s = .next t ∧ t.ctx p c = some y ∧ y.state = .halted ∧ y.status = 0x0203) ∧
   (∀ p c s, p < 16 → c < 8 → s.preempts p c = true → exec (.kernel p c) s = .next s) ∧
   (∀ (s : State) (p : Nat) (x : Ctx) (h : RecHead) (k : KernelRec) (sh : List (Nat × Nat × Nat)), h.rows ≠ 0 → h.grain ≠ 0 →
     s.shares p x h k = .ok sh →
     (sh.map (·.2.2)).sum = h.rows ∧ sh.Pairwise (fun u v => u.2.1 + u.2.2 ≤ v.2.1) ∧
     (∀ u ∈ sh, u.2.1 % h.grain = 0 ∧ 0 < u.2.2 ∧ (u.2.2 % h.grain = 0 ∨ u.2.1 + u.2.2 = h.rows)) ∧
     (sh.map (·.1)).Sublist ((s.sideOf p x h.side).map (·.2)))) ∧
  ((∀ p c i s x f, s.runsCtx p c x → (x.flights.find? fun g => g.ordinal == i) = some f → x.flightOver f = true →
     ∃ t y, exec (.recordEnd p c i) s = .next t ∧ t.ctx p c = some y ∧
       (∃ new, y.flights = x.flights.filter (·.ordinal != i) ++ new) ∧
       y.tr.flags = x.tr.flags ||| flagsAll (f.results.map fun r => nth r.2 5 ||| nth r.2 6) ∧
       (f.results = [] → y.tr.summaries = x.tr.summaries) ∧
       (∀ a ss, f.results = [(a, ss)] → y.tr.summaries = (i, [ss]) :: x.tr.summaries.filter (·.1 != i)) ∧ t.stables = s.stables) ∧
   (∀ p c i s x f, s.runsCtx p c x → (x.flights.find? fun g => g.ordinal == i) = some f → x.flightOver f = false →
     exec (.recordEnd p c i) s = .next s) ∧
   (∀ p c i s x h b k z, s.runsCtx p c x → x.next? = some (i, ⟨h, .branch b⟩) → x.parcel.kernelBefore i = some k →
     (∀ f ∈ x.flights, f.ordinal ≠ k) →
     let rs := ((x.tr.summaries.find? (·.1 == k)).map (·.2)).getD []
     let dest := if b.holds rs then b.target else if b.other = 0xFFFFFFFF then i + 1 else b.other
     let back := (dest : Nat) ≤ i
     (¬ (back ∧ b.limit ≤ x.jumpsOf i) →
       z = { x.setCursor dest with jumps := if back then (i, x.jumpsOf i + 1) :: x.jumps.filter (·.1 != i) else x.jumps } →
       z.waitsForCommand → exec (.branch p c i) s = .next (s.modCtx p c fun _ => z)) ∧
     (back → b.limit ≤ x.jumpsOf i → x.phaseCode ≠ 7 →
       ∃ t y, exec (.branch p c i) s = .next t ∧ t.ctx p c = some y ∧ y.state = .halted ∧ y.status = 0x0202)) ∧
   (∀ p c i j s x h b, s.runsCtx p c x → x.next? = some (j, ⟨h, .branch b⟩) → j ≠ i → exec (.branch p c i) s = .next s))

/-- FEED_EVENT takes no event while a feed is not ready, or with a rank gated or stopped; else one event of the operation: the feed goes to every stall of the four ranks at once and makes each unmasked stall's terms, the accumulator of every unmasked stall whose terms stand at the update stage takes them and the others keep their value, and the checksum stalls take what they predict (R72, R98, R106, R129, R132). RAMP_UP lets ranks join in turn from those still active, RAMP_DOWN stops them in turn (R81, R82). The checks of a tile: while what a rank predicts agrees with the plain and the weighted sum of its accumulators it passes, and one accumulator that differs is located (R133, R134); a comparison with a state code is skipped (R140). A tile whose check fails is fed again from its first event, and stops its kernel the second time (R135, R136). Under duplicate execution a first run is repeated, a second that agrees stands, and of three of which no two agree the unit has failed (R139). K.MM, K.CONV and K.DIST at their last value: it leaves the pipeline, is rounded once to the destination's format under the record's scale, and goes to its row and column of C; the operation has then ended (R106-R108, R111, R204). Here the value is the only one of its column, plainly stored. Completes: feedEvent, rampUp, rampDown, kMm, kConv, kDist. -/
def Obligations.FeedEventsAccumulate : Prop :=
  ((∀ n u s o, s.kopAt n o → exec (.feedEvent n false u) s = .next (s.strikes u)) ∧
   (∀ n r s o, s.kop? n = some o → o.run.begun = true → n < 72 → s.running = true → (s.stable n).active ≠ 4 →
     exec (.feedEvent n r .none) s = .next s) ∧
   (∀ n s o st, s.kopAt n o → 1 ≤ o.k.kop → o.k.kop ≤ 3 → (s.stable n).pos.done = true →
     (s.stable n).pipe.getD 2 none = some st → st.first = false →
     (s.stable n).pipe.getD 3 none = none → (s.stable n).pipe.getD 5 none = none →
     let x := s.stable n
     ∃ t, exec (.feedEvent n true .none) s = .next t ∧ t = { s with stables := t.stables } ∧ (∀ k, k ≠ n → t.stable k = s.stable k) ∧
       (t.stable n).events = x.events + 1 ∧ (t.stable n).watch = 0 ∧ (t.stable n).pos = x.pos ∧
       (∀ r, (t.stable n).ranks[r]? = (x.ranks[r]?).map (Rank.predicted o.exact (st.preds.getD r ⟨0, 0, []⟩))) ∧
       ∀ r i, r < 4 → i < 128 →
         let old := x.accs.getD (r * 128 + i) (Accum.zero o.exact)
         (t.stable n).accs.getD (r * 128 + i) (Accum.zero o.exact) =
           match st.terms.getD (r * 128 + i) none with
           | some ts => if ts = [] then old else (old.take ts).1
           | none => old) ∧
   (∀ n s o sl f, s.kopAt n o → 1 ≤ o.k.kop → o.k.kop ≤ 3 → (s.stable n).pos.done = false → 0 < (s.stable n).pos.event →
     (s.stable n).pipe = [] → (s.stable n).ranks.length = 4 → s.feedOperand o (s.stable n).pos = .ok f →
     o.slice (s.stable n).pos = some sl →
     let x := s.stable n
     ∃ t st, exec (.feedEvent n true .none) s = .next t ∧ t = { s with stables := t.stables } ∧ (∀ k, k ≠ n → t.stable k = s.stable k) ∧
       (t.stable n).pos = o.next x.pos ∧ (t.stable n).accs = x.accs ∧ (t.stable n).ranks = x.ranks ∧
       (t.stable n).pipe.head? = some (some st) ∧ st.pos = x.pos ∧ st.moved = none ∧
       ∀ r i k, x.ranks[r]? = some k → i < 128 → st.terms.getD (128 * r + i) none = o.terms (Rank.bank x.useB k) sl f i) ∧
   (∀ n k s, n < 72 → s.running = true → 1 ≤ k → k ≤ 4 →
     exec (.rampUp n k) s = .next (s.modStable n fun x => { x with active := max x.active k })) ∧
   (∀ n k s, n < 72 → s.running = true → k < 4 →
     exec (.rampDown n k) s = .next (s.modStable n fun x => { x with active := min x.active k })) ∧
   (∀ n k s, n < 72 → s.running = false → 1 ≤ k → k < 4 → exec (.rampUp n k) s = .next s ∧ exec (.rampDown n k) s = .next s ∧
     ∀ r u, exec (.feedEvent n r u) s = .next s)) ∧
  ((∀ (r : Rank) (vals : List (Option Accum)) (i : Nat) (a d : Int), i < 128 → vals[i]? = some (some (.exact (.fin a))) → d ≠ 0 →
     r.p1 = sumAccs (fun _ => 1) vals → r.p2 = sumAccs (· + 1) vals →
     compareExact false r vals = .pass ∧
     compareExact false r (vals.set i (some (.exact (.fin (a + d))))) = .located i ∧
     compareExact true r (vals.set i (some (.exact (.fin (a + d))))) = .unlocated) ∧
   (∀ (o : Kop) (r : Rank) (vals : List (Option Accum)) (a : Accum), some a ∈ vals → a.isState = true → o.verdict r vals = .skip) ∧
   (∀ (o : Kop) (st : Stage) (x : Stable) (k : Nat) (r : Rank), o.k.checksummed = true → x.ranks[k]? = some r →
     (let v := o.verdict r (ofRank (x.tileVals o.exact st) k); v ≠ .pass ∧ v ≠ .skip) →
     (x.checkTile o st).2 = false ∧ (x.checkTile o st).1.pos = { st.pos with event := 0 } ∧ (x.checkTile o st).1.accs = x.accs ∧
     (x.failed = 0 → (x.checkTile o st).1.failed = 1 ∧ (x.checkTile o st).1.stopped = x.stopped) ∧
     (x.failed ≠ 0 → (x.checkTile o st).1.stopped = true)) ∧
   (∀ (x : Stable) (a b c : UnitRun), a ≠ b → a ≠ c → b ≠ c →
     (({ x with runs := [] } : Stable).dupRun a).2 = false ∧ (({ x with runs := [] } : Stable).dupRun a).1.runs = [a] ∧
     (({ x with runs := [a] } : Stable).dupRun a).2 = true ∧
     (({ x with runs := [a] } : Stable).dupRun b).2 = false ∧ (({ x with runs := [a] } : Stable).dupRun b).1.runs = [a, b] ∧
     (({ x with runs := [a, b] } : Stable).dupRun b).2 = true ∧
     (({ x with runs := [a, b] } : Stable).dupRun c).2 = false ∧ (({ x with runs := [a, b] } : Stable).dupRun c).1.stopped = true)) ∧
  (∀ i n code s o st vals row v u, kOp i = some (n, code) → code ≤ 3 → s.kopAt n o → o.k.kop = code → o.run.gdone = false →
     o.run.probing = false → (s.stable n).pos.done = true → (s.stable n).pipe = [none, none, none, none, none, some st, none] →
     st.moved = some vals → o.spills st.pos = false → o.k.select = 0 → o.k.accumulates = false → isMx o.k.fmtC = false →
     o.drainClass = 0 → o.column st.pos + 1 = o.k.n → (s.stable n).drains = [] →
     o.drained st.pos vals = [⟨row, o.column st.pos, v⟩] →
     let at_ := row * o.c.pitch o.k.n o.k.rowsC + o.column st.pos
     s.storeBits (o.feedReach) o.k.fmtC o.c at_ (o.drainOne v).bits = .ok u →
     ∃ t r, exec i s = .next t ∧ t = { u with stables := t.stables } ∧ (∀ k, k ≠ n → t.stable k = s.stable k) ∧
       (t.stable n).queue = r :: (s.stable n).queue.tail ∧ r.kdone = true ∧ r.gdone = false ∧ (t.stable n).pipe = [] ∧
       (t.stable n).groom = (s.stable n).groom ∧ (t.stable n).active = 4 ∧
       r.kflags = (if (o.c.place o.k.fmtC at_).isSome = true then o.run.kflags ||| (o.drainOne v).flags else o.run.kflags))

/-- A long accumulator is decided by the terms that it has taken, and not by their order: NaN where one is NaN or both infinities are there, else infinite, else saturated with the signs of its over-range terms, else their exact sum (R201); its flags are those of its terms, with INV where the value is NaN; its 16 bytes read back as it (R197). -/
def Obligations.AccumulatorIsDecidedByItsTerms : Prop :=
  (∀ ts : List Acc,
    ts.foldl Long.add Long.zero =
      if .nan ∈ ts ∨ (.inf false ∈ ts ∧ .inf true ∈ ts) then .nan
      else if .inf false ∈ ts then .inf false
      else if .inf true ∈ ts then .inf true
      else if ts.any (fun t => match t with | .sat _ _ => true | _ => false) then
        .sat (ts.any fun t => match t with | .sat p _ => p | _ => false) (ts.any fun t => match t with | .sat _ n => n | _ => false)
      else .fin (ts.map fun t => match t with | .fin v => v | _ => 0).sum) ∧
  (∀ (a : Acc) (ts us : List Ext), ts.Perm us → (Accum.exact a).take ts = (Accum.exact a).take us) ∧
  (∀ (v : Int) (ts : List Ext), (Accum.exact (.fin v)).take ts =
    let r := (ts.map fun t => (Long.term t).acc).foldl Long.add (.fin v)
    (.exact r, flagOr (flagsAll (ts.map fun t => (Long.term t).flags)) (flagIf (r == .nan) flagINV))) ∧
  (∀ v : Int, -(2 ^ 127 - 6) ≤ v → v < 2 ^ 127 → Long.ofBits (leVal (Accum.bytes (.exact (.fin v)))) = .fin v)

/-- K.TOPK with its last rows scanned writes their lists, in order, and ends (R122-R124). A value takes its place in a list in order of value, then of index, and the list keeps the best k; a row writes exactly k entries (R123, R124). K.COMPACT and K.EXPAND at their last item, of one element: an active item of K.COMPACT is copied to the next dense position and the count is written, one of K.EXPAND is copied from the next dense position to its own, and where the mask bit is 0 K.COMPACT copies nothing and K.EXPAND writes zero where its mode says so; the count of active items is SK (R125, R126, R179). Completes: kTopk, kCompact, kExpand. -/
def Obligations.SelectionsAndMovesWriteTheirItems : Prop :=
  ((∀ n s o u, s.kopAt n o → o.k.kop = 4 → o.run.gdone = false → (s.stable n).pos.event = 0 → (s.stable n).topk ≠ [] →
     topDone (s.stable n).topk = true → o.run.count ≤ 4 * ((s.stable n).pos.block + 1) → (o.topWrites (s.stable n).topk).length ≤ 64 →
     (o.topWrites (s.stable n).topk).foldlM (fun (u : State) (e : Nat × Nat × Nat) => match o.c.place 0x01 e.1 with
       | none => Except.ok u
       | some a => u.store (o.feedReach) a.1 (leBytes 4 e.2.1 ++ leBytes 4 e.2.2)) s = .ok u →
     ∃ t r, exec (.kTopk n) s = .next t ∧ t = { u with stables := t.stables } ∧ (∀ k, k ≠ n → t.stable k = s.stable k) ∧
       (t.stable n).queue = r :: (s.stable n).queue.tail ∧ r.kdone = true ∧ (t.stable n).topk = []) ∧
   (∀ (asc : Bool) (k : Nat) (e : W32 × Nat) (l : List (W32 × Nat)), l.Pairwise (fun a b => topBetter asc b a = false) →
     (topInsert asc k e l).Pairwise (fun a b => topBetter asc b a = false) ∧ (topInsert asc k e l).length = min k (l.length + 1) ∧
     (∀ a ∈ topInsert asc k e l, a = e ∨ a ∈ l) ∧
     (∀ a, a = e ∨ a ∈ l → a ∉ topInsert asc k e l → ∀ b ∈ topInsert asc k e l, topBetter asc a b = false)) ∧
   (∀ (k : Nat) (t : TopRank), t.best.length ≤ k → (t.entries k).length = k ∧
     ∀ i, t.best.length ≤ i → i < k → (t.entries k)[i]? = some (0x7FC00000, 0xFFFFFFFF))) ∧
  (∀ n s o, s.kopAt n o → o.k.check = false → o.run.gdone = false → o.run.probing = false → o.itemLen = 1 → (s.stable n).held = [] →
     (s.stable n).pos.col + 1 = o.items.2 →
     let i := o.items.1 + (s.stable n).pos.col
     let m := (s.stable n).pos.chunk
     let dense := o.items.1 + m
     let ended := fun (t u : State) (sk : Nat) => t = { u with stables := t.stables } ∧ (∀ k, k ≠ n → t.stable k = s.stable k) ∧
       ∃ r, (t.stable n).queue = r :: (s.stable n).queue.tail ∧ r.kdone = true ∧ r.gdone = false ∧ r.sk = sk
     (∀ b v u w, o.k.kop = 5 → s.loadBits (o.feedReach) 0x23 o.b i = .ok (some b) → b ≠ 0 → s.loadBits (o.feedReach) o.moveFmt o.a i = .ok (some v) →
       s.storeBits (o.feedReach) o.moveFmt o.c dense v = .ok u →
       u.writeDevs (span (rowStoreBase n + o.k.partialOff) 4) (leBytes 4 (m + 1)) = .ok w →
       ∃ t, exec (.kCompact n) s = .next t ∧ ended t w (m + 1)) ∧
     (∀ w, o.k.kop = 5 → s.loadBits (o.feedReach) 0x23 o.b i = .ok (some 0) →
       s.writeDevs (span (rowStoreBase n + o.k.partialOff) 4) (leBytes 4 m) = .ok w →
       ∃ t, exec (.kCompact n) s = .next t ∧ ended t w m) ∧
     (∀ b v u, o.k.kop = 6 → s.loadBits (o.feedReach) 0x23 o.b i = .ok (some b) → b ≠ 0 → s.loadBits (o.feedReach) o.moveFmt o.a dense = .ok (some v) →
       s.storeBits (o.feedReach) o.moveFmt o.c i v = .ok u → ∃ t, exec (.kExpand n) s = .next t ∧ ended t u (m + 1)) ∧
     (∀ u, o.k.kop = 6 → s.loadBits (o.feedReach) 0x23 o.b i = .ok (some 0) →
       (if o.k.zeroFill then s.storeBits (o.feedReach) o.moveFmt o.c i 0 else .ok s) = .ok u → ∃ t, exec (.kExpand n) s = .next t ∧ ended t u m))

/-- A stable that stopped is replaced by a spare of its die, which takes its records and copies its row store; without a spare its group leaves service and its paddock's jobs halt with 0x0807; inside COLLECT or COMMIT it waits (R43, R49, R136, R691). STABLE_COPY_DONE, once the tables that reach the row store have switched: the copy holds the same bytes, and the spare's ranks are up. At a boundary a suspect takes a spare stall (R141). A parity error runs the record again, a second one replaces the stable (R180, R181). Completes: stableReplacement, stableCopyDone, kernelBoundary, groomParityError. -/
def Obligations.StablesAreReplaced : Prop :=
  (∀ n l p r rs s, n < 72 → s.stables.length = 72 → r < 72 → s.running = true → (s.stable n).stopped = true → s.remount.logical n = some l →
    s.ownerOfGroup (l / 4) = some p → (s.pd p).collecting = false → s.pool (dieOfStable n) = r :: rs →
    ∃ t, exec (.stableReplacement n) s = .next t ∧ t.remount.bind = s.remount.bind.set l (some r) ∧ n ∉ t.remount.good ∧
      (∃ e ∈ t.remount.entries, e.kind = 3 ∧ e.unit = n) ∧ (t.stable r).copying = some n ∧
      (t.stable r).queue.map (·.ordinal) = (s.stable n).queue.map (·.ordinal) ∧ (∀ q ∈ (t.stable r).queue.head?, q.begun = false) ∧
      (t.stable n).queue = [] ∧ (t.stable n).stopped = false ∧ ∀ k, k ≠ n → k ≠ r → t.stable k = s.stable k) ∧
  (∀ n l p s, n < 72 → s.running = true → (s.stable n).stopped = true → s.remount.logical n = some l → s.ownerOfGroup (l / 4) = some p →
    (s.pd p).collecting = false → s.pool (dieOfStable n) = [] →
    ∃ t, exec (.stableReplacement n) s = .next t ∧ t.remount.bind = s.remount.bind.set l none ∧ l / 4 ∈ t.remount.groupLost ∧
      ∀ c x, c < 8 → t.ctx p c = some x → x.state = .halted ∨ x.haltAfter.isSome = true) ∧
  (∀ n l p s, n < 72 → s.running = true → (s.stable n).stopped = true → s.remount.logical n = some l → s.ownerOfGroup (l / 4) = some p →
    (s.pd p).collecting = true → exec (.stableReplacement n) s = .next s) ∧
  (∀ n src s, n < 72 → src < 72 → n ≠ src → n < s.stables.length → s.mem.wf = true → s.running = true → (s.stable n).copying = some src →
    (s.stable n).queue = [] → s.tablesFollow n = true → s.rowSpoilt src = [] →
    ∃ t, exec (.stableCopyDone n) s = .next t ∧ t = { s with stables := t.stables, mem := t.mem, bad := t.bad, flips := t.flips } ∧ (t.stable n).copying = none ∧
      (t.stable n).active = 4 ∧ (∀ o, o < rowStoreSize → memGet t.mem (rowStoreBase n + o) = memGet s.mem (rowStoreBase src + o)) ∧
      (∀ a, a < rowStoreBase n ∨ rowStoreBase n + rowStoreSize ≤ a → memGet t.mem a = memGet s.mem a) ∧ ∀ k, k ≠ n → t.stable k = s.stable k) ∧
  (∀ n src s, n < 72 → (s.stable n).copying = some src → s.tablesFollow n = false → exec (.stableCopyDone n) s = .next s) ∧
  (∀ n k i sp rs s, n < 72 → s.running = true → (s.stable n).queue = [] → (s.stable n).suspects = [(k, i)] → k < 4 →
    s.remount.freeStalls n k = sp :: rs →
    ∃ t, exec (.kernelBoundary n) s = .next t ∧ t.remount.entries = s.remount.entries ++
        [⟨2, dieOfStable n, stallUnit n k (s.remount.stallNow n k 16 i), sp, 0⟩] ∧
      t.stables = (s.modStable n fun x => { x with suspects := [] }).stables ∧ t.start = s.start) ∧
  (∀ n s r rs, n < 72 → (s.stable n).queue = r :: rs → r.begun = true → exec (.kernelBoundary n) s = .next s) ∧
  (∀ n s o u, n < 72 → n < s.stables.length → s.running = true → s.kop? n = some o → o.run.begun = true → o.run.parity = 0 →
    (s.stable n).stopped = false → (s.stable n).copying = none → s.preempts o.run.paddock o.run.ctx = false → s.placeProgram o = .ok u →
    ∃ t, exec (.groomParityError n) s = .next t ∧ t = { u with stables := t.stables } ∧ (t.stable n).groom = Groom.start ∧
      (t.stable n).queue = { o.run with
        begun := true, kdone := o.k.kop == 0, gdone := o.k.progBlob == 0xFFFFFFFF, rerun := true, parity := 1, kflags := 0, sk := 0,
        written := [] } :: (s.stable n).queue.tail) ∧
  (∀ n s o, n < 72 → n < s.stables.length → s.running = true → s.kop? n = some o → o.run.begun = true → o.run.parity ≠ 0 →
    exec (.groomParityError n) s = exec (.stableReplacement n) (s.modStable n fun x => { x with stopped := true }))

/-! ### Sheds, turnout engines and transfers -/

/-- S.MV of one row gives each vector the dot product with the row, drained as the record says; S.ATTN of one block and one head takes its scores and their maximum in a first pass and sums in a second, and writes the head's partial, or its quotients where it is final; S.ACOMB of one head combines its partials; at the last boundary the record is in flight with its sheds ended, and its flags go with it; before it, its sheds stand at the boundary reached (R273, R276-R284, R291, R293). A shed that must compute and is not in service, or is none of the paddock's, halts the job with 0x0305; while a pre-emption waits the sheds stay at their boundary (R283, R290, R528). Completes: sMv, sAttn, sAcomb. -/
def Obligations.ShedRecordsCompute : Prop :=
  let done := fun (s t : State) (u : State) (p c i : Nat) (chs : List Nat) (total fl : Nat) =>
    t = { u with pads := t.pads, turnout := t.turnout, sheds := t.sheds, mcl := t.mcl } ∧ t.stables = s.stables ∧
      ∃ y, t.ctx p c = some y ∧ ⟨i, chs.map UnitId.shed, chs.map UnitId.shed, [(0, [0, 0, 0, 0, 0, fl, 0])], true, total, fl, []⟩ ∈ y.flights
  let ready := fun (s : State) (p c i : Nat) (x : Ctx) (chs : List Nat) =>
    s.preempts p c = false ∧ s.canStart p x.offMcl i chs.length = true ∧ x.offMcl.shedsBusy chs = false ∧ (∀ f ∈ x.flights, f.ordinal ≠ i) ∧
      ∀ ch ∈ chs, ch < s.sheds.length ∧ (s.shed ch).lanes = []
  (∀ p c i n s x h r k w regs u, s.runsCtx p c x → x.next? = some (i, ⟨h, .mv r⟩) → s.mvPackage x.offMcl r = .ok k →
    ready s p c i x (span (8 * k) 8) → (∀ ch ∈ span (8 * k) 8, (s.shed ch).ok = true) → r.n = 1 → 1 ≤ n →
    s.weightRow x.offMcl r 0 = .ok w → s.loadVectors x.offMcl r.fmtV (x.parcel.desc r.vDesc) r.nv r.k = .ok regs →
    let dot := fun j => dotOf w (Reg.vals r.fmtV (regs.getD j Reg.empty))
    (List.range r.nv).foldlM (fun (u : State) j => u.storeBits x.offMcl r.fmtC (x.parcel.desc r.cDesc) j (r.drain (dot j).acc).bits) s = .ok u →
    ∃ t, exec (.sMv p c i n []) s = .next t ∧ done s t u p c i (span (8 * k) 8) 1
      (flagsAll ((List.range r.nv).map fun j => (dot j).flags ||| (r.drain (dot j).acc).flags)) ∧
      (∀ ch ∈ span (8 * k) 8, (t.shed ch).vectors = regs) ∧ (t.shed (8 * k)).accs = (List.range r.nv).map fun j => (dot j).acc) ∧
  (∀ p c i s x h r k regs, s.runsCtx p c x → x.next? = some (i, ⟨h, .mv r⟩) → s.mvPackage x.offMcl r = .ok k →
    ready s p c i x (span (8 * k) 8) → (∀ ch ∈ span (8 * k) 8, (s.shed ch).ok = true) → r.n ≠ 0 →
    s.loadVectors x.offMcl r.fmtV (x.parcel.desc r.vDesc) r.nv r.k = .ok regs →
    ∃ t y, exec (.sMv p c i 0 []) s = .next t ∧ t.mem = s.mem ∧ t.ctx p c = some y ∧
      ⟨i, (span (8 * k) 8).map UnitId.shed, [], [], true, 0, 0, []⟩ ∈ y.flights ∧ ∀ ch ∈ span (8 * k) 8, (t.shed ch).vectors = regs) ∧
  (∀ p c i n s x h r k, s.runsCtx p c x → x.next? = some (i, ⟨h, .mv r⟩) → s.mvPackage x.offMcl r = .ok k →
    ready s p c i x (span (8 * k) 8) → r.n ≠ 0 → (s.shed (8 * k)).ok = false → x.phaseCode ≠ 7 →
    ∃ t y, exec (.sMv p c i n []) s = .next t ∧ t.ctx p c = some y ∧ y.state = .halted ∧ y.status = 0x0305) ∧
  (∀ p c i n fs s x h r k, s.runsCtx p c x → x.next? = some (i, ⟨h, .mv r⟩) → s.mvPackage x.offMcl r = .ok k → s.preempts p c = true →
    (∀ f ∈ x.flights, f.ordinal ≠ i) → exec (.sMv p c i n fs) s = .next s) ∧
  (∀ p c i n s x h r a ch kb vb q u, s.runsCtx p c x → x.next? = some (i, ⟨h, .attn r⟩) → r.nblk = 1 → 1 ≤ r.seglen → r.g = 1 → 2 ≤ n →
    s.kvAddr x.offMcl r 0 = .ok a → s.blockChannel x.offMcl r a = .ok ch → ready s p c i x [ch] → (s.shed ch).ok = true →
    (x.parcel.writes (.attn r)).meet (s.readsOf x.offMcl (.attn r)) = false → s.loadKv x.offMcl r a false r.valid = .ok kb → s.loadKv x.offMcl r a true r.valid = .ok vb →
    s.loadVectors x.offMcl r.fmtQ (x.parcel.desc r.qDesc) 1 r.d = .ok [q] →
    let sc := r.scores (Reg.vals r.fmtQ q) kb r.valid
    let m := maxScore (sc.map (·.1.v))
    let sum := r.accumulate vb r.valid (sc.map (·.1.v)) m.v ⟨Wide.ofPair ⟨0, 0⟩, (List.replicate r.d Long.zero).map fun a => ⟨a, 0⟩⟩
    let part := attnPart m.v sum.lsum.p (sum.o.map (·.acc))
    let fl := flagsAll (sc.map (·.1.flags)) ||| m.flags ||| sum.lsum.f ||| flagsAll (sum.o.map (·.flags)) ||| part.flags
    let qs := part.o.map fun o => quotient r.fmtOut o part.lsum
    (r.final = false → s.putRun x.offMcl 0x01 (x.parcel.desc r.outDesc) 0 part.words = .ok u →
      ∃ t, exec (.sAttn p c i n []) s = .next t ∧ done s t u p c i [ch] 2 fl) ∧
    (r.final = true → s.putRun x.offMcl r.fmtOut (x.parcel.desc r.outDesc) 0 (qs.map (·.bits)) = .ok u →
      ∃ t, exec (.sAttn p c i n []) s = .next t ∧ done s t u p c i [ch] 2 (fl ||| flagsAll (qs.map (·.flags))))) ∧
  (∀ p c i n s x h r ps u, s.runsCtx p c x → x.next? = some (i, ⟨h, .acomb r⟩) → r.g = 1 → 1 ≤ n →
    bitOf (s.pd p).owned.packages (r.shed / 8) = true → ready s p c i x [r.shed] → (s.shed r.shed).ok = true →
    (List.range r.segments).mapM (fun seg => s.loadPart x.offMcl r seg 0) = .ok ps →
    let out := (ps.foldl CombSt.fold ⟨negInf32, Wide.zero, List.replicate r.d Wide.zero⟩).out r.fmtOut
    s.putRun x.offMcl r.fmtOut (x.parcel.desc r.outDesc) 0 (out.map (·.bits)) = .ok u →
    ∃ t, exec (.sAcomb p c i n) s = .next t ∧ done s t u p c i [r.shed] 1 (flagsAll (out.map (·.flags)))) ∧
  (∀ p c i n s x h r, s.runsCtx p c x → x.next? = some (i, ⟨h, .acomb r⟩) → (∀ f ∈ x.flights, f.ordinal ≠ i) →
    bitOf (s.pd p).owned.packages (r.shed / 8) = false → x.phaseCode ≠ 7 →
    ∃ t y, exec (.sAcomb p c i n) s = .next t ∧ t.ctx p c = some y ∧ y.state = .halted ∧ y.status = 0x0305) ∧
  (∀ (fmt : Nat) (t : CombSt), Extn.isZero (Wide.val t.lsum) = true → ∀ e ∈ t.out fmt, e.flags &&& flagINV = flagINV ∧
    e.bits = Fp.nanCode ((elemFmt? fmt).getD fmtFP32)) ∧
  (∀ (r : AttnRec) (q : List Ext) (b : Kv) (v j : Nat), v ≤ j → j < 64 → (r.scores q b v)[j]? = some (⟨negInf32, 0⟩, false))

/-- S.COPY moves each burst of its range between package and pen, S.FILL writes each burst of its range, with zero where the paddock's data is not encrypted or the fill is keyed; both leave the record in flight with its sheds ended (R265, R285, R286). With every shed of the package in service no turnout job is issued (R291). MOVE and XPOSE, once what the job reads over MCL has come, run the job at the head of their engine in groups, each read whole and then written: the groups of MOVE take each position once, in order, to the same position, the tiles of XPOSE each position of the matrix once to its place in the transpose; a job of the other kind is left alone; the MOVE job of a swap changes no record (R291, R294, R298). TURNOUT_JOB_END, once every access of the job over MCL is answered, ends the record on the engine, or notes the end for a context that does not run and wakes one that is BLOCKED on it (R299, R526). Completes: sCopy, sFill, move, xpose, turnoutJobEnd. -/
def Obligations.ElementsAreCopiedFilledAndMoved : Prop :=
  (let done := fun (t : State) (u : State) (p c i k len : Nat) =>
     t = { u with pads := t.pads, turnout := t.turnout, mcl := t.mcl } ∧
       ∃ y, t.ctx p c = some y ∧ ⟨i, (span (8 * k) 8).map UnitId.shed, (span (8 * k) 8).map UnitId.shed, [(0, [0, 0, 0, 0, 0, 0, 0])], true,
         ceilDiv len 16384, 0, []⟩ ∈ y.flights
   let ready := fun (s : State) (p c i k : Nat) (x : Ctx) =>
     s.preempts p c = false ∧ s.canStart p x.offMcl i 8 = true ∧ x.offMcl.shedsBusy (span (8 * k) 8) = false ∧
       (∀ f ∈ x.flights, f.ordinal ≠ i) ∧ ∀ ch ∈ span (8 * k) 8, (s.shed ch).lanes = []
   (∀ p c i n s x h r k u, s.runsCtx p c x → x.next? = some (i, ⟨h, .copy r⟩) → s.packageOf x.offMcl (!r.toPen) r.base r.length = .ok k →
     ready s p c i k x → (∀ ch, (s.shed ch).ok = true) → ceilDiv r.length 16384 ≤ n →
     ((List.range (ceilDiv r.length 16384)).flatMap fun g => r.bursts (pieceAt r.length g).1 (pieceAt r.length g).2).foldlM
       (fun (u : State) b => u.copyRun x.offMcl r b.1 b.2) s = .ok u →
     ∃ t, exec (.sCopy p c i n) s = .next t ∧ done t u p c i k r.length) ∧
   (∀ r : CopyRec,
     ((List.range (ceilDiv r.length 16384)).flatMap fun g => r.bursts (pieceAt r.length g).1 (pieceAt r.length g).2).flatMap (fun b => span b.1 b.2) =
       List.range r.length) ∧
   (∀ p c i n s x h r k u, s.runsCtx p c x → x.next? = some (i, ⟨h, .fill r⟩) → s.packageOf x.offMcl true r.base r.length = .ok k →
     ready s p c i k x → ceilDiv r.length 16384 ≤ n →
     (List.range (ceilDiv r.length 64)).foldlM (fun (u : State) b => do
       let d ← u.place x.offMcl true (r.base + 64 * b)
       u.store x.offMcl (r.base + 64 * b) (u.fillBurst p r.keyed d)) s = .ok u →
     ∃ t, exec (.sFill p c i n) s = .next t ∧ done t u p c i k r.length) ∧
   (∀ (s : State) (p dev : Nat) (keyed : Bool), (s.pd p).crypt = false ∨ keyed = true → s.fillBurst p keyed dev = List.replicate 64 0)) ∧
  ((∀ e s j x r u, e < 2 → s.running = true → s.engineJob e = some j → j.ofSwap = false → s.jobRec j = some (x, .turnout r) → j.copied = false → s.jobWaits j = false → r.xpose = false →
     (x.parcel.desc r.src).mx = false →
     (List.range (ceilDiv (x.parcel.desc r.src).count r.group)).foldlM
       (fun (u : State) g => u.moveGroup x r (r.moveAt (x.parcel.desc r.src).count g)) s = .ok u →
     ∃ t, exec (.move e) s = .next t ∧ t = { u with turnout := t.turnout, mcl := t.mcl } ∧
       { j with copied := true, status := 0 } ∈ t.turnout.getD e [] ∧ (t.turnout.getD e []).length = (s.turnout.getD e []).length) ∧
   (∀ (r : TurnRec) (n : Nat), r.esize ≤ 16 → (List.range (ceilDiv n r.group)).flatMap (r.moveAt n) = (List.range n).map fun i => (i, i)) ∧
   (∀ e s j x r u, e < 2 → s.running = true → s.engineJob e = some j → j.ofSwap = false → s.jobRec j = some (x, .turnout r) → j.copied = false → s.jobWaits j = false → r.xpose = true →
     (List.range (ceilDiv r.rows r.tile * r.tileCols)).foldlM (fun (u : State) t => u.moveGroup x r (r.tileAt t)) s = .ok u →
     ∃ t, exec (.xpose e) s = .next t ∧ t = { u with turnout := t.turnout, mcl := t.mcl } ∧
       { j with copied := true, status := 0 } ∈ t.turnout.getD e [] ∧ (t.turnout.getD e []).length = (s.turnout.getD e []).length) ∧
   (∀ r : TurnRec, ((List.range (ceilDiv r.rows r.tile * r.tileCols)).flatMap r.tileAt).Perm
     ((List.range (r.rows * r.cols)).map fun n => (n, n % r.cols * r.rows + n / r.cols))) ∧
   (∀ e s j x r, e < 2 → s.running = true → s.engineJob e = some j → j.ofSwap = false → s.jobRec j = some (x, .turnout r) →
     (r.xpose = true → exec (.move e) s = .next s) ∧ (r.xpose = false → exec (.xpose e) s = .next s)) ∧
   (∀ e s j x, e < 2 → s.running = true → s.engineJob e = some j → j.ofSwap = false → j.copied = true →
     s.jobWaits j = false → s.ctx j.paddock j.ctx = some x → x.sv.loading = none →
     (∀ k ∈ s.turnout.getD e [], k.paddock = j.paddock → k.arrived = true) →
     ∃ t y, exec (.turnoutJobEnd e) s = .next t ∧ t.turnout.getD e [] = (s.turnout.getD e []).filter (· != j) ∧
       t.ctx j.paddock j.ctx = some y ∧ t.mem = s.mem ∧ t.stables = s.stables ∧
       (x.state = .running → y.state = .running ∧ y.ended = x.ended ∧ ∀ f ∈ y.flights, f.ordinal = j.ordinal → UnitId.engine e ∈ f.ended) ∧
       (x.state ≠ .running → y.flights = x.flights ∧ y.ended = x.ended ++ [j.ordinal]) ∧
       (x.state = .blocked → x.externalRec j.ordinal = true → y.state = .ready ∨ y.state = .running)) ∧
   (∀ e s j, e < 2 → s.running = true → s.engineJob e = some j → j.ofSwap = true →
     exec (.move e) s = .next (s.jobRan e 0 j) ∧ exec (.xpose e) s = .next s ∧
       (j.copied = true → s.jobWaits j = false →
         exec (.turnoutJobEnd e) s = .next { s with turnout := s.turnout.modify e fun q => promote j.paddock (q.filter (· != j)) })) ∧
   (∀ e s j, e < 2 → s.engineJob e = some j → j.copied = false ∨ s.jobWaits j = true →
     exec (.turnoutJobEnd e) s = .next s))

/-- XFER_SEND sends the bytes of its source toward the destination role by the route table; XFER_RECV opens its transfer, grants credit for it toward its source and starts its duration; XFER_DURATION_EXPIRY, once due, halts the job with 0x0607 (R92, R437, R467). Here the source fits one frame. Completes: xferSend, xferRecv, xferDurationExpiry. -/
def Obligations.TransfersAreSentReceivedAndExpire : Prop :=
  (∀ p c i s x h role k src port col vs, s.runsCtx p c x → x.next? = some (i, ⟨h, .xferSend role k src⟩) → s.canStart p x i 0 = true → x.tr.replay = none →
    x.parcel.routeTo role = some port → x.parcel.collection = some col → port < s.ports.length →
    1 ≤ x.parcel.xferBytes src → x.parcel.xferBytes src ≤ 2016 →
    (List.range (x.parcel.xferBytes src)).mapM (fun n => s.loadBits x 0x08 (x.parcel.desc src) n) = .ok vs →
    let bs := vs.map fun v => BitVec.ofNat 8 (v.getD 0)
    ∃ t y, exec (.xferSend p c i) s = .next t ∧ t.ctx p c = some y ∧ (∃ f ∈ y.flights, f.ordinal = i ∧ f.units = [] ∧ f.fin = true) ∧
      t.port port = (s.port port).sendFrame (s.padOf col.tag) (cellsFor bs.length) (Config.xferGroup col.tag k % 2 ^ 16) col.tag
        (.xfer role col.role k 0 bs) ∧
      (∀ q, q ≠ port → t.port q = s.port q) ∧ t.stables = s.stables ∧ t.mem = s.mem) ∧
  (∀ p c i s x h role k dst d, s.runsCtx p c x → x.next? = some (i, ⟨h, .xferRecv role k dst d⟩) → s.canStart p x i 0 = true → x.tr.replay = none →
    ∃ t y, exec (.xferRecv p c i) s = .next t ∧ t.ctx p c = some y ∧ y.tr.xfers = x.tr.xfers ++ [⟨i, role, k, 0⟩] ∧
      (∃ f ∈ y.flights, f.ordinal = i ∧ f.fin = false) ∧
      t.expiries = (if d = noLimit then s.expiries else s.expiries ++ [⟨p, c, .xfer k, s.now p + d⟩]) ∧ t.mem = s.mem ∧
      ∀ port col, x.parcel.routeTo role = some port → x.parcel.collection = some col → port < s.ports.length →
        t.port port = (s.port port).giveBack (xferStage col.tag role k) (recCells (x.parcel.xferBytes dst))) ∧
  (∀ p c k s x e, p < 16 → c < 8 → s.runs p = true → s.ctx p c = some x → x.state ≠ .halted → x.phaseCode ≠ 7 → e ∈ s.expiries →
    e.paddock = p → e.ctx = c → e.kind = .xfer k → e.endAt ≤ s.now p →
    ∃ t y, exec (.xferDurationExpiry p c k) s = .next t ∧ t.ctx p c = some y ∧ y.state = .halted ∧ y.status = 0x0607 ∧ y.flights = [] ∧
      ∀ e ∈ t.expiries, ¬ (e.paddock = p ∧ e.ctx = c))

/-! ### The training step -/

/-- Pigeonhole letters: a written position counts once, and the last one makes a letter READY; the letters that a record holds go free when it ends, and every other letter stays (R318, R320). -/
def Obligations.PigeonholeLettersFillAndGoFree : Prop :=
  (∀ (l : Letter) (n part j : Nat), l.state = .filling → (part, j) ∉ l.written → l.written.length + 1 = n → (l.write n part j).state = .ready) ∧
  (∀ (l : Letter) (n part j : Nat), l.state = .filling → (part, j) ∉ l.written → l.written.length + 1 < n →
    (l.write n part j).state = .filling ∧ (l.write n part j).written.length = l.written.length + 1) ∧
  (∀ (l : Letter) (n part j : Nat), (part, j) ∈ l.written → l.written.length < n → l.write n part j = l) ∧
  (∀ (g : Pigeon) (i : Nat), (∀ l ∈ (g.release i).letters, l ∈ g.letters ∧ ¬ (l.state = .held ∧ l.holder = some i)) ∧
    (∀ l ∈ g.letters, ¬ (l.state = .held ∧ l.holder = some i) → l ∈ (g.release i).letters) ∧
    (∀ l ∈ g.letters, l.state = .held → l.holder = some i → l.ordinal ∈ (g.release i).freed) ∧ g.freed <+: (g.release i).freed)

/-- PHASE enters the next phase of generate-and-learn once the previous one has ended (R362). STEP_BEGIN begins a first attempt with the split and the digests of its inputs, and refuses a step that the paddock's stables cannot carry (R335, R336, R341, R377). A plain parcel's step begins too. While a pre-emption waits, or a table that a digest needs is being built, no step begins (R51, R545). FORWARD_PASS_END goes on to LOSS; LOSS_PASS_END adds the pass's loss and goes on to the next micro-batch's FORWARD, or to BACKWARD after the last; a letter that was not freed halts the job with 0x0204, a loss that is not finite ends the attempt of a single member; BACKWARD_END goes on to the next micro-batch or to COLLECT (R323, R330, R332, R347, R348, R359). While a pre-emption waits, or a table that the collection needs is being built, neither LOSS nor BACKWARD ends (R536, R545). Completes: phase, stepBegin, forwardPassEnd, lossPassEnd, backwardEnd. -/
def Obligations.StepsBeginAndPassOn : Prop :=
  ((∀ p c s x g, s.runsCtx p c x → x.parcel.kind = 2 → x.tr.phase = 0 → x.tr.gen = 0 → x.wantsStep = true → x.nextGen = some g →
     s.preempts p c = false →
     ∃ t y, exec (.phase p c) s = .next t ∧ t.ctx p c = some y ∧ y.tr.gen = g ∧ y.tr.phase = 0 ∧ y.tr.summaries = [] ∧ y.jumps = [] ∧
       y.counter = x.counter ∧ t.stables = s.stables ∧ t.mem = s.mem) ∧
   (∀ p c s x, s.runsCtx p c x → x.parcel.kind = 2 → (x.tr.gen ≠ 0 ∧ x.passOver = false) ∨ s.preempts p c = true → exec (.phase p c) s = .next s) ∧
   (∀ p c s x b ds, s.runsCtx p c x → s.preempts p c = false → x.digestWaits = false → x.tr.pre = [] → x.parcel.kind = 0 → x.parcel.stepBegin = some b → x.tr.phase = 0 → x.flights = [] → x.wantsStep = true →
     x.tr.replay = none → (x.parcel.coefAt x.counter).isSome = true → (x.parcel.setAt x.counter).isSome = true → 0 < b.tLo → b.tLo ≤ b.tHi →
     b.tHi < (s.stablesOf p).length → (s.pd p).cutHistories.emptyClasses x = [] →
     (let z := (x.firstAttempt b (s.now p)).loadAttempt (s.now p); z.placedOk = true ∧ z.sidesOk (s.stablesOf p).length = true) → s.digest x x.parcel.inputRanges = .ok ds →
     ∃ t y, exec (.stepBegin p c) s = .next t ∧ t.ctx p c = some y ∧ y.inStep = true ∧ (y.tr.phase = 1 ∨ y.tr.phase = 2) ∧ y.tr.attempt = 0 ∧
       y.tr.nfLeft = 1 ∧ y.tr.otherLeft = b.repeatLimit ∧ y.tr.split = some (bindSplit b x.tr.split) ∧ y.tr.bound = (s.stablesOf p).map (·.1) ∧ y.tr.digests = ds ∧ y.tr.loss = ⟨0, 0⟩ ∧
       y.tr.flags = 0 ∧ y.counter = x.counter ∧ y.stepsLeft = x.stepsLeft ∧ t.stables = s.stables ∧ t.mem = s.mem) ∧
   (∀ p c s x b, s.runsCtx p c x → s.preempts p c = false → x.digestWaits = false → x.tr.pre = [] → x.parcel.kind = 0 → x.parcel.stepBegin = some b →
     x.tr.phase = 0 → x.flights = [] → x.wantsStep = true → x.tr.replay = none → (s.stablesOf p).length ≤ b.tHi →
     ∃ t y, exec (.stepBegin p c) s = .next t ∧ t.ctx p c = some y ∧ y.state = .idle ∧ y.stepsLeft = 0 ∧ y.inStep = false ∧
       y.counter = x.counter ∧ y.tr.layers = x.tr.layers ∧ t.stables = s.stables) ∧
   (∀ p c s x, s.runsCtx p c x → s.preempts p c = false → x.digestWaits = false → x.parcel.kind = 3 → x.wantsStep = true →
     ∃ t y, exec (.stepBegin p c) s = .next t ∧ t.ctx p c = some y ∧ y.inStep = true ∧ y.jumps = [] ∧ y.counter = x.counter ∧ t.mem = s.mem) ∧
   (∀ p c s x, s.runsCtx p c x → s.preempts p c = true ∨ x.digestWaits = true → exec (.stepBegin p c) s = .next s) ∧
   (∀ (b : StepBeginRec) (prev : Option Nat), b.tLo ≤ b.tHi → b.tLo ≤ bindSplit b prev ∧ bindSplit b prev ≤ b.tHi ∧
     (b.balance = false → bindSplit b prev = b.tLo))) ∧
  ((∀ p c s x, s.runsCtx p c x → x.tr.phase = 2 → x.passOver = true →
     ∃ t y, exec (.forwardPassEnd p c) s = .next t ∧ t.ctx p c = some y ∧ y.tr.phase = 3 ∧ y.tr.micro = x.tr.micro ∧ y.tr.loss = x.tr.loss ∧
       t.stables = s.stables ∧ t.mem = s.mem) ∧
   (∀ p c s x b, s.runsCtx p c x → s.preempts p c = false → x.updateWaits = false → x.parcel.stepBegin = some b → x.tr.phase = 3 →
     x.passOver = true → x.allFreed = true → Wide.nonfinite (x.lossPair b) = false →
     ∃ t y, exec (.lossPassEnd p c) s = .next t ∧ t.ctx p c = some y ∧
       y.tr.loss = (Wide.add (Wide.ofPair x.tr.loss) (Wide.ofPair (x.lossPair b))).p ∧
       (x.tr.micro + 1 < x.parcel.micros → y.tr.phase = 2 ∧ y.tr.micro = x.tr.micro + 1 ∧ ∀ g ∈ y.pigeons, g.letters = [] ∧ g.freed = []) ∧
       (x.parcel.micros ≤ x.tr.micro + 1 → y.tr.phase = 4 ∧ y.tr.micro = 0) ∧ t.stables = s.stables) ∧
   (∀ p c s x b, s.runsCtx p c x → s.preempts p c = false → x.updateWaits = false → x.parcel.stepBegin = some b → x.tr.phase = 3 →
     x.passOver = true → x.allFreed = false → x.parcel.kind ≠ 1 →
     ∃ t y, exec (.lossPassEnd p c) s = .next t ∧ t.ctx p c = some y ∧ y.state = .halted ∧ y.status = 0x0204) ∧
   (∀ p c s x b, s.runsCtx p c x → s.preempts p c = false → x.updateWaits = false → x.parcel.stepBegin = some b → x.tr.phase = 3 →
     x.passOver = true → x.allFreed = true → Wide.nonfinite (x.lossPair b) = true → x.parcel.members = 1 → x.tr.replay = none → x.haltAfter = none →
     (∀ col, x.parcel.collection = some col → col.sealLog = 0xFFFF) →
     ∃ t y, exec (.lossPassEnd p c) s = .next t ∧ t.ctx p c = some y ∧ y.tr.phase = 9 ∧ y.tr.verdict = some .lossNf ∧ bitOf y.tr.votes 0 = true) ∧
   (∀ p c s x, s.runsCtx p c x → s.preempts p c = false → x.updateWaits = false → x.tr.phase = 4 → x.passOver = true → x.tr.micro + 1 < x.parcel.micros →
     ∃ t y, exec (.backwardEnd p c) s = .next t ∧ t.ctx p c = some y ∧ y.tr.phase = 4 ∧ y.tr.micro = x.tr.micro + 1 ∧ t.stables = s.stables) ∧
   (∀ p c s x, s.runsCtx p c x → s.preempts p c = false → x.updateWaits = false → x.tr.phase = 4 → x.passOver = true → x.parcel.micros ≤ x.tr.micro + 1 → x.tr.replay = none →
     x.parcel.touched x.counter = [] → (∀ k, (s.port k).inputs = []) →
     ∃ t y, exec (.backwardEnd p c) s = .next t ∧ t.ctx p c = some y ∧ y.tr.phase = 5 ∧ y.tr.coll.owed = [] ∧ y.tr.coll.buckets = [] ∧
       t.expiries = (s.addExpiry p c .collect x.parcel.collectTimeout).expiries ∧ t.stables = s.stables) ∧
   (∀ p c s x, s.runsCtx p c x → s.preempts p c = true ∨ x.updateWaits = true → exec (.lossPassEnd p c) s = .next s ∧
     exec (.backwardEnd p c) s = .next s) ∧
   (∀ p c s x, s.runsCtx p c x → x.passOver = false → exec (.forwardPassEnd p c) s = .next s ∧ exec (.lossPassEnd p c) s = .next s ∧
     exec (.backwardEnd p c) s = .next s))

/-- COMMIT flips each layer, advances the counter, keeps the clip as c_prev and goes on to BROADCAST; DRAIN_END ends a committed step and repeats, or halts, one that was not: a single repeat for a value that is not finite, with each exponent one lower, or higher for a wire class, within its clamp, and repeats within the limit for a late or mismatched attempt, with the same exponents; a replacement that is due goes first (R51, R228, R230, R334, R337, R356, R358, R392, R396). Completes: commit, drainEnd. -/
def Obligations.StepsCommitOrRepeat : Prop :=
  (∀ p c s x, p < 16 → c < 8 → s.runs p = true → s.ctx p c = some x → x.tr.phase = 7 → x.state = .running → x.haltAfter = none →
    x.tr.coll.buckets = [] →
    ∃ t y, exec (.commit p c) s = .next t ∧ t.ctx p c = some y ∧ y.counter = x.counter + 1 ∧ y.tr.cPrev = x.tr.c ∧
      (y.tr.phase = 8 ∨ y.tr.phase = 9) ∧ y.state = .running ∧ t.stables = s.stables) ∧
  (∀ (x : Ctx) (n : Nat) (l : LayerSt), x.layerSt n = some l → l.cpend = true →
    ∃ z, (x.commitLayer n).layerSt n = some z ∧ z.lbank = !l.lbank ∧ z.cpend = false) ∧
  (∀ p c s x b, s.runsCtx p c x → x.parcel.kind ≠ 3 → x.tr.phase = 9 → x.flights = [] → x.tr.verdict = some .commit →
    x.parcel.stepBegin = some b → s.replacementsDue p = false →
    ∃ t y, exec (.drainEnd p c) s = .next t ∧ t.ctx p c = some y ∧ y.inStep = false ∧ y.tr.phase = 0 ∧ y.tr.attempt = 0 ∧
      y.stepsLeft = (if x.stopAsked then 0 else if x.stepsLeft = 0xFFFFFFFF then x.stepsLeft else x.stepsLeft - 1) ∧
      (y.state = .idle ↔ y.stepsLeft = 0) ∧ y.counter = x.counter ∧ y.pigeons = [] ∧ t.stables = s.stables) ∧
  (∀ p c s x, s.runsCtx p c x → s.replacementsDue p = false → x.parcel.kind ≠ 3 → x.tr.phase = 9 → x.flights = [] →
    x.tr.verdict = some .lossNf ∨ x.tr.verdict = some .gradNf →
    ∃ t y, exec (.drainEnd p c) s = .next t ∧ t.ctx p c = some y ∧
      (x.tr.nfLeft ≠ 0 → y.tr.attempt = x.tr.attempt + 1 ∧ y.tr.nfLeft = x.tr.nfLeft - 1 ∧ y.tr.shift = x.tr.shift + 1 ∧ y.tr.phase = 0 ∧
        y.state = .running ∧ y.inStep = x.inStep ∧ y.counter = x.counter ∧
        ∀ cls e r, (cls, e) ∈ x.tr.scales → x.parcel.scaleRecs.find? (·.cls == cls) = some r → (cls, r.shifted 1 e) ∈ y.tr.scales) ∧
      (x.tr.nfLeft = 0 → y.state = .halted ∧ y.status = (if x.tr.verdict = some .lossNf then 0x0401 else 0x0402))) ∧
  (∀ p c s x, s.runsCtx p c x → s.replacementsDue p = false → x.parcel.kind ≠ 3 → x.tr.phase = 9 → x.flights = [] → x.tr.verdict = some .late ∨ x.tr.verdict = some .mismatch →
    ∃ t y, exec (.drainEnd p c) s = .next t ∧ t.ctx p c = some y ∧
      (x.tr.otherLeft ≠ 0 → y.tr.attempt = x.tr.attempt + 1 ∧ y.tr.otherLeft = x.tr.otherLeft - 1 ∧ y.tr.shift = x.tr.shift ∧ y.tr.scales = x.tr.scales ∧ y.tr.phase = 0) ∧
      (x.tr.otherLeft = 0 → y.state = .halted ∧ y.status = (if x.tr.verdict = some .late then 0x0601 else 0x0602))) ∧
  (∀ p c s x st, s.runsCtx p c x → s.replacementsDue p = false → x.parcel.kind ≠ 3 → x.tr.phase = 9 → x.flights = [] → x.tr.verdict = some (.failed st) →
    ∃ t y, exec (.drainEnd p c) s = .next t ∧ t.ctx p c = some y ∧ y.state = .halted ∧ y.status = st) ∧
  (∀ p c s x, s.runsCtx p c x → x.parcel.kind ≠ 3 → s.replacementsDue p = true → exec (.drainEnd p c) s = .next s) ∧
  (∀ p c s x, s.runsCtx p c x → x.parcel.kind = 3 → x.inStep = true → x.passOver = true →
    ∃ t y, exec (.drainEnd p c) s = .next t ∧ t.ctx p c = some y ∧ y.counter = x.counter + 1 ∧ y.inStep = false)

/-! ### The serving step -/

/-- BIND fixes the batch: every DECODE stream takes part, and PREFILL streams take chunks within the budget; a repeat of the step after a takeover keeps its batch, rows and scales; SERVING_COMMIT_POINT decides every stream by the tests of R505 in their order and writes the commit record; DELIVER retires the ended ones and advances the step number; SERVING_DRAIN goes on to the next batch while a stream is live; a pre-emption that waits goes before BIND and the commit point (R51, R484-R487, R502, R505, R508, R509). Completes: bind, servingCommitPoint, deliver, servingDrain. -/
def Obligations.ServingStepsRun : Prop :=
  (∀ p c s x v, s.runsCtx p c x → s.preempts p c = false → x.parcel.kind = 1 → x.parcel.servingRec = some v → x.sv.phase = 0 ∨ x.sv.phase = 16 → x.sv.active = true →
    x.sv.bound = false → x.sv.live ≠ [] → ((s.takeN p c x.sv.step).pd p).emptyClasses x = [] →
    ∃ t y, exec (.bind p c) s = .next t ∧ t.ctx p c = some y ∧ y.sv.phase = 17 ∧ y.sv.step = x.sv.step ∧
      (y.sv.streams.map fun r => { r with text := [] }) =
        (x.sv.streams.map fun r => { r.share (chunksFor v.chunk v.budget x.sv.prefill) with text := [] }) ∧ y.sv.bound = true ∧
      (∀ r ∈ y.sv.streams, r.isLive = true → r.cancel = false → r.decode = true → r.chunk = some 0) ∧ t.stables = s.stables) ∧
  (∀ p c s x v, s.runsCtx p c x → s.preempts p c = false → x.parcel.kind = 1 → x.parcel.servingRec = some v → x.sv.phase = 16 → x.sv.active = true →
    x.sv.bound = true → x.sv.live ≠ [] →
    ∃ t y, exec (.bind p c) s = .next t ∧ t.ctx p c = some y ∧ y.sv = { x.sv with phase := 17, cur := y.sv.cur } ∧ y.tr.scales = x.tr.scales ∧
      t.stables = s.stables) ∧
  (∀ chunk budget rs, ((chunksFor chunk budget rs).map (·.2)).sum ≤ budget ∧ (∀ e ∈ chunksFor chunk budget rs, e.2 ≤ chunk) ∧
    ((chunksFor chunk budget rs).map (·.1)) <+: rs.map (·.tag)) ∧
  (∀ p c ys s x, s.runsCtx p c x → s.preempts p c = true → exec (.bind p c) s = .next s ∧ exec (.servingCommitPoint p c ys) s = .next s) ∧
  (∀ p c ys s x, s.runsCtx p c x → s.preempts p c = false → x.parcel.kind = 1 → x.sv.phase = 17 → x.passOver = true →
    x.samplesOk ys = true →
    ∃ t y, exec (.servingCommitPoint p c ys) s = .next t ∧ t.ctx p c = some y ∧ y.sv.phase = 18 ∧ y.sv.step = x.sv.step ∧ y.sv.streams = x.sv.streams ∧
      y.sv.record = some (x.sv.streams.map fun r => r.commit ys (s.pastDue p c r)) ∧ t = { s with pads := t.pads, expiries := t.expiries } ∧
      ∀ r ∈ y.sv.current, r.isLive = false → r.tag ∈ y.sv.retired) ∧
  (∀ (r : Stream) (ts : Option (List (Nat × Bool))),
    (r.cancel = true → (r.decided ts).ended = some 0x0712 ∧ (r.decided ts).delivered = r.delivered) ∧
    (r.cancel = false → ts = none → (r.decided ts).ended = some 0x0403 ∧ (r.decided ts).delivered = r.delivered) ∧
    (∀ l, r.cancel = false → ts = some l → r.delivered ≤ r.maxNew → r.ended = none →
      (r.decided ts).delivered ≤ r.maxNew ∧ r.delivered ≤ (r.decided ts).delivered ∧
      ((r.decided ts).delivered = r.maxNew → (r.decided ts).ended = some 0x0710) ∧
      ((r.decided ts).ended = none → r.late = false) ∧ ((r.decided ts).ended = some 0x0711 → r.late = true) ∧
      ((∃ e ∈ (r.decided ts).fresh, e.1 ≠ 0xFFFFF ∧ r.stop.contains e.1 = true) → (r.decided ts).ended = some 0x0710))) ∧
  (∀ p c s x, p < 16 → c < 8 → s.runs p = true → s.ctx p c = some x → x.parcel.kind = 1 → x.sv.phase = 18 → x.state ≠ .halted → x.haltAfter = none →
    ∃ t y, exec (.deliver p c) s = .next t ∧ t.ctx p c = some y ∧ y.sv.phase = 20 ∧ y.sv.step = (x.sv.step + 1) % 2 ^ 64 ∧
      y.sv.streams = x.sv.live.map (fun r => { r with fresh := [], chunk := none }) ∧ y.sv.record = none ∧ y.sv.bound = false ∧ t.stables = s.stables) ∧
  (∀ p c s x, s.runsCtx p c x → x.parcel.kind = 1 → x.sv.phase = 20 → x.flights = [] → (∀ k y, s.ctx p k = some y → y.sv.queue = []) →
    ∃ t y, exec (.servingDrain p c) s = .next t ∧ t.ctx p c = some y ∧ y.sv.phase = (if x.sv.live = [] then 0 else 16) ∧
      y.sv.streams = x.sv.streams ∧ (x.sv.live = [] → y.state = .idle) ∧ t.stables = s.stables)

/-- MODEL_SWAP, once no stream is live and the first queued request names another variant, begins to load it, none being active meanwhile; a variant without LOAD records is active at once, and no other is (R512). Completes: modelSwap. -/
def Obligations.VariantsAreSwapped : Prop :=
  (∀ p c s x, p < 16 → s.runs p = true → (s.pd p).swapDue = some (c, x) → x.parcel.loadRecs ≠ [] →
    ∃ t y, exec (.modelSwap p) s = .next t ∧ t.ctx p c = some y ∧ y.sv.loading.isSome = true ∧ y.sv.queue = x.sv.queue ∧
      (∀ k z, k < 8 → t.ctx p k = some z → z.parcel.kind = 1 → z.sv.active = false) ∧ t.stables = s.stables) ∧
  (∀ p c s x, p < 16 → s.runs p = true → (s.pd p).swapDue = some (c, x) → x.parcel.loadRecs = [] →
    ∃ t y, exec (.modelSwap p) s = .next t ∧ t.ctx p c = some y ∧ y.sv.active = true ∧ y.sv.loading = none ∧
      ∀ k z, k ≠ c → k < 8 → t.ctx p k = some z → z.parcel.kind = 1 → z.sv.active = false) ∧
  (∀ p s, p < 16 → s.runs p = false ∨ (s.pd p).swapDue = none → exec (.modelSwap p) s = .next s)
end

