-- ==== Sys2Proof/Laws/Memory.lean ====
section
/-! SUPPORT. The laws of memory (R34-R37): every write keeps the canonical form, a read after a write gives what was written, and a write leaves every other address alone. -/

set_option Elab.async false

namespace Sys2Proof.Machine

/-! ### The canonical form -/

theorem wfFrom_mono {m : Memory} {lo hi : Nat} (hle : lo ≤ hi) (h : Memory.wfFrom hi m = true) :
    Memory.wfFrom lo m = true := by
  cases m with
  | nil => rfl
  | cons c m =>
    obtain ⟨a, b⟩ := c
    simp only [Memory.wfFrom, Bool.and_eq_true, decide_eq_true_eq] at h ⊢
    exact ⟨⟨by omega, h.1.2⟩, h.2⟩

theorem wfFrom_cons (lo a : Nat) (b : Byte) (m : Memory) :
    Memory.wfFrom lo ((a, b) :: m) = true ↔ lo ≤ a ∧ b ≠ 0 ∧ Memory.wfFrom (a + 1) m = true := by
  simp only [Memory.wfFrom, Bool.and_eq_true, decide_eq_true_eq, bne_iff_ne, and_assoc]

theorem memSet_wfFrom (m : Memory) (lo x : Nat) (v : Byte) (hx : lo ≤ x) (h : Memory.wfFrom lo m = true) :
    Memory.wfFrom lo (memSet m x v) = true := by
  induction m generalizing lo with
  | nil =>
    simp only [memSet]
    split
    · rfl
    · next hv => exact (wfFrom_cons ..).2 ⟨hx, hv, rfl⟩
  | cons c m ih =>
    obtain ⟨a, b⟩ := c
    obtain ⟨ha, hb, hm⟩ := (wfFrom_cons ..).1 h
    simp only [memSet]
    split
    · next hlt =>
      split
      · exact h
      · next hv => exact (wfFrom_cons ..).2 ⟨hx, hv, (wfFrom_cons ..).2 ⟨hlt, hb, hm⟩⟩
    · split
      · split
        · exact wfFrom_mono (by omega) hm
        · next hv => exact (wfFrom_cons ..).2 ⟨ha, hv, hm⟩
      · exact (wfFrom_cons ..).2 ⟨ha, hb, ih (a + 1) (by omega) hm⟩

/-- One byte's write keeps the canonical form. -/
theorem memSet_wf (m : Memory) (x : Nat) (v : Byte) (h : m.wf = true) : (memSet m x v).wf = true :=
  memSet_wfFrom m 0 x v (Nat.zero_le _) h

/-- A write of bytes keeps the canonical form. -/
theorem memWrite_wf (bs : List Byte) : ∀ (m : Memory) (a : Nat), m.wf = true → (memWrite m a bs).wf = true := by
  induction bs with
  | nil => exact fun _ _ h => h
  | cons b bs ih => exact fun m a h => ih _ _ (memSet_wf m a b h)

theorem filter_wfFrom (f : Host.Cell → Bool) : ∀ (m : Memory) (lo : Nat), Memory.wfFrom lo m = true →
    Memory.wfFrom lo (m.filter f) = true := by
  intro m
  induction m with
  | nil => exact fun _ _ => rfl
  | cons c m ih =>
    obtain ⟨a, b⟩ := c
    intro lo h
    obtain ⟨ha, hb, hm⟩ := (wfFrom_cons ..).1 h
    by_cases hf : f (a, b) = true
    · rw [List.filter_cons_of_pos hf]
      exact (wfFrom_cons ..).2 ⟨ha, hb, ih _ hm⟩
    · rw [List.filter_cons_of_neg hf]
      exact ih lo (wfFrom_mono (by omega) hm)

/-- Zeroing a range keeps the canonical form. -/
theorem memZero_wf (m : Memory) (lo len : Nat) (h : m.wf = true) : (memZero m lo len).wf = true :=
  filter_wfFrom _ m 0 h

/-! ### Reading after writing -/

theorem memGet_lt {m : Memory} {lo x : Nat} (h : Memory.wfFrom lo m = true) (hx : x < lo) : memGet m x = 0 := by
  cases m with
  | nil => rfl
  | cons c m =>
    obtain ⟨a, b⟩ := c
    simp only [Memory.wfFrom, Bool.and_eq_true, decide_eq_true_eq] at h
    simp [memGet, show x < a by omega]

theorem memSet_get_from (m : Memory) (lo x y : Nat) (v : Byte) (h : Memory.wfFrom lo m = true) :
    memGet (memSet m x v) y = if y = x then v else memGet m y := by
  induction m generalizing lo with
  | nil =>
    simp only [memSet]
    split
    · next hv => simp [memGet, hv]
    · by_cases hy : y = x
      · simp [memGet, hy]
      · simp [memGet, hy]
  | cons c m ih =>
    obtain ⟨a, b⟩ := c
    simp only [Memory.wfFrom, Bool.and_eq_true, decide_eq_true_eq] at h
    obtain ⟨⟨ha, hb⟩, hm⟩ := h
    simp only [memSet]
    split
    · next hlt =>
      split
      · next hv =>
        by_cases hy : y = x
        · subst hy; simp [memGet, hlt, hv]
        · simp [hy]
      · by_cases hy : y = x
        · subst hy; simp [memGet]
        · by_cases hl : y < x
          · simp [memGet, hy, hl, show y < a by omega]
          · simp [memGet, hy, hl]
    · next hlt =>
      split
      · next hxa =>
        subst hxa
        split
        · next hv =>
          by_cases hy : y = x
          · subst hy; simp [hv, memGet_lt hm (Nat.lt_succ_self _)]
          · by_cases hl : y < x
            · simp [memGet, hy, hl, memGet_lt hm (show y < x + 1 by omega)]
            · simp [memGet, hy, hl]
        · by_cases hy : y = x
          · subst hy; simp [memGet]
          · simp [memGet, hy]
      · next hxa =>
        by_cases hl : y < a
        · simp [memGet, hl, show y ≠ x by omega]
        · by_cases hy : y = a
          · subst hy; simp [memGet, show y ≠ x by omega]
          · simp [memGet, hl, hy, ih (a + 1) hm]

/-- A byte after one byte's write: the byte written at its address, and what was there at every other. -/
theorem memSet_get (m : Memory) (x y : Nat) (v : Byte) (h : m.wf = true) :
    memGet (memSet m x v) y = if y = x then v else memGet m y := memSet_get_from m 0 x y v h

/-- A write of bytes leaves every address outside it alone. -/
theorem memWrite_get_outside (bs : List Byte) : ∀ (m : Memory) (a y : Nat), m.wf = true →
    y < a ∨ a + bs.length ≤ y → memGet (memWrite m a bs) y = memGet m y := by
  induction bs with
  | nil => intro m a y _ _; rfl
  | cons b bs ih =>
    intro m a y h hy
    simp only [List.length_cons] at hy
    rw [memWrite, ih _ _ _ (memSet_wf m a b h) (by omega), memSet_get m a y b h, if_neg (by omega)]

/-- A byte inside a write of bytes is the byte written there. -/
theorem memWrite_get_inside (bs : List Byte) : ∀ (m : Memory) (a i : Nat) (hi : i < bs.length), m.wf = true →
    memGet (memWrite m a bs) (a + i) = bs[i] := by
  induction bs with
  | nil => intro m a i hi; simp at hi
  | cons b bs ih =>
    intro m a i hi h
    cases i with
    | zero =>
      rw [memWrite, memWrite_get_outside bs _ _ _ (memSet_wf m a b h) (by omega), memSet_get m a _ b h]
      simp
    | succ i =>
      have := ih (memSet m a b) (a + 1) i (by simpa using hi) (memSet_wf m a b h)
      rw [memWrite, show a + (i + 1) = a + 1 + i by omega, this]
      simp

/-- Reading back a whole write. -/
theorem memRead_memWrite (m : Memory) (a : Nat) (bs : List Byte) (h : m.wf = true) :
    memRead (memWrite m a bs) a bs.length = bs := by
  have key : ∀ (n k : Nat) (hk : k + n = bs.length),
      memRead (memWrite m a bs) (a + k) n = bs.drop k := by
    intro n
    induction n with
    | zero => intro k hk; simp [memRead, show bs.length ≤ k by omega]
    | succ n ih =>
      intro k hk
      rw [memRead, memWrite_get_inside bs m a k (by omega) h, show a + k + 1 = a + (k + 1) by omega, ih (k + 1) (by omega)]
      exact (List.drop_eq_getElem_cons (by omega)).symm
  simpa using key bs.length 0 (by omega)

end Sys2Proof.Machine
end

