-- ==== Sys2Proof/Laws/Posted.lean ====
section
/-! SUPPORT. What the exchange of letters may change (R556-R561, R570-R572): rings, companion memory, MCL and deferred letters, and nothing else. One lemma for each operation that posts or takes a letter. -/

set_option Elab.async false

namespace Sys2Proof.Machine

/-! ### Paddocks with equal settings of their rings -/

theorem noRing_getD {ps qs : List Paddock} (h : ps.map Paddock.noRing = qs.map Paddock.noRing) (p : Nat) :
    (ps.getD p Paddock.closed).noRing = (qs.getD p Paddock.closed).noRing := by
  have key : ∀ l : List Paddock, (l.getD p Paddock.closed).noRing = (l.map Paddock.noRing).getD p Paddock.closed := by
    intro l; simp [List.getD_eq_getElem?_getD]; cases l[p]? <;> rfl
  rw [key, key, h]

theorem noRing_en {d e : Paddock} (h : d.noRing = e.noRing) : d.ring.en = e.ring.en := by
  have := congrArg (fun x : Paddock => x.ring.en) h
  exact this

theorem noRing_base {d e : Paddock} (h : d.noRing = e.noRing) : d.ring.base = e.ring.base := by
  have := congrArg (fun x : Paddock => x.ring.base) h
  exact this

/-- Rings that lie alike have the same addresses. -/
theorem inRing_congr {s t : State} (h : t.pads.map Paddock.noRing = s.pads.map Paddock.noRing) (a : Nat) :
    t.inRing a ↔ s.inRing a := by
  refine exists_congr fun q => ?_
  have e := noRing_getD h q
  have e1 : (t.pd q).ring.en = (s.pd q).ring.en := noRing_en e
  have e2 : (t.pd q).ring.base = (s.pd q).ring.base := noRing_base e
  rw [e1, e2]

/-- Only the ring of one paddock changes, and not where it lies. -/
theorem modRing_noRing (f : Ring → Ring) (hf : ∀ r, (f r).en = r.en ∧ (f r).base = r.base) (l : List Paddock) (p : Nat) :
    (l.modify p fun d => { d with ring := f d.ring }).map Paddock.noRing = l.map Paddock.noRing := by
  induction l generalizing p with
  | nil => cases p <;> rfl
  | cons d ds ih => cases p with
    | zero =>
      simp only [List.modify_zero_cons, List.map_cons, Paddock.noRing, (hf d.ring).1, (hf d.ring).2]
    | succ p => simp only [List.modify_succ_cons, List.map_cons, ih]

/-! ### Posted -/

theorem Posted.refl (s : State) : Posted s s := ⟨s.mem, s.mcl, s.deferred, s.pads, rfl, rfl, fun h => ⟨h, fun _ _ => rfl⟩⟩

theorem Posted.trans {s t u : State} (h : Posted s t) (k : Posted t u) : Posted s u := by
  obtain ⟨m, c, f, ps, rfl, hp, hm⟩ := h
  obtain ⟨m', c', f', ps', rfl, hp', hm'⟩ := k
  refine ⟨m', c', f', ps', rfl, hp'.trans hp, fun hw => ?_⟩
  obtain ⟨w1, g1⟩ := hm hw
  obtain ⟨w2, g2⟩ := hm' w1
  refine ⟨w2, fun a ha => (g2 a fun hc => ha ?_).trans (g1 a ha)⟩
  exact (inRing_congr (t := { s with mem := m, mcl := c, deferred := f, pads := ps }) hp a).1 hc

/-- Posting keeps whether a ring is enabled. -/
theorem Posted.en {s t : State} (h : Posted s t) (p : Nat) : (t.pd p).ring.en = (s.pd p).ring.en := by
  obtain ⟨m, c, f, ps, rfl, hp, _⟩ := h
  exact noRing_en (noRing_getD hp p)

theorem Posted.base {s t : State} (h : Posted s t) (p : Nat) : (t.pd p).ring.base = (s.pd p).ring.base := by
  obtain ⟨m, c, f, ps, rfl, hp, _⟩ := h
  exact noRing_base (noRing_getD hp p)

theorem State.modRing_posted (s : State) (p : Nat) (f : Ring → Ring) (hf : ∀ r, (f r).en = r.en ∧ (f r).base = r.base) :
    Posted s (s.modRing p f) :=
  ⟨s.mem, s.mcl, s.deferred, _, rfl, modRing_noRing f hf s.pads p, fun h => ⟨h, fun _ _ => rfl⟩⟩

theorem leBytes_length (n v : Nat) : (leBytes n v).length = n := by
  induction n generalizing v <;> simp_all [leBytes]

theorem State.wrComp_pd (s : State) (a : Nat) (bs : List Byte) (p : Nat) : (s.wrComp a bs).pd p = s.pd p := rfl

/-- A write inside an enabled ring. -/
theorem State.wrComp_posted (s : State) (p : Nat) (a : Nat) (bs : List Byte) (he : (s.pd p).ring.en = true)
    (h1 : bs = [] ∨ (s.pd p).ring.base + 0x4000 ≤ a) (h2 : bs = [] ∨ a + bs.length ≤ (s.pd p).ring.base + 0x8100) :
    Posted s (s.wrComp a bs) := by
  refine ⟨_, s.mcl, s.deferred, s.pads, rfl, rfl, fun hw => ⟨memWrite_wf _ _ _ hw, fun x hx => ?_⟩⟩
  rcases h1 with rfl | h1
  · rfl
  rcases h2 with rfl | h2
  · rfl
  refine memWrite_get_outside _ _ _ _ hw ?_
  have : ¬ (windowBase + (s.pd p).ring.base + 0x4000 ≤ x ∧ x < windowBase + (s.pd p).ring.base + 0x8100) :=
    fun hc => hx ⟨p, he, hc⟩
  omega

/-- MCL's own record is part of the exchange. -/
theorem State.modMcl_posted (s : State) (f : Mcl → Mcl) : Posted s (s.modMcl f) :=
  ⟨s.mem, _, s.deferred, s.pads, rfl, rfl, fun h => ⟨h, fun _ _ => rfl⟩⟩

/-- One granule of a write goes out on MCL (R619). -/
theorem State.writeGranule_posted (s : State) (k : ReqKind) (f : Nat → Bool) (g : Nat) : Posted s (s.writeGranule k f g) := by
  unfold State.writeGranule State.request
  exact s.modMcl_posted _

theorem foldl_posted {α : Type} (f : State → α → State) (h : ∀ s x, Posted s (f s x)) (l : List α) :
    ∀ s, Posted s (l.foldl f s) := by
  induction l with
  | nil => exact Posted.refl
  | cons x xs ih => exact fun s => (h s x).trans (ih _)

/-- The granules of a write go out on MCL alone. -/
theorem writeGranules_rest (k : ReqKind) (f : Nat → Bool) (l : List Nat) :
    ∀ s : State, ∃ m, l.foldl (fun s g => s.writeGranule k f g) s = { s with mcl := m } := by
  induction l with
  | nil => exact fun s => ⟨s.mcl, rfl⟩
  | cons x xs ih => exact fun s => ih (s.writeGranule k f x)

/-- A write into companion memory changes companion memory and MCL alone. -/
theorem State.sendComp_rest (s : State) (k : ReqKind) (a : Nat) (bs : List Byte) :
    ∃ m, s.sendComp k a bs = { s.wrComp a bs with mcl := m } := by
  unfold State.sendComp
  split
  · next h =>
    rw [List.isEmpty_iff.1 h]
    exact ⟨s.mcl, rfl⟩
  · exact writeGranules_rest _ _ _ _

theorem State.sendComp_mem (s : State) (k : ReqKind) (a : Nat) (bs : List Byte) :
    (s.sendComp k a bs).mem = memWrite s.mem (windowBase + a) bs := by
  obtain ⟨m, h⟩ := s.sendComp_rest k a bs
  rw [h]; rfl

theorem State.sendComp_pads (s : State) (k : ReqKind) (a : Nat) (bs : List Byte) : (s.sendComp k a bs).pads = s.pads := by
  obtain ⟨m, h⟩ := s.sendComp_rest k a bs
  rw [h]; rfl

theorem State.sendComp_pd (s : State) (k : ReqKind) (a : Nat) (bs : List Byte) (p : Nat) : (s.sendComp k a bs).pd p = s.pd p := by
  unfold State.pd; rw [State.sendComp_pads]

/-- A write sent into an enabled ring. -/
theorem State.sendComp_posted (s : State) (k : ReqKind) (p : Nat) (a : Nat) (bs : List Byte) (he : (s.pd p).ring.en = true)
    (h1 : bs = [] ∨ (s.pd p).ring.base + 0x4000 ≤ a) (h2 : bs = [] ∨ a + bs.length ≤ (s.pd p).ring.base + 0x8100) :
    Posted s (s.sendComp k a bs) := by
  unfold State.sendComp
  split
  · exact Posted.refl s
  · exact (s.wrComp_posted p a bs he h1 h2).trans (foldl_posted (fun s g => s.writeGranule k _ g) (fun s g => s.writeGranule_posted k _ g) _ _)

theorem OutLetter.slots_le (l : OutLetter) : l.slots ≤ 8 := Nat.min_le_left _ _

theorem OutLetter.bytes_length (l : OutLetter) (seq : Nat) : (l.bytes seq).length = 64 * l.slots := by
  simp [OutLetter.bytes, leBytes_length]
  omega

theorem padFor_le (producer slots : Nat) : producer % 256 + padFor producer slots ≤ 256 := by
  unfold padFor; split <;> omega

theorem padFor_room (producer slots : Nat) (h : slots ≤ 256) :
    (producer + padFor producer slots) % 2 ^ 32 % 256 + slots ≤ 256 := by
  unfold padFor; split <;> omega

/-- A letter that has room is written inside its ring (R556, R559). -/
theorem State.putLetter_posted (s : State) (p : Nat) (l : OutLetter) (he : (s.pd p).ring.en = true) :
    Posted s (s.putLetter p l) := by
  unfold State.putLetter
  dsimp only
  have hs := l.slots_le
  have hp := padFor_le (s.pd p).ring.producer l.slots
  have hr := padFor_room (s.pd p).ring.producer l.slots (by omega)
  refine Posted.trans ?_ (State.modRing_posted _ _ _ fun _ => ⟨rfl, rfl⟩)
  refine Posted.trans (Posted.trans (s.sendComp_posted _ p _ _ he ?_ ?_) (State.sendComp_posted _ _ p _ _ ?_ ?_ ?_))
    (State.sendComp_posted _ _ p _ _ ?_ ?_ ?_)
  · exact .inr (by omega)
  · by_cases h0 : padFor (s.pd p).ring.producer l.slots = 0
    · exact .inl (by rw [if_pos h0])
    · refine .inr ?_
      rw [if_neg h0]
      simp [leBytes_length]
      omega
  · rw [State.sendComp_pd]
    exact he
  · rw [State.sendComp_pd]
    exact .inr (by omega)
  · rw [State.sendComp_pd, OutLetter.bytes_length]
    exact .inr (by omega)
  · rw [State.sendComp_pd, State.sendComp_pd]
    exact he
  · rw [State.sendComp_pd, State.sendComp_pd]
    exact .inr (by omega)
  · rw [State.sendComp_pd, State.sendComp_pd, leBytes_length]
    exact .inr (by omega)

theorem State.fits_en {s : State} {p : Nat} {l : OutLetter} (h : s.fits p l = true) : (s.pd p).ring.en = true := by
  unfold State.fits at h
  simp only [Bool.and_eq_true] at h
  exact h.1

theorem State.flush_posted (n p : Nat) : ∀ s : State, Posted s (State.flush n p s) := by
  induction n with
  | zero => exact Posted.refl
  | succ n ih =>
    intro s
    have step : ∀ (l : OutLetter) (f : Ring → Ring), s.fits p l = true → (∀ r, (f r).en = r.en ∧ (f r).base = r.base) →
        Posted s (State.flush n p ((s.putLetter p l).modRing p f)) :=
      fun l f hl hf => ((s.putLetter_posted p l (State.fits_en hl)).trans (State.modRing_posted _ _ _ hf)).trans (ih _)
    unfold State.flush
    dsimp only
    split
    · split
      · next h => exact step _ _ h fun _ => ⟨rfl, rfl⟩
      · exact Posted.refl s
    · split
      · split
        · next h => exact step _ _ h fun _ => ⟨rfl, rfl⟩
        · exact Posted.refl s
      · split
        · exact Posted.refl s
        · split
          · next h => exact step _ _ h fun _ => ⟨rfl, rfl⟩
          · exact Posted.refl s

/-- A ring that is full, or full no more, changes what MCL watches (R559, R618). -/
theorem State.tendWatch_posted (s : State) (p : Nat) : Posted s (s.tendWatch p) := by
  unfold State.tendWatch State.watch State.unwatch
  dsimp only
  split
  · exact s.modMcl_posted _
  · split
    · exact (s.modMcl_posted _).trans (State.modMcl_posted _ _)
    · exact Posted.refl s

theorem State.flushRing_posted (s : State) (p : Nat) : Posted s (s.flushRing p) :=
  (State.flush_posted _ p s).trans (State.tendWatch_posted _ p)

/-- An event letter (R560, R635). -/
theorem State.postEvent_posted (s : State) (p : Nat) (l : OutLetter) : Posted s (s.postEvent p l) := by
  unfold State.postEvent
  split
  · exact Posted.refl s
  · split
    · exact ⟨s.mem, s.mcl, _, s.pads, rfl, rfl, fun h => ⟨h, fun _ _ => rfl⟩⟩
    · exact (s.modRing_posted p (·.pushEvent l) fun r => by unfold Ring.pushEvent; split <;> exact ⟨rfl, rfl⟩).trans (State.flushRing_posted _ p)

/-- A reply or a terminal letter (R560, R561). -/
theorem State.postSure_posted (s : State) (p : Nat) (l : OutLetter) : Posted s (s.postSure p l) := by
  unfold State.postSure
  split
  · exact Posted.refl s
  · exact (s.modRing_posted p (fun r => { r with waiting := r.waiting ++ [l] }) fun _ => ⟨rfl, rfl⟩).trans (State.flushRing_posted _ p)

/-- A module event (R550, R561). -/
theorem State.postShared_posted (s : State) (l : OutLetter) : Posted s (s.postShared l) := by
  unfold State.postShared
  split
  · split
    · exact Posted.refl s
    · exact s.postEvent_posted _ l
  · exact foldl_posted _ (fun s p => s.postEvent_posted p l) _ s

theorem State.postOwned_posted (s : State) (f : Paddock → Bool) (l : OutLetter) : Posted s (s.postOwned f l) := by
  unfold State.postOwned
  split
  · exact s.postEvent_posted _ l
  · exact s.postShared_posted l

theorem State.reply_posted (s : State) (p kind : Nat) (o : Owed) (st : Nat) (pl : List Byte) :
    Posted s (s.reply p kind o st pl) := by
  unfold State.reply
  split
  · exact Posted.refl s
  · exact s.postSure_posted p _

theorem State.consume_posted (s : State) (p n : Nat) (he : (s.pd p).ring.en = true) : Posted s (s.consume p n) := by
  unfold State.consume
  refine (s.sendComp_posted _ p _ _ he (.inr ?_) (.inr ?_)).trans (State.modRing_posted _ _ _ fun _ => ⟨rfl, rfl⟩)
  · omega
  · rw [leBytes_length]; omega

theorem State.took_posted (s : State) (p : Nat) (h : LetterHead) (he : (s.pd p).ring.en = true) : Posted s (s.took p h) :=
  (s.consume_posted p _ he).trans (State.modRing_posted _ _ _ fun _ => ⟨rfl, rfl⟩)

/-- `Posted` carries over a change of fields that the exchange of letters leaves. -/
theorem Posted.with {s t : State} (h : Posted s t) (g : State → State)
    (hg : ∀ m c f ps, g { s with mem := m, mcl := c, deferred := f, pads := ps } =
      { g s with mem := m, mcl := c, deferred := f, pads := ps }) (hp : (g s).pads = s.pads) (hm : (g s).mem = s.mem) :
    Posted (g s) (g t) := by
  obtain ⟨m, c, f, ps, rfl, hq, hw⟩ := h
  refine ⟨m, c, f, ps, hg m c f ps, by rw [hp]; exact hq, fun hx => ?_⟩
  rw [hm] at hx ⊢
  refine ⟨(hw hx).1, fun a ha => (hw hx).2 a fun hc => ha ?_⟩
  exact (inRing_congr (s := s) (t := g s) (by rw [hp]) a).2 hc

/-! ### Letters as commands -/

/-- A letter that passes the checks is of its row's kind (R573). -/
theorem State.letterCheck_listed {s : State} {p kind need : Nat} {h : LetterHead} (hc : s.letterCheck p kind need h = none) :
    h.unlisted = none := by
  unfold State.letterCheck at hc
  split at hc
  · cases hc
  · split at hc
    · cases hc
    · split at hc
      · cases hc
      · cases hu : h.unlisted <;> simp_all

/-- An accepted letter does what its action does on the state that has taken it up; while its action waits, it stays where it stands. -/
theorem State.takeLetter_accepted {s : State} {p kind need : Nat} {h : LetterHead} (act : State → Taken)
    (ha : s.accepts p kind need h = true) :
    s.takeLetter p kind need h act = if (act (s.took p h)).waits then s else match (act (s.took p h)).now with
      | some (st, payload) => (act (s.took p h)).s.answered p kind h st payload
      | none => (act (s.took p h)).s := by
  simp only [State.accepts, Bool.and_eq_true, decide_eq_true_eq, Option.isNone_iff_eq_none] at ha
  obtain ⟨⟨_, ht⟩, hc⟩ := ha
  simp only [State.takeLetter, ht, hc, State.letterCheck_listed hc, Bool.not_true, Bool.false_eq_true, if_false]
  rfl

/-- A letter that the checks refuse is answered with the status, and has no other effect (R558, R573). -/
theorem State.takeLetter_refused {s : State} {p kind need : Nat} {h : LetterHead} (act : State → Taken) {st : Nat}
    (ht : s.takesLetters p = true) (hc : s.letterCheck p kind need h = some st) :
    s.takeLetter p kind need h act = (s.took p h).answered p (h.unlisted.getD kind) h st [] := by
  simp only [State.takeLetter, ht, hc, Bool.not_true, Bool.false_eq_true, if_false]
  rfl

theorem State.takesLetters_en {s : State} {p : Nat} (h : s.takesLetters p = true) : (s.pd p).ring.en = true := by
  unfold State.takesLetters at h
  dsimp only at h
  revert h
  cases (s.pd p).ring.en <;> simp

theorem State.accepts_en {s : State} {p kind need : Nat} {h : LetterHead} (ha : s.accepts p kind need h = true) :
    (s.pd p).ring.en = true := by
  simp only [State.accepts, Bool.and_eq_true] at ha
  exact State.takesLetters_en ha.1.2

theorem State.accepts_pad {s : State} {p kind need : Nat} {h : LetterHead} (ha : s.accepts p kind need h = true) : p < 16 := by
  simp only [State.accepts, Bool.and_eq_true, decide_eq_true_eq] at ha
  exact ha.1.1

end Sys2Proof.Machine
end

