-- ==== Sys2Proof/Laws/Digest.lean ====
section
/-!
SUPPORT. Lengths of digests and of the records that hold them, for every state.
-/

set_option Elab.async false

namespace Sys2Proof.Machine

theorem sha_blocks_length (k : Nat) (h : List Nat) (bs : List Byte) (hh : h.length = 8) :
    (Sha.blocks k h bs).length = 8 := by
  induction k generalizing h bs with
  | zero => exact hh
  | succ k ih => exact ih _ _ rfl

/-- A digest is 32 bytes. -/
theorem sha256_length (m : List Byte) : (sha256 m).length = 32 := by
  have h := sha_blocks_length ((Sha.pad m).length / 64) Sha.h0 (Sha.pad m) rfl
  simp only [sha256, List.length_flatMap, List.length_reverse, leBytes_length, List.map_const', List.sum_replicate_nat, h]

/-- A training record is 256 bytes (R310). -/
theorem trainingRecord_length (s : State) (c : Nat) : (s.trainingRecord c).length = 256 := by
  unfold State.trainingRecord
  simp only [List.length_append, leBytes_length, sha256_length, List.length_take, List.length_cons, List.length_nil,
    List.length_replicate]
  omega

/-- The records of all channels are 49,152 bytes (R615). -/
theorem trainingRecords_length (s : State) : ((List.range 192).map s.trainingRecord).flatten.length = 49152 := by
  rw [List.length_flatten, List.map_map]
  have h : (List.length ∘ s.trainingRecord) = fun _ => 256 := funext fun c => trainingRecord_length s c
  rw [h, List.map_const', List.sum_replicate_nat, List.length_range]

end Sys2Proof.Machine
end

