-- ==== Sys2Proof/Laws/Keeps.lean ====
section
/-!
SUPPORT. What every operation of the machine keeps: the queue, the canonical form of
memory, the number of units of each kind (R25, R34), the rollback floor (R655) and the
reserved signature indices (R659). One lemma per operation stands in the files
Laws/Keep*.lean; this file has the relation and the rules by which they compose.
-/

set_option Elab.async false

namespace Sys2Proof.Machine

/-- What an operation keeps from s to t. -/
structure Keeps (s t : State) : Prop where
  queue : t.pending = s.pending
  mem : s.mem.wf = true → t.mem.wf = true
  units : s.full → t.full
  floor : s.otp.floor ≤ t.otp.floor
  index : s.flash.idxA <:+ t.flash.idxA
  fuses : t.otp.features = s.otp.features ∧ t.otp.serial = s.otp.serial
  settings : s.settingsOk → t.settingsOk

theorem Keeps.refl (s : State) : Keeps s s := ⟨rfl, id, id, Nat.le_refl _, List.suffix_refl _, ⟨rfl, rfl⟩, id⟩

theorem Keeps.trans {s t u : State} (h : Keeps s t) (k : Keeps t u) : Keeps s u :=
  ⟨k.queue.trans h.queue, k.mem ∘ h.mem, k.units ∘ h.units, Nat.le_trans h.floor k.floor, h.index.trans k.index,
    ⟨k.fuses.1.trans h.fuses.1, k.fuses.2.trans h.fuses.2⟩, k.settings ∘ h.settings⟩

/-- A record update of a kept state, field by field. -/
theorem keeps_rec {z s : State} (h : Keeps z s) {free otp flash cfg start grant dies power freeze deferred ostlers expiries
    remount channels sheds turnout scrubHours bus tap stables mem bad flips foreign pads ports mcl bridge}
    (hotp : s.otp.floor ≤ otp.floor) (hidx : s.flash.idxA <:+ flash.idxA) (hmem : s.mem.wf = true → Memory.wf mem = true)
    (hdies : s.dies.length = 2 → dies.length = 2) (host : s.ostlers.length = 20 → ostlers.length = 20)
    (hch : s.channels.length = 192 → channels.length = 192) (hsh : s.sheds.length = 192 → sheds.length = 192)
    (hst : s.stables.length = 72 → stables.length = 72) (hpd : s.pads.length = 16 → pads.length = 16)
    (hpo : s.ports.length = 32 → ports.length = 32) (hfe : otp.features = s.otp.features) (hse : otp.serial = s.otp.serial)
    (hcap : 800 ≤ s.power.moduleCap ∧ s.power.moduleCap ≤ 2400 → 800 ≤ power.moduleCap ∧ power.moduleCap ≤ 2400)
    (hscr : 1 ≤ s.scrubHours ∧ s.scrubHours ≤ 168 → 1 ≤ scrubHours ∧ scrubHours ≤ 168)
    (hgr : s.grant &&& s.otp.features % 2 ^ 16 = s.grant → grant &&& s.otp.features % 2 ^ 16 = grant) :
    Keeps z ⟨s.pending, free, otp, flash, cfg, start, grant, dies, power, freeze, deferred, ostlers, expiries, remount, channels,
      sheds, turnout, scrubHours, bus, tap, stables, mem, bad, flips, foreign, pads, ports, mcl, bridge⟩ :=
  h.trans ⟨rfl, hmem, fun ⟨a, b, c, d, e, f, g⟩ => ⟨hdies a, host b, hch c, hsh d, hst e, hpd f, hpo g⟩, hotp, hidx, ⟨hfe, hse⟩,
    fun ⟨a, b, c⟩ => ⟨hcap a, hscr b, by show grant &&& otp.features % 2 ^ 16 = grant; rw [hfe]; exact hgr c⟩⟩

/-- Keeps, for an operation that may fail. -/
structure KeepsE (z : State) (e : Except Nat State) : Prop where
  of : ∀ t, e = .ok t → Keeps z t
/-- Keeps, for an operation that may fail and answers a value beside the state. -/
structure KeepsP {α : Type} (z : State) (e : Except Nat (State × α)) : Prop where
  of : ∀ t, e = .ok t → Keeps z t.1
/-- Keeps, for an operation that may answer nothing. -/
structure KeepsO (z : State) (e : Option State) : Prop where
  of : ∀ t, e = some t → Keeps z t
/-- Keeps, for a meaning: of its next state, where it answers one. -/
structure KeepsOut (z : State) (e : Out) : Prop where
  of : ∀ t, e = .next t → Keeps z t

theorem KeepsE.ok {z s : State} (h : Keeps z s) : KeepsE z (.ok s) := ⟨fun t ht => by cases ht; exact h⟩
theorem KeepsE.pure {z s : State} (h : Keeps z s) : KeepsE z (Pure.pure s) := KeepsE.ok h
theorem KeepsE.error {z : State} (n : Nat) : KeepsE z (.error n) := ⟨fun t ht => by cases ht⟩
theorem KeepsE.throw {z : State} (n : Nat) : KeepsE z (MonadExcept.throw n) := ⟨fun t ht => by cases ht⟩
theorem KeepsP.ok {α : Type} {z s : State} {a : α} (h : Keeps z s) : KeepsP z (.ok (s, a)) := ⟨fun t ht => by cases ht; exact h⟩
theorem KeepsP.pure {α : Type} {z s : State} {a : α} (h : Keeps z s) : KeepsP z (Pure.pure (s, a)) := KeepsP.ok h
theorem KeepsP.error {α : Type} {z : State} (n : Nat) : KeepsP (α := α) z (.error n) := ⟨fun t ht => by cases ht⟩
theorem KeepsP.throw {α : Type} {z : State} (n : Nat) : KeepsP (α := α) z (MonadExcept.throw n) := ⟨fun t ht => by cases ht⟩
theorem KeepsO.some {z s : State} (h : Keeps z s) : KeepsO z (Option.some s) := ⟨fun t ht => by cases ht; exact h⟩
theorem KeepsO.none {z : State} : KeepsO z Option.none := ⟨fun t ht => by cases ht⟩
theorem KeepsOut.next {z s : State} (h : Keeps z s) : KeepsOut z (.next s) := ⟨fun t ht => by cases ht; exact h⟩
theorem KeepsOut.fault {z : State} (f : Fault) : KeepsOut z (.fault f) := ⟨fun t ht => by cases ht⟩

theorem onUnit_keeps {z s : State} {b : Bool} (h : Keeps z s) : KeepsOut z (onUnit b s) := by
  unfold onUnit; split
  · exact .next h
  · exact .fault _

/-! ### Sequencing -/

theorem KeepsE.bindS {z : State} {e : Except Nat State} {k : State → Except Nat State} (he : KeepsE z e)
    (hk : ∀ s, Keeps z s → KeepsE z (k s)) : KeepsE z (e >>= k) := by
  cases e with
  | error n => exact ⟨fun t ht => by cases ht⟩
  | ok s => exact hk s (he.of s rfl)

theorem KeepsE.bindP {α : Type} {z : State} {e : Except Nat (State × α)} {k : State × α → Except Nat State} (he : KeepsP z e)
    (hk : ∀ s a, Keeps z s → KeepsE z (k (s, a))) : KeepsE z (e >>= k) := by
  cases e with
  | error n => exact ⟨fun t ht => by cases ht⟩
  | ok s => exact hk s.1 s.2 (he.of s rfl)

theorem KeepsE.bind {α : Type} {z : State} {e : Except Nat α} {k : α → Except Nat State} (hk : ∀ a, KeepsE z (k a)) :
    KeepsE z (e >>= k) := by
  cases e with
  | error n => exact ⟨fun t ht => by cases ht⟩
  | ok s => exact hk s

theorem KeepsP.bindS {α : Type} {z : State} {e : Except Nat State} {k : State → Except Nat (State × α)} (he : KeepsE z e)
    (hk : ∀ s, Keeps z s → KeepsP z (k s)) : KeepsP z (e >>= k) := by
  cases e with
  | error n => exact ⟨fun t ht => by cases ht⟩
  | ok s => exact hk s (he.of s rfl)

theorem KeepsP.bindP {α β : Type} {z : State} {e : Except Nat (State × α)} {k : State × α → Except Nat (State × β)}
    (he : KeepsP z e) (hk : ∀ s a, Keeps z s → KeepsP z (k (s, a))) : KeepsP z (e >>= k) := by
  cases e with
  | error n => exact ⟨fun t ht => by cases ht⟩
  | ok s => exact hk s.1 s.2 (he.of s rfl)

theorem KeepsP.bind {α β : Type} {z : State} {e : Except Nat α} {k : α → Except Nat (State × β)} (hk : ∀ a, KeepsP z (k a)) :
    KeepsP z (e >>= k) := by
  cases e with
  | error n => exact ⟨fun t ht => by cases ht⟩
  | ok s => exact hk s

theorem foldl_keeps {α : Type} {z : State} {f : State → α → State} (l : List α) {s : State} (hs : Keeps z s)
    (hf : ∀ a x, Keeps z a → Keeps z (f a x)) : Keeps z (l.foldl f s) := by
  induction l generalizing s with
  | nil => exact hs
  | cons x xs ih => exact ih (hf s x hs)

theorem foldlM_keeps {α : Type} {z : State} {f : State → α → Except Nat State} (l : List α) {s : State} (hs : Keeps z s)
    (hf : ∀ a x, Keeps z a → KeepsE z (f a x)) : KeepsE z (l.foldlM f s) := by
  induction l generalizing s with
  | nil => exact .pure hs
  | cons x xs ih => exact KeepsE.bindS (hf s x hs) fun t ht => ih ht

theorem KeepsE.map {z : State} {e : Except Nat State} {k : State → State} (he : KeepsE z e) (hk : ∀ s, Keeps z s → Keeps z (k s)) :
    KeepsE z (e.map k) := by
  cases e with
  | error n => exact .error n
  | ok s => exact .ok (hk s (he.of s rfl))

theorem KeepsE.mapS {α : Type} {z : State} {e : Except Nat α} {k : α → State} (hk : ∀ a, Keeps z (k a)) : KeepsE z (e.map k) := by
  cases e with
  | error n => exact .error n
  | ok a => exact .ok (hk a)

theorem KeepsP.map {α : Type} {z : State} {e : Except Nat State} {a : α} (he : KeepsE z e) : KeepsP z (e.map fun s => (s, a)) := by
  cases e with
  | error n => exact .error n
  | ok s => exact .ok (he.of s rfl)

theorem ite_keeps {z s t : State} {c : Prop} [Decidable c] (hs : Keeps z s) (ht : Keeps z t) : Keeps z (if c then s else t) := by
  split
  · exact hs
  · exact ht

end Sys2Proof.Machine
end

