-- ==== Sys2Proof/Laws/KeepOps.lean ====
section
/-! SUPPORT. What the operations of Machine/Ops.lean keep (Laws/Keeps.lean): one lemma for each. -/

set_option Elab.async false

namespace Sys2Proof.Machine


theorem State.modPd_keeps {x0 : State} {x1 : Nat} {x2 : Paddock → Paddock} {z : State} (hz : Keeps z x0) : Keeps z (State.modPd x0 x1 x2) := by
  unfold State.modPd; try dsimp only
  all_goals repeat'
    first
    | (with_reducible exact hz)
    | (with_reducible assumption)
    | split
    | (with_reducible apply keeps_rec)
    | (with_reducible exact Nat.le_refl _)
    | (with_reducible exact List.suffix_refl _)
    | (with_reducible exact id)
    | (with_reducible exact rfl)
    | (intro h; simp [h]; done)
    | (intro _)
    | (dsimp only)

theorem State.modCtx_keeps {x0 : State} {x1 : Nat} {x2 : Nat} {x3 : Ctx → Ctx} {z : State} (hz : Keeps z x0) : Keeps z (State.modCtx x0 x1 x2 x3) := by
  unfold State.modCtx; try dsimp only
  all_goals repeat'
    first
    | (with_reducible exact hz)
    | (with_reducible assumption)
    | (with_reducible apply State.modPd_keeps)
    | split
    | (intro _)
    | (dsimp only)

theorem State.modRing_keeps {x0 : State} {x1 : Nat} {x2 : Ring → Ring} {z : State} (hz : Keeps z x0) : Keeps z (State.modRing x0 x1 x2) := by
  unfold State.modRing; try dsimp only
  all_goals repeat'
    first
    | (with_reducible exact hz)
    | (with_reducible assumption)
    | (with_reducible apply State.modPd_keeps)
    | split
    | (intro _)
    | (dsimp only)

theorem State.modDie_keeps {x0 : State} {x1 : Nat} {x2 : Die → Die} {z : State} (hz : Keeps z x0) : Keeps z (State.modDie x0 x1 x2) := by
  unfold State.modDie; try dsimp only
  all_goals repeat'
    first
    | (with_reducible exact hz)
    | (with_reducible assumption)
    | split
    | (with_reducible apply keeps_rec)
    | (with_reducible exact Nat.le_refl _)
    | (with_reducible exact List.suffix_refl _)
    | (with_reducible exact id)
    | (with_reducible exact rfl)
    | (intro h; simp [h]; done)
    | (intro _)
    | (dsimp only)

theorem State.modOstler_keeps {x0 : State} {x1 : Nat} {x2 : Ostler → Ostler} {z : State} (hz : Keeps z x0) : Keeps z (State.modOstler x0 x1 x2) := by
  unfold State.modOstler; try dsimp only
  all_goals repeat'
    first
    | (with_reducible exact hz)
    | (with_reducible assumption)
    | split
    | (with_reducible apply keeps_rec)
    | (with_reducible exact Nat.le_refl _)
    | (with_reducible exact List.suffix_refl _)
    | (with_reducible exact id)
    | (with_reducible exact rfl)
    | (intro h; simp [h]; done)
    | (intro _)
    | (dsimp only)

theorem State.modChannel_keeps {x0 : State} {x1 : Nat} {x2 : Channel → Channel} {z : State} (hz : Keeps z x0) : Keeps z (State.modChannel x0 x1 x2) := by
  unfold State.modChannel; try dsimp only
  all_goals repeat'
    first
    | (with_reducible exact hz)
    | (with_reducible assumption)
    | split
    | (with_reducible apply keeps_rec)
    | (with_reducible exact Nat.le_refl _)
    | (with_reducible exact List.suffix_refl _)
    | (with_reducible exact id)
    | (with_reducible exact rfl)
    | (intro h; simp [h]; done)
    | (intro _)
    | (dsimp only)

theorem State.modShed_keeps {x0 : State} {x1 : Nat} {x2 : Shed → Shed} {z : State} (hz : Keeps z x0) : Keeps z (State.modShed x0 x1 x2) := by
  unfold State.modShed; try dsimp only
  all_goals repeat'
    first
    | (with_reducible exact hz)
    | (with_reducible assumption)
    | split
    | (with_reducible apply keeps_rec)
    | (with_reducible exact Nat.le_refl _)
    | (with_reducible exact List.suffix_refl _)
    | (with_reducible exact id)
    | (with_reducible exact rfl)
    | (intro h; simp [h]; done)
    | (intro _)
    | (dsimp only)

theorem State.modStable_keeps {x0 : State} {x1 : Nat} {x2 : Stable → Stable} {z : State} (hz : Keeps z x0) : Keeps z (State.modStable x0 x1 x2) := by
  unfold State.modStable; try dsimp only
  all_goals repeat'
    first
    | (with_reducible exact hz)
    | (with_reducible assumption)
    | split
    | (with_reducible apply keeps_rec)
    | (with_reducible exact Nat.le_refl _)
    | (with_reducible exact List.suffix_refl _)
    | (with_reducible exact id)
    | (with_reducible exact rfl)
    | (intro h; simp [h]; done)
    | (intro _)
    | (dsimp only)

theorem State.modPort_keeps {x0 : State} {x1 : Nat} {x2 : Port → Port} {z : State} (hz : Keeps z x0) : Keeps z (State.modPort x0 x1 x2) := by
  unfold State.modPort; try dsimp only
  all_goals repeat'
    first
    | (with_reducible exact hz)
    | (with_reducible assumption)
    | split
    | (with_reducible apply keeps_rec)
    | (with_reducible exact Nat.le_refl _)
    | (with_reducible exact List.suffix_refl _)
    | (with_reducible exact id)
    | (with_reducible exact rfl)
    | (intro h; simp [h]; done)
    | (intro _)
    | (dsimp only)

theorem State.addExpiry_keeps {x0 : State} {x1 : Nat} {x2 : Nat} {x3 : ExpiryKind} {x4 : Nat} {z : State} (hz : Keeps z x0) : Keeps z (State.addExpiry x0 x1 x2 x3 x4) := by
  unfold State.addExpiry; try dsimp only
  all_goals repeat'
    first
    | (with_reducible exact hz)
    | (with_reducible assumption)
    | split
    | (with_reducible apply keeps_rec)
    | (with_reducible exact Nat.le_refl _)
    | (with_reducible exact List.suffix_refl _)
    | (with_reducible exact id)
    | (with_reducible exact rfl)
    | (intro _)
    | (dsimp only)

theorem State.dropExpiries_keeps {x0 : State} {x1 : Expiry → Bool} {z : State} (hz : Keeps z x0) : Keeps z (State.dropExpiries x0 x1) := by
  unfold State.dropExpiries; try dsimp only
  all_goals repeat'
    first
    | (with_reducible exact hz)
    | (with_reducible assumption)
    | split
    | (with_reducible apply keeps_rec)
    | (with_reducible exact Nat.le_refl _)
    | (with_reducible exact List.suffix_refl _)
    | (with_reducible exact id)
    | (with_reducible exact rfl)
    | (intro _)
    | (dsimp only)

theorem State.takeExpiry_keeps {x0 : State} {x1 : Nat} {x2 : Nat} {x3 : ExpiryKind} {z : State} (hz : Keeps z x0) : KeepsO z (State.takeExpiry x0 x1 x2 x3) := by
  unfold State.takeExpiry; try dsimp only
  all_goals repeat'
    first
    | (with_reducible exact hz)
    | (with_reducible assumption)
    | (with_reducible apply KeepsO.some)
    | (with_reducible apply KeepsO.none)
    | (with_reducible apply State.dropExpiries_keeps)
    | split
    | (intro _)
    | (dsimp only)

theorem State.draw_keeps_at {x0 : State} {z : State} (hz : Keeps z x0) : Keeps z (State.draw x0).2 := by
  unfold State.draw; try dsimp only
  all_goals repeat'
    first
    | (with_reducible exact hz)
    | (with_reducible assumption)
    | split
    | (with_reducible apply keeps_rec)
    | (with_reducible exact Nat.le_refl _)
    | (with_reducible exact List.suffix_refl _)
    | (with_reducible exact id)
    | (with_reducible exact rfl)
    | (intro _)
    | (dsimp only)

theorem State.draw_keeps {x0 : State} {z t : State} {a : Nat} (h : State.draw x0 = (a, t)) (hz : Keeps z x0) : Keeps z t := by
  have k := State.draw_keeps_at (x0 := x0) hz
  rw [h] at k; exact k

theorem State.wr_keeps {x0 : State} {x1 : Nat} {x2 : List Byte} {z : State} (hz : Keeps z x0) : Keeps z (State.wr x0 x1 x2) := by
  unfold State.wr; try dsimp only
  all_goals repeat'
    first
    | (with_reducible exact hz)
    | (with_reducible assumption)
    | split
    | (with_reducible apply keeps_rec)
    | (with_reducible exact Nat.le_refl _)
    | (with_reducible exact List.suffix_refl _)
    | (with_reducible exact id)
    | (with_reducible exact rfl)
    | (with_reducible exact memWrite_wf _ _ _)
    | (intro _)
    | (dsimp only)

theorem State.zero_keeps {x0 : State} {x1 : Nat} {x2 : Nat} {z : State} (hz : Keeps z x0) : Keeps z (State.zero x0 x1 x2) := by
  unfold State.zero; try dsimp only
  all_goals repeat'
    first
    | (with_reducible exact hz)
    | (with_reducible assumption)
    | split
    | (with_reducible apply keeps_rec)
    | (with_reducible exact Nat.le_refl _)
    | (with_reducible exact List.suffix_refl _)
    | (with_reducible exact id)
    | (with_reducible exact rfl)
    | (with_reducible exact memZero_wf _ _ _)
    | (intro _)
    | (dsimp only)

theorem State.wrComp_keeps {x0 : State} {x1 : Nat} {x2 : List Byte} {z : State} (hz : Keeps z x0) : Keeps z (State.wrComp x0 x1 x2) := by
  unfold State.wrComp; try dsimp only
  all_goals repeat'
    first
    | (with_reducible exact hz)
    | (with_reducible assumption)
    | (with_reducible apply State.wr_keeps)
    | split
    | (intro _)
    | (dsimp only)

theorem State.modMcl_keeps {x0 : State} {x1 : Mcl → Mcl} {z : State} (hz : Keeps z x0) : Keeps z (State.modMcl x0 x1) := by
  unfold State.modMcl; try dsimp only
  all_goals repeat'
    first
    | (with_reducible exact hz)
    | (with_reducible assumption)
    | split
    | (with_reducible apply keeps_rec)
    | (with_reducible exact Nat.le_refl _)
    | (with_reducible exact List.suffix_refl _)
    | (with_reducible exact id)
    | (with_reducible exact rfl)
    | (intro _)
    | (dsimp only)

theorem State.request_keeps {x0 : State} {x1 : ReqKind} {x2 : Nat} {x3 : Nat} {x4 : Nat} {x5 : Nat} {x6 : List (List Byte)} {z : State} (hz : Keeps z x0) : Keeps z (State.request x0 x1 x2 x3 x4 x5 x6) := by
  unfold State.request; try dsimp only
  all_goals repeat'
    first
    | (with_reducible exact hz)
    | (with_reducible assumption)
    | (with_reducible apply State.modMcl_keeps)
    | split
    | (intro _)
    | (dsimp only)

theorem State.watch_keeps {x0 : State} {x1 : Nat} {z : State} (hz : Keeps z x0) : Keeps z (State.watch x0 x1) := by
  unfold State.watch; try dsimp only
  all_goals repeat'
    first
    | (with_reducible exact hz)
    | (with_reducible assumption)
    | (with_reducible apply State.request_keeps)
    | split
    | (intro _)
    | (dsimp only)

theorem State.unwatch_keeps {x0 : State} {x1 : Nat} {z : State} (hz : Keeps z x0) : Keeps z (State.unwatch x0 x1) := by
  unfold State.unwatch; try dsimp only
  all_goals repeat'
    first
    | (with_reducible exact hz)
    | (with_reducible assumption)
    | (with_reducible apply State.request_keeps)
    | (with_reducible apply State.modMcl_keeps)
    | split
    | (intro _)
    | (dsimp only)

theorem State.readComp_keeps {x0 : State} {x1 : ReqKind} {x2 : List Nat} {z : State} (hz : Keeps z x0) : Keeps z (State.readComp x0 x1 x2) := by
  unfold State.readComp; try dsimp only
  all_goals repeat'
    first
    | (with_reducible exact hz)
    | (with_reducible assumption)
    | (with_reducible apply State.request_keeps)
    | (with_reducible apply foldl_keeps)
    | split
    | (intro _)
    | (dsimp only)

theorem State.writeGranule_keeps {x0 : State} {x1 : ReqKind} {x2 : Nat → Bool} {x3 : Nat} {z : State} (hz : Keeps z x0) : Keeps z (State.writeGranule x0 x1 x2 x3) := by
  unfold State.writeGranule; try dsimp only
  all_goals repeat'
    first
    | (with_reducible exact hz)
    | (with_reducible assumption)
    | (with_reducible apply State.request_keeps)
    | split
    | (intro _)
    | (dsimp only)

theorem State.sendComp_keeps {x0 : State} {x1 : ReqKind} {x2 : Nat} {x3 : List Byte} {z : State} (hz : Keeps z x0) : Keeps z (State.sendComp x0 x1 x2 x3) := by
  unfold State.sendComp; try dsimp only
  all_goals repeat'
    first
    | (with_reducible exact hz)
    | (with_reducible assumption)
    | (with_reducible apply State.writeGranule_keeps)
    | (with_reducible apply State.wrComp_keeps)
    | (with_reducible apply foldl_keeps)
    | split
    | (intro _)
    | (dsimp only)

theorem State.putLetter_keeps {x0 : State} {x1 : Nat} {x2 : OutLetter} {z : State} (hz : Keeps z x0) : Keeps z (State.putLetter x0 x1 x2) := by
  unfold State.putLetter; try dsimp only
  all_goals repeat'
    first
    | (with_reducible exact hz)
    | (with_reducible assumption)
    | (with_reducible apply State.sendComp_keeps)
    | (with_reducible apply State.modRing_keeps)
    | split
    | (intro _)
    | (dsimp only)

theorem State.flush_keeps {n p : Nat} {s z : State} (hz : Keeps z s) : Keeps z (State.flush n p s) := by
  induction n generalizing s with
  | zero => exact hz
  | succ n ih =>
    unfold State.flush; dsimp only
    repeat'
      first
      | with_reducible exact hz
      | (with_reducible apply ih)
      | (with_reducible apply State.modRing_keeps)
      | (with_reducible apply State.putLetter_keeps)
      | split

theorem State.tendWatch_keeps {x0 : State} {x1 : Nat} {z : State} (hz : Keeps z x0) : Keeps z (State.tendWatch x0 x1) := by
  unfold State.tendWatch; try dsimp only
  all_goals repeat'
    first
    | (with_reducible exact hz)
    | (with_reducible assumption)
    | (with_reducible apply State.watch_keeps)
    | (with_reducible apply State.unwatch_keeps)
    | split
    | (intro _)
    | (dsimp only)

theorem State.flushRing_keeps {x0 : State} {x1 : Nat} {z : State} (hz : Keeps z x0) : Keeps z (State.flushRing x0 x1) := by
  unfold State.flushRing; try dsimp only
  all_goals repeat'
    first
    | (with_reducible exact hz)
    | (with_reducible assumption)
    | (with_reducible apply State.tendWatch_keeps)
    | (with_reducible apply State.flush_keeps)
    | split
    | (intro _)
    | (dsimp only)

theorem State.postEvent_keeps {x0 : State} {x1 : Nat} {x2 : OutLetter} {z : State} (hz : Keeps z x0) : Keeps z (State.postEvent x0 x1 x2) := by
  unfold State.postEvent; try dsimp only
  all_goals repeat'
    first
    | (with_reducible exact hz)
    | (with_reducible assumption)
    | (with_reducible apply State.flushRing_keeps)
    | (with_reducible apply State.modRing_keeps)
    | split
    | (with_reducible apply keeps_rec)
    | (with_reducible exact Nat.le_refl _)
    | (with_reducible exact List.suffix_refl _)
    | (with_reducible exact id)
    | (with_reducible exact rfl)
    | (intro _)
    | (dsimp only)

theorem State.postSure_keeps {x0 : State} {x1 : Nat} {x2 : OutLetter} {z : State} (hz : Keeps z x0) : Keeps z (State.postSure x0 x1 x2) := by
  unfold State.postSure; try dsimp only
  all_goals repeat'
    first
    | (with_reducible exact hz)
    | (with_reducible assumption)
    | (with_reducible apply State.flushRing_keeps)
    | (with_reducible apply State.modRing_keeps)
    | split
    | (intro _)
    | (dsimp only)

theorem State.postShared_keeps {x0 : State} {x1 : OutLetter} {z : State} (hz : Keeps z x0) : Keeps z (State.postShared x0 x1) := by
  unfold State.postShared; try dsimp only
  all_goals repeat'
    first
    | (with_reducible exact hz)
    | (with_reducible assumption)
    | (with_reducible apply State.postEvent_keeps)
    | (with_reducible apply foldl_keeps)
    | split
    | (intro _)
    | (dsimp only)

theorem State.postOwned_keeps {x0 : State} {x1 : Paddock → Bool} {x2 : OutLetter} {z : State} (hz : Keeps z x0) : Keeps z (State.postOwned x0 x1 x2) := by
  unfold State.postOwned; try dsimp only
  all_goals repeat'
    first
    | (with_reducible exact hz)
    | (with_reducible assumption)
    | (with_reducible apply State.postEvent_keeps)
    | (with_reducible apply State.postShared_keeps)
    | split
    | (intro _)
    | (dsimp only)

theorem State.undefer_keeps {x0 : State} {z : State} (hz : Keeps z x0) : Keeps z (State.undefer x0) := by
  unfold State.undefer; try dsimp only
  all_goals repeat'
    first
    | (with_reducible exact hz)
    | (with_reducible assumption)
    | (with_reducible apply State.postEvent_keeps)
    | (with_reducible apply foldl_keeps)
    | split
    | (with_reducible apply keeps_rec)
    | (with_reducible exact Nat.le_refl _)
    | (with_reducible exact List.suffix_refl _)
    | (with_reducible exact id)
    | (with_reducible exact rfl)
    | (intro _)
    | (dsimp only)

theorem State.reply_keeps {x0 : State} {x1 : Nat} {x2 : Nat} {x3 : Owed} {x4 : Nat} {x5 : List Byte} {z : State} (hz : Keeps z x0) : Keeps z (State.reply x0 x1 x2 x3 x4 x5) := by
  unfold State.reply; try dsimp only
  all_goals repeat'
    first
    | (with_reducible exact hz)
    | (with_reducible assumption)
    | (with_reducible apply State.postSure_keeps)
    | split
    | (intro _)
    | (dsimp only)

theorem Taken.refuse_keeps {x0 : State} {x1 : Nat} {z : State} (hz : Keeps z x0) : Keeps z (Taken.refuse x0 x1).s := by
  unfold Taken.refuse; try dsimp only
  all_goals repeat'
    first
    | (with_reducible exact hz)
    | (with_reducible assumption)
    | split
    | (intro _)
    | (dsimp only)

theorem Taken.ok_keeps {x0 : State} {x1 : List Byte} {z : State} (hz : Keeps z x0) : Keeps z (Taken.ok x0 x1).s := by
  unfold Taken.ok; try dsimp only
  all_goals repeat'
    first
    | (with_reducible exact hz)
    | (with_reducible assumption)
    | split
    | (intro _)
    | (dsimp only)

theorem Taken.later_keeps {x0 : State} {z : State} (hz : Keeps z x0) : Keeps z (Taken.later x0).s := by
  unfold Taken.later; try dsimp only
  all_goals repeat'
    first
    | (with_reducible exact hz)
    | (with_reducible assumption)
    | split
    | (intro _)
    | (dsimp only)

theorem Taken.hold_keeps {x0 : State} {z : State} (hz : Keeps z x0) : Keeps z (Taken.hold x0).s := by
  unfold Taken.hold; try dsimp only
  all_goals repeat'
    first
    | (with_reducible exact hz)
    | (with_reducible assumption)
    | split
    | (intro _)
    | (dsimp only)

theorem State.consume_keeps {x0 : State} {x1 : Nat} {x2 : Nat} {z : State} (hz : Keeps z x0) : Keeps z (State.consume x0 x1 x2) := by
  unfold State.consume; try dsimp only
  all_goals repeat'
    first
    | (with_reducible exact hz)
    | (with_reducible assumption)
    | (with_reducible apply State.modRing_keeps)
    | (with_reducible apply State.sendComp_keeps)
    | split
    | (intro _)
    | (dsimp only)

theorem State.takeLetter_keeps {s z : State} {p kind need : Nat} {h : LetterHead} {act : State → Taken} (hz : Keeps z s)
    (ha : ∀ a, Keeps z a → Keeps z (act a).s) : Keeps z (s.takeLetter p kind need h act) := by
  have h1 : ∀ slots, Keeps z ((s.consume p slots).modRing p fun r => { r with expected := (h.sequence + 1) % 2 ^ 32 }) :=
    fun slots => State.modRing_keeps (State.consume_keeps hz)
  unfold State.takeLetter; dsimp only
  generalize (if h.length = 0 ∨ 8 < h.length then 1 else h.length) = slots
  split
  · exact hz
  · split
    · exact State.reply_keeps (h1 _)
    · split
      · exact hz
      · split
        · exact State.reply_keeps (ha _ (h1 _))
        · exact ha _ (h1 _)

theorem State.bulk_keeps {x0 : State} {x1 : Bulk} {x2 : List Byte} {x3 : List Byte} {z : State} (hz : Keeps z x0) : Keeps z (State.bulk x0 x1 x2 x3).s := by
  unfold State.bulk; try dsimp only
  all_goals repeat'
    first
    | (with_reducible exact hz)
    | (with_reducible assumption)
    | (with_reducible apply Taken.refuse_keeps)
    | (with_reducible apply Taken.ok_keeps)
    | (with_reducible apply State.sendComp_keeps)
    | split
    | (intro _)
    | (dsimp only)

end Sys2Proof.Machine
end

