-- ==== Sys2Proof/Laws/KeepIdBlock.lean ====
section
/-! SUPPORT. What the operations of Machine/IdBlock.lean keep (Laws/Keeps.lean): one lemma for each. -/

set_option Elab.async false

namespace Sys2Proof.Machine

theorem State.postcodeEvent_keeps {x0 : State} {x1 : Bus} {x2 : Nat} {z : State} (hz : Keeps z x0) : Keeps z (State.postcodeEvent x0 x1 x2) := by
  unfold State.postcodeEvent; try dsimp only
  all_goals repeat'
    first
    | (with_reducible exact hz)
    | (with_reducible assumption)
    | (with_reducible apply State.postShared_keeps)
    | split
    | (intro _)
    | (dsimp only)

theorem State.mapAdd_keeps {x0 : State} {x1 : MapEntry} {z : State} (hz : Keeps z x0) : Keeps z (State.mapAdd x0 x1) := by
  unfold State.mapAdd; try dsimp only
  all_goals repeat'
    first
    | (with_reducible exact hz)
    | (with_reducible assumption)
    | split
    | (with_reducible apply keeps_rec)
    | (with_reducible exact Nat.le_refl _)
    | (with_reducible exact List.suffix_refl _)
    | (with_reducible exact id)
    | (with_reducible exact rfl)
    | (intro _)
    | (dsimp only)

end Sys2Proof.Machine
end

