-- ==== Sys2Proof/Laws/KeepStore.lean ====
section
/-! SUPPORT. What the operations of Machine/Store.lean keep (Laws/Keeps.lean): one lemma for each. -/

set_option Elab.async false

namespace Sys2Proof.Machine

theorem State.spoil_keeps {x0 : State} {x1 : Nat} {z : State} (hz : Keeps z x0) : Keeps z (State.spoil x0 x1) := by
  unfold State.spoil; try dsimp only
  all_goals repeat'
    first
    | (with_reducible exact hz)
    | (with_reducible assumption)
    | split
    | (with_reducible apply keeps_rec)
    | (with_reducible exact Nat.le_refl _)
    | (with_reducible exact List.suffix_refl _)
    | (with_reducible exact id)
    | (with_reducible exact rfl)
    | (intro _)
    | (dsimp only)

theorem State.unflip_keeps {x0 : State} {x1 : Nat} {z : State} (hz : Keeps z x0) : Keeps z (State.unflip x0 x1) := by
  unfold State.unflip; try dsimp only
  all_goals repeat'
    first
    | (with_reducible exact hz)
    | (with_reducible assumption)
    | split
    | (with_reducible apply keeps_rec)
    | (with_reducible exact Nat.le_refl _)
    | (with_reducible exact List.suffix_refl _)
    | (with_reducible exact id)
    | (with_reducible exact rfl)
    | (intro _)
    | (dsimp only)

theorem State.flipBit_keeps {x0 : State} {x1 : Nat} {x2 : Nat} {z : State} (hz : Keeps z x0) : Keeps z (State.flipBit x0 x1 x2) := by
  unfold State.flipBit; try dsimp only
  all_goals repeat'
    first
    | (with_reducible exact hz)
    | (with_reducible assumption)
    | split
    | (with_reducible apply keeps_rec)
    | (with_reducible exact Nat.le_refl _)
    | (with_reducible exact List.suffix_refl _)
    | (with_reducible exact id)
    | (with_reducible exact rfl)
    | (intro _)
    | (dsimp only)

theorem State.rekey_keeps {x0 : State} {x1 : State} {x2 : List Nat} {z : State} (hz : Keeps z x0) : Keeps z (State.rekey x0 x1 x2) := by
  unfold State.rekey; try dsimp only
  all_goals repeat'
    first
    | (with_reducible exact hz)
    | (with_reducible assumption)
    | (with_reducible apply foldl_keeps)
    | split
    | (with_reducible apply keeps_rec)
    | (with_reducible exact Nat.le_refl _)
    | (with_reducible exact List.suffix_refl _)
    | (with_reducible exact id)
    | (with_reducible exact rfl)
    | (intro _)
    | (dsimp only)

theorem foldl_memSet_wf (l : List (Nat × Byte)) : ∀ m : Memory, m.wf = true →
    Memory.wf (l.foldl (fun m (db : Nat × Byte) => memSet m db.1 db.2) m) = true := by
  induction l with
  | nil => exact fun _ h => h
  | cons x xs ih => exact fun m h => ih _ (memSet_wf m _ _ h)

theorem foldl_memWrite_wf {α : Type} (at_ : α → Nat) (bs : α → List Byte) (l : List α) : ∀ m : Memory, m.wf = true →
    Memory.wf (l.foldl (fun m x => memWrite m (at_ x) (bs x)) m) = true := by
  induction l with
  | nil => exact fun _ h => h
  | cons x xs ih => exact fun m h => ih _ (memWrite_wf (bs x) m (at_ x) h)

theorem State.setBytes_wf (s : State) (cells : List (Nat × Byte)) (h : s.mem.wf = true) : Memory.wf (s.setBytes cells) = true :=
  foldl_memWrite_wf _ _ _ _ (foldl_memSet_wf _ _ h)

theorem State.writeDevs_keeps {s z : State} {ds : List Nat} {bs : List Byte} (hz : Keeps z s) : KeepsE z (s.writeDevs ds bs) := by
  unfold State.writeDevs; dsimp only
  split
  · exact .error _
  · refine .ok (keeps_rec hz (Nat.le_refl _) (List.suffix_refl _) (State.setBytes_wf s _) id id id id id id id rfl rfl id id id)

theorem State.store_keeps {x0 : State} {x1 : Ctx} {x2 : Nat} {x3 : List Byte} {z : State} (hz : Keeps z x0) : KeepsE z (State.store x0 x1 x2 x3) := by
  unfold State.store; try dsimp only
  all_goals repeat'
    first
    | (with_reducible exact hz)
    | (with_reducible assumption)
    | (with_reducible apply KeepsE.ok)
    | (with_reducible apply KeepsE.error)
    | (with_reducible apply KeepsP.ok)
    | (with_reducible apply KeepsP.error)
    | (with_reducible apply State.writeDevs_keeps)
    | split
    | (refine (State.writeDevs_keeps ?_).of _ (by with_reducible assumption))
    | (intro _)
    | (dsimp only)

theorem State.storeAll_keeps {x0 : State} {x1 : Ctx} {x2 : List (Nat × Byte)} {z : State} (hz : Keeps z x0) : KeepsE z (State.storeAll x0 x1 x2) := by
  unfold State.storeAll; try dsimp only
  all_goals repeat'
    first
    | (with_reducible exact hz)
    | (with_reducible assumption)
    | (with_reducible apply KeepsE.ok)
    | (with_reducible apply KeepsE.error)
    | (with_reducible apply KeepsP.ok)
    | (with_reducible apply KeepsP.error)
    | (with_reducible apply State.writeDevs_keeps)
    | split
    | (refine (State.writeDevs_keeps ?_).of _ (by with_reducible assumption))
    | (intro _)
    | (dsimp only)

end Sys2Proof.Machine
end

