-- ==== Sys2Proof/Laws/KeepJobs.lean ====
section
/-! SUPPORT. What the operations of Machine/Jobs.lean keep (Laws/Keeps.lean): one lemma for each. -/

set_option Elab.async false

namespace Sys2Proof.Machine

theorem State.reschedule_keeps {x0 : State} {x1 : Nat} {z : State} (hz : Keeps z x0) : Keeps z (State.reschedule x0 x1) := by
  unfold State.reschedule; try dsimp only
  all_goals repeat'
    first
    | (with_reducible exact hz)
    | (with_reducible assumption)
    | (with_reducible apply State.modPd_keeps)
    | split
    | (intro _)
    | (dsimp only)

theorem State.enterState_keeps {x0 : State} {x1 : Nat} {x2 : Nat} {x3 : CtxState} {z : State} (hz : Keeps z x0) : Keeps z (State.enterState x0 x1 x2 x3) := by
  unfold State.enterState; try dsimp only
  all_goals repeat'
    first
    | (with_reducible exact hz)
    | (with_reducible assumption)
    | (with_reducible apply State.reschedule_keeps)
    | (with_reducible apply State.modCtx_keeps)
    | split
    | (intro _)
    | (dsimp only)

theorem State.makeReady_keeps {x0 : State} {x1 : Nat} {x2 : Nat} {z : State} (hz : Keeps z x0) : Keeps z (State.makeReady x0 x1 x2) := by
  unfold State.makeReady; try dsimp only
  all_goals repeat'
    first
    | (with_reducible exact hz)
    | (with_reducible assumption)
    | (with_reducible apply State.enterState_keeps)
    | split
    | (intro _)
    | (dsimp only)

theorem State.writeHeader_keeps {x0 : State} {x1 : Nat} {x2 : Stream} {x3 : Nat} {x4 : Nat} {z : State} (hz : Keeps z x0) : Keeps z (State.writeHeader x0 x1 x2 x3 x4) := by
  unfold State.writeHeader; try dsimp only
  all_goals repeat'
    first
    | (with_reducible exact hz)
    | (with_reducible assumption)
    | (with_reducible apply State.sendComp_keeps)
    | split
    | (intro _)
    | (dsimp only)

theorem State.writeEntries_keeps {x0 : State} {x1 : Nat} {x2 : Stream} {z : State} (hz : Keeps z x0) : Keeps z (State.writeEntries x0 x1 x2) := by
  unfold State.writeEntries; try dsimp only
  all_goals repeat'
    first
    | (with_reducible exact hz)
    | (with_reducible assumption)
    | (with_reducible apply State.sendComp_keeps)
    | split
    | (intro _)
    | (dsimp only)

theorem State.retireStream_keeps {x0 : State} {x1 : Nat} {x2 : Nat} {x3 : Stream} {x4 : Nat} {x5 : Nat} {z : State} (hz : Keeps z x0) : Keeps z (State.retireStream x0 x1 x2 x3 x4 x5) := by
  unfold State.retireStream; try dsimp only
  all_goals repeat'
    first
    | (with_reducible exact hz)
    | (with_reducible assumption)
    | (with_reducible apply State.postSure_keeps)
    | (with_reducible apply State.writeHeader_keeps)
    | (with_reducible apply State.writeEntries_keeps)
    | split
    | (intro _)
    | (dsimp only)

theorem State.failReplay_keeps {x0 : State} {x1 : Nat} {x2 : Ctx} {x3 : Nat} {z : State} (hz : Keeps z x0) : Keeps z (State.failReplay x0 x1 x2 x3) := by
  unfold State.failReplay; try dsimp only
  all_goals repeat'
    first
    | (with_reducible exact hz)
    | (with_reducible assumption)
    | (with_reducible apply State.reply_keeps)
    | split
    | (intro _)
    | (dsimp only)

theorem State.dropBlocks_keeps {x0 : State} {x1 : Ctx} {z : State} (hz : Keeps z x0) : Keeps z (State.dropBlocks x0 x1) := by
  unfold State.dropBlocks; try dsimp only
  all_goals repeat'
    first
    | (with_reducible exact hz)
    | (with_reducible assumption)
    | (with_reducible apply State.modPort_keeps)
    | (with_reducible apply foldl_keeps)
    | split
    | (with_reducible apply keeps_rec)
    | (with_reducible exact Nat.le_refl _)
    | (with_reducible exact List.suffix_refl _)
    | (with_reducible exact id)
    | (with_reducible exact rfl)
    | (intro h; rw [List.length_map]; with_reducible exact h)
    | (intro _)
    | (dsimp only)

theorem State.overran_keeps {x0 : State} {x1 : Nat} {x2 : Nat} {x3 : Nat} {z : State} (hz : Keeps z x0) : Keeps z (State.overran x0 x1 x2 x3) := by
  unfold State.overran; try dsimp only
  all_goals repeat'
    first
    | (with_reducible exact hz)
    | (with_reducible assumption)
    | (with_reducible apply State.reschedule_keeps)
    | (with_reducible apply State.modPd_keeps)
    | (with_reducible apply State.postEvent_keeps)
    | split
    | (intro _)
    | (dsimp only)

theorem State.logHalt_keeps {x0 : State} {x1 : Ctx} {z : State} (hz : Keeps z x0) : Keeps z (State.logHalt x0 x1) := by
  unfold State.logHalt
  all_goals repeat'
    first
    | (with_reducible exact hz)
    | (with_reducible assumption)
    | (with_reducible apply State.draw_keeps_at)
    | (with_reducible apply State.store_keeps)
    | split
    | (dsimp only)
    | (refine State.draw_keeps (by with_reducible assumption) ?_)
    | (refine (State.store_keeps ?_).of _ (by with_reducible assumption))
    | (intro _)
    | (dsimp only)

theorem State.haltNow_keeps {x0 : State} {x1 : Nat} {x2 : Nat} {x3 : Nat} {z : State} (hz : Keeps z x0) : Keeps z (State.haltNow x0 x1 x2 x3) := by
  unfold State.haltNow; try dsimp only
  all_goals repeat'
    first
    | (with_reducible exact hz)
    | (with_reducible assumption)
    | (with_reducible apply State.logHalt_keeps)
    | (with_reducible apply State.modMcl_keeps)
    | (with_reducible apply State.dropBlocks_keeps)
    | (with_reducible apply State.dropExpiries_keeps)
    | (with_reducible apply State.modPd_keeps)
    | (with_reducible apply State.postEvent_keeps)
    | (with_reducible apply State.retireStream_keeps)
    | (with_reducible apply State.failReplay_keeps)
    | (with_reducible apply State.overran_keeps)
    | (with_reducible apply State.reschedule_keeps)
    | (with_reducible apply foldl_keeps)
    | split
    | (with_reducible apply keeps_rec)
    | (with_reducible exact Nat.le_refl _)
    | (with_reducible exact List.suffix_refl _)
    | (with_reducible exact id)
    | (with_reducible exact rfl)
    | (intro h; rw [List.length_map]; with_reducible exact h)
    | (intro _)
    | (dsimp only)

theorem State.refuseEpoch_keeps {x0 : State} {x1 : Nat} {x2 : Nat} {z : State} (hz : Keeps z x0) : Keeps z (State.refuseEpoch x0 x1 x2) := by
  unfold State.refuseEpoch; try dsimp only
  all_goals repeat'
    first
    | (with_reducible exact hz)
    | (with_reducible assumption)
    | (with_reducible apply State.dropExpiries_keeps)
    | (with_reducible apply State.modCtx_keeps)
    | (with_reducible apply State.reply_keeps)
    | split
    | (intro _)
    | (dsimp only)

theorem State.spanEnds_keeps {x0 : State} {x1 : Nat} {x2 : Nat} {x3 : Nat} {z : State} (hz : Keeps z x0) : Keeps z (State.spanEnds x0 x1 x2 x3) := by
  unfold State.spanEnds; try dsimp only
  all_goals repeat'
    first
    | (with_reducible exact hz)
    | (with_reducible assumption)
    | (with_reducible apply State.haltNow_keeps)
    | (with_reducible apply State.overran_keeps)
    | split
    | (intro _)
    | (dsimp only)

theorem State.haltPlain_keeps {x0 : State} {x1 : Nat} {x2 : Nat} {x3 : Nat} {z : State} (hz : Keeps z x0) : Keeps z (State.haltPlain x0 x1 x2 x3) := by
  unfold State.haltPlain; try dsimp only
  all_goals repeat'
    first
    | (with_reducible exact hz)
    | (with_reducible assumption)
    | (with_reducible apply State.modCtx_keeps)
    | (with_reducible apply State.haltNow_keeps)
    | split
    | (intro _)
    | (dsimp only)

theorem State.haltFailed_keeps {x0 : State} {x1 : Nat} {x2 : Nat} {x3 : Nat} {z : State} (hz : Keeps z x0) : Keeps z (State.haltFailed x0 x1 x2 x3) := by
  unfold State.haltFailed; try dsimp only
  all_goals repeat'
    first
    | (with_reducible exact hz)
    | (with_reducible assumption)
    | (with_reducible apply State.haltPlain_keeps)
    | (with_reducible apply State.haltNow_keeps)
    | split
    | (intro _)
    | (dsimp only)

theorem State.haltAll_keeps {x0 : State} {x1 : Nat} {x2 : Nat} {z : State} (hz : Keeps z x0) : Keeps z (State.haltAll x0 x1 x2) := by
  unfold State.haltAll; try dsimp only
  all_goals repeat'
    first
    | (with_reducible exact hz)
    | (with_reducible assumption)
    | (with_reducible apply State.haltPlain_keeps)
    | (with_reducible apply foldl_keeps)
    | split
    | (intro _)
    | (dsimp only)

theorem State.retireChannel_keeps {x0 : State} {x1 : Nat} {z : State} (hz : Keeps z x0) : Keeps z (State.retireChannel x0 x1) := by
  unfold State.retireChannel; try dsimp only
  all_goals repeat'
    first
    | (with_reducible exact hz)
    | (with_reducible assumption)
    | (with_reducible apply State.modShed_keeps)
    | (with_reducible apply State.modChannel_keeps)
    | (with_reducible apply State.mapAdd_keeps)
    | (with_reducible apply State.haltFailed_keeps)
    | (with_reducible apply State.postOwned_keeps)
    | (with_reducible apply foldl_keeps)
    | split
    | (intro _)
    | (dsimp only)

theorem State.shedFails_keeps {x0 : State} {x1 : Nat} {z : State} (hz : Keeps z x0) : Keeps z (State.shedFails x0 x1) := by
  unfold State.shedFails; try dsimp only
  all_goals repeat'
    first
    | (with_reducible exact hz)
    | (with_reducible assumption)
    | (with_reducible apply State.postOwned_keeps)
    | (with_reducible apply State.modShed_keeps)
    | split
    | (intro _)
    | (dsimp only)

theorem State.laneRemount_keeps {x0 : State} {x1 : Nat} {z : State} (hz : Keeps z x0) : Keeps z (State.laneRemount x0 x1) := by
  unfold State.laneRemount
  all_goals repeat'
    first
    | (with_reducible exact hz)
    | (with_reducible assumption)
    | (with_reducible apply State.draw_keeps_at)
    | (with_reducible apply State.postOwned_keeps)
    | split
    | (dsimp only)
    | (refine State.draw_keeps (by with_reducible assumption) ?_)
    | (intro _)
    | (dsimp only)

theorem State.shedBoundary_keeps {x0 : State} {x1 : Nat} {z : State} (hz : Keeps z x0) : Keeps z (State.shedBoundary x0 x1) := by
  unfold State.shedBoundary; try dsimp only
  all_goals repeat'
    first
    | (with_reducible exact hz)
    | (with_reducible assumption)
    | (with_reducible apply State.shedFails_keeps)
    | (with_reducible apply State.laneRemount_keeps)
    | (with_reducible apply State.modShed_keeps)
    | split
    | (intro _)
    | (dsimp only)

theorem State.noteRow_keeps {x0 : State} {x1 : Nat} {x2 : Nat} {z : State} (hz : Keeps z x0) : Keeps z (State.noteRow x0 x1 x2) := by
  unfold State.noteRow; try dsimp only
  all_goals repeat'
    first
    | (with_reducible exact hz)
    | (with_reducible assumption)
    | (with_reducible apply State.modChannel_keeps)
    | (with_reducible apply State.retireChannel_keeps)
    | split
    | (intro _)
    | (dsimp only)

theorem State.postRow_keeps {x0 : State} {x1 : Nat} {x2 : Nat} {x3 : Nat} {z : State} (hz : Keeps z x0) : Keeps z (State.postRow x0 x1 x2 x3) := by
  unfold State.postRow; try dsimp only
  all_goals repeat'
    first
    | (with_reducible exact hz)
    | (with_reducible assumption)
    | (with_reducible apply State.postOwned_keeps)
    | split
    | (intro _)
    | (dsimp only)

theorem State.mapCtxs_keeps {x0 : State} {x1 : Ctx → Ctx} {z : State} (hz : Keeps z x0) : Keeps z (State.mapCtxs x0 x1) := by
  unfold State.mapCtxs; try dsimp only
  all_goals repeat'
    first
    | (with_reducible exact hz)
    | (with_reducible assumption)
    | split
    | (with_reducible apply keeps_rec)
    | (with_reducible exact Nat.le_refl _)
    | (with_reducible exact List.suffix_refl _)
    | (with_reducible exact id)
    | (with_reducible exact rfl)
    | (intro h; rw [List.length_map]; with_reducible exact h)
    | (intro _)
    | (dsimp only)

theorem State.repairRow_keeps {x0 : State} {x1 : Nat} {x2 : Nat} {x3 : Bool} {z : State} (hz : Keeps z x0) : Keeps z (State.repairRow x0 x1 x2 x3) := by
  unfold State.repairRow; try dsimp only
  all_goals repeat'
    first
    | (with_reducible exact hz)
    | (with_reducible assumption)
    | (with_reducible apply State.modChannel_keeps)
    | (with_reducible apply State.postRow_keeps)
    | (with_reducible apply State.mapAdd_keeps)
    | (with_reducible apply State.mapCtxs_keeps)
    | split
    | (intro _)
    | (dsimp only)

theorem State.gaveBad_keeps {x0 : State} {x1 : Nat} {z : State} (hz : Keeps z x0) : Keeps z (State.gaveBad x0 x1) := by
  unfold State.gaveBad; try dsimp only
  all_goals repeat'
    first
    | (with_reducible exact hz)
    | (with_reducible assumption)
    | (with_reducible apply State.noteRow_keeps)
    | (with_reducible apply State.repairRow_keeps)
    | (with_reducible apply State.spoil_keeps)
    | split
    | (intro _)
    | (dsimp only)

theorem State.haltJob_keeps {x0 : State} {x1 : Nat} {x2 : Nat} {x3 : Nat} {z : State} (hz : Keeps z x0) : Keeps z (State.haltJob x0 x1 x2 x3) := by
  unfold State.haltJob; try dsimp only
  all_goals repeat'
    first
    | (with_reducible exact hz)
    | (with_reducible assumption)
    | (with_reducible apply State.haltFailed_keeps)
    | (with_reducible apply State.gaveBad_keeps)
    | split
    | (intro _)
    | (dsimp only)

end Sys2Proof.Machine
end

