-- ==== Sys2Proof/Laws/KeepEcc.lean ====
section
/-! SUPPORT. What the operations of Machine/Ecc.lean keep (Laws/Keeps.lean): one lemma for each. -/

set_option Elab.async false

namespace Sys2Proof.Machine

theorem State.cellFlips_keeps {x0 : State} {x1 : Nat} {x2 : Nat} {z : State} (hz : Keeps z x0) : Keeps z (State.cellFlips x0 x1 x2) := by
  unfold State.cellFlips; try dsimp only
  all_goals repeat'
    first
    | (with_reducible exact hz)
    | (with_reducible assumption)
    | (with_reducible apply State.flipBit_keeps)
    | (with_reducible apply State.wr_keeps)
    | split
    | (intro _)
    | (dsimp only)

theorem State.corrects_keeps {x0 : State} {x1 : Nat} {x2 : Nat} {z : State} (hz : Keeps z x0) : Keeps z (State.corrects x0 x1 x2) := by
  unfold State.corrects; try dsimp only
  all_goals repeat'
    first
    | (with_reducible exact hz)
    | (with_reducible assumption)
    | (with_reducible apply State.modChannel_keeps)
    | (with_reducible apply State.unflip_keeps)
    | (with_reducible apply State.repairRow_keeps)
    | split
    | (intro _)
    | (dsimp only)

theorem State.loses_keeps {x0 : State} {x1 : Nat} {x2 : Nat} {z : State} (hz : Keeps z x0) : Keeps z (State.loses x0 x1 x2) := by
  unfold State.loses; try dsimp only
  all_goals repeat'
    first
    | (with_reducible exact hz)
    | (with_reducible assumption)
    | (with_reducible apply State.noteRow_keeps)
    | (with_reducible apply State.repairRow_keeps)
    | (with_reducible apply State.spoil_keeps)
    | split
    | (intro _)
    | (dsimp only)

theorem State.correctUnit_keeps {x0 : State} {x1 : Nat} {z : State} (hz : Keeps z x0) : Keeps z (State.correctUnit x0 x1) := by
  unfold State.correctUnit; try dsimp only
  all_goals repeat'
    first
    | (with_reducible exact hz)
    | (with_reducible assumption)
    | (with_reducible apply State.corrects_keeps)
    | (with_reducible apply State.unflip_keeps)
    | split
    | (intro _)
    | (dsimp only)

theorem State.readBack_keeps {x0 : State} {x1 : Nat → Bool} {z : State} (hz : Keeps z x0) : Keeps z (State.readBack x0 x1) := by
  unfold State.readBack; try dsimp only
  all_goals repeat'
    first
    | (with_reducible exact hz)
    | (with_reducible assumption)
    | (with_reducible apply State.correctUnit_keeps)
    | (with_reducible apply foldl_keeps)
    | split
    | (intro _)
    | (dsimp only)

end Sys2Proof.Machine
end

