-- ==== Sys2Proof/Laws/KeepSched.lean ====
section
/-! SUPPORT. What the operations of Machine/Sched.lean keep (Laws/Keeps.lean): one lemma for each. -/

set_option Elab.async false

namespace Sys2Proof.Machine

theorem sliceExpires_keeps {x0 : Nat} {x1 : State} {z : State} (hz : Keeps z x1) : Keeps z (sliceExpires x0 x1) := by
  unfold sliceExpires; try dsimp only
  all_goals repeat'
    first
    | (with_reducible exact hz)
    | (with_reducible assumption)
    | (with_reducible apply State.reschedule_keeps)
    | (with_reducible apply State.modPd_keeps)
    | split
    | (intro _)
    | (dsimp only)

theorem execSliceExpiry_keeps {x0 : Nat} {x1 : State} {z : State} (hz : Keeps z x1) : KeepsOut z (execSliceExpiry x0 x1) := by
  unfold execSliceExpiry; try dsimp only
  all_goals repeat'
    first
    | (with_reducible exact hz)
    | (with_reducible assumption)
    | (with_reducible apply KeepsOut.next)
    | (with_reducible apply KeepsOut.fault)
    | (with_reducible apply onUnit_keeps)
    | (with_reducible apply sliceExpires_keeps)
    | split
    | (intro _)
    | (dsimp only)

theorem State.putBack_keeps {x0 : State} {x1 : Nat} {x2 : Image} {z : State} (hz : Keeps z x0) : Keeps z (State.putBack x0 x1 x2) := by
  unfold State.putBack; try dsimp only
  all_goals repeat'
    first
    | (with_reducible exact hz)
    | (with_reducible assumption)
    | (with_reducible apply State.modStable_keeps)
    | (with_reducible apply State.zero_keeps)
    | (with_reducible apply State.modShed_keeps)
    | (with_reducible apply State.wr_keeps)
    | (with_reducible apply State.spoil_keeps)
    | (with_reducible apply foldl_keeps)
    | split
    | (intro _)
    | (dsimp only)

theorem State.enqueue_keeps {x0 : State} {x1 : Nat} {x2 : Nat} {x3 : Nat} {x4 : Nat} {z : State} (hz : Keeps z x0) : Keeps z (State.enqueue x0 x1 x2 x3 x4) := by
  unfold State.enqueue; try dsimp only
  all_goals repeat'
    first
    | (with_reducible exact hz)
    | (with_reducible assumption)
    | split
    | (with_reducible apply keeps_rec)
    | (with_reducible exact Nat.le_refl _)
    | (with_reducible exact List.suffix_refl _)
    | (with_reducible exact id)
    | (with_reducible exact rfl)
    | (intro h; simp [h]; done)
    | (intro _)
    | (dsimp only)

theorem State.swapJobs_keeps {x0 : State} {x1 : Nat} {x2 : Nat} {z : State} (hz : Keeps z x0) : Keeps z (State.swapJobs x0 x1 x2) := by
  unfold State.swapJobs; try dsimp only
  all_goals repeat'
    first
    | (with_reducible exact hz)
    | (with_reducible assumption)
    | (with_reducible apply State.enqueue_keeps)
    | (with_reducible apply foldl_keeps)
    | split
    | (intro _)
    | (dsimp only)

theorem rebuildDone_keeps {x0 : Nat} {x1 : Nat} {x2 : State} {z : State} (hz : Keeps z x2) : Keeps z (rebuildDone x0 x1 x2) := by
  unfold rebuildDone; try dsimp only
  all_goals repeat'
    first
    | (with_reducible exact hz)
    | (with_reducible assumption)
    | (with_reducible apply State.modCtx_keeps)
    | split
    | (intro _)
    | (dsimp only)

theorem execTableRebuildDone_keeps {x0 : Nat} {x1 : Nat} {x2 : State} {z : State} (hz : Keeps z x2) : KeepsOut z (execTableRebuildDone x0 x1 x2) := by
  unfold execTableRebuildDone; try dsimp only
  all_goals repeat'
    first
    | (with_reducible exact hz)
    | (with_reducible assumption)
    | (with_reducible apply KeepsOut.next)
    | (with_reducible apply KeepsOut.fault)
    | (with_reducible apply onUnit_keeps)
    | (with_reducible apply rebuildDone_keeps)
    | split
    | (intro _)
    | (dsimp only)

theorem tableSwitches_keeps {x0 : Nat} {x1 : Nat} {x2 : State} {z : State} (hz : Keeps z x2) : Keeps z (tableSwitches x0 x1 x2) := by
  unfold tableSwitches; try dsimp only
  all_goals repeat'
    first
    | (with_reducible exact hz)
    | (with_reducible assumption)
    | (with_reducible apply State.spanEnds_keeps)
    | (with_reducible apply State.modCtx_keeps)
    | split
    | (intro _)
    | (dsimp only)

theorem execTableSwitch_keeps {x0 : Nat} {x1 : Nat} {x2 : State} {z : State} (hz : Keeps z x2) : KeepsOut z (execTableSwitch x0 x1 x2) := by
  unfold execTableSwitch; try dsimp only
  all_goals repeat'
    first
    | (with_reducible exact hz)
    | (with_reducible assumption)
    | (with_reducible apply KeepsOut.next)
    | (with_reducible apply KeepsOut.fault)
    | (with_reducible apply onUnit_keeps)
    | (with_reducible apply tableSwitches_keeps)
    | split
    | (intro _)
    | (dsimp only)

end Sys2Proof.Machine
end

