-- ==== Sys2Proof/Laws/KeepLettersDev.lean ====
section
/-! SUPPORT. What the operations of Machine/LettersDev.lean keep (Laws/Keeps.lean): one lemma for each. -/

set_option Elab.async false

namespace Sys2Proof.Machine

theorem padLetter_keeps {x0 : Nat} {x1 : LetterHead} {x2 : State} {z : State} (hz : Keeps z x2) : Keeps z (padLetter x0 x1 x2) := by
  unfold padLetter; try dsimp only
  all_goals repeat'
    first
    | (with_reducible exact hz)
    | (with_reducible assumption)
    | (with_reducible apply State.consume_keeps)
    | split
    | (intro _)
    | (dsimp only)

theorem execPad_keeps {x0 : Nat} {x1 : LetterHead} {x2 : State} {z : State} (hz : Keeps z x2) : KeepsOut z (execPad x0 x1 x2) := by
  unfold execPad; try dsimp only
  all_goals repeat'
    first
    | (with_reducible exact hz)
    | (with_reducible assumption)
    | (with_reducible apply KeepsOut.next)
    | (with_reducible apply KeepsOut.fault)
    | (with_reducible apply onUnit_keeps)
    | (with_reducible apply padLetter_keeps)
    | split
    | (intro _)
    | (dsimp only)

theorem actHello_keeps {x0 : State} {z : State} (hz : Keeps z x0) : Keeps z (actHello x0).s := by
  unfold actHello; try dsimp only
  all_goals repeat'
    first
    | (with_reducible exact hz)
    | (with_reducible assumption)
    | (with_reducible apply Taken.ok_keeps)
    | split
    | (with_reducible apply keeps_rec)
    | (with_reducible exact Nat.le_refl _)
    | (with_reducible exact List.suffix_refl _)
    | (with_reducible exact id)
    | (with_reducible exact rfl)
    | (intro _)
    | (dsimp only)

theorem execHello_keeps {x0 : Nat} {x1 : LetterHead} {x2 : Nat} {x3 : Nat} {x4 : State} {z : State} (hz : Keeps z x4) : KeepsOut z (execHello x0 x1 x2 x3 x4) := by
  unfold execHello; try dsimp only
  all_goals repeat'
    first
    | (with_reducible exact hz)
    | (with_reducible assumption)
    | (with_reducible apply KeepsOut.next)
    | (with_reducible apply KeepsOut.fault)
    | (with_reducible apply onUnit_keeps)
    | (with_reducible apply State.takeLetter_keeps)
    | (with_reducible apply actHello_keeps)
    | split
    | (intro _)
    | (dsimp only)

theorem grant_within (a f e : Nat) : ((a &&& f) &&& e) &&& f = (a &&& f) &&& e := by
  refine Nat.eq_of_testBit_eq fun i => ?_
  simp only [Nat.testBit_and]
  cases a.testBit i <;> cases f.testBit i <;> cases e.testBit i <;> rfl

theorem actFeatures_keeps {r : List Nat} {s z : State} (hz : Keeps z s) : Keeps z (actFeatures r s).s := by
  unfold actFeatures
  split
  · exact hz
  · exact keeps_rec hz (Nat.le_refl _) (List.suffix_refl _) id id id id id id id id rfl rfl id id (fun _ => grant_within _ _ _)

theorem execFeatures_keeps {x0 : Nat} {x1 : LetterHead} {x2 : List Nat} {x3 : State} {z : State} (hz : Keeps z x3) : KeepsOut z (execFeatures x0 x1 x2 x3) := by
  unfold execFeatures; try dsimp only
  all_goals repeat'
    first
    | (with_reducible exact hz)
    | (with_reducible assumption)
    | (with_reducible apply KeepsOut.next)
    | (with_reducible apply KeepsOut.fault)
    | (with_reducible apply onUnit_keeps)
    | (with_reducible apply State.takeLetter_keeps)
    | (with_reducible apply actFeatures_keeps)
    | split
    | (intro _)
    | (dsimp only)

theorem actPowerCap_keeps {w : Nat} {s z : State} (hz : Keeps z s) : Keeps z (actPowerCap w s).s := by
  unfold actPowerCap
  split
  · exact hz
  · next h => exact keeps_rec hz (Nat.le_refl _) (List.suffix_refl _) id id id id id id id id rfl rfl (fun _ => by dsimp only; omega) id id

theorem execPowerCap_keeps {x0 : Nat} {x1 : LetterHead} {x2 : Nat} {x3 : State} {z : State} (hz : Keeps z x3) : KeepsOut z (execPowerCap x0 x1 x2 x3) := by
  unfold execPowerCap; try dsimp only
  all_goals repeat'
    first
    | (with_reducible exact hz)
    | (with_reducible assumption)
    | (with_reducible apply KeepsOut.next)
    | (with_reducible apply KeepsOut.fault)
    | (with_reducible apply onUnit_keeps)
    | (with_reducible apply State.takeLetter_keeps)
    | (with_reducible apply actPowerCap_keeps)
    | split
    | (intro _)
    | (dsimp only)

theorem actScrubSet_keeps {n : Nat} {s z : State} (hz : Keeps z s) : Keeps z (actScrubSet n s).s := by
  unfold actScrubSet
  split
  · exact hz
  · next h => exact keeps_rec hz (Nat.le_refl _) (List.suffix_refl _) id id id id id id id id rfl rfl id (fun _ => by omega) id

theorem execScrubSet_keeps {x0 : Nat} {x1 : LetterHead} {x2 : Nat} {x3 : State} {z : State} (hz : Keeps z x3) : KeepsOut z (execScrubSet x0 x1 x2 x3) := by
  unfold execScrubSet; try dsimp only
  all_goals repeat'
    first
    | (with_reducible exact hz)
    | (with_reducible assumption)
    | (with_reducible apply KeepsOut.next)
    | (with_reducible apply KeepsOut.fault)
    | (with_reducible apply onUnit_keeps)
    | (with_reducible apply State.takeLetter_keeps)
    | (with_reducible apply actScrubSet_keeps)
    | split
    | (intro _)
    | (dsimp only)

theorem actRemountMap_keeps {x0 : Bulk} {x1 : State} {z : State} (hz : Keeps z x1) : Keeps z (actRemountMap x0 x1).s := by
  unfold actRemountMap; try dsimp only
  all_goals repeat'
    first
    | (with_reducible exact hz)
    | (with_reducible assumption)
    | (with_reducible apply State.bulk_keeps)
    | split
    | (intro _)
    | (dsimp only)

theorem execRemountMap_keeps {x0 : Nat} {x1 : LetterHead} {x2 : Bulk} {x3 : State} {z : State} (hz : Keeps z x3) : KeepsOut z (execRemountMap x0 x1 x2 x3) := by
  unfold execRemountMap; try dsimp only
  all_goals repeat'
    first
    | (with_reducible exact hz)
    | (with_reducible assumption)
    | (with_reducible apply KeepsOut.next)
    | (with_reducible apply KeepsOut.fault)
    | (with_reducible apply onUnit_keeps)
    | (with_reducible apply State.takeLetter_keeps)
    | (with_reducible apply actRemountMap_keeps)
    | split
    | (intro _)
    | (dsimp only)

theorem prepareWarm_keeps {x0 : Nat} {x1 : State} {z : State} (hz : Keeps z x1) : Keeps z (prepareWarm x0 x1) := by
  unfold prepareWarm; try dsimp only
  all_goals repeat'
    first
    | (with_reducible exact hz)
    | (with_reducible assumption)
    | (with_reducible apply State.wr_keeps)
    | (with_reducible apply foldl_keeps)
    | split
    | (with_reducible apply keeps_rec)
    | (with_reducible exact Nat.le_refl _)
    | (with_reducible exact List.suffix_refl _)
    | (with_reducible exact id)
    | (with_reducible exact rfl)
    | (intro h; rw [List.length_map]; with_reducible exact h)
    | (intro _)
    | (dsimp only)

theorem actWarmPrepare_keeps {x0 : Nat} {x1 : State} {z : State} (hz : Keeps z x1) : Keeps z (actWarmPrepare x0 x1).s := by
  unfold actWarmPrepare; try dsimp only
  all_goals repeat'
    first
    | (with_reducible exact hz)
    | (with_reducible assumption)
    | (with_reducible apply Taken.refuse_keeps)
    | (with_reducible apply Taken.ok_keeps)
    | (with_reducible apply prepareWarm_keeps)
    | split
    | (intro _)
    | (dsimp only)

theorem execWarmPrepare_keeps {x0 : Nat} {x1 : LetterHead} {x2 : Nat} {x3 : State} {z : State} (hz : Keeps z x3) : KeepsOut z (execWarmPrepare x0 x1 x2 x3) := by
  unfold execWarmPrepare; try dsimp only
  all_goals repeat'
    first
    | (with_reducible exact hz)
    | (with_reducible assumption)
    | (with_reducible apply KeepsOut.next)
    | (with_reducible apply KeepsOut.fault)
    | (with_reducible apply onUnit_keeps)
    | (with_reducible apply State.takeLetter_keeps)
    | (with_reducible apply actWarmPrepare_keeps)
    | split
    | (intro _)
    | (dsimp only)

theorem State.warmFallback_keeps {x0 : State} {x1 : Nat} {z : State} (hz : Keeps z x0) : Keeps z (State.warmFallback x0 x1) := by
  unfold State.warmFallback; try dsimp only
  all_goals repeat'
    first
    | (with_reducible exact hz)
    | (with_reducible assumption)
    | (with_reducible apply State.postShared_keeps)
    | split
    | (with_reducible apply keeps_rec)
    | (with_reducible exact Nat.le_refl _)
    | (with_reducible exact List.suffix_refl _)
    | (with_reducible exact id)
    | (with_reducible exact rfl)
    | (intro _)
    | (dsimp only)

theorem State.applyMap_keeps {x0 : State} {x1 : List MapEntry} {z : State} (hz : Keeps z x0) : Keeps z (State.applyMap x0 x1) := by
  unfold State.applyMap; try dsimp only
  all_goals repeat'
    first
    | (with_reducible exact hz)
    | (with_reducible assumption)
    | split
    | (with_reducible apply keeps_rec)
    | (with_reducible exact Nat.le_refl _)
    | (with_reducible exact List.suffix_refl _)
    | (with_reducible exact id)
    | (with_reducible exact rfl)
    | (intro h; rw [List.length_map]; with_reducible exact h)
    | (intro h; simp [h]; done)
    | (intro _)
    | (dsimp only)

theorem actWarmHandback_keeps {x0 : Nat} {x1 : LetterHead} {x2 : Nat} {x3 : Nat} {x4 : Nat} {x5 : Nat} {x6 : State} {z : State} (hz : Keeps z x6) : Keeps z (actWarmHandback x0 x1 x2 x3 x4 x5 x6).s := by
  unfold actWarmHandback; try dsimp only
  all_goals repeat'
    first
    | (with_reducible exact hz)
    | (with_reducible assumption)
    | (with_reducible apply Taken.refuse_keeps)
    | (with_reducible apply State.warmFallback_keeps)
    | (with_reducible apply State.applyMap_keeps)
    | (with_reducible apply Taken.later_keeps)
    | split
    | (with_reducible apply keeps_rec)
    | (with_reducible exact Nat.le_refl _)
    | (with_reducible exact List.suffix_refl _)
    | (with_reducible exact id)
    | (with_reducible exact rfl)
    | (intro _)
    | (dsimp only)

theorem execWarmHandback_keeps {x0 : Nat} {x1 : LetterHead} {x2 : Nat} {x3 : Nat} {x4 : Nat} {x5 : Nat} {x6 : State} {z : State} (hz : Keeps z x6) : KeepsOut z (execWarmHandback x0 x1 x2 x3 x4 x5 x6) := by
  unfold execWarmHandback; try dsimp only
  all_goals repeat'
    first
    | (with_reducible exact hz)
    | (with_reducible assumption)
    | (with_reducible apply KeepsOut.next)
    | (with_reducible apply KeepsOut.fault)
    | (with_reducible apply onUnit_keeps)
    | (with_reducible apply State.takeLetter_keeps)
    | (with_reducible apply actWarmHandback_keeps)
    | split
    | (intro _)
    | (dsimp only)

theorem actTrainingRead_keeps {x0 : Bulk} {x1 : State} {z : State} (hz : Keeps z x1) : Keeps z (actTrainingRead x0 x1).s := by
  unfold actTrainingRead; try dsimp only
  all_goals repeat'
    first
    | (with_reducible exact hz)
    | (with_reducible assumption)
    | (with_reducible apply State.bulk_keeps)
    | split
    | (intro _)
    | (dsimp only)

theorem execTrainingRead_keeps {x0 : Nat} {x1 : LetterHead} {x2 : Bulk} {x3 : State} {z : State} (hz : Keeps z x3) : KeepsOut z (execTrainingRead x0 x1 x2 x3) := by
  unfold execTrainingRead; try dsimp only
  all_goals repeat'
    first
    | (with_reducible exact hz)
    | (with_reducible assumption)
    | (with_reducible apply KeepsOut.next)
    | (with_reducible apply KeepsOut.fault)
    | (with_reducible apply onUnit_keeps)
    | (with_reducible apply State.takeLetter_keeps)
    | (with_reducible apply actTrainingRead_keeps)
    | split
    | (intro _)
    | (dsimp only)

theorem actConfigRead_keeps {x0 : Bulk} {x1 : State} {z : State} (hz : Keeps z x1) : Keeps z (actConfigRead x0 x1).s := by
  unfold actConfigRead; try dsimp only
  all_goals repeat'
    first
    | (with_reducible exact hz)
    | (with_reducible assumption)
    | (with_reducible apply State.bulk_keeps)
    | split
    | (intro _)
    | (dsimp only)

theorem execConfigRead_keeps {x0 : Nat} {x1 : LetterHead} {x2 : Bulk} {x3 : State} {z : State} (hz : Keeps z x3) : KeepsOut z (execConfigRead x0 x1 x2 x3) := by
  unfold execConfigRead; try dsimp only
  all_goals repeat'
    first
    | (with_reducible exact hz)
    | (with_reducible assumption)
    | (with_reducible apply KeepsOut.next)
    | (with_reducible apply KeepsOut.fault)
    | (with_reducible apply onUnit_keeps)
    | (with_reducible apply State.takeLetter_keeps)
    | (with_reducible apply actConfigRead_keeps)
    | split
    | (intro _)
    | (dsimp only)

theorem actConfigWrite_keeps {x0 : Nat} {x1 : State} {z : State} (hz : Keeps z x1) : Keeps z (actConfigWrite x0 x1).s := by
  unfold actConfigWrite; try dsimp only
  all_goals repeat'
    first
    | (with_reducible exact hz)
    | (with_reducible assumption)
    | (with_reducible apply Taken.refuse_keeps)
    | (with_reducible apply Taken.ok_keeps)
    | split
    | (with_reducible apply keeps_rec)
    | (with_reducible exact Nat.le_refl _)
    | (with_reducible exact List.suffix_refl _)
    | (with_reducible exact id)
    | (with_reducible exact rfl)
    | (intro _)
    | (dsimp only)

theorem execConfigWrite_keeps {x0 : Nat} {x1 : LetterHead} {x2 : Nat} {x3 : State} {z : State} (hz : Keeps z x3) : KeepsOut z (execConfigWrite x0 x1 x2 x3) := by
  unfold execConfigWrite; try dsimp only
  all_goals repeat'
    first
    | (with_reducible exact hz)
    | (with_reducible assumption)
    | (with_reducible apply KeepsOut.next)
    | (with_reducible apply KeepsOut.fault)
    | (with_reducible apply onUnit_keeps)
    | (with_reducible apply State.takeLetter_keeps)
    | (with_reducible apply actConfigWrite_keeps)
    | split
    | (intro _)
    | (dsimp only)

theorem State.checkCert_keeps_at {x0 : State} {z : State} (hz : Keeps z x0) : Keeps z (State.checkCert x0).2 := by
  unfold State.checkCert; try dsimp only
  all_goals repeat'
    first
    | (with_reducible exact hz)
    | (with_reducible assumption)
    | split
    | (with_reducible apply keeps_rec)
    | (with_reducible exact Nat.le_refl _)
    | (with_reducible exact List.suffix_refl _)
    | (with_reducible exact id)
    | (with_reducible exact rfl)
    | (intro _)
    | (dsimp only)

theorem State.checkCert_keeps {x0 : State} {z t : State} {a : Bool} (h : State.checkCert x0 = (a, t)) (hz : Keeps z x0) : Keeps z t := by
  have k := State.checkCert_keeps_at (x0 := x0) hz
  rw [h] at k; exact k

theorem State.reserve_keeps {x0 : State} {x1 : Nat} {z : State} (hz : Keeps z x0) : Keeps z (State.reserve x0 x1) := by
  unfold State.reserve; try dsimp only
  all_goals repeat'
    first
    | (with_reducible exact hz)
    | (with_reducible assumption)
    | split
    | (with_reducible apply keeps_rec)
    | (with_reducible exact Nat.le_refl _)
    | (with_reducible exact List.suffix_refl _)
    | (with_reducible exact id)
    | (with_reducible exact rfl)
    | (with_reducible exact List.suffix_cons _ _)
    | (intro _)
    | (dsimp only)

theorem State.signerLow_keeps {x0 : State} {z : State} (hz : Keeps z x0) : Keeps z (State.signerLow x0) := by
  unfold State.signerLow; try dsimp only
  all_goals repeat'
    first
    | (with_reducible exact hz)
    | (with_reducible assumption)
    | (with_reducible apply State.postShared_keeps)
    | split
    | (intro _)
    | (dsimp only)

theorem actAttest_keeps {x0 : Nat} {x1 : List Byte} {x2 : Bulk} {x3 : Nat} {x4 : State} {z : State} (hz : Keeps z x4) : Keeps z (actAttest x0 x1 x2 x3 x4).s := by
  unfold actAttest
  all_goals repeat'
    first
    | (with_reducible exact hz)
    | (with_reducible assumption)
    | (with_reducible apply State.checkCert_keeps_at)
    | (with_reducible apply Taken.refuse_keeps)
    | (with_reducible apply State.reserve_keeps)
    | (with_reducible apply State.bulk_keeps)
    | (with_reducible apply State.signerLow_keeps)
    | (with_reducible apply Taken.s_keeps)
    | split
    | (dsimp only)
    | (refine State.checkCert_keeps (by with_reducible assumption) ?_)
    | (with_reducible apply keeps_rec)
    | (with_reducible exact Nat.le_refl _)
    | (with_reducible exact List.suffix_refl _)
    | (with_reducible exact id)
    | (with_reducible exact rfl)
    | (intro _; with_reducible exact List.length_replicate)
    | (intro _)
    | (dsimp only)

theorem execAttest_keeps {x0 : Nat} {x1 : LetterHead} {x2 : List Byte} {x3 : Bulk} {x4 : Nat} {x5 : State} {z : State} (hz : Keeps z x5) : KeepsOut z (execAttest x0 x1 x2 x3 x4 x5) := by
  unfold execAttest; try dsimp only
  all_goals repeat'
    first
    | (with_reducible exact hz)
    | (with_reducible assumption)
    | (with_reducible apply KeepsOut.next)
    | (with_reducible apply KeepsOut.fault)
    | (with_reducible apply onUnit_keeps)
    | (with_reducible apply State.takeLetter_keeps)
    | (with_reducible apply actAttest_keeps)
    | split
    | (intro _)
    | (dsimp only)

theorem State.putSpare_keeps {x0 : State} {x1 : FwSlot} {z : State} (hz : Keeps z x0) : Keeps z (State.putSpare x0 x1) := by
  unfold State.putSpare; try dsimp only
  all_goals repeat'
    first
    | (with_reducible exact hz)
    | (with_reducible assumption)
    | split
    | (with_reducible apply keeps_rec)
    | (with_reducible exact Nat.le_refl _)
    | (with_reducible exact List.suffix_refl _)
    | (with_reducible exact id)
    | (with_reducible exact rfl)
    | (intro _)
    | (dsimp only)

theorem actFirmwareWrite_keeps {x0 : Nat} {x1 : LetterHead} {x2 : Nat} {x3 : Nat} {x4 : State} {z : State} (hz : Keeps z x4) : Keeps z (actFirmwareWrite x0 x1 x2 x3 x4).s := by
  unfold actFirmwareWrite; try dsimp only
  all_goals repeat'
    first
    | (with_reducible exact hz)
    | (with_reducible assumption)
    | (with_reducible apply Taken.refuse_keeps)
    | (with_reducible apply Taken.later_keeps)
    | (with_reducible apply State.putSpare_keeps)
    | split
    | (with_reducible apply keeps_rec)
    | (with_reducible exact Nat.le_refl _)
    | (with_reducible exact List.suffix_refl _)
    | (with_reducible exact id)
    | (with_reducible exact rfl)
    | (intro _)
    | (dsimp only)

theorem execFirmwareWrite_keeps {x0 : Nat} {x1 : LetterHead} {x2 : Nat} {x3 : Nat} {x4 : State} {z : State} (hz : Keeps z x4) : KeepsOut z (execFirmwareWrite x0 x1 x2 x3 x4) := by
  unfold execFirmwareWrite; try dsimp only
  all_goals repeat'
    first
    | (with_reducible exact hz)
    | (with_reducible assumption)
    | (with_reducible apply KeepsOut.next)
    | (with_reducible apply KeepsOut.fault)
    | (with_reducible apply onUnit_keeps)
    | (with_reducible apply State.takeLetter_keeps)
    | (with_reducible apply actFirmwareWrite_keeps)
    | split
    | (intro _)
    | (dsimp only)

theorem State.firmwareEnds_keeps {x0 : State} {z : State} (hz : Keeps z x0) : Keeps z (State.firmwareEnds x0) := by
  unfold State.firmwareEnds; try dsimp only
  all_goals repeat'
    first
    | (with_reducible exact hz)
    | (with_reducible assumption)
    | (with_reducible apply State.putSpare_keeps)
    | (with_reducible apply State.reply_keeps)
    | (with_reducible apply State.postShared_keeps)
    | split
    | (with_reducible apply keeps_rec)
    | (with_reducible exact Nat.le_refl _)
    | (with_reducible exact List.suffix_refl _)
    | (with_reducible exact id)
    | (with_reducible exact rfl)
    | (intro _)
    | (dsimp only)

theorem actRollbackCommit_keeps {x0 : Nat} {x1 : State} {z : State} (hz : Keeps z x1) : Keeps z (actRollbackCommit x0 x1).s := by
  unfold actRollbackCommit; try dsimp only
  all_goals repeat'
    first
    | (with_reducible exact hz)
    | (with_reducible assumption)
    | (with_reducible apply Taken.refuse_keeps)
    | (with_reducible apply Taken.ok_keeps)
    | (with_reducible apply State.postShared_keeps)
    | split
    | (with_reducible apply keeps_rec)
    | (with_reducible exact Nat.le_refl _)
    | (with_reducible exact List.suffix_refl _)
    | (with_reducible exact id)
    | (with_reducible exact rfl)
    | (dsimp only; omega)
    | (intro _)
    | (dsimp only)

theorem execRollbackCommit_keeps {x0 : Nat} {x1 : LetterHead} {x2 : Nat} {x3 : State} {z : State} (hz : Keeps z x3) : KeepsOut z (execRollbackCommit x0 x1 x2 x3) := by
  unfold execRollbackCommit; try dsimp only
  all_goals repeat'
    first
    | (with_reducible exact hz)
    | (with_reducible assumption)
    | (with_reducible apply KeepsOut.next)
    | (with_reducible apply KeepsOut.fault)
    | (with_reducible apply onUnit_keeps)
    | (with_reducible apply State.takeLetter_keeps)
    | (with_reducible apply actRollbackCommit_keeps)
    | split
    | (intro _)
    | (dsimp only)

theorem actSegmentSet_keeps {x0 : Nat} {x1 : State} {z : State} (hz : Keeps z x1) : Keeps z (actSegmentSet x0 x1).s := by
  unfold actSegmentSet; try dsimp only
  all_goals repeat'
    first
    | (with_reducible exact hz)
    | (with_reducible assumption)
    | (with_reducible apply Taken.refuse_keeps)
    | (with_reducible apply Taken.ok_keeps)
    | (with_reducible apply State.postcodeEvent_keeps)
    | split
    | (with_reducible apply keeps_rec)
    | (with_reducible exact Nat.le_refl _)
    | (with_reducible exact List.suffix_refl _)
    | (with_reducible exact id)
    | (with_reducible exact rfl)
    | (intro _)
    | (dsimp only)

theorem execSegmentSet_keeps {x0 : Nat} {x1 : LetterHead} {x2 : Nat} {x3 : State} {z : State} (hz : Keeps z x3) : KeepsOut z (execSegmentSet x0 x1 x2 x3) := by
  unfold execSegmentSet; try dsimp only
  all_goals repeat'
    first
    | (with_reducible exact hz)
    | (with_reducible assumption)
    | (with_reducible apply KeepsOut.next)
    | (with_reducible apply KeepsOut.fault)
    | (with_reducible apply onUnit_keeps)
    | (with_reducible apply State.takeLetter_keeps)
    | (with_reducible apply actSegmentSet_keeps)
    | split
    | (intro _)
    | (dsimp only)

theorem actIdentityRead_keeps {x0 : Bulk} {x1 : State} {z : State} (hz : Keeps z x1) : Keeps z (actIdentityRead x0 x1).s := by
  unfold actIdentityRead
  all_goals repeat'
    first
    | (with_reducible exact hz)
    | (with_reducible assumption)
    | (with_reducible apply State.checkCert_keeps_at)
    | (with_reducible apply Taken.refuse_keeps)
    | (with_reducible apply State.bulk_keeps)
    | split
    | (dsimp only)
    | (refine State.checkCert_keeps (by with_reducible assumption) ?_)
    | (intro _)
    | (dsimp only)

theorem execIdentityRead_keeps {x0 : Nat} {x1 : LetterHead} {x2 : Bulk} {x3 : State} {z : State} (hz : Keeps z x3) : KeepsOut z (execIdentityRead x0 x1 x2 x3) := by
  unfold execIdentityRead; try dsimp only
  all_goals repeat'
    first
    | (with_reducible exact hz)
    | (with_reducible assumption)
    | (with_reducible apply KeepsOut.next)
    | (with_reducible apply KeepsOut.fault)
    | (with_reducible apply onUnit_keeps)
    | (with_reducible apply State.takeLetter_keeps)
    | (with_reducible apply actIdentityRead_keeps)
    | split
    | (intro _)
    | (dsimp only)

theorem actRefcount_keeps {x0 : Nat} {x1 : State} {z : State} (hz : Keeps z x1) : Keeps z (actRefcount x0 x1).s := by
  unfold actRefcount; try dsimp only
  all_goals repeat'
    first
    | (with_reducible exact hz)
    | (with_reducible assumption)
    | (with_reducible apply Taken.refuse_keeps)
    | (with_reducible apply Taken.ok_keeps)
    | split
    | (intro _)
    | (dsimp only)

theorem execRefcount_keeps {x0 : Nat} {x1 : LetterHead} {x2 : Nat} {x3 : State} {z : State} (hz : Keeps z x3) : KeepsOut z (execRefcount x0 x1 x2 x3) := by
  unfold execRefcount; try dsimp only
  all_goals repeat'
    first
    | (with_reducible exact hz)
    | (with_reducible assumption)
    | (with_reducible apply KeepsOut.next)
    | (with_reducible apply KeepsOut.fault)
    | (with_reducible apply onUnit_keeps)
    | (with_reducible apply State.takeLetter_keeps)
    | (with_reducible apply actRefcount_keeps)
    | split
    | (intro _)
    | (dsimp only)

theorem actFreezeInfo_keeps {x0 : Bulk} {x1 : State} {z : State} (hz : Keeps z x1) : Keeps z (actFreezeInfo x0 x1).s := by
  unfold actFreezeInfo; try dsimp only
  all_goals repeat'
    first
    | (with_reducible exact hz)
    | (with_reducible assumption)
    | (with_reducible apply State.bulk_keeps)
    | split
    | (intro _)
    | (dsimp only)

theorem execFreezeInfo_keeps {x0 : Nat} {x1 : LetterHead} {x2 : Bulk} {x3 : State} {z : State} (hz : Keeps z x3) : KeepsOut z (execFreezeInfo x0 x1 x2 x3) := by
  unfold execFreezeInfo; try dsimp only
  all_goals repeat'
    first
    | (with_reducible exact hz)
    | (with_reducible assumption)
    | (with_reducible apply KeepsOut.next)
    | (with_reducible apply KeepsOut.fault)
    | (with_reducible apply onUnit_keeps)
    | (with_reducible apply State.takeLetter_keeps)
    | (with_reducible apply actFreezeInfo_keeps)
    | split
    | (intro _)
    | (dsimp only)

end Sys2Proof.Machine
end

