-- ==== Sys2Proof/Laws/KeepStart.lean ====
section
/-! SUPPORT. What the operations of Machine/Start.lean keep (Laws/Keeps.lean): one lemma for each. -/

set_option Elab.async false

namespace Sys2Proof.Machine

theorem State.toReset_keeps {x0 : State} {z : State} (hz : Keeps z x0) : Keeps z (State.toReset x0) := by
  unfold State.toReset; try dsimp only
  all_goals repeat'
    first
    | (with_reducible exact hz)
    | (with_reducible assumption)
    | split
    | (with_reducible apply keeps_rec)
    | (with_reducible exact Nat.le_refl _)
    | (with_reducible exact List.suffix_refl _)
    | (with_reducible exact id)
    | (with_reducible exact rfl)
    | (intro _; with_reducible exact List.length_replicate)
    | (intro h; rw [List.length_map]; with_reducible exact h)
    | (intro _; decide)
    | (intro _; dsimp only; decide)
    | (intro _; exact Nat.zero_and _)
    | (intro _)
    | (dsimp only)

theorem State.beginStart_keeps {x0 : State} {z : State} (hz : Keeps z x0) : Keeps z (State.beginStart x0) := by
  unfold State.beginStart; try dsimp only
  all_goals repeat'
    first
    | (with_reducible exact hz)
    | (with_reducible assumption)
    | (with_reducible apply State.toReset_keeps)
    | split
    | (with_reducible apply keeps_rec)
    | (with_reducible exact Nat.le_refl _)
    | (with_reducible exact List.suffix_refl _)
    | (with_reducible exact id)
    | (with_reducible exact rfl)
    | (intro _)
    | (dsimp only)

theorem State.startFails_keeps {x0 : State} {x1 : Nat} {z : State} (hz : Keeps z x0) : Keeps z (State.startFails x0 x1) := by
  unfold State.startFails; try dsimp only
  all_goals repeat'
    first
    | (with_reducible exact hz)
    | (with_reducible assumption)
    | split
    | (with_reducible apply keeps_rec)
    | (with_reducible exact Nat.le_refl _)
    | (with_reducible exact List.suffix_refl _)
    | (with_reducible exact id)
    | (with_reducible exact rfl)
    | (intro _)
    | (dsimp only)

theorem execMresetNFall_keeps {x0 : State} {z : State} (hz : Keeps z x0) : KeepsOut z (execMresetNFall x0) := by
  unfold execMresetNFall; try dsimp only
  all_goals repeat'
    first
    | (with_reducible exact hz)
    | (with_reducible assumption)
    | (with_reducible apply KeepsOut.next)
    | (with_reducible apply KeepsOut.fault)
    | (with_reducible apply State.toReset_keeps)
    | split
    | (with_reducible apply keeps_rec)
    | (with_reducible exact Nat.le_refl _)
    | (with_reducible exact List.suffix_refl _)
    | (with_reducible exact id)
    | (with_reducible exact rfl)
    | (intro _)
    | (dsimp only)

theorem execMresetNRise_keeps {x0 : State} {z : State} (hz : Keeps z x0) : KeepsOut z (execMresetNRise x0) := by
  unfold execMresetNRise; try dsimp only
  all_goals repeat'
    first
    | (with_reducible exact hz)
    | (with_reducible assumption)
    | (with_reducible apply KeepsOut.next)
    | (with_reducible apply KeepsOut.fault)
    | (with_reducible apply State.beginStart_keeps)
    | split
    | (with_reducible apply keeps_rec)
    | (with_reducible exact Nat.le_refl _)
    | (with_reducible exact List.suffix_refl _)
    | (with_reducible exact id)
    | (with_reducible exact rfl)
    | (intro _)
    | (dsimp only)

theorem State.modRail_keeps {x0 : State} {x1 : Nat} {x2 : Rail → Rail} {z : State} (hz : Keeps z x0) : Keeps z (State.modRail x0 x1 x2) := by
  unfold State.modRail; try dsimp only
  all_goals repeat'
    first
    | (with_reducible exact hz)
    | (with_reducible assumption)
    | split
    | (with_reducible apply keeps_rec)
    | (with_reducible exact Nat.le_refl _)
    | (with_reducible exact List.suffix_refl _)
    | (with_reducible exact id)
    | (with_reducible exact rfl)
    | (intro h; simp [h]; done)
    | (intro _)
    | (dsimp only)

theorem State.serdesRetrain_keeps {x0 : State} {z : State} (hz : Keeps z x0) : Keeps z (State.serdesRetrain x0) := by
  unfold State.serdesRetrain; try dsimp only
  all_goals repeat'
    first
    | (with_reducible exact hz)
    | (with_reducible assumption)
    | split
    | (with_reducible apply keeps_rec)
    | (with_reducible exact Nat.le_refl _)
    | (with_reducible exact List.suffix_refl _)
    | (with_reducible exact id)
    | (with_reducible exact rfl)
    | (intro h; rw [List.length_map]; with_reducible exact h)
    | (intro _)
    | (dsimp only)

theorem railDips_keeps {x0 : Nat} {x1 : Nat} {x2 : State} {z : State} (hz : Keeps z x2) : Keeps z (railDips x0 x1 x2) := by
  unfold railDips; try dsimp only
  all_goals repeat'
    first
    | (with_reducible exact hz)
    | (with_reducible assumption)
    | (with_reducible apply State.serdesRetrain_keeps)
    | (with_reducible apply State.modRail_keeps)
    | split
    | (intro _)
    | (dsimp only)

theorem execRailDip_keeps {x0 : Nat} {x1 : Nat} {x2 : State} {z : State} (hz : Keeps z x2) : KeepsOut z (execRailDip x0 x1 x2) := by
  unfold execRailDip; try dsimp only
  all_goals repeat'
    first
    | (with_reducible exact hz)
    | (with_reducible assumption)
    | (with_reducible apply KeepsOut.next)
    | (with_reducible apply KeepsOut.fault)
    | (with_reducible apply onUnit_keeps)
    | (with_reducible apply railDips_keeps)
    | split
    | (intro _)
    | (dsimp only)

theorem railRecovers_keeps {x0 : Nat} {x1 : State} {z : State} (hz : Keeps z x1) : Keeps z (railRecovers x0 x1) := by
  unfold railRecovers; try dsimp only
  all_goals repeat'
    first
    | (with_reducible exact hz)
    | (with_reducible assumption)
    | (with_reducible apply State.modRail_keeps)
    | (with_reducible apply State.serdesRetrain_keeps)
    | (with_reducible apply State.postShared_keeps)
    | split
    | (intro _)
    | (dsimp only)

theorem execRailRecovered_keeps {x0 : Nat} {x1 : State} {z : State} (hz : Keeps z x1) : KeepsOut z (execRailRecovered x0 x1) := by
  unfold execRailRecovered; try dsimp only
  all_goals repeat'
    first
    | (with_reducible exact hz)
    | (with_reducible assumption)
    | (with_reducible apply KeepsOut.next)
    | (with_reducible apply KeepsOut.fault)
    | (with_reducible apply onUnit_keeps)
    | (with_reducible apply railRecovers_keeps)
    | split
    | (intro _)
    | (dsimp only)

theorem railResets_keeps {x0 : Nat} {x1 : State} {z : State} (hz : Keeps z x1) : Keeps z (railResets x0 x1) := by
  unfold railResets; try dsimp only
  all_goals repeat'
    first
    | (with_reducible exact hz)
    | (with_reducible assumption)
    | (with_reducible apply State.beginStart_keeps)
    | (with_reducible apply State.toReset_keeps)
    | split
    | (with_reducible apply keeps_rec)
    | (with_reducible exact Nat.le_refl _)
    | (with_reducible exact List.suffix_refl _)
    | (with_reducible exact id)
    | (with_reducible exact rfl)
    | (intro _; with_reducible exact List.length_replicate)
    | (intro _)
    | (dsimp only)

theorem execRailReset_keeps {x0 : Nat} {x1 : State} {z : State} (hz : Keeps z x1) : KeepsOut z (execRailReset x0 x1) := by
  unfold execRailReset; try dsimp only
  all_goals repeat'
    first
    | (with_reducible exact hz)
    | (with_reducible assumption)
    | (with_reducible apply KeepsOut.next)
    | (with_reducible apply KeepsOut.fault)
    | (with_reducible apply onUnit_keeps)
    | (with_reducible apply railResets_keeps)
    | split
    | (intro _)
    | (dsimp only)

theorem execV12InputGood_keeps {x0 : Bool} {x1 : State} {z : State} (hz : Keeps z x1) : KeepsOut z (execV12InputGood x0 x1) := by
  unfold execV12InputGood; try dsimp only
  all_goals repeat'
    first
    | (with_reducible exact hz)
    | (with_reducible assumption)
    | (with_reducible apply KeepsOut.next)
    | (with_reducible apply KeepsOut.fault)
    | (with_reducible apply State.beginStart_keeps)
    | split
    | (with_reducible apply keeps_rec)
    | (with_reducible exact Nat.le_refl _)
    | (with_reducible exact List.suffix_refl _)
    | (with_reducible exact id)
    | (with_reducible exact rfl)
    | (intro _; with_reducible exact List.length_replicate)
    | (intro _)
    | (dsimp only)

theorem execV12InputLow_keeps {x0 : State} {z : State} (hz : Keeps z x0) : KeepsOut z (execV12InputLow x0) := by
  unfold execV12InputLow; try dsimp only
  all_goals repeat'
    first
    | (with_reducible exact hz)
    | (with_reducible assumption)
    | (with_reducible apply KeepsOut.next)
    | (with_reducible apply KeepsOut.fault)
    | (with_reducible apply State.toReset_keeps)
    | split
    | (with_reducible apply keeps_rec)
    | (with_reducible exact Nat.le_refl _)
    | (with_reducible exact List.suffix_refl _)
    | (with_reducible exact id)
    | (with_reducible exact rfl)
    | (intro _)
    | (dsimp only)

theorem bootsWith_keeps {x0 : Bool} {x1 : State} {z : State} (hz : Keeps z x1) : Keeps z (bootsWith x0 x1) := by
  unfold bootsWith; try dsimp only
  all_goals repeat'
    first
    | (with_reducible exact hz)
    | (with_reducible assumption)
    | split
    | (with_reducible apply keeps_rec)
    | (with_reducible exact Nat.le_refl _)
    | (with_reducible exact List.suffix_refl _)
    | (with_reducible exact id)
    | (with_reducible exact rfl)
    | (intro _)
    | (dsimp only)

theorem boots_keeps {x0 : SlotCheck} {x1 : State} {z : State} (hz : Keeps z x1) : Keeps z (boots x0 x1) := by
  unfold boots; try dsimp only
  all_goals repeat'
    first
    | (with_reducible exact hz)
    | (with_reducible assumption)
    | (with_reducible apply State.startFails_keeps)
    | (with_reducible apply bootsWith_keeps)
    | split
    | (intro _)
    | (dsimp only)

theorem execBoot_keeps {x0 : SlotCheck} {x1 : State} {z : State} (hz : Keeps z x1) : KeepsOut z (execBoot x0 x1) := by
  unfold execBoot; try dsimp only
  all_goals repeat'
    first
    | (with_reducible exact hz)
    | (with_reducible assumption)
    | (with_reducible apply KeepsOut.next)
    | (with_reducible apply KeepsOut.fault)
    | (with_reducible apply boots_keeps)
    | split
    | (intro _)
    | (dsimp only)

theorem repairs_keeps {x0 : List Nat} {x1 : List Nat} {x2 : State} {z : State} (hz : Keeps z x2) : Keeps z (repairs x0 x1 x2) := by
  unfold repairs; try dsimp only
  all_goals repeat'
    first
    | (with_reducible exact hz)
    | (with_reducible assumption)
    | (with_reducible apply State.startFails_keeps)
    | split
    | (with_reducible apply keeps_rec)
    | (with_reducible exact Nat.le_refl _)
    | (with_reducible exact List.suffix_refl _)
    | (with_reducible exact id)
    | (with_reducible exact rfl)
    | (intro _; with_reducible exact List.length_replicate)
    | (intro h; rw [List.length_map]; with_reducible exact h)
    | (intro _)
    | (dsimp only)

theorem execRepair_keeps {x0 : List Nat} {x1 : List Nat} {x2 : State} {z : State} (hz : Keeps z x2) : KeepsOut z (execRepair x0 x1 x2) := by
  unfold execRepair; try dsimp only
  all_goals repeat'
    first
    | (with_reducible exact hz)
    | (with_reducible assumption)
    | (with_reducible apply KeepsOut.next)
    | (with_reducible apply KeepsOut.fault)
    | (with_reducible apply repairs_keeps)
    | split
    | (intro _)
    | (dsimp only)

theorem mclPhase_keeps {x0 : Nat} {x1 : State} {z : State} (hz : Keeps z x1) : Keeps z (mclPhase x0 x1) := by
  unfold mclPhase; try dsimp only
  all_goals repeat'
    first
    | (with_reducible exact hz)
    | (with_reducible assumption)
    | (with_reducible apply State.startFails_keeps)
    | split
    | (with_reducible apply keeps_rec)
    | (with_reducible exact Nat.le_refl _)
    | (with_reducible exact List.suffix_refl _)
    | (with_reducible exact id)
    | (with_reducible exact rfl)
    | (intro _)
    | (dsimp only)

theorem execMclPhase_keeps {x0 : Nat} {x1 : State} {z : State} (hz : Keeps z x1) : KeepsOut z (execMclPhase x0 x1) := by
  unfold execMclPhase; try dsimp only
  all_goals repeat'
    first
    | (with_reducible exact hz)
    | (with_reducible assumption)
    | (with_reducible apply KeepsOut.next)
    | (with_reducible apply KeepsOut.fault)
    | (with_reducible apply mclPhase_keeps)
    | split
    | (intro _)
    | (dsimp only)

theorem handbackExpires_keeps {x0 : State} {z : State} (hz : Keeps z x0) : Keeps z (handbackExpires x0) := by
  unfold handbackExpires; try dsimp only
  all_goals repeat'
    first
    | (with_reducible exact hz)
    | (with_reducible assumption)
    | (with_reducible apply State.warmFallback_keeps)
    | split
    | (intro _)
    | (dsimp only)

theorem execHandbackTimeout_keeps {x0 : State} {z : State} (hz : Keeps z x0) : KeepsOut z (execHandbackTimeout x0) := by
  unfold execHandbackTimeout; try dsimp only
  all_goals repeat'
    first
    | (with_reducible exact hz)
    | (with_reducible assumption)
    | (with_reducible apply KeepsOut.next)
    | (with_reducible apply KeepsOut.fault)
    | (with_reducible apply handbackExpires_keeps)
    | split
    | (intro _)
    | (dsimp only)

theorem State.trainChannels_keeps {x0 : State} {x1 : List Nat} {x2 : List Nat} {x3 : List Int} {z : State} (hz : Keeps z x0) : Keeps z (State.trainChannels x0 x1 x2 x3) := by
  unfold State.trainChannels; try dsimp only
  all_goals repeat'
    first
    | (with_reducible exact hz)
    | (with_reducible assumption)
    | (with_reducible apply State.retireChannel_keeps)
    | (with_reducible apply foldl_keeps)
    | split
    | (with_reducible apply keeps_rec)
    | (with_reducible exact Nat.le_refl _)
    | (with_reducible exact List.suffix_refl _)
    | (with_reducible exact id)
    | (with_reducible exact rfl)
    | (intro h; rw [List.length_map]; with_reducible exact h)
    | (intro h; simp [h]; done)
    | (intro _)
    | (dsimp only)

theorem State.takeRecords_keeps {x0 : State} {x1 : List Nat} {z : State} (hz : Keeps z x0) : Keeps z (State.takeRecords x0 x1) := by
  unfold State.takeRecords; try dsimp only
  all_goals repeat'
    first
    | (with_reducible exact hz)
    | (with_reducible assumption)
    | split
    | (with_reducible apply keeps_rec)
    | (with_reducible exact Nat.le_refl _)
    | (with_reducible exact List.suffix_refl _)
    | (with_reducible exact id)
    | (with_reducible exact rfl)
    | (intro h; rw [List.length_map]; with_reducible exact h)
    | (intro h; simp [h]; done)
    | (intro _)
    | (dsimp only)

theorem State.answerHandback_keeps {x0 : State} {x1 : Nat} {x2 : List Byte} {z : State} (hz : Keeps z x0) : Keeps z (State.answerHandback x0 x1 x2) := by
  unfold State.answerHandback; try dsimp only
  all_goals repeat'
    first
    | (with_reducible exact hz)
    | (with_reducible assumption)
    | (with_reducible apply State.reply_keeps)
    | split
    | (with_reducible apply keeps_rec)
    | (with_reducible exact Nat.le_refl _)
    | (with_reducible exact List.suffix_refl _)
    | (with_reducible exact id)
    | (with_reducible exact rfl)
    | (intro _)
    | (dsimp only)

theorem State.restoreCanaries_keeps {x0 : State} {z : State} (hz : Keeps z x0) : Keeps z (State.restoreCanaries x0) := by
  unfold State.restoreCanaries; try dsimp only
  all_goals repeat'
    first
    | (with_reducible exact hz)
    | (with_reducible assumption)
    | (with_reducible apply State.wr_keeps)
    | (with_reducible apply foldl_keeps)
    | split
    | (intro _)
    | (dsimp only)

theorem memoryPhase_keeps {x0 : List Nat} {x1 : List Nat} {x2 : List Int} {x3 : Nat} {x4 : State} {z : State} (hz : Keeps z x4) : Keeps z (memoryPhase x0 x1 x2 x3 x4) := by
  unfold memoryPhase; try dsimp only
  all_goals repeat'
    first
    | (with_reducible exact hz)
    | (with_reducible assumption)
    | (with_reducible apply State.trainChannels_keeps)
    | (with_reducible apply State.takeRecords_keeps)
    | (with_reducible apply State.warmFallback_keeps)
    | (with_reducible apply State.answerHandback_keeps)
    | (with_reducible apply State.restoreCanaries_keeps)
    | split
    | (with_reducible apply keeps_rec)
    | (with_reducible exact Nat.le_refl _)
    | (with_reducible exact List.suffix_refl _)
    | (with_reducible exact id)
    | (with_reducible exact rfl)
    | (intro h; rw [List.length_map]; with_reducible exact h)
    | (intro _)
    | (dsimp only)

theorem execMemory_keeps {x0 : List Nat} {x1 : List Nat} {x2 : List Int} {x3 : Nat} {x4 : State} {z : State} (hz : Keeps z x4) : KeepsOut z (execMemory x0 x1 x2 x3 x4) := by
  unfold execMemory; try dsimp only
  all_goals repeat'
    first
    | (with_reducible exact hz)
    | (with_reducible assumption)
    | (with_reducible apply KeepsOut.next)
    | (with_reducible apply KeepsOut.fault)
    | (with_reducible apply memoryPhase_keeps)
    | split
    | (intro _)
    | (dsimp only)

theorem State.rawFill_keeps {x0 : State} {x1 : Nat} {z : State} (hz : Keeps z x0) : Keeps z (State.rawFill x0 x1) :=
  keeps_rec (State.zero_keeps hz) (Nat.le_refl _) (List.suffix_refl _) id id id id id id id id rfl rfl id id id

theorem State.zeroOnDie_keeps {x0 : State} {z : State} (hz : Keeps z x0) : Keeps z (State.zeroOnDie x0) := by
  unfold State.zeroOnDie; try dsimp only
  all_goals repeat'
    first
    | (with_reducible exact hz)
    | (with_reducible assumption)
    | (with_reducible apply State.zero_keeps)
    | split
    | (intro _)
    | (dsimp only)

theorem State.startPorts_keeps {x0 : State} {x1 : Nat} {x2 : List (Nat × Nat)} {z : State} (hz : Keeps z x0) : Keeps z (State.startPorts x0 x1 x2) := by
  unfold State.startPorts; try dsimp only
  all_goals repeat'
    first
    | (with_reducible exact hz)
    | (with_reducible assumption)
    | split
    | (with_reducible apply keeps_rec)
    | (with_reducible exact Nat.le_refl _)
    | (with_reducible exact List.suffix_refl _)
    | (with_reducible exact id)
    | (with_reducible exact rfl)
    | (intro h; rw [List.length_map]; with_reducible exact h)
    | (intro h; simp [h]; done)
    | (intro _)
    | (dsimp only)

end Sys2Proof.Machine
end

