-- ==== Sys2Proof/Laws/KeepPaddocks.lean ====
section
/-! SUPPORT. What the operations of Machine/Paddocks.lean keep (Laws/Keeps.lean): one lemma for each. -/

set_option Elab.async false

namespace Sys2Proof.Machine

theorem State.shedFills_keeps {x0 : State} {x1 : Nat} {z : State} (hz : Keeps z x0) : Keeps z (State.shedFills x0 x1) := by
  unfold State.shedFills; try dsimp only
  all_goals repeat'
    first
    | (with_reducible exact hz)
    | (with_reducible assumption)
    | (with_reducible apply State.rawFill_keeps)
    | (with_reducible apply State.shedBoundary_keeps)
    | (with_reducible apply foldl_keeps)
    | split
    | (intro _)
    | (dsimp only)

theorem State.dropCopy_keeps {x0 : State} {x1 : Nat} {x2 : Bool} {z : State} (hz : Keeps z x0) : Keeps z (State.dropCopy x0 x1 x2) := by
  unfold State.dropCopy; try dsimp only
  all_goals repeat'
    first
    | (with_reducible exact hz)
    | (with_reducible assumption)
    | (with_reducible apply State.shedFills_keeps)
    | (with_reducible apply foldl_keeps)
    | split
    | (with_reducible apply keeps_rec)
    | (with_reducible exact Nat.le_refl _)
    | (with_reducible exact List.suffix_refl _)
    | (with_reducible exact id)
    | (with_reducible exact rfl)
    | (intro _)
    | (dsimp only)

theorem State.opening_keeps {x0 : State} {x1 : State} {x2 : Nat} {x3 : Owed} {x4 : Units} {x5 : Nat} {x6 : List Byte} {x7 : Bool} {z : State} (hz : Keeps z x0) : Keeps z (State.opening x0 x1 x2 x3 x4 x5 x6 x7) := by
  unfold State.opening; try dsimp only
  all_goals repeat'
    first
    | (with_reducible exact hz)
    | (with_reducible assumption)
    | (with_reducible apply State.rekey_keeps)
    | (with_reducible apply State.modPd_keeps)
    | split
    | (intro _)
    | (dsimp only)

theorem actPaddockOpen_keeps {x0 : Nat} {x1 : LetterHead} {x2 : Units} {x3 : Nat} {x4 : Nat} {x5 : Bool} {x6 : State} {z : State} (hz : Keeps z x6) : Keeps z (actPaddockOpen x0 x1 x2 x3 x4 x5 x6).s := by
  unfold actPaddockOpen; try dsimp only
  all_goals repeat'
    first
    | (with_reducible exact hz)
    | (with_reducible assumption)
    | (with_reducible apply Taken.refuse_keeps)
    | (with_reducible apply State.dropCopy_keeps)
    | (with_reducible apply Taken.later_keeps)
    | (with_reducible apply State.opening_keeps)
    | split
    | (with_reducible apply keeps_rec)
    | (with_reducible exact Nat.le_refl _)
    | (with_reducible exact List.suffix_refl _)
    | (with_reducible exact id)
    | (with_reducible exact rfl)
    | (intro _; with_reducible exact List.length_replicate)
    | (intro _)
    | (dsimp only)

theorem execPaddockOpen_keeps {x0 : Nat} {x1 : LetterHead} {x2 : Units} {x3 : Nat} {x4 : Nat} {x5 : Bool} {x6 : State} {z : State} (hz : Keeps z x6) : KeepsOut z (execPaddockOpen x0 x1 x2 x3 x4 x5 x6) := by
  unfold execPaddockOpen; try dsimp only
  all_goals repeat'
    first
    | (with_reducible exact hz)
    | (with_reducible assumption)
    | (with_reducible apply KeepsOut.next)
    | (with_reducible apply KeepsOut.fault)
    | (with_reducible apply onUnit_keeps)
    | (with_reducible apply State.takeLetter_keeps)
    | (with_reducible apply actPaddockOpen_keeps)
    | split
    | (intro _)
    | (dsimp only)

theorem State.keyedFill_keeps {x0 : State} {x1 : Nat} {x2 : Nat} {z : State} (hz : Keeps z x0) : Keeps z (State.keyedFill x0 x1 x2) := by
  unfold State.keyedFill; try dsimp only
  all_goals repeat'
    first
    | (with_reducible exact hz)
    | (with_reducible assumption)
    | (with_reducible apply State.shedFills_keeps)
    | (with_reducible apply foldl_keeps)
    | split
    | (intro _)
    | (dsimp only)

theorem openingCompletes_keeps {x0 : Nat} {x1 : State} {z : State} (hz : Keeps z x1) : Keeps z (openingCompletes x0 x1) := by
  unfold openingCompletes; try dsimp only
  all_goals repeat'
    first
    | (with_reducible exact hz)
    | (with_reducible assumption)
    | (with_reducible apply State.keyedFill_keeps)
    | (with_reducible apply State.modPd_keeps)
    | (with_reducible apply State.reply_keeps)
    | split
    | (intro _)
    | (dsimp only)

theorem execOpeningComplete_keeps {x0 : Nat} {x1 : State} {z : State} (hz : Keeps z x1) : KeepsOut z (execOpeningComplete x0 x1) := by
  unfold execOpeningComplete; try dsimp only
  all_goals repeat'
    first
    | (with_reducible exact hz)
    | (with_reducible assumption)
    | (with_reducible apply KeepsOut.next)
    | (with_reducible apply KeepsOut.fault)
    | (with_reducible apply onUnit_keeps)
    | (with_reducible apply openingCompletes_keeps)
    | split
    | (intro _)
    | (dsimp only)

theorem State.clearUnits_keeps {x0 : State} {x1 : Nat} {x2 : Nat} {x3 : Nat} {z : State} (hz : Keeps z x0) : Keeps z (State.clearUnits x0 x1 x2 x3) := by
  unfold State.clearUnits; try dsimp only
  all_goals repeat'
    first
    | (with_reducible exact hz)
    | (with_reducible assumption)
    | (with_reducible apply State.shedFills_keeps)
    | (with_reducible apply State.modShed_keeps)
    | (with_reducible apply State.zero_keeps)
    | (with_reducible apply foldl_keeps)
    | split
    | (intro _)
    | (dsimp only)

theorem actPaddockClose_keeps {x0 : Nat} {x1 : LetterHead} {x2 : State} {z : State} (hz : Keeps z x2) : Keeps z (actPaddockClose x0 x1 x2).s := by
  unfold actPaddockClose; try dsimp only
  all_goals repeat'
    first
    | (with_reducible exact hz)
    | (with_reducible assumption)
    | (with_reducible apply State.haltAll_keeps)
    | (with_reducible apply Taken.later_keeps)
    | (with_reducible apply State.modPd_keeps)
    | split
    | (intro _)
    | (dsimp only)

theorem execPaddockClose_keeps {x0 : Nat} {x1 : LetterHead} {x2 : State} {z : State} (hz : Keeps z x2) : KeepsOut z (execPaddockClose x0 x1 x2) := by
  unfold execPaddockClose; try dsimp only
  all_goals repeat'
    first
    | (with_reducible exact hz)
    | (with_reducible assumption)
    | (with_reducible apply KeepsOut.next)
    | (with_reducible apply KeepsOut.fault)
    | (with_reducible apply onUnit_keeps)
    | (with_reducible apply State.takeLetter_keeps)
    | (with_reducible apply actPaddockClose_keeps)
    | split
    | (intro _)
    | (dsimp only)

theorem State.resizeEnds_keeps {x0 : State} {x1 : Nat} {x2 : Resizing} {z : State} (hz : Keeps z x0) : Keeps z (State.resizeEnds x0 x1 x2) := by
  unfold State.resizeEnds; try dsimp only
  all_goals repeat'
    first
    | (with_reducible exact hz)
    | (with_reducible assumption)
    | (with_reducible apply State.clearUnits_keeps)
    | (with_reducible apply State.shedFills_keeps)
    | (with_reducible apply State.modPd_keeps)
    | (with_reducible apply State.reply_keeps)
    | (with_reducible apply foldl_keeps)
    | split
    | (intro _)
    | (dsimp only)

theorem closingCompletes_keeps {x0 : Nat} {x1 : State} {z : State} (hz : Keeps z x1) : Keeps z (closingCompletes x0 x1) := by
  unfold closingCompletes; try dsimp only
  all_goals repeat'
    first
    | (with_reducible exact hz)
    | (with_reducible assumption)
    | (with_reducible apply State.resizeEnds_keeps)
    | (with_reducible apply State.refuseEpoch_keeps)
    | (with_reducible apply State.clearUnits_keeps)
    | (with_reducible apply State.dropExpiries_keeps)
    | (with_reducible apply State.modPd_keeps)
    | (with_reducible apply State.reply_keeps)
    | (with_reducible apply foldl_keeps)
    | split
    | (intro _)
    | (dsimp only)

theorem execClosingComplete_keeps {x0 : Nat} {x1 : State} {z : State} (hz : Keeps z x1) : KeepsOut z (execClosingComplete x0 x1) := by
  unfold execClosingComplete; try dsimp only
  all_goals repeat'
    first
    | (with_reducible exact hz)
    | (with_reducible assumption)
    | (with_reducible apply KeepsOut.next)
    | (with_reducible apply KeepsOut.fault)
    | (with_reducible apply onUnit_keeps)
    | (with_reducible apply closingCompletes_keeps)
    | split
    | (intro _)
    | (dsimp only)

theorem actPaddockResize_keeps {x0 : Nat} {x1 : LetterHead} {x2 : Units} {x3 : Units} {x4 : State} {z : State} (hz : Keeps z x4) : Keeps z (actPaddockResize x0 x1 x2 x3 x4).s := by
  unfold actPaddockResize; try dsimp only
  all_goals repeat'
    first
    | (with_reducible exact hz)
    | (with_reducible assumption)
    | (with_reducible apply Taken.hold_keeps)
    | (with_reducible apply Taken.refuse_keeps)
    | (with_reducible apply Taken.later_keeps)
    | (with_reducible apply State.modPd_keeps)
    | split
    | (intro _)
    | (dsimp only)

theorem execPaddockResize_keeps {x0 : Nat} {x1 : LetterHead} {x2 : Units} {x3 : Units} {x4 : State} {z : State} (hz : Keeps z x4) : KeepsOut z (execPaddockResize x0 x1 x2 x3 x4) := by
  unfold execPaddockResize; try dsimp only
  all_goals repeat'
    first
    | (with_reducible exact hz)
    | (with_reducible assumption)
    | (with_reducible apply KeepsOut.next)
    | (with_reducible apply KeepsOut.fault)
    | (with_reducible apply onUnit_keeps)
    | (with_reducible apply State.takeLetter_keeps)
    | (with_reducible apply actPaddockResize_keeps)
    | split
    | (intro _)
    | (dsimp only)

theorem resizeCompletes_keeps {x0 : Nat} {x1 : State} {z : State} (hz : Keeps z x1) : Keeps z (resizeCompletes x0 x1) := by
  unfold resizeCompletes; try dsimp only
  all_goals repeat'
    first
    | (with_reducible exact hz)
    | (with_reducible assumption)
    | (with_reducible apply State.resizeEnds_keeps)
    | split
    | (intro _)
    | (dsimp only)

theorem execResizeComplete_keeps {x0 : Nat} {x1 : State} {z : State} (hz : Keeps z x1) : KeepsOut z (execResizeComplete x0 x1) := by
  unfold execResizeComplete; try dsimp only
  all_goals repeat'
    first
    | (with_reducible exact hz)
    | (with_reducible assumption)
    | (with_reducible apply KeepsOut.next)
    | (with_reducible apply KeepsOut.fault)
    | (with_reducible apply onUnit_keeps)
    | (with_reducible apply resizeCompletes_keeps)
    | split
    | (intro _)
    | (dsimp only)

theorem actPaddockMap_keeps {x0 : Nat} {x1 : Nat} {x2 : Nat} {x3 : Nat} {x4 : Nat} {x5 : State} {z : State} (hz : Keeps z x5) : Keeps z (actPaddockMap x0 x1 x2 x3 x4 x5).s := by
  unfold actPaddockMap; try dsimp only
  all_goals repeat'
    first
    | (with_reducible exact hz)
    | (with_reducible assumption)
    | (with_reducible apply Taken.refuse_keeps)
    | (with_reducible apply State.modCtx_keeps)
    | (with_reducible apply Taken.ok_keeps)
    | split
    | (intro _)
    | (dsimp only)

theorem execPaddockMap_keeps {x0 : Nat} {x1 : LetterHead} {x2 : Nat} {x3 : Nat} {x4 : Nat} {x5 : Nat} {x6 : State} {z : State} (hz : Keeps z x6) : KeepsOut z (execPaddockMap x0 x1 x2 x3 x4 x5 x6) := by
  unfold execPaddockMap; try dsimp only
  all_goals repeat'
    first
    | (with_reducible exact hz)
    | (with_reducible assumption)
    | (with_reducible apply KeepsOut.next)
    | (with_reducible apply KeepsOut.fault)
    | (with_reducible apply onUnit_keeps)
    | (with_reducible apply State.takeLetter_keeps)
    | (with_reducible apply actPaddockMap_keeps)
    | split
    | (intro _)
    | (dsimp only)

theorem actSchedSet_keeps {x0 : Nat} {x1 : Nat} {x2 : Nat} {x3 : State} {z : State} (hz : Keeps z x3) : Keeps z (actSchedSet x0 x1 x2 x3).s := by
  unfold actSchedSet; try dsimp only
  all_goals repeat'
    first
    | (with_reducible exact hz)
    | (with_reducible assumption)
    | (with_reducible apply Taken.refuse_keeps)
    | (with_reducible apply Taken.ok_keeps)
    | (with_reducible apply State.modPd_keeps)
    | split
    | (intro _)
    | (dsimp only)

theorem execSchedSet_keeps {x0 : Nat} {x1 : LetterHead} {x2 : Nat} {x3 : Nat} {x4 : State} {z : State} (hz : Keeps z x4) : KeepsOut z (execSchedSet x0 x1 x2 x3 x4) := by
  unfold execSchedSet; try dsimp only
  all_goals repeat'
    first
    | (with_reducible exact hz)
    | (with_reducible assumption)
    | (with_reducible apply KeepsOut.next)
    | (with_reducible apply KeepsOut.fault)
    | (with_reducible apply onUnit_keeps)
    | (with_reducible apply State.takeLetter_keeps)
    | (with_reducible apply actSchedSet_keeps)
    | split
    | (intro _)
    | (dsimp only)

theorem actPaddockPower_keeps {x0 : Nat} {x1 : Nat} {x2 : State} {z : State} (hz : Keeps z x2) : Keeps z (actPaddockPower x0 x1 x2).s := by
  unfold actPaddockPower; try dsimp only
  all_goals repeat'
    first
    | (with_reducible exact hz)
    | (with_reducible assumption)
    | (with_reducible apply Taken.refuse_keeps)
    | (with_reducible apply Taken.ok_keeps)
    | (with_reducible apply State.modPd_keeps)
    | split
    | (intro _)
    | (dsimp only)

theorem execPaddockPower_keeps {x0 : Nat} {x1 : LetterHead} {x2 : Nat} {x3 : State} {z : State} (hz : Keeps z x3) : KeepsOut z (execPaddockPower x0 x1 x2 x3) := by
  unfold execPaddockPower; try dsimp only
  all_goals repeat'
    first
    | (with_reducible exact hz)
    | (with_reducible assumption)
    | (with_reducible apply KeepsOut.next)
    | (with_reducible apply KeepsOut.fault)
    | (with_reducible apply onUnit_keeps)
    | (with_reducible apply State.takeLetter_keeps)
    | (with_reducible apply actPaddockPower_keeps)
    | split
    | (intro _)
    | (dsimp only)

theorem actHistorySet_keeps {x0 : Nat} {x1 : Nat} {x2 : State} {z : State} (hz : Keeps z x2) : Keeps z (actHistorySet x0 x1 x2).s := by
  unfold actHistorySet; try dsimp only
  all_goals repeat'
    first
    | (with_reducible exact hz)
    | (with_reducible assumption)
    | (with_reducible apply Taken.refuse_keeps)
    | (with_reducible apply Taken.ok_keeps)
    | (with_reducible apply State.modPd_keeps)
    | split
    | (intro _)
    | (dsimp only)

theorem execHistorySet_keeps {x0 : Nat} {x1 : LetterHead} {x2 : Nat} {x3 : State} {z : State} (hz : Keeps z x3) : KeepsOut z (execHistorySet x0 x1 x2 x3) := by
  unfold execHistorySet; try dsimp only
  all_goals repeat'
    first
    | (with_reducible exact hz)
    | (with_reducible assumption)
    | (with_reducible apply KeepsOut.next)
    | (with_reducible apply KeepsOut.fault)
    | (with_reducible apply onUnit_keeps)
    | (with_reducible apply State.takeLetter_keeps)
    | (with_reducible apply actHistorySet_keeps)
    | split
    | (intro _)
    | (dsimp only)

end Sys2Proof.Machine
end

