-- ==== Sys2Proof/Laws/KeepOperands.lean ====
section
/-! SUPPORT. What the operations of Machine/Operands.lean keep (Laws/Keeps.lean): one lemma for each. -/

set_option Elab.async false

namespace Sys2Proof.Machine

theorem State.storeBits_keeps {x0 : State} {x1 : Ctx} {x2 : Nat} {x3 : Desc} {x4 : Nat} {x5 : Nat} {z : State} (hz : Keeps z x0) : KeepsE z (State.storeBits x0 x1 x2 x3 x4 x5) := by
  unfold State.storeBits; try dsimp only
  all_goals repeat'
    first
    | (with_reducible exact hz)
    | (with_reducible assumption)
    | (with_reducible apply KeepsE.ok)
    | (with_reducible apply KeepsE.error)
    | (with_reducible apply KeepsP.ok)
    | (with_reducible apply KeepsP.error)
    | (with_reducible apply State.store_keeps)
    | split
    | (refine (State.store_keeps ?_).of _ (by with_reducible assumption))
    | (intro _)
    | (dsimp only)

end Sys2Proof.Machine
end

