-- ==== Sys2Proof/Laws/KeepPigeon.lean ====
section
/-! SUPPORT. What the operations of Machine/Pigeon.lean keep (Laws/Keeps.lean): one lemma for each. -/

set_option Elab.async false

namespace Sys2Proof.Machine

theorem State.openLetter_keeps {x0 : State} {x1 : Ctx} {x2 : PhRec} {x3 : Nat} {z : State} (hz : Keeps z x0) : KeepsE z (State.openLetter x0 x1 x2 x3) := by
  unfold State.openLetter; try dsimp only
  all_goals repeat'
    first
    | (with_reducible exact hz)
    | (with_reducible assumption)
    | (with_reducible apply KeepsE.ok)
    | (with_reducible apply KeepsE.error)
    | (with_reducible apply KeepsP.ok)
    | (with_reducible apply KeepsP.error)
    | (with_reducible apply State.store_keeps)
    | split
    | (refine (State.store_keeps ?_).of _ (by with_reducible assumption))
    | (intro _)
    | (dsimp only)

theorem State.putPart_keeps {x0 : State} {x1 : Ctx} {x2 : PhRec} {x3 : Nat} {x4 : Nat} {x5 : Nat} {x6 : Nat} {z : State} (hz : Keeps z x0) : KeepsE z (State.putPart x0 x1 x2 x3 x4 x5 x6) := by
  unfold State.putPart; try dsimp only
  all_goals repeat'
    first
    | (with_reducible exact hz)
    | (with_reducible assumption)
    | (with_reducible apply KeepsE.ok)
    | (with_reducible apply KeepsE.error)
    | (with_reducible apply KeepsP.ok)
    | (with_reducible apply KeepsP.error)
    | (with_reducible apply State.store_keeps)
    | split
    | (refine (State.store_keeps ?_).of _ (by with_reducible assumption))
    | (intro _)
    | (dsimp only)

/-- Keeps, for a port access. -/
def KeepsPort (z : State) (o : PortOut State) : Prop := ∀ t, o = .done t → Keeps z t
def KeepsPortR (z : State) (o : PortOut (Nat × State)) : Prop := ∀ b t, o = .done (b, t) → Keeps z t

theorem State.portWrite_keeps {s z : State} {p c : Nat} {rerun : Bool} {at_ : PortAt} {bits : Nat} (hz : Keeps z s) :
    KeepsPort z (s.portWrite p c rerun at_ bits) := by
  have halts : ∀ n, KeepsPort z (.halts n) := fun n t h => by cases h
  have dropped : KeepsPort z .dropped := fun t h => by cases h
  have waits : KeepsPort z .waits := fun t h => by cases h
  have done : ∀ s, Keeps z s → KeepsPort z (.done s) := fun s hs t h => by cases h; exact hs
  unfold State.portWrite
  split
  · exact halts _
  · split
    · dsimp only
      split
      · exact halts _
      · split
        · exact halts _
        · split
          · split
            · exact dropped
            · exact halts _
          · split
            · exact waits
            · split
              · exact halts _
              · next s1 h1 =>
                have hs : Keeps z s1 := by
                  split at h1
                  · exact (State.openLetter_keeps hz).of _ h1
                  · cases h1; exact hz
                split
                · exact halts _
                · next h2 => exact done _ (State.modCtx_keeps ((State.putPart_keeps hs).of _ h2))
    · exact halts _

theorem State.portRead_keeps {s z : State} {p c ordinal : Nat} {at_ : PortAt} (hz : Keeps z s) :
    KeepsPortR z (s.portRead p c ordinal at_) := by
  have halts : ∀ n, KeepsPortR z (.halts n) := fun n b t h => by cases h
  have waits : KeepsPortR z .waits := fun b t h => by cases h
  have done : ∀ b s, Keeps z s → KeepsPortR z (.done (b, s)) := fun b s hs b' t h => by cases h; exact hs
  unfold State.portRead
  repeat' (first | exact halts _ | exact waits | split | dsimp only)
  exact done _ _ (State.modCtx_keeps hz)

end Sys2Proof.Machine
end

