-- ==== Sys2Proof/Laws/KeepRanks.lean ====
section
/-! SUPPORT. What the operations of Machine/Ranks.lean keep (Laws/Keeps.lean): one lemma for each. -/

set_option Elab.async false

namespace Sys2Proof.Machine

theorem State.modRun_keeps {x0 : State} {x1 : Nat} {x2 : Run → Run} {z : State} (hz : Keeps z x0) : Keeps z (State.modRun x0 x1 x2) := by
  unfold State.modRun; try dsimp only
  all_goals repeat'
    first
    | (with_reducible exact hz)
    | (with_reducible assumption)
    | (with_reducible apply State.modStable_keeps)
    | split
    | (intro _)
    | (dsimp only)

theorem State.fillIdle_keeps {x0 : State} {x1 : Kop} {x2 : FeedPos} {z : State} (hz : Keeps z x0) : KeepsE z (State.fillIdle x0 x1 x2) := by
  unfold State.fillIdle; try dsimp only
  all_goals repeat'
    first
    | (with_reducible exact hz)
    | (with_reducible assumption)
    | (with_reducible apply KeepsE.ok)
    | (with_reducible apply KeepsE.pure)
    | (with_reducible apply KeepsE.error)
    | (with_reducible apply KeepsE.bindS)
    | (with_reducible apply KeepsE.bindP)
    | (with_reducible apply KeepsE.bind)
    | (with_reducible apply KeepsP.ok)
    | (with_reducible apply KeepsP.pure)
    | (with_reducible apply KeepsP.error)
    | (with_reducible apply KeepsP.bindS)
    | (with_reducible apply KeepsP.bindP)
    | (with_reducible apply KeepsP.bind)
    | (with_reducible apply State.modStable_keeps)
    | split
    | (intro _)
    | (dsimp only)

theorem State.needRows_keeps {x0 : State} {x1 : Kop} {x2 : FeedPos} {z : State} (hz : Keeps z x0) : KeepsE z (State.needRows x0 x1 x2) := by
  unfold State.needRows; try dsimp only
  all_goals repeat'
    first
    | (with_reducible exact hz)
    | (with_reducible assumption)
    | (with_reducible apply KeepsE.ok)
    | (with_reducible apply KeepsE.error)
    | (with_reducible apply KeepsP.ok)
    | (with_reducible apply KeepsP.error)
    | (with_reducible apply State.modStable_keeps)
    | (with_reducible apply State.fillIdle_keeps)
    | (with_reducible apply KeepsE.map)
    | split
    | (refine (State.fillIdle_keeps ?_).of _ (by with_reducible assumption))
    | (intro _)
    | (dsimp only)

theorem State.loadAhead_keeps {x0 : State} {x1 : Kop} {x2 : FeedPos} {z : State} (hz : Keeps z x0) : KeepsE z (State.loadAhead x0 x1 x2) := by
  unfold State.loadAhead; try dsimp only
  all_goals repeat'
    first
    | (with_reducible exact hz)
    | (with_reducible assumption)
    | (with_reducible apply KeepsE.ok)
    | (with_reducible apply KeepsE.error)
    | (with_reducible apply KeepsP.ok)
    | (with_reducible apply KeepsP.error)
    | (with_reducible apply State.fillIdle_keeps)
    | split
    | (refine (State.fillIdle_keeps ?_).of _ (by with_reducible assumption))
    | (intro _)
    | (dsimp only)

theorem State.update_keeps {x0 : State} {x1 : Kop} {x2 : Stage} {z : State} (hz : Keeps z x0) : KeepsE z (State.update x0 x1 x2) := by
  unfold State.update; try dsimp only
  all_goals repeat'
    first
    | (with_reducible exact hz)
    | (with_reducible assumption)
    | (with_reducible apply KeepsE.ok)
    | (with_reducible apply KeepsE.pure)
    | (with_reducible apply KeepsE.error)
    | (with_reducible apply KeepsE.bindS)
    | (with_reducible apply KeepsE.bindP)
    | (with_reducible apply KeepsE.bind)
    | (with_reducible apply KeepsP.ok)
    | (with_reducible apply KeepsP.pure)
    | (with_reducible apply KeepsP.error)
    | (with_reducible apply KeepsP.bindS)
    | (with_reducible apply KeepsP.bindP)
    | (with_reducible apply KeepsP.bind)
    | (with_reducible apply State.modRun_keeps)
    | (with_reducible apply State.modStable_keeps)
    | split
    | (intro _)
    | (dsimp only)

theorem State.noteAmax_keeps {x0 : State} {x1 : Kop} {x2 : W32} {z : State} (hz : Keeps z x0) : Keeps z (State.noteAmax x0 x1 x2) := by
  unfold State.noteAmax; try dsimp only
  all_goals repeat'
    first
    | (with_reducible exact hz)
    | (with_reducible assumption)
    | (with_reducible apply State.modRun_keeps)
    | (with_reducible apply State.modCtx_keeps)
    | split
    | (intro _)
    | (dsimp only)

theorem State.putC_keeps {x0 : State} {x1 : Kop} {x2 : Nat} {x3 : Desc} {x4 : Nat} {x5 : Nat} {z : State} (hz : Keeps z x0) : KeepsE z (State.putC x0 x1 x2 x3 x4 x5) := by
  unfold State.putC; try dsimp only
  all_goals repeat'
    first
    | (with_reducible exact hz)
    | (with_reducible assumption)
    | (with_reducible apply KeepsE.ok)
    | (with_reducible apply KeepsE.pure)
    | (with_reducible apply KeepsE.error)
    | (with_reducible apply KeepsE.bindS)
    | (with_reducible apply KeepsE.bindP)
    | (with_reducible apply KeepsE.bind)
    | (with_reducible apply KeepsP.ok)
    | (with_reducible apply KeepsP.pure)
    | (with_reducible apply KeepsP.error)
    | (with_reducible apply KeepsP.bindS)
    | (with_reducible apply KeepsP.bindP)
    | (with_reducible apply KeepsP.bind)
    | (with_reducible apply State.storeBits_keeps)
    | (with_reducible apply State.modRun_keeps)
    | split
    | (refine (State.storeBits_keeps ?_).of _ (by with_reducible assumption))
    | (intro _)
    | (dsimp only)

theorem State.drainPlain_keeps {x0 : State} {x1 : Kop} {x2 : Nat} {x3 : List (Nat × Accum)} {z : State} (hz : Keeps z x0) : KeepsE z (State.drainPlain x0 x1 x2 x3) := by
  induction x3 generalizing x0 x1 x2
  · unfold State.drainPlain; try dsimp only
    all_goals repeat'
      first
      | (with_reducible exact hz)
      | (with_reducible assumption)
      | (with_reducible apply KeepsE.ok)
      | (with_reducible apply KeepsE.pure)
      | (with_reducible apply KeepsE.error)
      | (with_reducible apply KeepsE.bindS)
      | (with_reducible apply KeepsE.bindP)
      | (with_reducible apply KeepsE.bind)
      | (with_reducible apply KeepsP.ok)
      | (with_reducible apply KeepsP.pure)
      | (with_reducible apply KeepsP.error)
      | (with_reducible apply KeepsP.bindS)
      | (with_reducible apply KeepsP.bindP)
      | (with_reducible apply KeepsP.bind)
      | (with_reducible apply State.noteAmax_keeps)
      | (with_reducible apply State.modRun_keeps)
      | (with_reducible apply State.putC_keeps)
      | split
      | (refine (State.putC_keeps ?_).of _ (by with_reducible assumption))
      | (intro _)
      | (dsimp only)
  · rename_i ih; unfold State.drainPlain; try dsimp only
    all_goals repeat'
      first
      | (with_reducible exact hz)
      | (with_reducible assumption)
      | (with_reducible apply KeepsE.ok)
      | (with_reducible apply KeepsE.pure)
      | (with_reducible apply KeepsE.error)
      | (with_reducible apply KeepsE.bindS)
      | (with_reducible apply KeepsE.bindP)
      | (with_reducible apply KeepsE.bind)
      | (with_reducible apply KeepsP.ok)
      | (with_reducible apply KeepsP.pure)
      | (with_reducible apply KeepsP.error)
      | (with_reducible apply KeepsP.bindS)
      | (with_reducible apply KeepsP.bindP)
      | (with_reducible apply KeepsP.bind)
      | (with_reducible apply State.noteAmax_keeps)
      | (with_reducible apply State.modRun_keeps)
      | (with_reducible apply State.putC_keeps)
      | (with_reducible apply ih)
      | split
      | (refine (State.putC_keeps ?_).of _ (by with_reducible assumption))
      | (intro _)
      | (dsimp only)

theorem State.putElems_keeps {x0 : State} {x1 : Kop} {x2 : Desc} {x3 : List (Nat × Nat)} {z : State} (hz : Keeps z x0) : KeepsE z (State.putElems x0 x1 x2 x3) := by
  induction x3 generalizing x0 x1 x2
  · unfold State.putElems; try dsimp only
    all_goals repeat'
      first
      | (with_reducible exact hz)
      | (with_reducible assumption)
      | (with_reducible apply KeepsE.ok)
      | (with_reducible apply KeepsE.error)
      | (with_reducible apply KeepsE.bindS)
      | (with_reducible apply KeepsE.bindP)
      | (with_reducible apply KeepsE.bind)
      | (with_reducible apply KeepsP.ok)
      | (with_reducible apply KeepsP.error)
      | (with_reducible apply KeepsP.bindS)
      | (with_reducible apply KeepsP.bindP)
      | (with_reducible apply KeepsP.bind)
      | (with_reducible apply State.putC_keeps)
      | split
      | (refine (State.putC_keeps ?_).of _ (by with_reducible assumption))
      | (intro _)
      | (dsimp only)
  · rename_i ih; unfold State.putElems; try dsimp only
    all_goals repeat'
      first
      | (with_reducible exact hz)
      | (with_reducible assumption)
      | (with_reducible apply KeepsE.ok)
      | (with_reducible apply KeepsE.error)
      | (with_reducible apply KeepsE.bindS)
      | (with_reducible apply KeepsE.bindP)
      | (with_reducible apply KeepsE.bind)
      | (with_reducible apply KeepsP.ok)
      | (with_reducible apply KeepsP.error)
      | (with_reducible apply KeepsP.bindS)
      | (with_reducible apply KeepsP.bindP)
      | (with_reducible apply KeepsP.bind)
      | (with_reducible apply State.putC_keeps)
      | (with_reducible apply ih)
      | split
      | (refine (State.putC_keeps ?_).of _ (by with_reducible assumption))
      | (intro _)
      | (dsimp only)

theorem State.drainMxRun_keeps {x0 : State} {x1 : Kop} {x2 : Nat} {x3 : List (Option Accum)} {z : State} (hz : Keeps z x0) : KeepsE z (State.drainMxRun x0 x1 x2 x3) := by
  unfold State.drainMxRun; try dsimp only
  all_goals repeat'
    first
    | (with_reducible exact hz)
    | (with_reducible assumption)
    | (with_reducible apply KeepsE.ok)
    | (with_reducible apply KeepsE.pure)
    | (with_reducible apply KeepsE.error)
    | (with_reducible apply KeepsE.bindS)
    | (with_reducible apply KeepsE.bindP)
    | (with_reducible apply KeepsE.bind)
    | (with_reducible apply KeepsP.ok)
    | (with_reducible apply KeepsP.pure)
    | (with_reducible apply KeepsP.error)
    | (with_reducible apply KeepsP.bindS)
    | (with_reducible apply KeepsP.bindP)
    | (with_reducible apply KeepsP.bind)
    | (with_reducible apply State.noteAmax_keeps)
    | (with_reducible apply State.modRun_keeps)
    | (with_reducible apply State.putElems_keeps)
    | (with_reducible apply State.store_keeps)
    | (with_reducible apply foldl_keeps)
    | split
    | (refine (State.putElems_keeps ?_).of _ (by with_reducible assumption))
    | (refine (State.store_keeps ?_).of _ (by with_reducible assumption))
    | (intro _)
    | (dsimp only)

theorem State.drainMxBlock_keeps {x0 : State} {x1 : Kop} {x2 : Nat} {x3 : Nat} {x4 : List (Nat × Accum)} {z : State} (hz : Keeps z x0) : KeepsE z (State.drainMxBlock x0 x1 x2 x3 x4) := by
  unfold State.drainMxBlock; try dsimp only
  all_goals repeat'
    first
    | (with_reducible exact hz)
    | (with_reducible assumption)
    | (with_reducible apply KeepsE.ok)
    | (with_reducible apply KeepsE.error)
    | (with_reducible apply KeepsP.ok)
    | (with_reducible apply KeepsP.error)
    | (with_reducible apply State.drainMxRun_keeps)
    | split
    | (refine (State.drainMxRun_keeps ?_).of _ (by with_reducible assumption))
    | (intro _)
    | (dsimp only)

theorem State.drainMxBlocks_keeps {x0 : State} {x1 : Kop} {x2 : Nat} {x3 : List (Nat × Accum)} {x4 : List Nat} {z : State} (hz : Keeps z x0) : KeepsE z (State.drainMxBlocks x0 x1 x2 x3 x4) := by
  induction x4 generalizing x0 x1 x2 x3
  · unfold State.drainMxBlocks; try dsimp only
    all_goals repeat'
      first
      | (with_reducible exact hz)
      | (with_reducible assumption)
      | (with_reducible apply KeepsE.ok)
      | (with_reducible apply KeepsE.error)
      | (with_reducible apply KeepsE.bindS)
      | (with_reducible apply KeepsE.bindP)
      | (with_reducible apply KeepsE.bind)
      | (with_reducible apply KeepsP.ok)
      | (with_reducible apply KeepsP.error)
      | (with_reducible apply KeepsP.bindS)
      | (with_reducible apply KeepsP.bindP)
      | (with_reducible apply KeepsP.bind)
      | (with_reducible apply State.drainMxBlock_keeps)
      | split
      | (refine (State.drainMxBlock_keeps ?_).of _ (by with_reducible assumption))
      | (intro _)
      | (dsimp only)
  · rename_i ih; unfold State.drainMxBlocks; try dsimp only
    all_goals repeat'
      first
      | (with_reducible exact hz)
      | (with_reducible assumption)
      | (with_reducible apply KeepsE.ok)
      | (with_reducible apply KeepsE.error)
      | (with_reducible apply KeepsE.bindS)
      | (with_reducible apply KeepsE.bindP)
      | (with_reducible apply KeepsE.bind)
      | (with_reducible apply KeepsP.ok)
      | (with_reducible apply KeepsP.error)
      | (with_reducible apply KeepsP.bindS)
      | (with_reducible apply KeepsP.bindP)
      | (with_reducible apply KeepsP.bind)
      | (with_reducible apply State.drainMxBlock_keeps)
      | (with_reducible apply ih)
      | split
      | (refine (State.drainMxBlock_keeps ?_).of _ (by with_reducible assumption))
      | (intro _)
      | (dsimp only)

theorem State.flushRows_keeps {x0 : State} {x1 : Kop} {x2 : Nat} {x3 : Nat} {x4 : List Nat} {z : State} (hz : Keeps z x0) : KeepsE z (State.flushRows x0 x1 x2 x3 x4) := by
  induction x4 generalizing x0 x1 x2 x3
  · unfold State.flushRows; try dsimp only
    all_goals repeat'
      first
      | (with_reducible exact hz)
      | (with_reducible assumption)
      | (with_reducible apply KeepsE.ok)
      | (with_reducible apply KeepsE.error)
      | (with_reducible apply KeepsE.bindS)
      | (with_reducible apply KeepsE.bindP)
      | (with_reducible apply KeepsE.bind)
      | (with_reducible apply KeepsP.ok)
      | (with_reducible apply KeepsP.error)
      | (with_reducible apply KeepsP.bindS)
      | (with_reducible apply KeepsP.bindP)
      | (with_reducible apply KeepsP.bind)
      | (with_reducible apply State.drainMxBlocks_keeps)
      | (with_reducible apply State.drainPlain_keeps)
      | split
      | (refine (State.drainMxBlocks_keeps ?_).of _ (by with_reducible assumption))
      | (refine (State.drainPlain_keeps ?_).of _ (by with_reducible assumption))
      | (intro _)
      | (dsimp only)
  · rename_i ih; unfold State.flushRows; try dsimp only
    all_goals repeat'
      first
      | (with_reducible exact hz)
      | (with_reducible assumption)
      | (with_reducible apply KeepsE.ok)
      | (with_reducible apply KeepsE.error)
      | (with_reducible apply KeepsE.bindS)
      | (with_reducible apply KeepsE.bindP)
      | (with_reducible apply KeepsE.bind)
      | (with_reducible apply KeepsP.ok)
      | (with_reducible apply KeepsP.error)
      | (with_reducible apply KeepsP.bindS)
      | (with_reducible apply KeepsP.bindP)
      | (with_reducible apply KeepsP.bind)
      | (with_reducible apply State.drainMxBlocks_keeps)
      | (with_reducible apply State.drainPlain_keeps)
      | (with_reducible apply ih)
      | split
      | (refine (State.drainMxBlocks_keeps ?_).of _ (by with_reducible assumption))
      | (refine (State.drainPlain_keeps ?_).of _ (by with_reducible assumption))
      | (intro _)
      | (dsimp only)

theorem State.flushDrains_keeps {x0 : State} {x1 : Kop} {x2 : Nat} {z : State} (hz : Keeps z x0) : KeepsE z (State.flushDrains x0 x1 x2) := by
  unfold State.flushDrains; try dsimp only
  all_goals repeat'
    first
    | (with_reducible exact hz)
    | (with_reducible assumption)
    | (with_reducible apply KeepsE.ok)
    | (with_reducible apply KeepsE.pure)
    | (with_reducible apply KeepsE.error)
    | (with_reducible apply KeepsE.bindS)
    | (with_reducible apply KeepsE.bindP)
    | (with_reducible apply KeepsE.bind)
    | (with_reducible apply KeepsP.ok)
    | (with_reducible apply KeepsP.pure)
    | (with_reducible apply KeepsP.error)
    | (with_reducible apply KeepsP.bindS)
    | (with_reducible apply KeepsP.bindP)
    | (with_reducible apply KeepsP.bind)
    | (with_reducible apply State.flushRows_keeps)
    | (with_reducible apply State.modStable_keeps)
    | split
    | (refine (State.flushRows_keeps ?_).of _ (by with_reducible assumption))
    | (intro _)
    | (dsimp only)

theorem State.putBest_keeps {x0 : State} {x1 : Kop} {x2 : Nat} {x3 : Accum} {z : State} (hz : Keeps z x0) : KeepsP z (State.putBest x0 x1 x2 x3) := by
  unfold State.putBest; try dsimp only
  all_goals repeat'
    first
    | (with_reducible exact hz)
    | (with_reducible assumption)
    | (with_reducible apply KeepsP.ok)
    | (with_reducible apply KeepsP.pure)
    | (with_reducible apply KeepsP.error)
    | (with_reducible apply KeepsP.bindS)
    | (with_reducible apply KeepsP.bindP)
    | (with_reducible apply KeepsP.bind)
    | (with_reducible apply KeepsE.ok)
    | (with_reducible apply KeepsE.pure)
    | (with_reducible apply KeepsE.error)
    | (with_reducible apply KeepsE.bindS)
    | (with_reducible apply KeepsE.bindP)
    | (with_reducible apply KeepsE.bind)
    | (with_reducible apply State.drainMxRun_keeps)
    | (with_reducible apply State.noteAmax_keeps)
    | (with_reducible apply State.modRun_keeps)
    | (with_reducible apply State.putC_keeps)
    | (with_reducible apply foldlM_keeps)
    | split
    | (refine (State.drainMxRun_keeps ?_).of _ (by with_reducible assumption))
    | (refine (State.putC_keeps ?_).of _ (by with_reducible assumption))
    | (intro _)
    | (dsimp only)

theorem State.writeBest_keeps {x0 : State} {x1 : Kop} {x2 : Nat} {x3 : List (Nat × Nat)} {z : State} (hz : Keeps z x0) : KeepsE z (State.writeBest x0 x1 x2 x3) := by
  induction x3 generalizing x0 x1 x2
  · unfold State.writeBest; try dsimp only
    all_goals repeat'
      first
      | (with_reducible exact hz)
      | (with_reducible assumption)
      | (with_reducible apply KeepsE.ok)
      | (with_reducible apply KeepsE.pure)
      | (with_reducible apply KeepsE.error)
      | (with_reducible apply KeepsE.bindS)
      | (with_reducible apply KeepsE.bindP)
      | (with_reducible apply KeepsE.bind)
      | (with_reducible apply KeepsP.ok)
      | (with_reducible apply KeepsP.pure)
      | (with_reducible apply KeepsP.error)
      | (with_reducible apply KeepsP.bindS)
      | (with_reducible apply KeepsP.bindP)
      | (with_reducible apply KeepsP.bind)
      | (with_reducible apply State.putBest_keeps)
      | (with_reducible apply State.store_keeps)
      | (with_reducible apply State.modRun_keeps)
      | split
      | (refine (State.putBest_keeps ?_).of _ (by with_reducible assumption))
      | (refine (State.store_keeps ?_).of _ (by with_reducible assumption))
      | (intro _)
      | (dsimp only)
  · rename_i ih; unfold State.writeBest; try dsimp only
    all_goals repeat'
      first
      | (with_reducible exact hz)
      | (with_reducible assumption)
      | (with_reducible apply KeepsE.ok)
      | (with_reducible apply KeepsE.pure)
      | (with_reducible apply KeepsE.error)
      | (with_reducible apply KeepsE.bindS)
      | (with_reducible apply KeepsE.bindP)
      | (with_reducible apply KeepsE.bind)
      | (with_reducible apply KeepsP.ok)
      | (with_reducible apply KeepsP.pure)
      | (with_reducible apply KeepsP.error)
      | (with_reducible apply KeepsP.bindS)
      | (with_reducible apply KeepsP.bindP)
      | (with_reducible apply KeepsP.bind)
      | (with_reducible apply State.putBest_keeps)
      | (with_reducible apply State.store_keeps)
      | (with_reducible apply State.modRun_keeps)
      | (with_reducible apply ih)
      | split
      | (refine (State.putBest_keeps ?_).of _ (by with_reducible assumption))
      | (refine (State.store_keeps ?_).of _ (by with_reducible assumption))
      | (intro _)
      | (dsimp only)

theorem State.spill_keeps {x0 : State} {x1 : Kop} {x2 : FeedPos} {x3 : List (Option Accum)} {x4 : List (Nat × Nat)} {z : State} (hz : Keeps z x0) : KeepsE z (State.spill x0 x1 x2 x3 x4) := by
  induction x4 generalizing x0 x1 x2 x3
  · unfold State.spill; try dsimp only
    all_goals repeat'
      first
      | (with_reducible exact hz)
      | (with_reducible assumption)
      | (with_reducible apply KeepsE.ok)
      | (with_reducible apply KeepsE.pure)
      | (with_reducible apply KeepsE.error)
      | (with_reducible apply KeepsE.bindS)
      | (with_reducible apply KeepsE.bindP)
      | (with_reducible apply KeepsE.bind)
      | (with_reducible apply KeepsP.ok)
      | (with_reducible apply KeepsP.pure)
      | (with_reducible apply KeepsP.error)
      | (with_reducible apply KeepsP.bindS)
      | (with_reducible apply KeepsP.bindP)
      | (with_reducible apply KeepsP.bind)
      | (with_reducible apply State.writeDevs_keeps)
      | split
      | (refine (State.writeDevs_keeps ?_).of _ (by with_reducible assumption))
      | (intro _)
      | (dsimp only)
  · rename_i ih; unfold State.spill; try dsimp only
    all_goals repeat'
      first
      | (with_reducible exact hz)
      | (with_reducible assumption)
      | (with_reducible apply KeepsE.ok)
      | (with_reducible apply KeepsE.pure)
      | (with_reducible apply KeepsE.error)
      | (with_reducible apply KeepsE.bindS)
      | (with_reducible apply KeepsE.bindP)
      | (with_reducible apply KeepsE.bind)
      | (with_reducible apply KeepsP.ok)
      | (with_reducible apply KeepsP.pure)
      | (with_reducible apply KeepsP.error)
      | (with_reducible apply KeepsP.bindS)
      | (with_reducible apply KeepsP.bindP)
      | (with_reducible apply KeepsP.bind)
      | (with_reducible apply State.writeDevs_keeps)
      | (with_reducible apply ih)
      | split
      | (refine (State.writeDevs_keeps ?_).of _ (by with_reducible assumption))
      | (intro _)
      | (dsimp only)

theorem State.moveStage_keeps {x0 : State} {x1 : Kop} {z : State} (hz : Keeps z x0) : KeepsE z (State.moveStage x0 x1) := by
  unfold State.moveStage; try dsimp only
  all_goals repeat'
    first
    | (with_reducible exact hz)
    | (with_reducible assumption)
    | (with_reducible apply KeepsE.ok)
    | (with_reducible apply KeepsE.pure)
    | (with_reducible apply KeepsE.error)
    | (with_reducible apply KeepsE.bindS)
    | (with_reducible apply KeepsE.bindP)
    | (with_reducible apply KeepsE.bind)
    | (with_reducible apply KeepsP.ok)
    | (with_reducible apply KeepsP.pure)
    | (with_reducible apply KeepsP.error)
    | (with_reducible apply KeepsP.bindS)
    | (with_reducible apply KeepsP.bindP)
    | (with_reducible apply KeepsP.bind)
    | (with_reducible apply State.modStable_keeps)
    | (with_reducible apply State.spill_keeps)
    | split
    | (refine (State.spill_keeps ?_).of _ (by with_reducible assumption))
    | (intro _)
    | (dsimp only)

theorem State.updateStage_keeps {x0 : State} {x1 : Kop} {x2 : Upset} {z : State} (hz : Keeps z x0) : KeepsE z (State.updateStage x0 x1 x2) := by
  unfold State.updateStage; try dsimp only
  all_goals repeat'
    first
    | (with_reducible exact hz)
    | (with_reducible assumption)
    | (with_reducible apply KeepsE.ok)
    | (with_reducible apply KeepsE.error)
    | (with_reducible apply KeepsP.ok)
    | (with_reducible apply KeepsP.error)
    | (with_reducible apply State.modStable_keeps)
    | (with_reducible apply State.update_keeps)
    | (with_reducible apply KeepsE.map)
    | split
    | (refine (State.update_keeps ?_).of _ (by with_reducible assumption))
    | (intro _)
    | (dsimp only)

theorem State.drainStage_keeps {x0 : State} {x1 : Kop} {z : State} (hz : Keeps z x0) : KeepsE z (State.drainStage x0 x1) := by
  unfold State.drainStage; try dsimp only
  all_goals repeat'
    first
    | (with_reducible exact hz)
    | (with_reducible assumption)
    | (with_reducible apply KeepsE.ok)
    | (with_reducible apply KeepsE.pure)
    | (with_reducible apply KeepsE.error)
    | (with_reducible apply KeepsE.bindS)
    | (with_reducible apply KeepsE.bindP)
    | (with_reducible apply KeepsE.bind)
    | (with_reducible apply KeepsP.ok)
    | (with_reducible apply KeepsP.pure)
    | (with_reducible apply KeepsP.error)
    | (with_reducible apply KeepsP.bindS)
    | (with_reducible apply KeepsP.bindP)
    | (with_reducible apply KeepsP.bind)
    | (with_reducible apply State.modStable_keeps)
    | (with_reducible apply State.writeBest_keeps)
    | (with_reducible apply State.flushDrains_keeps)
    | split
    | (refine (State.writeBest_keeps ?_).of _ (by with_reducible assumption))
    | (refine (State.flushDrains_keeps ?_).of _ (by with_reducible assumption))
    | (intro _)
    | (dsimp only)

theorem State.broadcast_keeps {x0 : State} {x1 : Kop} {z : State} (hz : Keeps z x0) : KeepsE z (State.broadcast x0 x1) := by
  unfold State.broadcast; try dsimp only
  all_goals repeat'
    first
    | (with_reducible exact hz)
    | (with_reducible assumption)
    | (with_reducible apply KeepsE.ok)
    | (with_reducible apply KeepsE.pure)
    | (with_reducible apply KeepsE.error)
    | (with_reducible apply KeepsE.bindS)
    | (with_reducible apply KeepsE.bindP)
    | (with_reducible apply KeepsE.bind)
    | (with_reducible apply KeepsP.ok)
    | (with_reducible apply KeepsP.pure)
    | (with_reducible apply KeepsP.error)
    | (with_reducible apply KeepsP.bindS)
    | (with_reducible apply KeepsP.bindP)
    | (with_reducible apply KeepsP.bind)
    | (with_reducible apply State.modStable_keeps)
    | (with_reducible apply State.needRows_keeps)
    | (with_reducible apply State.loadAhead_keeps)
    | split
    | (refine (State.needRows_keeps ?_).of _ (by with_reducible assumption))
    | (refine (State.loadAhead_keeps ?_).of _ (by with_reducible assumption))
    | (intro _)
    | (dsimp only)

theorem State.endK_keeps {x0 : State} {x1 : Nat} {z : State} (hz : Keeps z x0) : Keeps z (State.endK x0 x1) := by
  unfold State.endK; try dsimp only
  all_goals repeat'
    first
    | (with_reducible exact hz)
    | (with_reducible assumption)
    | (with_reducible apply State.modRun_keeps)
    | (with_reducible apply State.modStable_keeps)
    | split
    | (intro _)
    | (dsimp only)

theorem State.tileEvent_keeps {x0 : State} {x1 : Kop} {x2 : Upset} {z : State} (hz : Keeps z x0) : KeepsE z (State.tileEvent x0 x1 x2) := by
  unfold State.tileEvent; try dsimp only
  all_goals repeat'
    first
    | (with_reducible exact hz)
    | (with_reducible assumption)
    | (with_reducible apply KeepsE.ok)
    | (with_reducible apply KeepsE.pure)
    | (with_reducible apply KeepsE.error)
    | (with_reducible apply KeepsE.bindS)
    | (with_reducible apply KeepsE.bindP)
    | (with_reducible apply KeepsE.bind)
    | (with_reducible apply KeepsP.ok)
    | (with_reducible apply KeepsP.pure)
    | (with_reducible apply KeepsP.error)
    | (with_reducible apply KeepsP.bindS)
    | (with_reducible apply KeepsP.bindP)
    | (with_reducible apply KeepsP.bind)
    | (with_reducible apply State.broadcast_keeps)
    | (with_reducible apply State.drainStage_keeps)
    | (with_reducible apply State.moveStage_keeps)
    | (with_reducible apply State.updateStage_keeps)
    | (with_reducible apply State.endK_keeps)
    | split
    | (refine (State.broadcast_keeps ?_).of _ (by with_reducible assumption))
    | (refine (State.drainStage_keeps ?_).of _ (by with_reducible assumption))
    | (refine (State.moveStage_keeps ?_).of _ (by with_reducible assumption))
    | (refine (State.updateStage_keeps ?_).of _ (by with_reducible assumption))
    | (intro _)
    | (dsimp only)

theorem State.putEntries_keeps {x0 : State} {x1 : Kop} {x2 : List (Nat × Nat × Nat)} {z : State} (hz : Keeps z x0) : KeepsE z (State.putEntries x0 x1 x2) := by
  induction x2 generalizing x0 x1
  · unfold State.putEntries; try dsimp only
    all_goals repeat'
      first
      | (with_reducible exact hz)
      | (with_reducible assumption)
      | (with_reducible apply KeepsE.ok)
      | (with_reducible apply KeepsE.pure)
      | (with_reducible apply KeepsE.error)
      | (with_reducible apply KeepsE.bindS)
      | (with_reducible apply KeepsE.bindP)
      | (with_reducible apply KeepsE.bind)
      | (with_reducible apply KeepsP.ok)
      | (with_reducible apply KeepsP.pure)
      | (with_reducible apply KeepsP.error)
      | (with_reducible apply KeepsP.bindS)
      | (with_reducible apply KeepsP.bindP)
      | (with_reducible apply KeepsP.bind)
      | (with_reducible apply State.store_keeps)
      | (with_reducible apply State.modRun_keeps)
      | split
      | (refine (State.store_keeps ?_).of _ (by with_reducible assumption))
      | (intro _)
      | (dsimp only)
  · rename_i ih; unfold State.putEntries; try dsimp only
    all_goals repeat'
      first
      | (with_reducible exact hz)
      | (with_reducible assumption)
      | (with_reducible apply KeepsE.ok)
      | (with_reducible apply KeepsE.pure)
      | (with_reducible apply KeepsE.error)
      | (with_reducible apply KeepsE.bindS)
      | (with_reducible apply KeepsE.bindP)
      | (with_reducible apply KeepsE.bind)
      | (with_reducible apply KeepsP.ok)
      | (with_reducible apply KeepsP.pure)
      | (with_reducible apply KeepsP.error)
      | (with_reducible apply KeepsP.bindS)
      | (with_reducible apply KeepsP.bindP)
      | (with_reducible apply KeepsP.bind)
      | (with_reducible apply State.store_keeps)
      | (with_reducible apply State.modRun_keeps)
      | (with_reducible apply ih)
      | split
      | (refine (State.store_keeps ?_).of _ (by with_reducible assumption))
      | (intro _)
      | (dsimp only)

theorem State.topEvent_keeps {x0 : State} {x1 : Kop} {x2 : Upset} {z : State} (hz : Keeps z x0) : KeepsE z (State.topEvent x0 x1 x2) := by
  unfold State.topEvent; try dsimp only
  all_goals repeat'
    first
    | (with_reducible exact hz)
    | (with_reducible assumption)
    | (with_reducible apply KeepsE.ok)
    | (with_reducible apply KeepsE.pure)
    | (with_reducible apply KeepsE.error)
    | (with_reducible apply KeepsE.bindS)
    | (with_reducible apply KeepsE.bindP)
    | (with_reducible apply KeepsE.bind)
    | (with_reducible apply KeepsP.ok)
    | (with_reducible apply KeepsP.pure)
    | (with_reducible apply KeepsP.error)
    | (with_reducible apply KeepsP.bindS)
    | (with_reducible apply KeepsP.bindP)
    | (with_reducible apply KeepsP.bind)
    | (with_reducible apply State.modRun_keeps)
    | (with_reducible apply State.modStable_keeps)
    | (with_reducible apply State.putEntries_keeps)
    | (with_reducible apply State.endK_keeps)
    | split
    | (refine (State.putEntries_keeps ?_).of _ (by with_reducible assumption))
    | (intro _)
    | (dsimp only)

theorem State.putItem_keeps {x0 : State} {x1 : Kop} {x2 : Nat} {x3 : Nat} {z : State} (hz : Keeps z x0) : KeepsE z (State.putItem x0 x1 x2 x3) := by
  unfold State.putItem; try dsimp only
  all_goals repeat'
    first
    | (with_reducible exact hz)
    | (with_reducible assumption)
    | (with_reducible apply KeepsE.ok)
    | (with_reducible apply KeepsE.error)
    | (with_reducible apply KeepsP.ok)
    | (with_reducible apply KeepsP.error)
    | (with_reducible apply State.modStable_keeps)
    | (with_reducible apply State.putC_keeps)
    | split
    | (refine (State.putC_keeps ?_).of _ (by with_reducible assumption))
    | (intro _)
    | (dsimp only)

theorem State.copyItem_keeps {x0 : State} {x1 : Kop} {x2 : Nat} {x3 : Nat} {x4 : Nat} {z : State} (hz : Keeps z x0) : KeepsE z (State.copyItem x0 x1 x2 x3 x4) := by
  induction x4 generalizing x0 x1 x2 x3
  · unfold State.copyItem; try dsimp only
    all_goals repeat'
      first
      | (with_reducible exact hz)
      | (with_reducible assumption)
      | (with_reducible apply KeepsE.ok)
      | (with_reducible apply KeepsE.error)
      | (with_reducible apply KeepsE.bindS)
      | (with_reducible apply KeepsE.bindP)
      | (with_reducible apply KeepsE.bind)
      | (with_reducible apply KeepsP.ok)
      | (with_reducible apply KeepsP.error)
      | (with_reducible apply KeepsP.bindS)
      | (with_reducible apply KeepsP.bindP)
      | (with_reducible apply KeepsP.bind)
      | (with_reducible apply State.putItem_keeps)
      | split
      | (refine (State.putItem_keeps ?_).of _ (by with_reducible assumption))
      | (intro _)
      | (dsimp only)
  · rename_i ih; unfold State.copyItem; try dsimp only
    all_goals repeat'
      first
      | (with_reducible exact hz)
      | (with_reducible assumption)
      | (with_reducible apply KeepsE.ok)
      | (with_reducible apply KeepsE.error)
      | (with_reducible apply KeepsE.bindS)
      | (with_reducible apply KeepsE.bindP)
      | (with_reducible apply KeepsE.bind)
      | (with_reducible apply KeepsP.ok)
      | (with_reducible apply KeepsP.error)
      | (with_reducible apply KeepsP.bindS)
      | (with_reducible apply KeepsP.bindP)
      | (with_reducible apply KeepsP.bind)
      | (with_reducible apply State.putItem_keeps)
      | (with_reducible apply ih)
      | split
      | (refine (State.putItem_keeps ?_).of _ (by with_reducible assumption))
      | (intro _)
      | (dsimp only)

theorem State.zeroItem_keeps {x0 : State} {x1 : Kop} {x2 : Nat} {x3 : Nat} {z : State} (hz : Keeps z x0) : KeepsE z (State.zeroItem x0 x1 x2 x3) := by
  induction x3 generalizing x0 x1 x2
  · unfold State.zeroItem; try dsimp only
    all_goals repeat'
      first
      | (with_reducible exact hz)
      | (with_reducible assumption)
      | (with_reducible apply KeepsE.ok)
      | (with_reducible apply KeepsE.error)
      | (with_reducible apply KeepsE.bindS)
      | (with_reducible apply KeepsE.bindP)
      | (with_reducible apply KeepsE.bind)
      | (with_reducible apply KeepsP.ok)
      | (with_reducible apply KeepsP.error)
      | (with_reducible apply KeepsP.bindS)
      | (with_reducible apply KeepsP.bindP)
      | (with_reducible apply KeepsP.bind)
      | (with_reducible apply State.putItem_keeps)
      | split
      | (refine (State.putItem_keeps ?_).of _ (by with_reducible assumption))
      | (intro _)
      | (dsimp only)
  · rename_i ih; unfold State.zeroItem; try dsimp only
    all_goals repeat'
      first
      | (with_reducible exact hz)
      | (with_reducible assumption)
      | (with_reducible apply KeepsE.ok)
      | (with_reducible apply KeepsE.error)
      | (with_reducible apply KeepsE.bindS)
      | (with_reducible apply KeepsE.bindP)
      | (with_reducible apply KeepsE.bind)
      | (with_reducible apply KeepsP.ok)
      | (with_reducible apply KeepsP.error)
      | (with_reducible apply KeepsP.bindS)
      | (with_reducible apply KeepsP.bindP)
      | (with_reducible apply KeepsP.bind)
      | (with_reducible apply State.putItem_keeps)
      | (with_reducible apply ih)
      | split
      | (refine (State.putItem_keeps ?_).of _ (by with_reducible assumption))
      | (intro _)
      | (dsimp only)

theorem State.putHeld_keeps {x0 : State} {x1 : Kop} {x2 : List (Nat × Nat)} {z : State} (hz : Keeps z x0) : KeepsE z (State.putHeld x0 x1 x2) := by
  induction x2 generalizing x0 x1
  · unfold State.putHeld; try dsimp only
    all_goals repeat'
      first
      | (with_reducible exact hz)
      | (with_reducible assumption)
      | (with_reducible apply KeepsE.ok)
      | (with_reducible apply KeepsE.error)
      | (with_reducible apply KeepsE.bindS)
      | (with_reducible apply KeepsE.bindP)
      | (with_reducible apply KeepsE.bind)
      | (with_reducible apply KeepsP.ok)
      | (with_reducible apply KeepsP.error)
      | (with_reducible apply KeepsP.bindS)
      | (with_reducible apply KeepsP.bindP)
      | (with_reducible apply KeepsP.bind)
      | (with_reducible apply State.putC_keeps)
      | split
      | (refine (State.putC_keeps ?_).of _ (by with_reducible assumption))
      | (intro _)
      | (dsimp only)
  · rename_i ih; unfold State.putHeld; try dsimp only
    all_goals repeat'
      first
      | (with_reducible exact hz)
      | (with_reducible assumption)
      | (with_reducible apply KeepsE.ok)
      | (with_reducible apply KeepsE.error)
      | (with_reducible apply KeepsE.bindS)
      | (with_reducible apply KeepsE.bindP)
      | (with_reducible apply KeepsE.bind)
      | (with_reducible apply KeepsP.ok)
      | (with_reducible apply KeepsP.error)
      | (with_reducible apply KeepsP.bindS)
      | (with_reducible apply KeepsP.bindP)
      | (with_reducible apply KeepsP.bind)
      | (with_reducible apply State.putC_keeps)
      | (with_reducible apply ih)
      | split
      | (refine (State.putC_keeps ?_).of _ (by with_reducible assumption))
      | (intro _)
      | (dsimp only)

theorem State.moveItems_keeps {x0 : State} {x1 : Kop} {x2 : Nat} {x3 : Nat} {z : State} (hz : Keeps z x0) : KeepsE z (State.moveItems x0 x1 x2 x3) := by
  induction x2 generalizing x0 x1 x3
  · unfold State.moveItems; try dsimp only
    all_goals repeat'
      first
      | (with_reducible exact hz)
      | (with_reducible assumption)
      | (with_reducible apply KeepsE.ok)
      | (with_reducible apply KeepsE.pure)
      | (with_reducible apply KeepsE.error)
      | (with_reducible apply KeepsE.bindS)
      | (with_reducible apply KeepsE.bindP)
      | (with_reducible apply KeepsE.bind)
      | (with_reducible apply KeepsP.ok)
      | (with_reducible apply KeepsP.pure)
      | (with_reducible apply KeepsP.error)
      | (with_reducible apply KeepsP.bindS)
      | (with_reducible apply KeepsP.bindP)
      | (with_reducible apply KeepsP.bind)
      | (with_reducible apply State.modStable_keeps)
      | (with_reducible apply State.copyItem_keeps)
      | (with_reducible apply State.zeroItem_keeps)
      | split
      | (refine (State.copyItem_keeps ?_).of _ (by with_reducible assumption))
      | (refine (State.zeroItem_keeps ?_).of _ (by with_reducible assumption))
      | (intro _)
      | (dsimp only)
  · rename_i ih; unfold State.moveItems; try dsimp only
    all_goals repeat'
      first
      | (with_reducible exact hz)
      | (with_reducible assumption)
      | (with_reducible apply KeepsE.ok)
      | (with_reducible apply KeepsE.pure)
      | (with_reducible apply KeepsE.error)
      | (with_reducible apply KeepsE.bindS)
      | (with_reducible apply KeepsE.bindP)
      | (with_reducible apply KeepsE.bind)
      | (with_reducible apply KeepsP.ok)
      | (with_reducible apply KeepsP.pure)
      | (with_reducible apply KeepsP.error)
      | (with_reducible apply KeepsP.bindS)
      | (with_reducible apply KeepsP.bindP)
      | (with_reducible apply KeepsP.bind)
      | (with_reducible apply State.modStable_keeps)
      | (with_reducible apply State.copyItem_keeps)
      | (with_reducible apply State.zeroItem_keeps)
      | (with_reducible apply ih)
      | split
      | (refine (State.copyItem_keeps ?_).of _ (by with_reducible assumption))
      | (refine (State.zeroItem_keeps ?_).of _ (by with_reducible assumption))
      | (intro _)
      | (dsimp only)

theorem State.moveEvent_keeps {x0 : State} {x1 : Kop} {x2 : Upset} {z : State} (hz : Keeps z x0) : KeepsE z (State.moveEvent x0 x1 x2) := by
  unfold State.moveEvent; try dsimp only
  all_goals repeat'
    first
    | (with_reducible exact hz)
    | (with_reducible assumption)
    | (with_reducible apply KeepsE.ok)
    | (with_reducible apply KeepsE.pure)
    | (with_reducible apply KeepsE.error)
    | (with_reducible apply KeepsE.bindS)
    | (with_reducible apply KeepsE.bindP)
    | (with_reducible apply KeepsE.bind)
    | (with_reducible apply KeepsP.ok)
    | (with_reducible apply KeepsP.pure)
    | (with_reducible apply KeepsP.error)
    | (with_reducible apply KeepsP.bindS)
    | (with_reducible apply KeepsP.bindP)
    | (with_reducible apply KeepsP.bind)
    | (with_reducible apply State.moveItems_keeps)
    | (with_reducible apply State.modStable_keeps)
    | (with_reducible apply State.putHeld_keeps)
    | (with_reducible apply State.modRun_keeps)
    | (with_reducible apply State.endK_keeps)
    | (with_reducible apply State.writeDevs_keeps)
    | split
    | (refine (State.moveItems_keeps ?_).of _ (by with_reducible assumption))
    | (refine (State.putHeld_keeps ?_).of _ (by with_reducible assumption))
    | (refine (State.writeDevs_keeps ?_).of _ (by with_reducible assumption))
    | (intro _)
    | (dsimp only)

theorem State.kEvent_keeps {x0 : State} {x1 : Kop} {x2 : Upset} {z : State} (hz : Keeps z x0) : KeepsE z (State.kEvent x0 x1 x2) := by
  unfold State.kEvent; try dsimp only
  all_goals repeat'
    first
    | (with_reducible exact hz)
    | (with_reducible assumption)
    | (with_reducible apply KeepsE.ok)
    | (with_reducible apply KeepsE.error)
    | (with_reducible apply KeepsP.ok)
    | (with_reducible apply KeepsP.error)
    | (with_reducible apply State.topEvent_keeps)
    | (with_reducible apply State.moveEvent_keeps)
    | (with_reducible apply State.tileEvent_keeps)
    | split
    | (refine (State.topEvent_keeps ?_).of _ (by with_reducible assumption))
    | (refine (State.moveEvent_keeps ?_).of _ (by with_reducible assumption))
    | (refine (State.tileEvent_keeps ?_).of _ (by with_reducible assumption))
    | (intro _)
    | (dsimp only)

theorem State.feed_keeps {x0 : State} {x1 : Kop} {x2 : Upset} {z : State} (hz : Keeps z x0) : Keeps z (State.feed x0 x1 x2) := by
  unfold State.feed; try dsimp only
  all_goals repeat'
    first
    | (with_reducible exact hz)
    | (with_reducible assumption)
    | (with_reducible apply State.kEvent_keeps)
    | (with_reducible apply State.modStable_keeps)
    | (with_reducible apply State.haltJob_keeps)
    | split
    | (refine (State.kEvent_keeps ?_).of _ (by with_reducible assumption))
    | (intro _)
    | (dsimp only)

end Sys2Proof.Machine
end

