-- ==== Sys2Proof/Laws/KeepGroom.lean ====
section
/-! SUPPORT. What the operations of Machine/Groom.lean keep (Laws/Keeps.lean): one lemma for each. -/

set_option Elab.async false

namespace Sys2Proof.Machine

theorem State.modGroom_keeps {x0 : State} {x1 : Nat} {x2 : Groom → Groom} {z : State} (hz : Keeps z x0) : Keeps z (State.modGroom x0 x1 x2) := by
  unfold State.modGroom; try dsimp only
  all_goals repeat'
    first
    | (with_reducible exact hz)
    | (with_reducible assumption)
    | (with_reducible apply State.modStable_keeps)
    | split
    | (intro _)
    | (dsimp only)


/-- Keeps, for one element of a memory instruction. -/
structure KeepsElem (z : State) (e : Elem1) : Prop where
  of : ∀ t f, e = .done t f → Keeps z t

theorem State.landElem_keeps {s z : State} {o : Kop} {w i : Nat} {mode : Rnd} {e : ERes} (hz : Keeps z s) :
    KeepsElem z (s.landElem o w i mode e) := by
  unfold State.landElem
  exact ⟨fun t f h => by cases h; exact State.modGroom_keeps hz⟩

theorem State.loadElem_keeps {s z : State} {o : Kop} {w i : Nat} (hz : Keeps z s) : KeepsElem z (s.loadElem o w i) := by
  have halts : ∀ n, KeepsElem z (.halts n) := fun n => ⟨fun t f h => by cases h⟩
  have waits : KeepsElem z .waits := ⟨fun t f h => by cases h⟩
  have done : ∀ s f, Keeps z s → KeepsElem z (.done s f) := fun s f hs => ⟨fun t f h => by cases h; exact hs⟩
  unfold State.loadElem; dsimp only
  repeat'
    first
    | exact halts _
    | exact waits
    | (with_reducible apply done)
    | (with_reducible exact hz)
    | (with_reducible apply State.landElem_keeps)
    | (refine (State.storeBits_keeps ?_).of _ (by with_reducible assumption))
    | (refine (State.store_keeps ?_).of _ (by with_reducible assumption))
    | split
    | (exact (State.portRead_keeps hz) _ _ (by with_reducible assumption))
    | dsimp only

theorem State.storeElem_keeps {s z : State} {o : Kop} {w i : Nat} (hz : Keeps z s) : KeepsElem z (s.storeElem o w i) := by
  have halts : ∀ n, KeepsElem z (.halts n) := fun n => ⟨fun t f h => by cases h⟩
  have waits : KeepsElem z .waits := ⟨fun t f h => by cases h⟩
  have done : ∀ s f, Keeps z s → KeepsElem z (.done s f) := fun s f hs => ⟨fun t f h => by cases h; exact hs⟩
  unfold State.storeElem; dsimp only
  repeat'
    first
    | exact halts _
    | exact waits
    | (with_reducible apply done)
    | (with_reducible exact hz)
    | (with_reducible apply State.landElem_keeps)
    | (refine (State.storeBits_keeps ?_).of _ (by with_reducible assumption))
    | (refine (State.store_keeps ?_).of _ (by with_reducible assumption))
    | split
    | (exact (State.portWrite_keeps hz) _ (by with_reducible assumption))
    | dsimp only

theorem State.gatherElem_keeps {s z : State} {o : Kop} {w i : Nat} (hz : Keeps z s) : KeepsElem z (s.gatherElem o w i) := by
  have halts : ∀ n, KeepsElem z (.halts n) := fun n => ⟨fun t f h => by cases h⟩
  have waits : KeepsElem z .waits := ⟨fun t f h => by cases h⟩
  have done : ∀ s f, Keeps z s → KeepsElem z (.done s f) := fun s f hs => ⟨fun t f h => by cases h; exact hs⟩
  unfold State.gatherElem; dsimp only
  repeat'
    first
    | exact halts _
    | exact waits
    | (with_reducible apply done)
    | (with_reducible exact hz)
    | (with_reducible apply State.landElem_keeps)
    | (refine (State.storeBits_keeps ?_).of _ (by with_reducible assumption))
    | (refine (State.store_keeps ?_).of _ (by with_reducible assumption))
    | split
    | dsimp only

theorem State.scatterElem_keeps {s z : State} {o : Kop} {w i : Nat} (hz : Keeps z s) : KeepsElem z (s.scatterElem o w i) := by
  have halts : ∀ n, KeepsElem z (.halts n) := fun n => ⟨fun t f h => by cases h⟩
  have waits : KeepsElem z .waits := ⟨fun t f h => by cases h⟩
  have done : ∀ s f, Keeps z s → KeepsElem z (.done s f) := fun s f hs => ⟨fun t f h => by cases h; exact hs⟩
  unfold State.scatterElem; dsimp only
  repeat'
    first
    | exact halts _
    | exact waits
    | (with_reducible apply done)
    | (with_reducible exact hz)
    | (with_reducible apply State.landElem_keeps)
    | (refine (State.storeBits_keeps ?_).of _ (by with_reducible assumption))
    | (refine (State.store_keeps ?_).of _ (by with_reducible assumption))
    | split
    | dsimp only

theorem State.storeBlock_keeps {s z : State} {o : Kop} {w i : Nat} (hz : Keeps z s) : KeepsElem z (s.storeBlock o w i).1 := by
  have halts : ∀ n, KeepsElem z (.halts n) := fun n => ⟨fun t f h => by cases h⟩
  have waits : KeepsElem z .waits := ⟨fun t f h => by cases h⟩
  have done : ∀ s f, Keeps z s → KeepsElem z (.done s f) := fun s f hs => ⟨fun t f h => by cases h; exact hs⟩
  unfold State.storeBlock; dsimp only
  split
  · exact done _ _ hz
  · split
    · next h =>
      refine done _ _ (KeepsE.of (KeepsE.bindS (foldlM_keeps _ hz ?_) ?_) _ h)
      · exact fun a x ha => State.storeBits_keeps ha
      · exact fun a ha => State.store_keeps ha
    · exact halts _

theorem State.walkElems_keeps {s z : State} {o : Kop} {w rows n : Nat} {step : State → Nat → Elem1 × Nat} (hz : Keeps z s)
    (hs : ∀ a i, Keeps z a → KeepsElem z (step a i).1) : Keeps z (s.walkElems o w rows step n) := by
  induction n generalizing s with
  | zero => exact hz
  | succ n ih =>
    unfold State.walkElems; dsimp only
    split
    · exact State.modGroom_keeps hz
    · have h := hs s (s.groom o.stable).elem hz
      split
      · exact hz
      · exact State.haltJob_keeps hz
      · next he => exact ih (State.modGroom_keeps (h.of _ _ (by rw [he])))

theorem State.gLoad_keeps {s z : State} {o : Kop} {w : Nat} (hz : Keeps z s) : Keeps z (s.gLoad o w) :=
  State.walkElems_keeps hz fun _ _ h => State.loadElem_keeps h

theorem State.gStore_keeps {s z : State} {o : Kop} {w : Nat} (hz : Keeps z s) : Keeps z (s.gStore o w) := by
  unfold State.gStore
  split
  · exact State.walkElems_keeps hz fun _ _ h => State.storeBlock_keeps h
  · exact State.walkElems_keeps hz fun _ _ h => State.storeElem_keeps h

theorem State.gGather_keeps {s z : State} {o : Kop} {w : Nat} (hz : Keeps z s) : Keeps z (s.gGather o w) :=
  State.walkElems_keeps hz fun _ _ h => State.gatherElem_keeps h

theorem State.gScatter_keeps {s z : State} {o : Kop} {w : Nat} (hz : Keeps z s) : Keeps z (s.gScatter o w) :=
  State.walkElems_keeps hz fun _ _ h => State.scatterElem_keeps h

theorem State.groomEnds_keeps {x0 : State} {x1 : Kop} {z : State} (hz : Keeps z x0) : Keeps z (State.groomEnds x0 x1) := by
  unfold State.groomEnds; try dsimp only
  all_goals repeat'
    first
    | (with_reducible exact hz)
    | (with_reducible assumption)
    | (with_reducible apply State.modRun_keeps)
    | split
    | (intro _)
    | (dsimp only)

end Sys2Proof.Machine
end

