-- ==== Sys2Proof/Laws/KeepIssue.lean ====
section
/-! SUPPORT. What the operations of Machine/Issue.lean keep (Laws/Keeps.lean): one lemma for each. -/

set_option Elab.async false

namespace Sys2Proof.Machine

theorem State.launch_keeps {x0 : State} {x1 : Nat} {x2 : Nat} {x3 : Nat} {x4 : List UnitId} {x5 : Bool} {z : State} (hz : Keeps z x0) : Keeps z (State.launch x0 x1 x2 x3 x4 x5) := by
  unfold State.launch; try dsimp only
  all_goals repeat'
    first
    | (with_reducible exact hz)
    | (with_reducible assumption)
    | (with_reducible apply State.modPd_keeps)
    | split
    | (intro _)
    | (dsimp only)

theorem State.hasRead_keeps {x0 : State} {x1 : Ctx} {x2 : Spans} {z : State} (hz : Keeps z x0) : Keeps z (State.hasRead x0 x1 x2) := by
  unfold State.hasRead; try dsimp only
  all_goals repeat'
    first
    | (with_reducible exact hz)
    | (with_reducible assumption)
    | (with_reducible apply State.readBack_keeps)
    | split
    | (intro _)
    | (dsimp only)

theorem State.opensAccess_keeps {x0 : State} {x1 : Nat} {x2 : Nat} {x3 : Nat} {z : State} (hz : Keeps z x0) : Keeps z (State.opensAccess x0 x1 x2 x3) := by
  unfold State.opensAccess; try dsimp only
  all_goals repeat'
    first
    | (with_reducible exact hz)
    | (with_reducible assumption)
    | (with_reducible apply State.readComp_keeps)
    | split
    | (intro _)
    | (dsimp only)

theorem State.addJob_keeps {x0 : State} {x1 : Nat} {x2 : Nat} {x3 : Nat} {x4 : Nat} {z : State} (hz : Keeps z x0) : Keeps z (State.addJob x0 x1 x2 x3 x4) := by
  unfold State.addJob; try dsimp only
  all_goals repeat'
    first
    | (with_reducible exact hz)
    | (with_reducible assumption)
    | (with_reducible apply State.enqueue_keeps)
    | (with_reducible apply State.opensAccess_keeps)
    | split
    | (intro _)
    | (dsimp only)

theorem State.pump_keeps {x0 : State} {x1 : Nat} {x2 : Nat} {x3 : Nat} {z : State} (hz : Keeps z x0) : Keeps z (State.pump x0 x1 x2 x3) := by
  induction x3 generalizing x0 x1 x2
  · unfold State.pump; try dsimp only
    all_goals repeat'
      first
      | (with_reducible exact hz)
      | (with_reducible assumption)
      | (with_reducible apply State.modCtx_keeps)
      | (with_reducible apply State.addJob_keeps)
      | (with_reducible apply State.launch_keeps)
      | split
      | (intro _)
      | (dsimp only)
  · rename_i ih; unfold State.pump; try dsimp only
    all_goals repeat'
      first
      | (with_reducible exact hz)
      | (with_reducible assumption)
      | (with_reducible apply State.modCtx_keeps)
      | (with_reducible apply State.addJob_keeps)
      | (with_reducible apply State.launch_keeps)
      | (with_reducible apply ih)
      | split
      | (intro _)
      | (dsimp only)

theorem State.runOn_keeps {x0 : State} {x1 : Nat} {x2 : Nat} {z : State} (hz : Keeps z x0) : Keeps z (State.runOn x0 x1 x2) := by
  unfold State.runOn; try dsimp only
  all_goals repeat'
    first
    | (with_reducible exact hz)
    | (with_reducible assumption)
    | (with_reducible apply State.pump_keeps)
    | split
    | (intro _)
    | (dsimp only)

theorem State.placeProgram_keeps {x0 : State} {x1 : Kop} {z : State} (hz : Keeps z x0) : KeepsE z (State.placeProgram x0 x1) := by
  unfold State.placeProgram; try dsimp only
  all_goals repeat'
    first
    | (with_reducible exact hz)
    | (with_reducible assumption)
    | (with_reducible apply KeepsE.ok)
    | (with_reducible apply KeepsE.error)
    | (with_reducible apply KeepsP.ok)
    | (with_reducible apply KeepsP.error)
    | (with_reducible apply State.writeDevs_keeps)
    | split
    | (refine (State.writeDevs_keeps ?_).of _ (by with_reducible assumption))
    | (intro _)
    | (dsimp only)

theorem State.startShare_keeps {x0 : State} {x1 : Nat} {z : State} (hz : Keeps z x0) : Keeps z (State.startShare x0 x1) := by
  unfold State.startShare; try dsimp only
  all_goals repeat'
    first
    | (with_reducible exact hz)
    | (with_reducible assumption)
    | (with_reducible apply State.placeProgram_keeps)
    | (with_reducible apply State.haltJob_keeps)
    | (with_reducible apply State.modRun_keeps)
    | (with_reducible apply State.modStable_keeps)
    | split
    | (refine (State.placeProgram_keeps ?_).of _ (by with_reducible assumption))
    | (intro _)
    | (dsimp only)

theorem State.endProbe_keeps {x0 : State} {x1 : Nat} {x2 : Nat} {x3 : Nat} {z : State} (hz : Keeps z x0) : Keeps z (State.endProbe x0 x1 x2 x3) := by
  unfold State.endProbe; try dsimp only
  all_goals repeat'
    first
    | (with_reducible exact hz)
    | (with_reducible assumption)
    | (with_reducible apply State.modCtx_keeps)
    | (with_reducible apply foldl_keeps)
    | split
    | (with_reducible apply keeps_rec)
    | (with_reducible exact Nat.le_refl _)
    | (with_reducible exact List.suffix_refl _)
    | (with_reducible exact id)
    | (with_reducible exact rfl)
    | (intro h; rw [List.length_map]; with_reducible exact h)
    | (intro _)
    | (dsimp only)

theorem State.shareEnds_keeps {x0 : State} {x1 : Nat} {z : State} (hz : Keeps z x0) : Keeps z (State.shareEnds x0 x1) := by
  unfold State.shareEnds; try dsimp only
  all_goals repeat'
    first
    | (with_reducible exact hz)
    | (with_reducible assumption)
    | (with_reducible apply State.startShare_keeps)
    | (with_reducible apply State.endProbe_keeps)
    | (with_reducible apply State.modRun_keeps)
    | (with_reducible apply State.modStable_keeps)
    | (with_reducible apply State.modCtx_keeps)
    | split
    | (intro _)
    | (dsimp only)

theorem State.settleStable_keeps {x0 : State} {x1 : Nat} {x2 : Nat} {z : State} (hz : Keeps z x0) : Keeps z (State.settleStable x0 x1 x2) := by
  induction x2 generalizing x0 x1
  · unfold State.settleStable; try dsimp only
    all_goals repeat'
      first
      | (with_reducible exact hz)
      | (with_reducible assumption)
      | (with_reducible apply State.shareEnds_keeps)
      | (with_reducible apply State.startShare_keeps)
      | split
      | (intro _)
      | (dsimp only)
  · rename_i ih; unfold State.settleStable; try dsimp only
    all_goals repeat'
      first
      | (with_reducible exact hz)
      | (with_reducible assumption)
      | (with_reducible apply State.shareEnds_keeps)
      | (with_reducible apply State.startShare_keeps)
      | (with_reducible apply ih)
      | split
      | (intro _)
      | (dsimp only)

theorem State.recordRead_keeps {x0 : State} {x1 : Ctx} {x2 : Flight} {z : State} (hz : Keeps z x0) : Keeps z (State.recordRead x0 x1 x2) := by
  unfold State.recordRead; try dsimp only
  all_goals repeat'
    first
    | (with_reducible exact hz)
    | (with_reducible assumption)
    | (with_reducible apply State.hasRead_keeps)
    | (with_reducible apply State.readBack_keeps)
    | split
    | (intro _)
    | (dsimp only)

theorem kernelStarts_keeps {x0 : Nat} {x1 : Nat} {x2 : State} {z : State} (hz : Keeps z x2) : Keeps z (kernelStarts x0 x1 x2) := by
  unfold kernelStarts; try dsimp only
  all_goals repeat'
    first
    | (with_reducible exact hz)
    | (with_reducible assumption)
    | (with_reducible apply State.haltJob_keeps)
    | (with_reducible apply State.launch_keeps)
    | (with_reducible apply State.modStable_keeps)
    | (with_reducible apply State.runOn_keeps)
    | (with_reducible apply State.settleStable_keeps)
    | (with_reducible apply foldl_keeps)
    | split
    | (intro _)
    | (dsimp only)

theorem execKernel_keeps {x0 : Nat} {x1 : Nat} {x2 : State} {z : State} (hz : Keeps z x2) : KeepsOut z (execKernel x0 x1 x2) := by
  unfold execKernel; try dsimp only
  all_goals repeat'
    first
    | (with_reducible exact hz)
    | (with_reducible assumption)
    | (with_reducible apply KeepsOut.next)
    | (with_reducible apply KeepsOut.fault)
    | (with_reducible apply onUnit_keeps)
    | (with_reducible apply kernelStarts_keeps)
    | split
    | (intro _)
    | (dsimp only)

theorem State.strikes_keeps {x0 : State} {x1 : Upset} {z : State} (hz : Keeps z x0) : Keeps z (State.strikes x0 x1) := by
  unfold State.strikes; try dsimp only
  all_goals repeat'
    first
    | (with_reducible exact hz)
    | (with_reducible assumption)
    | (with_reducible apply State.cellFlips_keeps)
    | split
    | (intro _)
    | (dsimp only)

theorem feeds_keeps {x0 : Nat} {x1 : Bool} {x2 : Upset} {x3 : State} {z : State} (hz : Keeps z x3) : Keeps z (feeds x0 x1 x2 x3) := by
  unfold feeds; try dsimp only
  all_goals repeat'
    first
    | (with_reducible exact hz)
    | (with_reducible assumption)
    | (with_reducible apply State.startShare_keeps)
    | (with_reducible apply State.strikes_keeps)
    | (with_reducible apply State.shareEnds_keeps)
    | (with_reducible apply State.feed_keeps)
    | split
    | (intro _)
    | (dsimp only)

theorem execFeedEvent_keeps {x0 : Nat} {x1 : Bool} {x2 : Upset} {x3 : State} {z : State} (hz : Keeps z x3) : KeepsOut z (execFeedEvent x0 x1 x2 x3) := by
  unfold execFeedEvent; try dsimp only
  all_goals repeat'
    first
    | (with_reducible exact hz)
    | (with_reducible assumption)
    | (with_reducible apply KeepsOut.next)
    | (with_reducible apply KeepsOut.fault)
    | (with_reducible apply onUnit_keeps)
    | (with_reducible apply feeds_keeps)
    | split
    | (intro _)
    | (dsimp only)

theorem State.feedOn_keeps {x0 : State} {x1 : Nat} {x2 : Nat} {z : State} (hz : Keeps z x0) : Keeps z (State.feedOn x0 x1 x2) := by
  induction x2 generalizing x0 x1
  · unfold State.feedOn; try dsimp only
    all_goals repeat'
      first
      | (with_reducible exact hz)
      | (with_reducible assumption)
      | (with_reducible apply State.feed_keeps)
      | split
      | (intro _)
      | (dsimp only)
  · rename_i ih; unfold State.feedOn; try dsimp only
    all_goals repeat'
      first
      | (with_reducible exact hz)
      | (with_reducible assumption)
      | (with_reducible apply State.feed_keeps)
      | (with_reducible apply ih)
      | split
      | (intro _)
      | (dsimp only)

theorem runsK_keeps {x0 : Nat} {x1 : Nat} {x2 : State} {z : State} (hz : Keeps z x2) : Keeps z (runsK x0 x1 x2) := by
  unfold runsK; try dsimp only
  all_goals repeat'
    first
    | (with_reducible exact hz)
    | (with_reducible assumption)
    | (with_reducible apply State.startShare_keeps)
    | (with_reducible apply State.shareEnds_keeps)
    | (with_reducible apply State.feedOn_keeps)
    | (with_reducible apply State.modStable_keeps)
    | split
    | (intro _)
    | (dsimp only)

theorem runsMm_keeps {x0 : Nat} {x1 : State} {z : State} (hz : Keeps z x1) : Keeps z (runsMm x0 x1) := by
  unfold runsMm; try dsimp only
  all_goals repeat'
    first
    | (with_reducible exact hz)
    | (with_reducible assumption)
    | (with_reducible apply runsK_keeps)
    | split
    | (intro _)
    | (dsimp only)

theorem runsConv_keeps {x0 : Nat} {x1 : State} {z : State} (hz : Keeps z x1) : Keeps z (runsConv x0 x1) := by
  unfold runsConv; try dsimp only
  all_goals repeat'
    first
    | (with_reducible exact hz)
    | (with_reducible assumption)
    | (with_reducible apply runsK_keeps)
    | split
    | (intro _)
    | (dsimp only)

theorem runsDist_keeps {x0 : Nat} {x1 : State} {z : State} (hz : Keeps z x1) : Keeps z (runsDist x0 x1) := by
  unfold runsDist; try dsimp only
  all_goals repeat'
    first
    | (with_reducible exact hz)
    | (with_reducible assumption)
    | (with_reducible apply runsK_keeps)
    | split
    | (intro _)
    | (dsimp only)

theorem runsTopk_keeps {x0 : Nat} {x1 : State} {z : State} (hz : Keeps z x1) : Keeps z (runsTopk x0 x1) := by
  unfold runsTopk; try dsimp only
  all_goals repeat'
    first
    | (with_reducible exact hz)
    | (with_reducible assumption)
    | (with_reducible apply runsK_keeps)
    | split
    | (intro _)
    | (dsimp only)

theorem runsCompact_keeps {x0 : Nat} {x1 : State} {z : State} (hz : Keeps z x1) : Keeps z (runsCompact x0 x1) := by
  unfold runsCompact; try dsimp only
  all_goals repeat'
    first
    | (with_reducible exact hz)
    | (with_reducible assumption)
    | (with_reducible apply runsK_keeps)
    | split
    | (intro _)
    | (dsimp only)

theorem runsExpand_keeps {x0 : Nat} {x1 : State} {z : State} (hz : Keeps z x1) : Keeps z (runsExpand x0 x1) := by
  unfold runsExpand; try dsimp only
  all_goals repeat'
    first
    | (with_reducible exact hz)
    | (with_reducible assumption)
    | (with_reducible apply runsK_keeps)
    | split
    | (intro _)
    | (dsimp only)

theorem execKMm_keeps {x0 : Nat} {x1 : State} {z : State} (hz : Keeps z x1) : KeepsOut z (execKMm x0 x1) := by
  unfold execKMm; try dsimp only
  all_goals repeat'
    first
    | (with_reducible exact hz)
    | (with_reducible assumption)
    | (with_reducible apply KeepsOut.next)
    | (with_reducible apply KeepsOut.fault)
    | (with_reducible apply onUnit_keeps)
    | (with_reducible apply runsMm_keeps)
    | split
    | (intro _)
    | (dsimp only)

theorem execKConv_keeps {x0 : Nat} {x1 : State} {z : State} (hz : Keeps z x1) : KeepsOut z (execKConv x0 x1) := by
  unfold execKConv; try dsimp only
  all_goals repeat'
    first
    | (with_reducible exact hz)
    | (with_reducible assumption)
    | (with_reducible apply KeepsOut.next)
    | (with_reducible apply KeepsOut.fault)
    | (with_reducible apply onUnit_keeps)
    | (with_reducible apply runsConv_keeps)
    | split
    | (intro _)
    | (dsimp only)

theorem execKDist_keeps {x0 : Nat} {x1 : State} {z : State} (hz : Keeps z x1) : KeepsOut z (execKDist x0 x1) := by
  unfold execKDist; try dsimp only
  all_goals repeat'
    first
    | (with_reducible exact hz)
    | (with_reducible assumption)
    | (with_reducible apply KeepsOut.next)
    | (with_reducible apply KeepsOut.fault)
    | (with_reducible apply onUnit_keeps)
    | (with_reducible apply runsDist_keeps)
    | split
    | (intro _)
    | (dsimp only)

theorem execKTopk_keeps {x0 : Nat} {x1 : State} {z : State} (hz : Keeps z x1) : KeepsOut z (execKTopk x0 x1) := by
  unfold execKTopk; try dsimp only
  all_goals repeat'
    first
    | (with_reducible exact hz)
    | (with_reducible assumption)
    | (with_reducible apply KeepsOut.next)
    | (with_reducible apply KeepsOut.fault)
    | (with_reducible apply onUnit_keeps)
    | (with_reducible apply runsTopk_keeps)
    | split
    | (intro _)
    | (dsimp only)

theorem execKCompact_keeps {x0 : Nat} {x1 : State} {z : State} (hz : Keeps z x1) : KeepsOut z (execKCompact x0 x1) := by
  unfold execKCompact; try dsimp only
  all_goals repeat'
    first
    | (with_reducible exact hz)
    | (with_reducible assumption)
    | (with_reducible apply KeepsOut.next)
    | (with_reducible apply KeepsOut.fault)
    | (with_reducible apply onUnit_keeps)
    | (with_reducible apply runsCompact_keeps)
    | split
    | (intro _)
    | (dsimp only)

theorem execKExpand_keeps {x0 : Nat} {x1 : State} {z : State} (hz : Keeps z x1) : KeepsOut z (execKExpand x0 x1) := by
  unfold execKExpand; try dsimp only
  all_goals repeat'
    first
    | (with_reducible exact hz)
    | (with_reducible assumption)
    | (with_reducible apply KeepsOut.next)
    | (with_reducible apply KeepsOut.fault)
    | (with_reducible apply onUnit_keeps)
    | (with_reducible apply runsExpand_keeps)
    | split
    | (intro _)
    | (dsimp only)

theorem rampsDown_keeps {x0 : Nat} {x1 : Nat} {x2 : State} {z : State} (hz : Keeps z x2) : Keeps z (rampsDown x0 x1 x2) := by
  unfold rampsDown; try dsimp only
  all_goals repeat'
    first
    | (with_reducible exact hz)
    | (with_reducible assumption)
    | (with_reducible apply State.modStable_keeps)
    | split
    | (intro _)
    | (dsimp only)

theorem rampsUp_keeps {x0 : Nat} {x1 : Nat} {x2 : State} {z : State} (hz : Keeps z x2) : Keeps z (rampsUp x0 x1 x2) := by
  unfold rampsUp; try dsimp only
  all_goals repeat'
    first
    | (with_reducible exact hz)
    | (with_reducible assumption)
    | (with_reducible apply State.modStable_keeps)
    | split
    | (intro _)
    | (dsimp only)

theorem execRampDown_keeps {x0 : Nat} {x1 : Nat} {x2 : State} {z : State} (hz : Keeps z x2) : KeepsOut z (execRampDown x0 x1 x2) := by
  unfold execRampDown; try dsimp only
  all_goals repeat'
    first
    | (with_reducible exact hz)
    | (with_reducible assumption)
    | (with_reducible apply KeepsOut.next)
    | (with_reducible apply KeepsOut.fault)
    | (with_reducible apply onUnit_keeps)
    | (with_reducible apply rampsDown_keeps)
    | split
    | (intro _)
    | (dsimp only)

theorem execRampUp_keeps {x0 : Nat} {x1 : Nat} {x2 : State} {z : State} (hz : Keeps z x2) : KeepsOut z (execRampUp x0 x1 x2) := by
  unfold execRampUp; try dsimp only
  all_goals repeat'
    first
    | (with_reducible exact hz)
    | (with_reducible assumption)
    | (with_reducible apply KeepsOut.next)
    | (with_reducible apply KeepsOut.fault)
    | (with_reducible apply onUnit_keeps)
    | (with_reducible apply rampsUp_keeps)
    | split
    | (intro _)
    | (dsimp only)

theorem State.retableStable_keeps {x0 : State} {x1 : Nat} {z : State} (hz : Keeps z x0) : Keeps z (State.retableStable x0 x1) := by
  unfold State.retableStable; try dsimp only
  all_goals repeat'
    first
    | (with_reducible exact hz)
    | (with_reducible assumption)
    | (with_reducible apply State.mapCtxs_keeps)
    | split
    | (intro _)
    | (dsimp only)

theorem State.swapStall_keeps {x0 : State} {x1 : Nat} {x2 : Nat} {x3 : Nat} {z : State} (hz : Keeps z x0) : Keeps z (State.swapStall x0 x1 x2 x3) := by
  unfold State.swapStall; try dsimp only
  all_goals repeat'
    first
    | (with_reducible exact hz)
    | (with_reducible assumption)
    | (with_reducible apply State.postOwned_keeps)
    | (with_reducible apply State.mapAdd_keeps)
    | split
    | (intro _)
    | (dsimp only)

theorem State.replaceStable_keeps {x0 : State} {x1 : Nat} {z : State} (hz : Keeps z x0) : Keeps z (State.replaceStable x0 x1) := by
  unfold State.replaceStable; try dsimp only
  all_goals repeat'
    first
    | (with_reducible exact hz)
    | (with_reducible assumption)
    | (with_reducible apply State.mapAdd_keeps)
    | (with_reducible apply State.postShared_keeps)
    | (with_reducible apply State.postOwned_keeps)
    | (with_reducible apply State.modStable_keeps)
    | (with_reducible apply State.modPd_keeps)
    | (with_reducible apply State.retableStable_keeps)
    | (with_reducible apply State.haltAll_keeps)
    | split
    | (with_reducible apply keeps_rec)
    | (with_reducible exact Nat.le_refl _)
    | (with_reducible exact List.suffix_refl _)
    | (with_reducible exact id)
    | (with_reducible exact rfl)
    | (intro h; rw [List.length_map]; with_reducible exact h)
    | (intro h; simp [h]; done)
    | (intro _)
    | (dsimp only)

theorem boundary_keeps {x0 : Nat} {x1 : State} {z : State} (hz : Keeps z x1) : Keeps z (boundary x0 x1) := by
  unfold boundary; try dsimp only
  all_goals repeat'
    first
    | (with_reducible exact hz)
    | (with_reducible assumption)
    | (with_reducible apply State.replaceStable_keeps)
    | (with_reducible apply State.swapStall_keeps)
    | (with_reducible apply State.modStable_keeps)
    | (with_reducible apply State.retableStable_keeps)
    | (with_reducible apply State.settleStable_keeps)
    | (with_reducible apply foldl_keeps)
    | split
    | (intro _)
    | (dsimp only)

theorem execKernelBoundary_keeps {x0 : Nat} {x1 : State} {z : State} (hz : Keeps z x1) : KeepsOut z (execKernelBoundary x0 x1) := by
  unfold execKernelBoundary; try dsimp only
  all_goals repeat'
    first
    | (with_reducible exact hz)
    | (with_reducible assumption)
    | (with_reducible apply KeepsOut.next)
    | (with_reducible apply KeepsOut.fault)
    | (with_reducible apply onUnit_keeps)
    | (with_reducible apply boundary_keeps)
    | split
    | (intro _)
    | (dsimp only)

theorem replaces_keeps {x0 : Nat} {x1 : State} {z : State} (hz : Keeps z x1) : Keeps z (replaces x0 x1) := by
  unfold replaces; try dsimp only
  all_goals repeat'
    first
    | (with_reducible exact hz)
    | (with_reducible assumption)
    | (with_reducible apply State.replaceStable_keeps)
    | split
    | (intro _)
    | (dsimp only)

theorem execStableReplacement_keeps {x0 : Nat} {x1 : State} {z : State} (hz : Keeps z x1) : KeepsOut z (execStableReplacement x0 x1) := by
  unfold execStableReplacement; try dsimp only
  all_goals repeat'
    first
    | (with_reducible exact hz)
    | (with_reducible assumption)
    | (with_reducible apply KeepsOut.next)
    | (with_reducible apply KeepsOut.fault)
    | (with_reducible apply onUnit_keeps)
    | (with_reducible apply replaces_keeps)
    | split
    | (intro _)
    | (dsimp only)

theorem State.copyRowStore_keeps {x0 : State} {x1 : Nat} {x2 : Nat} {z : State} (hz : Keeps z x0) : Keeps z (State.copyRowStore x0 x1 x2) := by
  unfold State.copyRowStore; try dsimp only
  all_goals repeat'
    first
    | (with_reducible exact hz)
    | (with_reducible assumption)
    | (with_reducible apply State.wr_keeps)
    | (with_reducible apply State.zero_keeps)
    | (with_reducible apply foldl_keeps)
    | split
    | (intro _)
    | (dsimp only)

theorem copyDone_keeps {x0 : Nat} {x1 : State} {z : State} (hz : Keeps z x1) : Keeps z (copyDone x0 x1) := by
  unfold copyDone; try dsimp only
  all_goals repeat'
    first
    | (with_reducible exact hz)
    | (with_reducible assumption)
    | (with_reducible apply State.modStable_keeps)
    | (with_reducible apply State.copyRowStore_keeps)
    | (with_reducible apply State.settleStable_keeps)
    | (with_reducible apply State.haltJob_keeps)
    | split
    | (with_reducible apply keeps_rec)
    | (with_reducible exact Nat.le_refl _)
    | (with_reducible exact List.suffix_refl _)
    | (with_reducible exact id)
    | (with_reducible exact rfl)
    | (intro h; rw [List.length_map]; with_reducible exact h)
    | (intro _)
    | (dsimp only)

theorem execStableCopyDone_keeps {x0 : Nat} {x1 : State} {z : State} (hz : Keeps z x1) : KeepsOut z (execStableCopyDone x0 x1) := by
  unfold execStableCopyDone; try dsimp only
  all_goals repeat'
    first
    | (with_reducible exact hz)
    | (with_reducible assumption)
    | (with_reducible apply KeepsOut.next)
    | (with_reducible apply KeepsOut.fault)
    | (with_reducible apply onUnit_keeps)
    | (with_reducible apply copyDone_keeps)
    | split
    | (intro _)
    | (dsimp only)

theorem parityFails_keeps {x0 : Nat} {x1 : State} {z : State} (hz : Keeps z x1) : Keeps z (parityFails x0 x1) := by
  unfold parityFails; try dsimp only
  all_goals repeat'
    first
    | (with_reducible exact hz)
    | (with_reducible assumption)
    | (with_reducible apply State.startShare_keeps)
    | (with_reducible apply State.modRun_keeps)
    | (with_reducible apply State.replaceStable_keeps)
    | (with_reducible apply State.modStable_keeps)
    | split
    | (intro _)
    | (dsimp only)

theorem execGroomParityError_keeps {x0 : Nat} {x1 : State} {z : State} (hz : Keeps z x1) : KeepsOut z (execGroomParityError x0 x1) := by
  unfold execGroomParityError; try dsimp only
  all_goals repeat'
    first
    | (with_reducible exact hz)
    | (with_reducible assumption)
    | (with_reducible apply KeepsOut.next)
    | (with_reducible apply KeepsOut.fault)
    | (with_reducible apply onUnit_keeps)
    | (with_reducible apply parityFails_keeps)
    | split
    | (intro _)
    | (dsimp only)

theorem recordEnds_keeps {x0 : Nat} {x1 : Nat} {x2 : Nat} {x3 : State} {z : State} (hz : Keeps z x3) : Keeps z (recordEnds x0 x1 x2 x3) := by
  unfold recordEnds; try dsimp only
  all_goals repeat'
    first
    | (with_reducible exact hz)
    | (with_reducible assumption)
    | (with_reducible apply State.recordRead_keeps)
    | (with_reducible apply State.modPd_keeps)
    | (with_reducible apply State.runOn_keeps)
    | split
    | (intro _)
    | (dsimp only)

theorem execRecordEnd_keeps {x0 : Nat} {x1 : Nat} {x2 : Nat} {x3 : State} {z : State} (hz : Keeps z x3) : KeepsOut z (execRecordEnd x0 x1 x2 x3) := by
  unfold execRecordEnd; try dsimp only
  all_goals repeat'
    first
    | (with_reducible exact hz)
    | (with_reducible assumption)
    | (with_reducible apply KeepsOut.next)
    | (with_reducible apply KeepsOut.fault)
    | (with_reducible apply onUnit_keeps)
    | (with_reducible apply recordEnds_keeps)
    | split
    | (intro _)
    | (dsimp only)

theorem branches_keeps {x0 : Nat} {x1 : Nat} {x2 : Nat} {x3 : State} {z : State} (hz : Keeps z x3) : Keeps z (branches x0 x1 x2 x3) := by
  unfold branches; try dsimp only
  all_goals repeat'
    first
    | (with_reducible exact hz)
    | (with_reducible assumption)
    | (with_reducible apply State.haltJob_keeps)
    | (with_reducible apply State.modCtx_keeps)
    | (with_reducible apply State.runOn_keeps)
    | split
    | (intro _)
    | (dsimp only)

theorem execBranch_keeps {x0 : Nat} {x1 : Nat} {x2 : Nat} {x3 : State} {z : State} (hz : Keeps z x3) : KeepsOut z (execBranch x0 x1 x2 x3) := by
  unfold execBranch; try dsimp only
  all_goals repeat'
    first
    | (with_reducible exact hz)
    | (with_reducible assumption)
    | (with_reducible apply KeepsOut.next)
    | (with_reducible apply KeepsOut.fault)
    | (with_reducible apply onUnit_keeps)
    | (with_reducible apply branches_keeps)
    | split
    | (intro _)
    | (dsimp only)

end Sys2Proof.Machine
end

