-- ==== Sys2Proof/Laws/KeepWindow.lean ====
section
/-! SUPPORT. What the operations of Machine/Window.lean keep (Laws/Keeps.lean): one lemma for each. -/

set_option Elab.async false

namespace Sys2Proof.Machine

theorem State.modTap_keeps {x0 : State} {x1 : Tap → Tap} {z : State} (hz : Keeps z x0) : Keeps z (State.modTap x0 x1) := by
  unfold State.modTap; try dsimp only
  all_goals repeat'
    first
    | (with_reducible exact hz)
    | (with_reducible assumption)
    | split
    | (with_reducible apply keeps_rec)
    | (with_reducible exact Nat.le_refl _)
    | (with_reducible exact List.suffix_refl _)
    | (with_reducible exact id)
    | (with_reducible exact rfl)
    | (intro _)
    | (dsimp only)

theorem execTestLogicReset_keeps {x0 : State} {z : State} (hz : Keeps z x0) : KeepsOut z (execTestLogicReset x0) := by
  unfold execTestLogicReset; try dsimp only
  all_goals repeat'
    first
    | (with_reducible exact hz)
    | (with_reducible assumption)
    | (with_reducible apply KeepsOut.next)
    | (with_reducible apply KeepsOut.fault)
    | (with_reducible apply State.modTap_keeps)
    | split
    | (intro _)
    | (dsimp only)

theorem execBypass_keeps {x0 : Nat} {x1 : State} {z : State} (hz : Keeps z x1) : KeepsOut z (execBypass x0 x1) := by
  unfold execBypass; try dsimp only
  all_goals repeat'
    first
    | (with_reducible exact hz)
    | (with_reducible assumption)
    | (with_reducible apply KeepsOut.next)
    | (with_reducible apply KeepsOut.fault)
    | (with_reducible apply onUnit_keeps)
    | (with_reducible apply State.modTap_keeps)
    | split
    | (intro _)
    | (dsimp only)

theorem execIdcode_keeps {x0 : Nat} {x1 : State} {z : State} (hz : Keeps z x1) : KeepsOut z (execIdcode x0 x1) := by
  unfold execIdcode; try dsimp only
  all_goals repeat'
    first
    | (with_reducible exact hz)
    | (with_reducible assumption)
    | (with_reducible apply KeepsOut.next)
    | (with_reducible apply KeepsOut.fault)
    | (with_reducible apply onUnit_keeps)
    | (with_reducible apply State.modTap_keeps)
    | split
    | (intro _)
    | (dsimp only)

theorem execSamplePreload_keeps {x0 : Nat} {x1 : Nat} {x2 : Nat} {x3 : State} {z : State} (hz : Keeps z x3) : KeepsOut z (execSamplePreload x0 x1 x2 x3) := by
  unfold execSamplePreload; try dsimp only
  all_goals repeat'
    first
    | (with_reducible exact hz)
    | (with_reducible assumption)
    | (with_reducible apply KeepsOut.next)
    | (with_reducible apply KeepsOut.fault)
    | (with_reducible apply onUnit_keeps)
    | (with_reducible apply State.modTap_keeps)
    | split
    | (intro _)
    | (dsimp only)

theorem State.drivePins_keeps {x0 : State} {x1 : Nat} {x2 : Nat} {x3 : PinMode} {z : State} (hz : Keeps z x0) : Keeps z (State.drivePins x0 x1 x2 x3) := by
  unfold State.drivePins; try dsimp only
  all_goals repeat'
    first
    | (with_reducible exact hz)
    | (with_reducible assumption)
    | (with_reducible apply State.modTap_keeps)
    | split
    | (intro _)
    | (dsimp only)

theorem execExtest_keeps {x0 : Nat} {x1 : State} {z : State} (hz : Keeps z x1) : KeepsOut z (execExtest x0 x1) := by
  unfold execExtest; try dsimp only
  all_goals repeat'
    first
    | (with_reducible exact hz)
    | (with_reducible assumption)
    | (with_reducible apply KeepsOut.next)
    | (with_reducible apply KeepsOut.fault)
    | (with_reducible apply onUnit_keeps)
    | (with_reducible apply State.drivePins_keeps)
    | split
    | (intro _)
    | (dsimp only)

theorem execClamp_keeps {x0 : Nat} {x1 : State} {z : State} (hz : Keeps z x1) : KeepsOut z (execClamp x0 x1) := by
  unfold execClamp; try dsimp only
  all_goals repeat'
    first
    | (with_reducible exact hz)
    | (with_reducible assumption)
    | (with_reducible apply KeepsOut.next)
    | (with_reducible apply KeepsOut.fault)
    | (with_reducible apply onUnit_keeps)
    | (with_reducible apply State.drivePins_keeps)
    | split
    | (intro _)
    | (dsimp only)

theorem execHighz_keeps {x0 : Nat} {x1 : State} {z : State} (hz : Keeps z x1) : KeepsOut z (execHighz x0 x1) := by
  unfold execHighz; try dsimp only
  all_goals repeat'
    first
    | (with_reducible exact hz)
    | (with_reducible assumption)
    | (with_reducible apply KeepsOut.next)
    | (with_reducible apply KeepsOut.fault)
    | (with_reducible apply onUnit_keeps)
    | (with_reducible apply State.drivePins_keeps)
    | split
    | (intro _)
    | (dsimp only)

theorem execExtestPulse_keeps {x0 : Nat} {x1 : State} {z : State} (hz : Keeps z x1) : KeepsOut z (execExtestPulse x0 x1) := by
  unfold execExtestPulse; try dsimp only
  all_goals repeat'
    first
    | (with_reducible exact hz)
    | (with_reducible assumption)
    | (with_reducible apply KeepsOut.next)
    | (with_reducible apply KeepsOut.fault)
    | (with_reducible apply onUnit_keeps)
    | (with_reducible apply State.drivePins_keeps)
    | split
    | (intro _)
    | (dsimp only)

theorem execExtestTrain_keeps {x0 : Nat} {x1 : State} {z : State} (hz : Keeps z x1) : KeepsOut z (execExtestTrain x0 x1) := by
  unfold execExtestTrain; try dsimp only
  all_goals repeat'
    first
    | (with_reducible exact hz)
    | (with_reducible assumption)
    | (with_reducible apply KeepsOut.next)
    | (with_reducible apply KeepsOut.fault)
    | (with_reducible apply onUnit_keeps)
    | (with_reducible apply State.drivePins_keeps)
    | split
    | (intro _)
    | (dsimp only)

theorem execReadout_keeps {x0 : Nat} {x1 : State} {z : State} (hz : Keeps z x1) : KeepsOut z (execReadout x0 x1) := by
  unfold execReadout; try dsimp only
  all_goals repeat'
    first
    | (with_reducible exact hz)
    | (with_reducible assumption)
    | (with_reducible apply KeepsOut.next)
    | (with_reducible apply KeepsOut.fault)
    | (with_reducible apply State.modTap_keeps)
    | split
    | (intro _)
    | (dsimp only)

end Sys2Proof.Machine
end

