-- ==== Sys2Proof/Laws/KeepMcl.lean ====
section
/-! SUPPORT. What the operations of Machine/Mcl.lean keep (Laws/Keeps.lean): one lemma for each. -/

set_option Elab.async false

namespace Sys2Proof.Machine

theorem State.protocolError_keeps {x0 : State} {z : State} (hz : Keeps z x0) : Keeps z (State.protocolError x0) := by
  unfold State.protocolError; try dsimp only
  all_goals repeat'
    first
    | (with_reducible exact hz)
    | (with_reducible assumption)
    | (with_reducible apply State.modMcl_keeps)
    | split
    | (intro _)
    | (dsimp only)

theorem State.hearsWord_keeps {x0 : State} {z : State} (hz : Keeps z x0) : Keeps z (State.hearsWord x0) := by
  unfold State.hearsWord; try dsimp only
  all_goals repeat'
    first
    | (with_reducible exact hz)
    | (with_reducible assumption)
    | (with_reducible apply State.modMcl_keeps)
    | split
    | (intro _)
    | (dsimp only)

theorem State.onMessage_keeps {s z : State} {h : McHead} {ok : Bool} {a b c : Nat} {f : State → State} (hz : Keeps z s)
    (hf : ∀ t, Keeps z t → Keeps z (f t)) : Keeps z (s.onMessage h ok a b c f) := by
  unfold State.onMessage; dsimp only
  split
  · exact hz
  · split
    · exact State.hearsWord_keeps hz
    · split
      · exact State.protocolError_keeps (State.hearsWord_keeps hz)
      · exact hf _ (State.modMcl_keeps (State.hearsWord_keeps hz))

theorem State.enableRing_keeps {x0 : Nat} {x1 : Nat} {x2 : State} {z : State} (hz : Keeps z x2) : Keeps z (State.enableRing x0 x1 x2) := by
  unfold State.enableRing; try dsimp only
  all_goals repeat'
    first
    | (with_reducible exact hz)
    | (with_reducible assumption)
    | (with_reducible apply State.modRing_keeps)
    | (with_reducible apply State.sendComp_keeps)
    | (with_reducible apply State.watch_keeps)
    | split
    | (intro _)
    | (dsimp only)

theorem State.disableRing_keeps {x0 : Nat} {x1 : Nat} {x2 : State} {z : State} (hz : Keeps z x2) : Keeps z (State.disableRing x0 x1 x2) := by
  unfold State.disableRing; try dsimp only
  all_goals repeat'
    first
    | (with_reducible exact hz)
    | (with_reducible assumption)
    | (with_reducible apply State.modRing_keeps)
    | (with_reducible apply State.unwatch_keeps)
    | (with_reducible apply State.modMcl_keeps)
    | split
    | (intro _)
    | (dsimp only)

theorem State.cfgMessage_keeps {s z : State} {h : McHead} {rtag : Nat} {f : State → State} (hz : Keeps z s)
    (hf : ∀ t, Keeps z t → Keeps z (f t)) : Keeps z (s.cfgMessage h rtag f) :=
  State.onMessage_keeps hz fun _ ht => hf _ (State.modMcl_keeps ht)

theorem enablesRing_keeps {x0 : McHead} {x1 : Nat} {x2 : Nat} {x3 : Nat} {x4 : State} {z : State} (hz : Keeps z x4) : Keeps z (enablesRing x0 x1 x2 x3 x4) := by
  unfold enablesRing; try dsimp only
  all_goals repeat'
    first
    | (with_reducible exact hz)
    | (with_reducible assumption)
    | (with_reducible apply State.cfgMessage_keeps)
    | (with_reducible apply State.enableRing_keeps)
    | split
    | (intro _)
    | (dsimp only)

theorem execPbxbaseEnable_keeps {x0 : McHead} {x1 : Nat} {x2 : Nat} {x3 : Nat} {x4 : State} {z : State} (hz : Keeps z x4) : KeepsOut z (execPbxbaseEnable x0 x1 x2 x3 x4) := by
  unfold execPbxbaseEnable; try dsimp only
  all_goals repeat'
    first
    | (with_reducible exact hz)
    | (with_reducible assumption)
    | (with_reducible apply KeepsOut.next)
    | (with_reducible apply KeepsOut.fault)
    | (with_reducible apply onUnit_keeps)
    | (with_reducible apply enablesRing_keeps)
    | split
    | (intro _)
    | (dsimp only)

theorem disablesRing_keeps {x0 : McHead} {x1 : Nat} {x2 : Nat} {x3 : Nat} {x4 : State} {z : State} (hz : Keeps z x4) : Keeps z (disablesRing x0 x1 x2 x3 x4) := by
  unfold disablesRing; try dsimp only
  all_goals repeat'
    first
    | (with_reducible exact hz)
    | (with_reducible assumption)
    | (with_reducible apply State.cfgMessage_keeps)
    | (with_reducible apply State.disableRing_keeps)
    | split
    | (intro _)
    | (dsimp only)

theorem execPbxbaseDisable_keeps {x0 : McHead} {x1 : Nat} {x2 : Nat} {x3 : Nat} {x4 : State} {z : State} (hz : Keeps z x4) : KeepsOut z (execPbxbaseDisable x0 x1 x2 x3 x4) := by
  unfold execPbxbaseDisable; try dsimp only
  all_goals repeat'
    first
    | (with_reducible exact hz)
    | (with_reducible assumption)
    | (with_reducible apply KeepsOut.next)
    | (with_reducible apply KeepsOut.fault)
    | (with_reducible apply onUnit_keeps)
    | (with_reducible apply disablesRing_keeps)
    | split
    | (intro _)
    | (dsimp only)

theorem State.configWrite_keeps {x0 : Nat} {x1 : Nat} {x2 : State} {z : State} (hz : Keeps z x2) : Keeps z (State.configWrite x0 x1 x2) := by
  unfold State.configWrite; try dsimp only
  all_goals repeat'
    first
    | (with_reducible exact hz)
    | (with_reducible assumption)
    | (with_reducible apply State.enableRing_keeps)
    | (with_reducible apply State.disableRing_keeps)
    | split
    | (with_reducible apply keeps_rec)
    | (with_reducible exact Nat.le_refl _)
    | (with_reducible exact List.suffix_refl _)
    | (with_reducible exact id)
    | (with_reducible exact rfl)
    | (intro _)
    | (dsimp only)

theorem configures_keeps {x0 : McHead} {x1 : Nat} {x2 : Nat} {x3 : Option Nat} {x4 : State} {z : State} (hz : Keeps z x4) : Keeps z (configures x0 x1 x2 x3 x4) := by
  unfold configures; try dsimp only
  all_goals repeat'
    first
    | (with_reducible exact hz)
    | (with_reducible assumption)
    | (with_reducible apply State.cfgMessage_keeps)
    | (with_reducible apply State.configWrite_keeps)
    | (with_reducible apply State.onMessage_keeps)
    | (with_reducible apply State.modMcl_keeps)
    | split
    | (intro _)
    | (dsimp only)

theorem execCfgWr_keeps {x0 : McHead} {x1 : Nat} {x2 : Nat} {x3 : Option Nat} {x4 : State} {z : State} (hz : Keeps z x4) : KeepsOut z (execCfgWr x0 x1 x2 x3 x4) := by
  unfold execCfgWr; try dsimp only
  all_goals repeat'
    first
    | (with_reducible exact hz)
    | (with_reducible assumption)
    | (with_reducible apply KeepsOut.next)
    | (with_reducible apply KeepsOut.fault)
    | (with_reducible apply configures_keeps)
    | split
    | (intro _)
    | (dsimp only)

theorem apertureReads_keeps {x0 : McHead} {x1 : Nat} {x2 : Nat} {x3 : Nat} {x4 : State} {z : State} (hz : Keeps z x4) : Keeps z (apertureReads x0 x1 x2 x3 x4) := by
  unfold apertureReads; try dsimp only
  all_goals repeat'
    first
    | (with_reducible exact hz)
    | (with_reducible assumption)
    | (with_reducible apply State.onMessage_keeps)
    | (with_reducible apply State.modMcl_keeps)
    | split
    | (intro _)
    | (dsimp only)

theorem execApRd_keeps {x0 : McHead} {x1 : Nat} {x2 : Nat} {x3 : Nat} {x4 : State} {z : State} (hz : Keeps z x4) : KeepsOut z (execApRd x0 x1 x2 x3 x4) := by
  unfold execApRd; try dsimp only
  all_goals repeat'
    first
    | (with_reducible exact hz)
    | (with_reducible assumption)
    | (with_reducible apply KeepsOut.next)
    | (with_reducible apply KeepsOut.fault)
    | (with_reducible apply apertureReads_keeps)
    | split
    | (intro _)
    | (dsimp only)

theorem State.unstall_keeps {x0 : State} {z : State} (hz : Keeps z x0) : Keeps z (State.unstall x0) := by
  unfold State.unstall; try dsimp only
  all_goals repeat'
    first
    | (with_reducible exact hz)
    | (with_reducible assumption)
    | (with_reducible apply State.modRing_keeps)
    | (with_reducible apply foldl_keeps)
    | split
    | (intro _)
    | (dsimp only)

theorem State.wake_keeps {x0 : State} {x1 : Nat} {z : State} (hz : Keeps z x0) : Keeps z (State.wake x0 x1) := by
  unfold State.wake; try dsimp only
  all_goals repeat'
    first
    | (with_reducible exact hz)
    | (with_reducible assumption)
    | (with_reducible apply State.flushRing_keeps)
    | (with_reducible apply foldl_keeps)
    | split
    | (intro _)
    | (dsimp only)

theorem invalidates_keeps {x0 : McHead} {x1 : Nat} {x2 : Nat} {x3 : List Byte} {x4 : State} {z : State} (hz : Keeps z x4) : Keeps z (invalidates x0 x1 x2 x3 x4) := by
  unfold invalidates; try dsimp only
  all_goals repeat'
    first
    | (with_reducible exact hz)
    | (with_reducible assumption)
    | (with_reducible apply State.onMessage_keeps)
    | (with_reducible apply State.modMcl_keeps)
    | (with_reducible apply State.wrComp_keeps)
    | (with_reducible apply State.unstall_keeps)
    | (with_reducible apply State.wake_keeps)
    | (with_reducible apply State.watch_keeps)
    | split
    | (intro _)
    | (dsimp only)

theorem execInv_keeps {x0 : McHead} {x1 : Nat} {x2 : Nat} {x3 : List Byte} {x4 : State} {z : State} (hz : Keeps z x4) : KeepsOut z (execInv x0 x1 x2 x3 x4) := by
  unfold execInv; try dsimp only
  all_goals repeat'
    first
    | (with_reducible exact hz)
    | (with_reducible assumption)
    | (with_reducible apply KeepsOut.next)
    | (with_reducible apply KeepsOut.fault)
    | (with_reducible apply invalidates_keeps)
    | split
    | (intro _)
    | (dsimp only)

theorem State.answeredBad_keeps {x0 : State} {x1 : McReq} {x2 : Nat} {z : State} (hz : Keeps z x0) : Keeps z (State.answeredBad x0 x1 x2) := by
  unfold State.answeredBad; try dsimp only
  all_goals repeat'
    first
    | (with_reducible exact hz)
    | (with_reducible assumption)
    | (with_reducible apply State.haltJob_keeps)
    | (with_reducible apply State.modMcl_keeps)
    | split
    | (intro _)
    | (dsimp only)

theorem State.delivered_keeps {x0 : State} {x1 : McReq} {x2 : List Byte} {z : State} (hz : Keeps z x0) : Keeps z (State.delivered x0 x1 x2) := by
  unfold State.delivered; try dsimp only
  all_goals repeat'
    first
    | (with_reducible exact hz)
    | (with_reducible assumption)
    | (with_reducible apply State.wrComp_keeps)
    | (with_reducible apply State.modMcl_keeps)
    | (with_reducible apply State.unstall_keeps)
    | (with_reducible apply State.wake_keeps)
    | split
    | (intro _)
    | (dsimp only)

theorem completes_keeps {x0 : McHead} {x1 : Nat} {x2 : Nat} {x3 : Bool} {x4 : List Byte} {x5 : State} {z : State} (hz : Keeps z x5) : Keeps z (completes x0 x1 x2 x3 x4 x5) := by
  unfold completes; try dsimp only
  all_goals repeat'
    first
    | (with_reducible exact hz)
    | (with_reducible assumption)
    | (with_reducible apply State.onMessage_keeps)
    | (with_reducible apply State.answeredBad_keeps)
    | (with_reducible apply State.modMcl_keeps)
    | (with_reducible apply State.delivered_keeps)
    | (with_reducible apply State.unstall_keeps)
    | split
    | (intro _)
    | (dsimp only)

theorem execCmp_keeps {x0 : McHead} {x1 : Nat} {x2 : Nat} {x3 : State} {z : State} (hz : Keeps z x3) : KeepsOut z (execCmp x0 x1 x2 x3) := by
  unfold execCmp; try dsimp only
  all_goals repeat'
    first
    | (with_reducible exact hz)
    | (with_reducible assumption)
    | (with_reducible apply KeepsOut.next)
    | (with_reducible apply KeepsOut.fault)
    | (with_reducible apply completes_keeps)
    | split
    | (intro _)
    | (dsimp only)

theorem execCmpD_keeps {x0 : McHead} {x1 : Nat} {x2 : Nat} {x3 : List Byte} {x4 : State} {z : State} (hz : Keeps z x4) : KeepsOut z (execCmpD x0 x1 x2 x3 x4) := by
  unfold execCmpD; try dsimp only
  all_goals repeat'
    first
    | (with_reducible exact hz)
    | (with_reducible assumption)
    | (with_reducible apply KeepsOut.next)
    | (with_reducible apply KeepsOut.fault)
    | (with_reducible apply completes_keeps)
    | split
    | (intro _)
    | (dsimp only)

theorem retriesPostbox_keeps {x0 : Nat} {x1 : State} {z : State} (hz : Keeps z x1) : Keeps z (retriesPostbox x0 x1) := by
  unfold retriesPostbox; try dsimp only
  all_goals repeat'
    first
    | (with_reducible exact hz)
    | (with_reducible assumption)
    | (with_reducible apply State.modMcl_keeps)
    | split
    | (intro _)
    | (dsimp only)

theorem execPostboxRetryTimer_keeps {x0 : Nat} {x1 : State} {z : State} (hz : Keeps z x1) : KeepsOut z (execPostboxRetryTimer x0 x1) := by
  unfold execPostboxRetryTimer; try dsimp only
  all_goals repeat'
    first
    | (with_reducible exact hz)
    | (with_reducible assumption)
    | (with_reducible apply KeepsOut.next)
    | (with_reducible apply KeepsOut.fault)
    | (with_reducible apply retriesPostbox_keeps)
    | split
    | (intro _)
    | (dsimp only)

theorem mclTimesOut_keeps {x0 : Nat} {x1 : Nat} {x2 : State} {z : State} (hz : Keeps z x2) : Keeps z (mclTimesOut x0 x1 x2) := by
  unfold mclTimesOut; try dsimp only
  all_goals repeat'
    first
    | (with_reducible exact hz)
    | (with_reducible assumption)
    | (with_reducible apply State.haltJob_keeps)
    | (with_reducible apply State.modMcl_keeps)
    | split
    | (intro _)
    | (dsimp only)

theorem execMclTimeout_keeps {x0 : Nat} {x1 : Nat} {x2 : State} {z : State} (hz : Keeps z x2) : KeepsOut z (execMclTimeout x0 x1 x2) := by
  unfold execMclTimeout; try dsimp only
  all_goals repeat'
    first
    | (with_reducible exact hz)
    | (with_reducible assumption)
    | (with_reducible apply KeepsOut.next)
    | (with_reducible apply KeepsOut.fault)
    | (with_reducible apply onUnit_keeps)
    | (with_reducible apply mclTimesOut_keeps)
    | split
    | (intro _)
    | (dsimp only)

theorem execMclStall_keeps {x0 : Nat} {x1 : State} {z : State} (hz : Keeps z x1) : KeepsOut z (execMclStall x0 x1) := by
  unfold execMclStall; try dsimp only
  all_goals repeat'
    first
    | (with_reducible exact hz)
    | (with_reducible assumption)
    | (with_reducible apply KeepsOut.next)
    | (with_reducible apply KeepsOut.fault)
    | (with_reducible apply onUnit_keeps)
    | (with_reducible apply State.modRing_keeps)
    | split
    | (intro _)
    | (dsimp only)

theorem creditReturns_keeps {x0 : McHead} {x1 : Nat} {x2 : Nat} {x3 : State} {z : State} (hz : Keeps z x3) : Keeps z (creditReturns x0 x1 x2 x3) := by
  unfold creditReturns; try dsimp only
  all_goals repeat'
    first
    | (with_reducible exact hz)
    | (with_reducible assumption)
    | (with_reducible apply State.onMessage_keeps)
    | (with_reducible apply State.modMcl_keeps)
    | split
    | (intro _)
    | (dsimp only)

theorem execCredit_keeps {x0 : McHead} {x1 : Nat} {x2 : Nat} {x3 : Nat} {x4 : State} {z : State} (hz : Keeps z x4) : KeepsOut z (execCredit x0 x1 x2 x3 x4) := by
  unfold execCredit; try dsimp only
  all_goals repeat'
    first
    | (with_reducible exact hz)
    | (with_reducible assumption)
    | (with_reducible apply KeepsOut.next)
    | (with_reducible apply KeepsOut.fault)
    | (with_reducible apply creditReturns_keeps)
    | split
    | (intro _)
    | (dsimp only)

theorem execAck_keeps {x0 : McHead} {x1 : Nat} {x2 : State} {z : State} (hz : Keeps z x2) : KeepsOut z (execAck x0 x1 x2) := by
  unfold execAck; try dsimp only
  all_goals repeat'
    first
    | (with_reducible exact hz)
    | (with_reducible assumption)
    | (with_reducible apply KeepsOut.next)
    | (with_reducible apply KeepsOut.fault)
    | (with_reducible apply State.onMessage_keeps)
    | (with_reducible apply State.modMcl_keeps)
    | split
    | (intro _)
    | (dsimp only)

theorem retriesFrom_keeps {x0 : McHead} {x1 : Nat} {x2 : State} {z : State} (hz : Keeps z x2) : Keeps z (retriesFrom x0 x1 x2) := by
  unfold retriesFrom; try dsimp only
  all_goals repeat'
    first
    | (with_reducible exact hz)
    | (with_reducible assumption)
    | (with_reducible apply State.onMessage_keeps)
    | (with_reducible apply State.modMcl_keeps)
    | split
    | (intro _)
    | (dsimp only)

theorem execRetry_keeps {x0 : McHead} {x1 : Nat} {x2 : State} {z : State} (hz : Keeps z x2) : KeepsOut z (execRetry x0 x1 x2) := by
  unfold execRetry; try dsimp only
  all_goals repeat'
    first
    | (with_reducible exact hz)
    | (with_reducible assumption)
    | (with_reducible apply KeepsOut.next)
    | (with_reducible apply KeepsOut.fault)
    | (with_reducible apply retriesFrom_keeps)
    | split
    | (intro _)
    | (dsimp only)

end Sys2Proof.Machine
end

