-- ==== Sys2Proof/Laws/KeepLinks.lean ====
section
/-! SUPPORT. What the operations of Machine/Links.lean keep (Laws/Keeps.lean): one lemma for each. -/

set_option Elab.async false

namespace Sys2Proof.Machine

theorem State.retireLinkLane_keeps {x0 : State} {x1 : Nat} {x2 : Nat} {x3 : Nat} {z : State} (hz : Keeps z x0) : Keeps z (State.retireLinkLane x0 x1 x2 x3) := by
  unfold State.retireLinkLane; try dsimp only
  all_goals repeat'
    first
    | (with_reducible exact hz)
    | (with_reducible assumption)
    | (with_reducible apply State.modPort_keeps)
    | (with_reducible apply State.postShared_keeps)
    | (with_reducible apply State.mapAdd_keeps)
    | split
    | (intro _)
    | (dsimp only)

theorem State.retireMclLane_keeps {x0 : State} {x1 : Nat} {x2 : Nat} {z : State} (hz : Keeps z x0) : Keeps z (State.retireMclLane x0 x1 x2) := by
  unfold State.retireMclLane; try dsimp only
  all_goals repeat'
    first
    | (with_reducible exact hz)
    | (with_reducible assumption)
    | (with_reducible apply State.modMcl_keeps)
    | (with_reducible apply State.postShared_keeps)
    | (with_reducible apply State.mapAdd_keeps)
    | split
    | (intro _)
    | (dsimp only)

theorem State.retireGroup_keeps {x0 : State} {x1 : Nat} {x2 : Nat} {x3 : Nat} {z : State} (hz : Keeps z x0) : Keeps z (State.retireGroup x0 x1 x2 x3) := by
  unfold State.retireGroup; try dsimp only
  all_goals repeat'
    first
    | (with_reducible exact hz)
    | (with_reducible assumption)
    | (with_reducible apply State.postShared_keeps)
    | (with_reducible apply State.mapAdd_keeps)
    | split
    | (with_reducible apply keeps_rec)
    | (with_reducible exact Nat.le_refl _)
    | (with_reducible exact List.suffix_refl _)
    | (with_reducible exact id)
    | (with_reducible exact rfl)
    | (intro _)
    | (dsimp only)

theorem State.retireLane_keeps {x0 : State} {x1 : LaneUnit} {x2 : Nat} {x3 : Nat} {z : State} (hz : Keeps z x0) : Keeps z (State.retireLane x0 x1 x2 x3) := by
  unfold State.retireLane; try dsimp only
  all_goals repeat'
    first
    | (with_reducible exact hz)
    | (with_reducible assumption)
    | (with_reducible apply State.retireLinkLane_keeps)
    | (with_reducible apply State.retireMclLane_keeps)
    | (with_reducible apply State.retireGroup_keeps)
    | split
    | (intro _)
    | (dsimp only)

theorem State.setCounts_keeps {x0 : State} {x1 : LaneUnit} {x2 : List LaneCount} {z : State} (hz : Keeps z x0) : Keeps z (State.setCounts x0 x1 x2) := by
  unfold State.setCounts; try dsimp only
  all_goals repeat'
    first
    | (with_reducible exact hz)
    | (with_reducible assumption)
    | (with_reducible apply State.modPort_keeps)
    | (with_reducible apply State.modMcl_keeps)
    | split
    | (with_reducible apply keeps_rec)
    | (with_reducible exact Nat.le_refl _)
    | (with_reducible exact List.suffix_refl _)
    | (with_reducible exact id)
    | (with_reducible exact rfl)
    | (intro h; rw [List.length_map]; with_reducible exact h)
    | (intro _)
    | (dsimp only)

theorem State.countSymbol_keeps {x0 : State} {x1 : LaneUnit} {x2 : Nat} {x3 : Nat} {z : State} (hz : Keeps z x0) : Keeps z (State.countSymbol x0 x1 x2 x3) := by
  unfold State.countSymbol; try dsimp only
  all_goals repeat'
    first
    | (with_reducible exact hz)
    | (with_reducible assumption)
    | (with_reducible apply State.setCounts_keeps)
    | (with_reducible apply State.retireLane_keeps)
    | split
    | (intro _)
    | (dsimp only)

theorem State.countSymbols_keeps {x0 : State} {x1 : LaneUnit} {x2 : List Nat} {x3 : List (Nat × Nat)} {z : State} (hz : Keeps z x0) : Keeps z (State.countSymbols x0 x1 x2 x3) := by
  unfold State.countSymbols; try dsimp only
  all_goals repeat'
    first
    | (with_reducible exact hz)
    | (with_reducible assumption)
    | (with_reducible apply State.countSymbol_keeps)
    | (with_reducible apply foldl_keeps)
    | split
    | (intro _)
    | (dsimp only)

theorem State.countLane_keeps {x0 : State} {x1 : LaneUnit} {x2 : Nat} {x3 : Bool} {z : State} (hz : Keeps z x0) : Keeps z (State.countLane x0 x1 x2 x3) := by
  unfold State.countLane; try dsimp only
  all_goals repeat'
    first
    | (with_reducible exact hz)
    | (with_reducible assumption)
    | (with_reducible apply State.setCounts_keeps)
    | (with_reducible apply State.retireLane_keeps)
    | split
    | (intro _)
    | (dsimp only)

theorem execLaneLockLoss_keeps {x0 : LaneUnit} {x1 : Nat} {x2 : State} {z : State} (hz : Keeps z x2) : KeepsOut z (execLaneLockLoss x0 x1 x2) := by
  unfold execLaneLockLoss; try dsimp only
  all_goals repeat'
    first
    | (with_reducible exact hz)
    | (with_reducible assumption)
    | (with_reducible apply KeepsOut.next)
    | (with_reducible apply KeepsOut.fault)
    | (with_reducible apply onUnit_keeps)
    | (with_reducible apply State.countLane_keeps)
    | split
    | (intro _)
    | (dsimp only)

theorem State.countCodeword_keeps {x0 : State} {x1 : LaneUnit} {x2 : List Nat} {x3 : List (Nat × Nat)} {z : State} (hz : Keeps z x0) : Keeps z (State.countCodeword x0 x1 x2 x3) := by
  unfold State.countCodeword; try dsimp only
  all_goals repeat'
    first
    | (with_reducible exact hz)
    | (with_reducible assumption)
    | (with_reducible apply State.countLane_keeps)
    | split
    | (intro _)
    | (dsimp only)

theorem State.nextWindow_keeps {x0 : State} {x1 : LaneUnit} {z : State} (hz : Keeps z x0) : Keeps z (State.nextWindow x0 x1) := by
  unfold State.nextWindow; try dsimp only
  all_goals repeat'
    first
    | (with_reducible exact hz)
    | (with_reducible assumption)
    | (with_reducible apply State.modPort_keeps)
    | (with_reducible apply State.modMcl_keeps)
    | (with_reducible apply State.setCounts_keeps)
    | split
    | (with_reducible apply keeps_rec)
    | (with_reducible exact Nat.le_refl _)
    | (with_reducible exact List.suffix_refl _)
    | (with_reducible exact id)
    | (with_reducible exact rfl)
    | (intro _)
    | (dsimp only)

theorem windowEnds_keeps {x0 : LaneUnit} {x1 : List (Nat × Nat)} {x2 : State} {z : State} (hz : Keeps z x2) : Keeps z (windowEnds x0 x1 x2) := by
  unfold windowEnds; try dsimp only
  all_goals repeat'
    first
    | (with_reducible exact hz)
    | (with_reducible assumption)
    | (with_reducible apply State.retireLane_keeps)
    | (with_reducible apply State.nextWindow_keeps)
    | (with_reducible apply foldl_keeps)
    | split
    | (intro _)
    | (dsimp only)

theorem execLaneWindowEnd_keeps {x0 : LaneUnit} {x1 : List (Nat × Nat)} {x2 : State} {z : State} (hz : Keeps z x2) : KeepsOut z (execLaneWindowEnd x0 x1 x2) := by
  unfold execLaneWindowEnd; try dsimp only
  all_goals repeat'
    first
    | (with_reducible exact hz)
    | (with_reducible assumption)
    | (with_reducible apply KeepsOut.next)
    | (with_reducible apply KeepsOut.fault)
    | (with_reducible apply onUnit_keeps)
    | (with_reducible apply windowEnds_keeps)
    | split
    | (intro _)
    | (dsimp only)

theorem mclErrors_keeps {x0 : List (Nat × Nat)} {x1 : State} {z : State} (hz : Keeps z x1) : Keeps z (mclErrors x0 x1) := by
  unfold mclErrors; try dsimp only
  all_goals repeat'
    first
    | (with_reducible exact hz)
    | (with_reducible assumption)
    | (with_reducible apply State.countSymbols_keeps)
    | (with_reducible apply State.hearsWord_keeps)
    | (with_reducible apply State.countCodeword_keeps)
    | (with_reducible apply State.modMcl_keeps)
    | split
    | (intro _)
    | (dsimp only)

theorem execMclUncorrectableCodeword_keeps {x0 : List (Nat × Nat)} {x1 : State} {z : State} (hz : Keeps z x1) : KeepsOut z (execMclUncorrectableCodeword x0 x1) := by
  unfold execMclUncorrectableCodeword; try dsimp only
  all_goals repeat'
    first
    | (with_reducible exact hz)
    | (with_reducible assumption)
    | (with_reducible apply KeepsOut.next)
    | (with_reducible apply KeepsOut.fault)
    | (with_reducible apply mclErrors_keeps)
    | split
    | (intro _)
    | (dsimp only)

theorem mclSilent_keeps {x0 : State} {z : State} (hz : Keeps z x0) : Keeps z (mclSilent x0) := by
  unfold mclSilent; try dsimp only
  all_goals repeat'
    first
    | (with_reducible exact hz)
    | (with_reducible assumption)
    | (with_reducible apply State.modMcl_keeps)
    | split
    | (intro _)
    | (dsimp only)

theorem execMclAlignTimeout_keeps {x0 : State} {z : State} (hz : Keeps z x0) : KeepsOut z (execMclAlignTimeout x0) := by
  unfold execMclAlignTimeout; try dsimp only
  all_goals repeat'
    first
    | (with_reducible exact hz)
    | (with_reducible assumption)
    | (with_reducible apply KeepsOut.next)
    | (with_reducible apply KeepsOut.fault)
    | (with_reducible apply mclSilent_keeps)
    | split
    | (intro _)
    | (dsimp only)

theorem mclTrains_keeps {x0 : Nat} {x1 : Nat} {x2 : Bool} {x3 : State} {z : State} (hz : Keeps z x3) : Keeps z (mclTrains x0 x1 x2 x3) := by
  unfold mclTrains; try dsimp only
  all_goals repeat'
    first
    | (with_reducible exact hz)
    | (with_reducible assumption)
    | (with_reducible apply State.modMcl_keeps)
    | split
    | (intro _)
    | (dsimp only)

theorem execMclTrainingDone_keeps {x0 : Nat} {x1 : Nat} {x2 : Bool} {x3 : State} {z : State} (hz : Keeps z x3) : KeepsOut z (execMclTrainingDone x0 x1 x2 x3) := by
  unfold execMclTrainingDone; try dsimp only
  all_goals repeat'
    first
    | (with_reducible exact hz)
    | (with_reducible assumption)
    | (with_reducible apply KeepsOut.next)
    | (with_reducible apply KeepsOut.fault)
    | (with_reducible apply mclTrains_keeps)
    | split
    | (intro _)
    | (dsimp only)

theorem State.sendFrame_keeps {x0 : State} {x1 : Nat} {x2 : Nat} {x3 : Nat} {x4 : Nat} {x5 : FrameBody} {z : State} (hz : Keeps z x0) : Keeps z (State.sendFrame x0 x1 x2 x3 x4 x5) := by
  unfold State.sendFrame; try dsimp only
  all_goals repeat'
    first
    | (with_reducible exact hz)
    | (with_reducible assumption)
    | (with_reducible apply State.modPort_keeps)
    | split
    | (intro _)
    | (dsimp only)

theorem State.hearsPort_keeps {x0 : State} {x1 : Nat} {z : State} (hz : Keeps z x0) : Keeps z (State.hearsPort x0 x1) := by
  unfold State.hearsPort; try dsimp only
  all_goals repeat'
    first
    | (with_reducible exact hz)
    | (with_reducible assumption)
    | (with_reducible apply State.modPort_keeps)
    | split
    | (intro _)
    | (dsimp only)

theorem silent_keeps {x0 : Nat} {x1 : State} {z : State} (hz : Keeps z x1) : Keeps z (silent x0 x1) := by
  unfold silent; try dsimp only
  all_goals repeat'
    first
    | (with_reducible exact hz)
    | (with_reducible assumption)
    | (with_reducible apply State.modPort_keeps)
    | split
    | (intro _)
    | (dsimp only)

theorem execLinkAlignTimeout_keeps {x0 : Nat} {x1 : State} {z : State} (hz : Keeps z x1) : KeepsOut z (execLinkAlignTimeout x0 x1) := by
  unfold execLinkAlignTimeout; try dsimp only
  all_goals repeat'
    first
    | (with_reducible exact hz)
    | (with_reducible assumption)
    | (with_reducible apply KeepsOut.next)
    | (with_reducible apply KeepsOut.fault)
    | (with_reducible apply onUnit_keeps)
    | (with_reducible apply silent_keeps)
    | split
    | (intro _)
    | (dsimp only)

theorem execHoldTimeout_keeps {x0 : Nat} {x1 : State} {z : State} (hz : Keeps z x1) : KeepsOut z (execHoldTimeout x0 x1) := by
  unfold execHoldTimeout; try dsimp only
  all_goals repeat'
    first
    | (with_reducible exact hz)
    | (with_reducible assumption)
    | (with_reducible apply KeepsOut.next)
    | (with_reducible apply KeepsOut.fault)
    | (with_reducible apply onUnit_keeps)
    | (with_reducible apply silent_keeps)
    | split
    | (intro _)
    | (dsimp only)

theorem execLinkRetrainRetry_keeps {x0 : Nat} {x1 : Bool} {x2 : State} {z : State} (hz : Keeps z x2) : KeepsOut z (execLinkRetrainRetry x0 x1 x2) := by
  unfold execLinkRetrainRetry; try dsimp only
  all_goals repeat'
    first
    | (with_reducible exact hz)
    | (with_reducible assumption)
    | (with_reducible apply KeepsOut.next)
    | (with_reducible apply KeepsOut.fault)
    | (with_reducible apply onUnit_keeps)
    | (with_reducible apply State.modPort_keeps)
    | split
    | (intro _)
    | (dsimp only)

theorem execLinkTrainingDone_keeps {x0 : Nat} {x1 : Bool} {x2 : Nat} {x3 : Nat} {x4 : State} {z : State} (hz : Keeps z x4) : KeepsOut z (execLinkTrainingDone x0 x1 x2 x3 x4) := by
  unfold execLinkTrainingDone; try dsimp only
  all_goals repeat'
    first
    | (with_reducible exact hz)
    | (with_reducible assumption)
    | (with_reducible apply KeepsOut.next)
    | (with_reducible apply KeepsOut.fault)
    | (with_reducible apply onUnit_keeps)
    | (with_reducible apply State.modPort_keeps)
    | split
    | (intro _)
    | (dsimp only)

theorem State.askResend_keeps {x0 : State} {x1 : Nat} {z : State} (hz : Keeps z x0) : Keeps z (State.askResend x0 x1) := by
  unfold State.askResend; try dsimp only
  all_goals repeat'
    first
    | (with_reducible exact hz)
    | (with_reducible assumption)
    | (with_reducible apply State.modPort_keeps)
    | split
    | (intro _)
    | (dsimp only)

theorem linkErrors_keeps {x0 : Nat} {x1 : List (Nat × Nat)} {x2 : State} {z : State} (hz : Keeps z x2) : Keeps z (linkErrors x0 x1 x2) := by
  unfold linkErrors; try dsimp only
  all_goals repeat'
    first
    | (with_reducible exact hz)
    | (with_reducible assumption)
    | (with_reducible apply State.countSymbols_keeps)
    | (with_reducible apply State.hearsPort_keeps)
    | (with_reducible apply State.countCodeword_keeps)
    | (with_reducible apply State.askResend_keeps)
    | split
    | (intro _)
    | (dsimp only)

theorem execLinkUncorrectableCodeword_keeps {x0 : Nat} {x1 : List (Nat × Nat)} {x2 : State} {z : State} (hz : Keeps z x2) : KeepsOut z (execLinkUncorrectableCodeword x0 x1 x2) := by
  unfold execLinkUncorrectableCodeword; try dsimp only
  all_goals repeat'
    first
    | (with_reducible exact hz)
    | (with_reducible assumption)
    | (with_reducible apply KeepsOut.next)
    | (with_reducible apply KeepsOut.fault)
    | (with_reducible apply onUnit_keeps)
    | (with_reducible apply linkErrors_keeps)
    | split
    | (intro _)
    | (dsimp only)

theorem State.passCredit_keeps {x0 : State} {x1 : Nat} {x2 : Nat} {z : State} (hz : Keeps z x0) : Keeps z (State.passCredit x0 x1 x2) := by
  unfold State.passCredit; try dsimp only
  all_goals repeat'
    first
    | (with_reducible exact hz)
    | (with_reducible assumption)
    | (with_reducible apply State.modPort_keeps)
    | split
    | (intro _)
    | (dsimp only)

theorem linkFrame_keeps {x0 : Nat} {x1 : FrameHead} {x2 : LinkInfo} {x3 : State} {z : State} (hz : Keeps z x3) : Keeps z (linkFrame x0 x1 x2 x3) := by
  unfold linkFrame; try dsimp only
  all_goals repeat'
    first
    | (with_reducible exact hz)
    | (with_reducible assumption)
    | (with_reducible apply State.askResend_keeps)
    | (with_reducible apply State.hearsPort_keeps)
    | (with_reducible apply State.modPort_keeps)
    | (with_reducible apply State.passCredit_keeps)
    | (with_reducible apply foldl_keeps)
    | split
    | (intro _)
    | (dsimp only)

theorem execLink_keeps {x0 : Nat} {x1 : FrameHead} {x2 : LinkInfo} {x3 : State} {z : State} (hz : Keeps z x3) : KeepsOut z (execLink x0 x1 x2 x3) := by
  unfold execLink; try dsimp only
  all_goals repeat'
    first
    | (with_reducible exact hz)
    | (with_reducible assumption)
    | (with_reducible apply KeepsOut.next)
    | (with_reducible apply KeepsOut.fault)
    | (with_reducible apply onUnit_keeps)
    | (with_reducible apply linkFrame_keeps)
    | split
    | (intro _)
    | (dsimp only)

end Sys2Proof.Machine
end

