-- ==== Sys2Proof/Laws/KeepAdmit.lean ====
section
/-! SUPPORT. What the operations of Machine/Admit.lean keep (Laws/Keeps.lean): one lemma for each. -/

set_option Elab.async false

namespace Sys2Proof.Machine

theorem State.stepTime_keeps_at {x0 : State} {x1 : Nat} {x2 : ServingRec} {x3 : Nat} {z : State} (hz : Keeps z x0) : Keeps z (State.stepTime x0 x1 x2 x3).2 := by
  unfold State.stepTime
  all_goals repeat'
    first
    | (with_reducible exact hz)
    | (with_reducible assumption)
    | (with_reducible apply State.draw_keeps_at)
    | split
    | (dsimp only)
    | (refine State.draw_keeps (by with_reducible assumption) ?_)
    | (intro _)
    | (dsimp only)

theorem State.stepTime_keeps {x0 : State} {x1 : Nat} {x2 : ServingRec} {x3 : Nat} {z t : State} {a : Nat} (h : State.stepTime x0 x1 x2 x3 = (a, t)) (hz : Keeps z x0) : Keeps z t := by
  have k := State.stepTime_keeps_at (x0 := x0) (x1 := x1) (x2 := x2) (x3 := x3) hz
  rw [h] at k; exact k

theorem State.timeOk_keeps_at {x0 : State} {x1 : Nat} {x2 : Ctx} {x3 : ServingRec} {x4 : Stream} {z : State} (hz : Keeps z x0) : Keeps z (State.timeOk x0 x1 x2 x3 x4).2 := by
  unfold State.timeOk
  all_goals repeat'
    first
    | (with_reducible exact hz)
    | (with_reducible assumption)
    | (with_reducible apply State.stepTime_keeps_at)
    | split
    | (dsimp only)
    | (refine State.stepTime_keeps (by with_reducible assumption) ?_)
    | (intro _)
    | (dsimp only)

theorem State.timeOk_keeps {x0 : State} {x1 : Nat} {x2 : Ctx} {x3 : ServingRec} {x4 : Stream} {z t : State} {a : Bool} (h : State.timeOk x0 x1 x2 x3 x4 = (a, t)) (hz : Keeps z x0) : Keeps z t := by
  have k := State.timeOk_keeps_at (x0 := x0) (x1 := x1) (x2 := x2) (x3 := x3) (x4 := x4) hz
  rw [h] at k; exact k

theorem State.settleServer_keeps {x0 : State} {x1 : Nat} {x2 : Nat} {z : State} (hz : Keeps z x0) : Keeps z (State.settleServer x0 x1 x2) := by
  unfold State.settleServer; try dsimp only
  all_goals repeat'
    first
    | (with_reducible exact hz)
    | (with_reducible assumption)
    | (with_reducible apply State.enterState_keeps)
    | (with_reducible apply State.makeReady_keeps)
    | split
    | (intro _)
    | (dsimp only)

theorem State.bindSlot_keeps {x0 : State} {x1 : Nat} {x2 : Nat} {x3 : Nat} {x4 : Stream} {z : State} (hz : Keeps z x0) : Keeps z (State.bindSlot x0 x1 x2 x3 x4) := by
  unfold State.bindSlot
  all_goals repeat'
    first
    | (with_reducible exact hz)
    | (with_reducible assumption)
    | (with_reducible apply State.draw_keeps_at)
    | (with_reducible apply State.settleServer_keeps)
    | (with_reducible apply State.modCtx_keeps)
    | split
    | (dsimp only)
    | (refine State.draw_keeps (by with_reducible assumption) ?_)
    | (intro _)
    | (dsimp only)

theorem State.retireQueued_keeps {x0 : State} {x1 : Nat} {x2 : Nat} {x3 : Stream} {x4 : Nat} {z : State} (hz : Keeps z x0) : Keeps z (State.retireQueued x0 x1 x2 x3 x4) := by
  unfold State.retireQueued; try dsimp only
  all_goals repeat'
    first
    | (with_reducible exact hz)
    | (with_reducible assumption)
    | (with_reducible apply State.retireStream_keeps)
    | (with_reducible apply State.dropExpiries_keeps)
    | (with_reducible apply State.settleServer_keeps)
    | (with_reducible apply State.modCtx_keeps)
    | split
    | (intro _)
    | (dsimp only)

theorem State.passClass_keeps_at {x0 : State} {x1 : Nat} {x2 : Nat} {x3 : Nat} {z : State} (hz : Keeps z x0) : Keeps z (State.passClass x0 x1 x2 x3).1 := by
  induction x3 generalizing x0 x1 x2
  · unfold State.passClass
    all_goals repeat'
      first
      | (with_reducible exact hz)
      | (with_reducible assumption)
      | (with_reducible apply State.timeOk_keeps_at)
      | (with_reducible apply State.bindSlot_keeps)
      | (with_reducible apply State.postEvent_keeps)
      | (with_reducible apply State.retireQueued_keeps)
      | split
      | (dsimp only)
      | (refine State.timeOk_keeps (by with_reducible assumption) ?_)
      | (intro _)
      | (dsimp only)
  · rename_i ih; unfold State.passClass
    all_goals repeat'
      first
      | (with_reducible exact hz)
      | (with_reducible assumption)
      | (with_reducible apply State.timeOk_keeps_at)
      | (with_reducible apply State.bindSlot_keeps)
      | (with_reducible apply State.postEvent_keeps)
      | (with_reducible apply State.retireQueued_keeps)
      | (with_reducible apply ih)
      | split
      | (dsimp only)
      | (refine State.timeOk_keeps (by with_reducible assumption) ?_)
      | (intro _)
      | (dsimp only)

theorem State.passClass_keeps {x0 : State} {x1 : Nat} {x2 : Nat} {x3 : Nat} {z t : State} {a : Bool} (h : State.passClass x0 x1 x2 x3 = (t, a)) (hz : Keeps z x0) : Keeps z t := by
  have k := State.passClass_keeps_at (x0 := x0) (x1 := x1) (x2 := x2) (x3 := x3) hz
  rw [h] at k; exact k

theorem State.passClasses_keeps {x0 : State} {x1 : Nat} {x2 : List Nat} {z : State} (hz : Keeps z x0) : Keeps z (State.passClasses x0 x1 x2) := by
  induction x2 generalizing x0 x1
  · unfold State.passClasses
    all_goals repeat'
      first
      | (with_reducible exact hz)
      | (with_reducible assumption)
      | (with_reducible apply State.passClass_keeps_at)
      | split
      | (dsimp only)
      | (refine State.passClass_keeps (by with_reducible assumption) ?_)
      | (intro _)
      | (dsimp only)
  · rename_i ih; unfold State.passClasses
    all_goals repeat'
      first
      | (with_reducible exact hz)
      | (with_reducible assumption)
      | (with_reducible apply State.passClass_keeps_at)
      | (with_reducible apply ih)
      | split
      | (dsimp only)
      | (refine State.passClass_keeps (by with_reducible assumption) ?_)
      | (intro _)
      | (dsimp only)

theorem State.queuePass_keeps {x0 : State} {x1 : Nat} {z : State} (hz : Keeps z x0) : Keeps z (State.queuePass x0 x1) := by
  unfold State.queuePass; try dsimp only
  all_goals repeat'
    first
    | (with_reducible exact hz)
    | (with_reducible assumption)
    | (with_reducible apply State.passClasses_keeps)
    | split
    | (intro _)
    | (dsimp only)

theorem refuseAdmit_keeps {x0 : State} {x1 : Nat} {z : State} (hz : Keeps z x0) : Keeps z (refuseAdmit x0 x1).s := by
  unfold refuseAdmit; try dsimp only
  all_goals repeat'
    first
    | (with_reducible exact hz)
    | (with_reducible assumption)
    | split
    | (intro _)
    | (dsimp only)

theorem actAdmit_keeps {x0 : Nat} {x1 : Nat} {x2 : AdmitFields} {x3 : State} {z : State} (hz : Keeps z x3) : Keeps z (actAdmit x0 x1 x2 x3).s := by
  unfold actAdmit
  all_goals repeat'
    first
    | (with_reducible exact hz)
    | (with_reducible assumption)
    | (with_reducible apply refuseAdmit_keeps)
    | (with_reducible apply State.addExpiry_keeps)
    | (with_reducible apply State.timeOk_keeps_at)
    | (with_reducible apply Taken.ok_keeps)
    | (with_reducible apply State.bindSlot_keeps)
    | (with_reducible apply State.settleServer_keeps)
    | (with_reducible apply State.modCtx_keeps)
    | split
    | (dsimp only)
    | (refine State.timeOk_keeps (by with_reducible assumption) ?_)
    | (with_reducible apply keeps_rec)
    | (with_reducible exact Nat.le_refl _)
    | (with_reducible exact List.suffix_refl _)
    | (with_reducible exact id)
    | (with_reducible exact rfl)
    | (intro _)
    | (dsimp only)

theorem execAdmitLetter_keeps {x0 : Nat} {x1 : LetterHead} {x2 : AdmitFields} {x3 : State} {z : State} (hz : Keeps z x3) : KeepsOut z (execAdmitLetter x0 x1 x2 x3) := by
  unfold execAdmitLetter; try dsimp only
  all_goals repeat'
    first
    | (with_reducible exact hz)
    | (with_reducible assumption)
    | (with_reducible apply KeepsOut.next)
    | (with_reducible apply KeepsOut.fault)
    | (with_reducible apply onUnit_keeps)
    | (with_reducible apply State.takeLetter_keeps)
    | (with_reducible apply actAdmit_keeps)
    | split
    | (intro _)
    | (dsimp only)

theorem actCancel_keeps {x0 : Nat} {x1 : Nat} {x2 : State} {z : State} (hz : Keeps z x2) : Keeps z (actCancel x0 x1 x2).s := by
  unfold actCancel; try dsimp only
  all_goals repeat'
    first
    | (with_reducible exact hz)
    | (with_reducible assumption)
    | (with_reducible apply Taken.refuse_keeps)
    | (with_reducible apply Taken.ok_keeps)
    | (with_reducible apply State.retireQueued_keeps)
    | (with_reducible apply State.modCtx_keeps)
    | split
    | (intro _)
    | (dsimp only)

theorem execCancel_keeps {x0 : Nat} {x1 : LetterHead} {x2 : State} {z : State} (hz : Keeps z x2) : KeepsOut z (execCancel x0 x1 x2) := by
  unfold execCancel; try dsimp only
  all_goals repeat'
    first
    | (with_reducible exact hz)
    | (with_reducible assumption)
    | (with_reducible apply KeepsOut.next)
    | (with_reducible apply KeepsOut.fault)
    | (with_reducible apply onUnit_keeps)
    | (with_reducible apply State.takeLetter_keeps)
    | (with_reducible apply actCancel_keeps)
    | split
    | (intro _)
    | (dsimp only)

theorem actRequestRead_keeps {x0 : Nat} {x1 : Nat} {x2 : State} {z : State} (hz : Keeps z x2) : Keeps z (actRequestRead x0 x1 x2).s := by
  unfold actRequestRead; try dsimp only
  all_goals repeat'
    first
    | (with_reducible exact hz)
    | (with_reducible assumption)
    | (with_reducible apply Taken.ok_keeps)
    | (with_reducible apply Taken.refuse_keeps)
    | split
    | (intro _)
    | (dsimp only)

theorem execRequestRead_keeps {x0 : Nat} {x1 : LetterHead} {x2 : State} {z : State} (hz : Keeps z x2) : KeepsOut z (execRequestRead x0 x1 x2) := by
  unfold execRequestRead; try dsimp only
  all_goals repeat'
    first
    | (with_reducible exact hz)
    | (with_reducible assumption)
    | (with_reducible apply KeepsOut.next)
    | (with_reducible apply KeepsOut.fault)
    | (with_reducible apply onUnit_keeps)
    | (with_reducible apply State.takeLetter_keeps)
    | (with_reducible apply actRequestRead_keeps)
    | split
    | (intro _)
    | (dsimp only)

theorem deadlineExpires_keeps {x0 : Nat} {x1 : Nat} {x2 : State} {z : State} (hz : Keeps z x2) : Keeps z (deadlineExpires x0 x1 x2) := by
  unfold deadlineExpires; try dsimp only
  all_goals repeat'
    first
    | (with_reducible exact hz)
    | (with_reducible assumption)
    | (with_reducible apply State.takeExpiry_keeps)
    | (with_reducible apply State.retireQueued_keeps)
    | (with_reducible apply State.modCtx_keeps)
    | split
    | (refine (State.takeExpiry_keeps ?_).of _ (by with_reducible assumption))
    | (intro _)
    | (dsimp only)

theorem execDeadlineExpiry_keeps {x0 : Nat} {x1 : Nat} {x2 : State} {z : State} (hz : Keeps z x2) : KeepsOut z (execDeadlineExpiry x0 x1 x2) := by
  unfold execDeadlineExpiry; try dsimp only
  all_goals repeat'
    first
    | (with_reducible exact hz)
    | (with_reducible assumption)
    | (with_reducible apply KeepsOut.next)
    | (with_reducible apply KeepsOut.fault)
    | (with_reducible apply onUnit_keeps)
    | (with_reducible apply deadlineExpires_keeps)
    | split
    | (intro _)
    | (dsimp only)

theorem State.outgoing_keeps_at {x0 : State} {x1 : Nat} {z : State} (hz : Keeps z x0) : Keeps z (State.outgoing x0 x1).2 := by
  unfold State.outgoing
  all_goals repeat'
    first
    | (with_reducible exact hz)
    | (with_reducible assumption)
    | (with_reducible apply State.draw_keeps_at)
    | split
    | (dsimp only)
    | (refine State.draw_keeps (by with_reducible assumption) ?_)
    | (intro _)
    | (dsimp only)

theorem State.outgoing_keeps {x0 : State} {x1 : Nat} {z t : State} {a : Nat} (h : State.outgoing x0 x1 = (a, t)) (hz : Keeps z x0) : Keeps z t := by
  have k := State.outgoing_keeps_at (x0 := x0) (x1 := x1) hz
  rw [h] at k; exact k

theorem State.swapEnds_keeps {x0 : State} {x1 : Nat} {x2 : Nat} {z : State} (hz : Keeps z x0) : Keeps z (State.swapEnds x0 x1 x2) := by
  unfold State.swapEnds; try dsimp only
  all_goals repeat'
    first
    | (with_reducible exact hz)
    | (with_reducible assumption)
    | (with_reducible apply State.modPd_keeps)
    | (with_reducible apply State.queuePass_keeps)
    | (with_reducible apply State.postEvent_keeps)
    | (with_reducible apply foldl_keeps)
    | split
    | (intro _)
    | (dsimp only)

theorem State.loadWeights_keeps {x0 : State} {x1 : Nat} {x2 : Nat} {x3 : List Nat} {z : State} (hz : Keeps z x0) : Keeps z (State.loadWeights x0 x1 x2 x3) := by
  induction x3 generalizing x0 x1 x2
  · unfold State.loadWeights; try dsimp only
    all_goals repeat'
      first
      | (with_reducible exact hz)
      | (with_reducible assumption)
      | (with_reducible apply State.modCtx_keeps)
      | (with_reducible apply State.addJob_keeps)
      | (with_reducible apply State.launch_keeps)
      | split
      | (intro _)
      | (dsimp only)
  · rename_i ih; unfold State.loadWeights; try dsimp only
    all_goals repeat'
      first
      | (with_reducible exact hz)
      | (with_reducible assumption)
      | (with_reducible apply State.modCtx_keeps)
      | (with_reducible apply State.addJob_keeps)
      | (with_reducible apply State.launch_keeps)
      | (with_reducible apply ih)
      | split
      | (intro _)
      | (dsimp only)

theorem swapsModel_keeps {x0 : Nat} {x1 : State} {z : State} (hz : Keeps z x1) : Keeps z (swapsModel x0 x1) := by
  unfold swapsModel
  all_goals repeat'
    first
    | (with_reducible exact hz)
    | (with_reducible assumption)
    | (with_reducible apply State.outgoing_keeps_at)
    | (with_reducible apply State.postEvent_keeps)
    | (with_reducible apply State.loadWeights_keeps)
    | (with_reducible apply State.modPd_keeps)
    | (with_reducible apply State.swapEnds_keeps)
    | split
    | (dsimp only)
    | (refine State.outgoing_keeps (by with_reducible assumption) ?_)
    | (intro _)
    | (dsimp only)

theorem execModelSwap_keeps {x0 : Nat} {x1 : State} {z : State} (hz : Keeps z x1) : KeepsOut z (execModelSwap x0 x1) := by
  unfold execModelSwap; try dsimp only
  all_goals repeat'
    first
    | (with_reducible exact hz)
    | (with_reducible assumption)
    | (with_reducible apply KeepsOut.next)
    | (with_reducible apply KeepsOut.fault)
    | (with_reducible apply onUnit_keeps)
    | (with_reducible apply swapsModel_keeps)
    | split
    | (intro _)
    | (dsimp only)

theorem State.loadEnds_keeps {x0 : State} {x1 : Nat} {x2 : Nat} {x3 : Nat} {z : State} (hz : Keeps z x0) : Keeps z (State.loadEnds x0 x1 x2 x3) := by
  unfold State.loadEnds; try dsimp only
  all_goals repeat'
    first
    | (with_reducible exact hz)
    | (with_reducible assumption)
    | (with_reducible apply State.recordRead_keeps)
    | (with_reducible apply State.modPd_keeps)
    | (with_reducible apply State.swapEnds_keeps)
    | (with_reducible apply State.loadWeights_keeps)
    | (with_reducible apply foldl_keeps)
    | split
    | (intro _)
    | (dsimp only)

end Sys2Proof.Machine
end

