-- ==== Sys2Proof/Laws/KeepSheds.lean ====
section
/-! SUPPORT. What the operations of Machine/Sheds.lean keep (Laws/Keeps.lean): one lemma for each. -/

set_option Elab.async false

namespace Sys2Proof.Machine

/-- A shed job whose start and pieces keep what every operation keeps. -/
structure ShedJob.Keeping (j : ShedJob) : Prop where
  start : ∀ {z s : State}, Keeps z s → KeepsE z (j.start s)
  step : ∀ {z s : State} {n : Nat}, Keeps z s → KeepsP z (j.step s n)


theorem State.shedFailure_keeps {x0 : State} {x1 : Nat} {x2 : List ShedFail} {x3 : ShedFail} {z : State} (hz : Keeps z x0) : Keeps z (State.shedFailure x0 x1 x2 x3) := by
  unfold State.shedFailure; try dsimp only
  all_goals repeat'
    first
    | (with_reducible exact hz)
    | (with_reducible assumption)
    | (with_reducible apply State.shedFails_keeps)
    | (with_reducible apply State.modShed_keeps)
    | split
    | (intro _)
    | (dsimp only)

theorem State.shedFailures_keeps {x0 : State} {x1 : Nat → Nat} {x2 : List ShedFail} {x3 : List ShedFail} {z : State} (hz : Keeps z x0) : Keeps z (State.shedFailures x0 x1 x2 x3) := by
  induction x3 generalizing x0 x1 x2
  · unfold State.shedFailures; try dsimp only
    all_goals repeat'
      first
      | (with_reducible exact hz)
      | (with_reducible assumption)
      | (with_reducible apply State.shedFailure_keeps)
      | split
      | (intro _)
      | (dsimp only)
  · rename_i ih; unfold State.shedFailures; try dsimp only
    all_goals repeat'
      first
      | (with_reducible exact hz)
      | (with_reducible assumption)
      | (with_reducible apply State.shedFailure_keeps)
      | (with_reducible apply ih)
      | split
      | (intro _)
      | (dsimp only)

theorem shedSteps_keeps_at {f : State → Nat → Except Nat (State × Nat)} {s z : State} {u fl n : Nat}
    (hf : ∀ {s n}, Keeps z s → KeepsP z (f s n)) (hz : Keeps z s) : Keeps z (shedSteps f s u fl n).1 := by
  induction n generalizing s u fl with
  | zero => exact hz
  | succ n ih =>
    unfold shedSteps
    split
    · exact hz
    · next h => exact ih ((hf hz).of _ h)

theorem State.shedWork_keeps {s z : State} {p c i n : Nat} {j : ShedJob} {pos flags : Nat} {fails : List ShedFail} (hj : j.Keeping)
    (hz : Keeps z s) : Keeps z (s.shedWork p c i n j pos flags fails) := by
  have h1 : ∀ k, Keeps z (shedSteps j.step s pos flags k).1 := fun k => shedSteps_keeps_at (fun h => hj.step h) hz
  unfold State.shedWork; dsimp only
  split
  · split
    · exact hz
    · exact State.haltJob_keeps (h1 _)
  · exact State.runOn_keeps (State.modCtx_keeps (h1 _))

theorem State.shedChecked_keeps {x0 : State} {x1 : ShedJob} {x2 : List ShedFail} {x3 : List ShedFail} {z : State} (hz : Keeps z x0) : Keeps z (State.shedChecked x0 x1 x2 x3) := by
  unfold State.shedChecked; try dsimp only
  all_goals repeat'
    first
    | (with_reducible exact hz)
    | (with_reducible assumption)
    | (with_reducible apply State.shedFailures_keeps)
    | split
    | (intro _)
    | (dsimp only)

theorem State.shedBegins_keeps {s z : State} {p c i : Nat} {j : ShedJob} {extra : List UnitId} (hj : j.Keeping) (hz : Keeps z s) :
    KeepsE z (s.shedBegins p c i j extra) := by
  unfold State.shedBegins
  split
  · exact .error _
  · next h => exact .ok (State.launch_keeps ((hj.start hz).of _ h))

theorem State.runSheds_keeps {s z : State} {p c i n : Nat} {x : Ctx} {f : Option Flight} {j : ShedJob} {extra : List UnitId}
    (hj : j.Keeping) (hz : Keeps z s) : Keeps z (s.runSheds p c i n x f j extra) := by
  have h1 : Keeps z (j.chs.foldl State.shedBoundary s) := foldl_keeps _ hz fun a x h => State.shedBoundary_keeps h
  unfold State.runSheds; dsimp only
  split
  · exact hz
  · split
    · split
      · exact State.haltJob_keeps (State.shedChecked_keeps hz)
      · exact State.shedWork_keeps hj (State.shedChecked_keeps hz)
    · split
      · exact hz
      · split
        · exact State.haltJob_keeps (State.shedChecked_keeps h1)
        · split
          · exact State.haltJob_keeps (State.shedChecked_keeps h1)
          · next h => exact State.shedWork_keeps hj ((State.shedBegins_keeps hj (State.shedChecked_keeps h1)).of _ h)

theorem State.shedVectors_keeps {x0 : State} {x1 : List Nat} {x2 : List Reg} {z : State} (hz : Keeps z x0) : Keeps z (State.shedVectors x0 x1 x2) := by
  unfold State.shedVectors; try dsimp only
  all_goals repeat'
    first
    | (with_reducible exact hz)
    | (with_reducible assumption)
    | (with_reducible apply State.modShed_keeps)
    | (with_reducible apply foldl_keeps)
    | split
    | (intro _)
    | (dsimp only)

theorem State.putMv_keeps {x0 : State} {x1 : Ctx} {x2 : MvRec} {x3 : Nat} {x4 : List (AccF × Nat)} {z : State} (hz : Keeps z x0) : KeepsP z (State.putMv x0 x1 x2 x3 x4) := by
  induction x4 generalizing x0 x1 x2 x3
  · unfold State.putMv; try dsimp only
    all_goals repeat'
      first
      | (with_reducible exact hz)
      | (with_reducible assumption)
      | (with_reducible apply KeepsP.ok)
      | (with_reducible apply KeepsP.pure)
      | (with_reducible apply KeepsP.error)
      | (with_reducible apply KeepsP.bindS)
      | (with_reducible apply KeepsP.bindP)
      | (with_reducible apply KeepsP.bind)
      | (with_reducible apply KeepsE.ok)
      | (with_reducible apply KeepsE.pure)
      | (with_reducible apply KeepsE.error)
      | (with_reducible apply KeepsE.bindS)
      | (with_reducible apply KeepsE.bindP)
      | (with_reducible apply KeepsE.bind)
      | (with_reducible apply State.storeBits_keeps)
      | split
      | (refine (State.storeBits_keeps ?_).of _ (by with_reducible assumption))
      | (intro _)
      | (dsimp only)
  · rename_i ih; unfold State.putMv; try dsimp only
    all_goals repeat'
      first
      | (with_reducible exact hz)
      | (with_reducible assumption)
      | (with_reducible apply KeepsP.ok)
      | (with_reducible apply KeepsP.pure)
      | (with_reducible apply KeepsP.error)
      | (with_reducible apply KeepsP.bindS)
      | (with_reducible apply KeepsP.bindP)
      | (with_reducible apply KeepsP.bind)
      | (with_reducible apply KeepsE.ok)
      | (with_reducible apply KeepsE.pure)
      | (with_reducible apply KeepsE.error)
      | (with_reducible apply KeepsE.bindS)
      | (with_reducible apply KeepsE.bindP)
      | (with_reducible apply KeepsE.bind)
      | (with_reducible apply State.storeBits_keeps)
      | (with_reducible apply ih)
      | split
      | (refine (State.storeBits_keeps ?_).of _ (by with_reducible assumption))
      | (intro _)
      | (dsimp only)

theorem State.mvRowAt_keeps {x0 : State} {x1 : Ctx} {x2 : MvRec} {x3 : Nat} {x4 : Nat} {z : State} (hz : Keeps z x0) : KeepsP z (State.mvRowAt x0 x1 x2 x3 x4) := by
  unfold State.mvRowAt; try dsimp only
  all_goals repeat'
    first
    | (with_reducible exact hz)
    | (with_reducible assumption)
    | (with_reducible apply KeepsP.ok)
    | (with_reducible apply KeepsP.pure)
    | (with_reducible apply KeepsP.error)
    | (with_reducible apply KeepsP.bindS)
    | (with_reducible apply KeepsP.bindP)
    | (with_reducible apply KeepsP.bind)
    | (with_reducible apply KeepsE.ok)
    | (with_reducible apply KeepsE.pure)
    | (with_reducible apply KeepsE.error)
    | (with_reducible apply KeepsE.bindS)
    | (with_reducible apply KeepsE.bindP)
    | (with_reducible apply KeepsE.bind)
    | (with_reducible apply State.putMv_keeps)
    | (with_reducible apply State.modShed_keeps)
    | split
    | (refine (State.putMv_keeps ?_).of _ (by with_reducible assumption))
    | (intro _)
    | (dsimp only)

theorem State.mvRows_keeps {x0 : State} {x1 : Ctx} {x2 : MvRec} {x3 : Nat} {x4 : Nat} {x5 : List Nat} {z : State} (hz : Keeps z x0) : KeepsP z (State.mvRows x0 x1 x2 x3 x4 x5) := by
  induction x5 generalizing x0 x1 x2 x3 x4
  · unfold State.mvRows; try dsimp only
    all_goals repeat'
      first
      | (with_reducible exact hz)
      | (with_reducible assumption)
      | (with_reducible apply KeepsP.ok)
      | (with_reducible apply KeepsP.error)
      | (with_reducible apply KeepsP.bindS)
      | (with_reducible apply KeepsP.bindP)
      | (with_reducible apply KeepsP.bind)
      | (with_reducible apply KeepsE.ok)
      | (with_reducible apply KeepsE.error)
      | (with_reducible apply KeepsE.bindS)
      | (with_reducible apply KeepsE.bindP)
      | (with_reducible apply KeepsE.bind)
      | (with_reducible apply State.mvRowAt_keeps)
      | split
      | (refine (State.mvRowAt_keeps ?_).of _ (by with_reducible assumption))
      | (intro _)
      | (dsimp only)
  · rename_i ih; unfold State.mvRows; try dsimp only
    all_goals repeat'
      first
      | (with_reducible exact hz)
      | (with_reducible assumption)
      | (with_reducible apply KeepsP.ok)
      | (with_reducible apply KeepsP.error)
      | (with_reducible apply KeepsP.bindS)
      | (with_reducible apply KeepsP.bindP)
      | (with_reducible apply KeepsP.bind)
      | (with_reducible apply KeepsE.ok)
      | (with_reducible apply KeepsE.error)
      | (with_reducible apply KeepsE.bindS)
      | (with_reducible apply KeepsE.bindP)
      | (with_reducible apply KeepsE.bind)
      | (with_reducible apply State.mvRowAt_keeps)
      | (with_reducible apply ih)
      | split
      | (refine (State.mvRowAt_keeps ?_).of _ (by with_reducible assumption))
      | (intro _)
      | (dsimp only)

theorem State.mvJob_keeping (x : Ctx) (r : MvRec) (k : Nat) (fails : List ShedFail) : (State.mvJob x r k fails).Keeping :=
  ⟨fun h => KeepsE.mapS fun _ => State.shedVectors_keeps h, fun h => State.mvRows_keeps h⟩

theorem shedMv_keeps {p c i n : Nat} {fails : List ShedFail} {s z : State} (hz : Keeps z s) : Keeps z (shedMv p c i n fails s) := by
  unfold shedMv
  split
  · split
    · exact State.haltJob_keeps hz
    · exact State.runSheds_keeps (State.mvJob_keeping ..) hz
  · exact hz

theorem execSMv_keeps {x0 : Nat} {x1 : Nat} {x2 : Nat} {x3 : Nat} {x4 : List ShedFail} {x5 : State} {z : State} (hz : Keeps z x5) : KeepsOut z (execSMv x0 x1 x2 x3 x4 x5) := by
  unfold execSMv; try dsimp only
  all_goals repeat'
    first
    | (with_reducible exact hz)
    | (with_reducible assumption)
    | (with_reducible apply KeepsOut.next)
    | (with_reducible apply KeepsOut.fault)
    | (with_reducible apply onUnit_keeps)
    | (with_reducible apply shedMv_keeps)
    | split
    | (intro _)
    | (dsimp only)

theorem State.putRun_keeps {x0 : State} {x1 : Ctx} {x2 : Nat} {x3 : Desc} {x4 : Nat} {x5 : List Nat} {z : State} (hz : Keeps z x0) : KeepsE z (State.putRun x0 x1 x2 x3 x4 x5) := by
  unfold State.putRun; try dsimp only
  all_goals repeat'
    first
    | (with_reducible exact hz)
    | (with_reducible assumption)
    | (with_reducible apply KeepsE.ok)
    | (with_reducible apply KeepsE.error)
    | (with_reducible apply KeepsP.ok)
    | (with_reducible apply KeepsP.error)
    | (with_reducible apply State.storeAll_keeps)
    | split
    | (refine (State.storeAll_keeps ?_).of _ (by with_reducible assumption))
    | (intro _)
    | (dsimp only)

theorem State.putAttn_keeps {x0 : State} {x1 : Ctx} {x2 : AttnRec} {x3 : Nat} {x4 : Nat} {x5 : AttnPart} {z : State} (hz : Keeps z x0) : KeepsP z (State.putAttn x0 x1 x2 x3 x4 x5) := by
  unfold State.putAttn; try dsimp only
  all_goals repeat'
    first
    | (with_reducible exact hz)
    | (with_reducible assumption)
    | (with_reducible apply KeepsP.ok)
    | (with_reducible apply KeepsP.pure)
    | (with_reducible apply KeepsP.error)
    | (with_reducible apply KeepsP.bindS)
    | (with_reducible apply KeepsP.bindP)
    | (with_reducible apply KeepsP.bind)
    | (with_reducible apply KeepsE.ok)
    | (with_reducible apply KeepsE.pure)
    | (with_reducible apply KeepsE.error)
    | (with_reducible apply KeepsE.bindS)
    | (with_reducible apply KeepsE.bindP)
    | (with_reducible apply KeepsE.bind)
    | (with_reducible apply State.putRun_keeps)
    | split
    | (refine (State.putRun_keeps ?_).of _ (by with_reducible assumption))
    | (intro _)
    | (dsimp only)

theorem State.shedDoes_keeps_at {x0 : State} {x1 : Nat} {x2 : Shed → Shed × Nat} {z : State} (hz : Keeps z x0) : Keeps z (State.shedDoes x0 x1 x2).1 := by
  unfold State.shedDoes; try dsimp only
  all_goals repeat'
    first
    | (with_reducible exact hz)
    | (with_reducible assumption)
    | (with_reducible apply State.modShed_keeps)
    | split
    | (intro _)
    | (dsimp only)

theorem State.shedDoes_keeps {x0 : State} {x1 : Nat} {x2 : Shed → Shed × Nat} {z t : State} {a : Nat} (h : State.shedDoes x0 x1 x2 = (t, a)) (hz : Keeps z x0) : Keeps z t := by
  have k := State.shedDoes_keeps_at (x0 := x0) (x1 := x1) (x2 := x2) hz
  rw [h] at k; exact k

theorem State.attnOut_keeps {x0 : State} {x1 : Ctx} {x2 : AttnRec} {x3 : Nat} {x4 : Nat} {x5 : List Nat} {z : State} (hz : Keeps z x0) : KeepsP z (State.attnOut x0 x1 x2 x3 x4 x5) := by
  induction x5 generalizing x0 x1 x2 x3 x4
  · unfold State.attnOut; try dsimp only
    all_goals repeat'
      first
      | (with_reducible exact hz)
      | (with_reducible assumption)
      | (with_reducible apply KeepsP.ok)
      | (with_reducible apply KeepsP.pure)
      | (with_reducible apply KeepsP.error)
      | (with_reducible apply KeepsP.bindS)
      | (with_reducible apply KeepsP.bindP)
      | (with_reducible apply KeepsP.bind)
      | (with_reducible apply KeepsE.ok)
      | (with_reducible apply KeepsE.pure)
      | (with_reducible apply KeepsE.error)
      | (with_reducible apply KeepsE.bindS)
      | (with_reducible apply KeepsE.bindP)
      | (with_reducible apply KeepsE.bind)
      | (with_reducible apply State.putAttn_keeps)
      | (with_reducible apply State.modShed_keeps)
      | split
      | (refine (State.putAttn_keeps ?_).of _ (by with_reducible assumption))
      | (intro _)
      | (dsimp only)
  · rename_i ih; unfold State.attnOut; try dsimp only
    all_goals repeat'
      first
      | (with_reducible exact hz)
      | (with_reducible assumption)
      | (with_reducible apply KeepsP.ok)
      | (with_reducible apply KeepsP.pure)
      | (with_reducible apply KeepsP.error)
      | (with_reducible apply KeepsP.bindS)
      | (with_reducible apply KeepsP.bindP)
      | (with_reducible apply KeepsP.bind)
      | (with_reducible apply KeepsE.ok)
      | (with_reducible apply KeepsE.pure)
      | (with_reducible apply KeepsE.error)
      | (with_reducible apply KeepsE.bindS)
      | (with_reducible apply KeepsE.bindP)
      | (with_reducible apply KeepsE.bind)
      | (with_reducible apply State.putAttn_keeps)
      | (with_reducible apply State.modShed_keeps)
      | (with_reducible apply ih)
      | split
      | (refine (State.putAttn_keeps ?_).of _ (by with_reducible assumption))
      | (intro _)
      | (dsimp only)

theorem State.attnBlock_keeps {x0 : State} {x1 : Ctx} {x2 : AttnRec} {x3 : Nat × Bool × Nat} {z : State} (hz : Keeps z x0) : KeepsP z (State.attnBlock x0 x1 x2 x3) := by
  unfold State.attnBlock
  all_goals repeat'
    first
    | (with_reducible exact hz)
    | (with_reducible assumption)
    | (with_reducible apply KeepsP.ok)
    | (with_reducible apply KeepsP.pure)
    | (with_reducible apply KeepsP.error)
    | (with_reducible apply KeepsP.bindS)
    | (with_reducible apply KeepsP.bindP)
    | (with_reducible apply KeepsP.bind)
    | (with_reducible apply KeepsE.ok)
    | (with_reducible apply KeepsE.pure)
    | (with_reducible apply KeepsE.error)
    | (with_reducible apply KeepsE.bindS)
    | (with_reducible apply KeepsE.bindP)
    | (with_reducible apply KeepsE.bind)
    | (with_reducible apply State.shedDoes_keeps_at)
    | (with_reducible apply State.attnOut_keeps)
    | split
    | (dsimp only)
    | (refine State.shedDoes_keeps (by with_reducible assumption) ?_)
    | (refine (State.attnOut_keeps ?_).of _ (by with_reducible assumption))
    | (intro _)
    | (dsimp only)

theorem State.attnJob_keeping (x : Ctx) (r : AttnRec) (chs : List Nat) (fails : List ShedFail) : (State.attnJob x r chs fails).Keeping :=
  ⟨fun h => KeepsE.mapS fun _ => State.shedVectors_keeps h, fun h => State.attnBlock_keeps h⟩

theorem shedAttn_keeps {p c i n : Nat} {fails : List ShedFail} {s z : State} (hz : Keeps z s) : Keeps z (shedAttn p c i n fails s) := by
  unfold shedAttn
  split
  · split
    · exact hz
    · split
      · exact State.haltJob_keeps hz
      · exact ite_keeps (State.haltJob_keeps hz) (State.runSheds_keeps (State.attnJob_keeping ..) hz)
  · exact hz

theorem execSAttn_keeps {x0 : Nat} {x1 : Nat} {x2 : Nat} {x3 : Nat} {x4 : List ShedFail} {x5 : State} {z : State} (hz : Keeps z x5) : KeepsOut z (execSAttn x0 x1 x2 x3 x4 x5) := by
  unfold execSAttn; try dsimp only
  all_goals repeat'
    first
    | (with_reducible exact hz)
    | (with_reducible assumption)
    | (with_reducible apply KeepsOut.next)
    | (with_reducible apply KeepsOut.fault)
    | (with_reducible apply onUnit_keeps)
    | (with_reducible apply shedAttn_keeps)
    | split
    | (intro _)
    | (dsimp only)

theorem State.combHeads_keeps {x0 : State} {x1 : Ctx} {x2 : AcombRec} {x3 : List Nat} {z : State} (hz : Keeps z x0) : KeepsP z (State.combHeads x0 x1 x2 x3) := by
  induction x3 generalizing x0 x1 x2
  · unfold State.combHeads; try dsimp only
    all_goals repeat'
      first
      | (with_reducible exact hz)
      | (with_reducible assumption)
      | (with_reducible apply KeepsP.ok)
      | (with_reducible apply KeepsP.pure)
      | (with_reducible apply KeepsP.error)
      | (with_reducible apply KeepsP.bindS)
      | (with_reducible apply KeepsP.bindP)
      | (with_reducible apply KeepsP.bind)
      | (with_reducible apply KeepsE.ok)
      | (with_reducible apply KeepsE.pure)
      | (with_reducible apply KeepsE.error)
      | (with_reducible apply KeepsE.bindS)
      | (with_reducible apply KeepsE.bindP)
      | (with_reducible apply KeepsE.bind)
      | (with_reducible apply State.putRun_keeps)
      | (with_reducible apply foldl_keeps)
      | split
      | (refine (State.putRun_keeps ?_).of _ (by with_reducible assumption))
      | (intro _)
      | (dsimp only)
  · rename_i ih; unfold State.combHeads; try dsimp only
    all_goals repeat'
      first
      | (with_reducible exact hz)
      | (with_reducible assumption)
      | (with_reducible apply KeepsP.ok)
      | (with_reducible apply KeepsP.pure)
      | (with_reducible apply KeepsP.error)
      | (with_reducible apply KeepsP.bindS)
      | (with_reducible apply KeepsP.bindP)
      | (with_reducible apply KeepsP.bind)
      | (with_reducible apply KeepsE.ok)
      | (with_reducible apply KeepsE.pure)
      | (with_reducible apply KeepsE.error)
      | (with_reducible apply KeepsE.bindS)
      | (with_reducible apply KeepsE.bindP)
      | (with_reducible apply KeepsE.bind)
      | (with_reducible apply State.putRun_keeps)
      | (with_reducible apply foldl_keeps)
      | (with_reducible apply ih)
      | split
      | (refine (State.putRun_keeps ?_).of _ (by with_reducible assumption))
      | (intro _)
      | (dsimp only)

theorem State.acombJob_keeping (x : Ctx) (r : AcombRec) : (State.acombJob x r).Keeping :=
  ⟨fun h => .ok h, fun h => State.combHeads_keeps h⟩

theorem shedAcomb_keeps {p c i n : Nat} {s z : State} (hz : Keeps z s) : Keeps z (shedAcomb p c i n s) := by
  unfold shedAcomb
  split
  · split
    · exact State.runSheds_keeps (State.acombJob_keeping ..) hz
    · exact State.haltJob_keeps hz
  · exact hz

theorem execSAcomb_keeps {x0 : Nat} {x1 : Nat} {x2 : Nat} {x3 : Nat} {x4 : State} {z : State} (hz : Keeps z x4) : KeepsOut z (execSAcomb x0 x1 x2 x3 x4) := by
  unfold execSAcomb; try dsimp only
  all_goals repeat'
    first
    | (with_reducible exact hz)
    | (with_reducible assumption)
    | (with_reducible apply KeepsOut.next)
    | (with_reducible apply KeepsOut.fault)
    | (with_reducible apply onUnit_keeps)
    | (with_reducible apply shedAcomb_keeps)
    | split
    | (intro _)
    | (dsimp only)

theorem State.copyRun_keeps {x0 : State} {x1 : Ctx} {x2 : CopyRec} {x3 : Nat} {x4 : Nat} {z : State} (hz : Keeps z x0) : KeepsE z (State.copyRun x0 x1 x2 x3 x4) := by
  unfold State.copyRun; try dsimp only
  all_goals repeat'
    first
    | (with_reducible exact hz)
    | (with_reducible assumption)
    | (with_reducible apply KeepsE.ok)
    | (with_reducible apply KeepsE.error)
    | (with_reducible apply KeepsE.bindS)
    | (with_reducible apply KeepsE.bindP)
    | (with_reducible apply KeepsE.bind)
    | (with_reducible apply KeepsP.ok)
    | (with_reducible apply KeepsP.error)
    | (with_reducible apply KeepsP.bindS)
    | (with_reducible apply KeepsP.bindP)
    | (with_reducible apply KeepsP.bind)
    | (with_reducible apply State.storeAll_keeps)
    | (with_reducible apply State.store_keeps)
    | split
    | (refine (State.storeAll_keeps ?_).of _ (by with_reducible assumption))
    | (refine (State.store_keeps ?_).of _ (by with_reducible assumption))
    | (intro _)
    | (dsimp only)

theorem State.copyBursts_keeps_at {x0 : State} {x1 : Ctx} {x2 : CopyRec} {x3 : Bool} {x4 : List (Nat × Nat)} {z : State} (hz : Keeps z x0) : Keeps z (State.copyBursts x0 x1 x2 x3 x4).1 := by
  induction x4 generalizing x0 x1 x2 x3
  · unfold State.copyBursts; try dsimp only
    all_goals repeat'
      first
      | (with_reducible exact hz)
      | (with_reducible assumption)
      | (with_reducible apply State.copyRun_keeps)
      | split
      | (refine (State.copyRun_keeps ?_).of _ (by with_reducible assumption))
      | (intro _)
      | (dsimp only)
  · rename_i ih; unfold State.copyBursts; try dsimp only
    all_goals repeat'
      first
      | (with_reducible exact hz)
      | (with_reducible assumption)
      | (with_reducible apply State.copyRun_keeps)
      | (with_reducible apply ih)
      | split
      | (refine (State.copyRun_keeps ?_).of _ (by with_reducible assumption))
      | (intro _)
      | (dsimp only)

theorem State.copyBursts_keeps {x0 : State} {x1 : Ctx} {x2 : CopyRec} {x3 : Bool} {x4 : List (Nat × Nat)} {z t : State} {a : Option Nat} (h : State.copyBursts x0 x1 x2 x3 x4 = (t, a)) (hz : Keeps z x0) : Keeps z t := by
  have k := State.copyBursts_keeps_at (x0 := x0) (x1 := x1) (x2 := x2) (x3 := x3) (x4 := x4) hz
  rw [h] at k; exact k

theorem orCause_keeps {t : State × Option Nat} {z : State} (h : Keeps z t.1) : KeepsP z (orCause t) := by
  unfold orCause
  split
  · exact .error _
  · exact .ok h

theorem State.copyDead_keeps_at {x0 : State} {x1 : Ctx} {x2 : CopyRec} {z : State} (hz : Keeps z x0) : Keeps z (State.copyDead x0 x1 x2).1 := by
  unfold State.copyDead
  all_goals repeat'
    first
    | (with_reducible exact hz)
    | (with_reducible assumption)
    | (with_reducible apply State.copyBursts_keeps_at)
    | split
    | (dsimp only)
    | (refine State.copyBursts_keeps (by with_reducible assumption) ?_)
    | (intro _)
    | (dsimp only)

theorem State.copyDead_keeps {x0 : State} {x1 : Ctx} {x2 : CopyRec} {z t : State} {a : Option Nat} (h : State.copyDead x0 x1 x2 = (t, a)) (hz : Keeps z x0) : Keeps z t := by
  have k := State.copyDead_keeps_at (x0 := x0) (x1 := x1) (x2 := x2) hz
  rw [h] at k; exact k

theorem State.deadGranules_keeps {x0 : State} {x1 : Nat} {x2 : Nat} {x3 : Nat} {x4 : Nat} {z : State} (hz : Keeps z x0) : Keeps z (State.deadGranules x0 x1 x2 x3 x4) := by
  unfold State.deadGranules; try dsimp only
  all_goals repeat'
    first
    | (with_reducible exact hz)
    | (with_reducible assumption)
    | (with_reducible apply State.addJob_keeps)
    | (with_reducible apply State.modPd_keeps)
    | split
    | (intro _)
    | (dsimp only)

theorem State.copyJob_keeping (x : Ctx) (r : CopyRec) (k : Nat) : (State.copyJob x r k).Keeping :=
  ⟨fun h => .ok h, fun h => orCause_keeps (State.copyBursts_keeps_at h)⟩

theorem shedCopy_keeps {p c i n : Nat} {s z : State} (hz : Keeps z s) : Keeps z (shedCopy p c i n s) := by
  have h1 : ∀ (x : Ctx) (f : Option Flight) (r : CopyRec) (k : Nat) (extra : List UnitId),
      Keeps z (s.runSheds p c i n x f (State.copyJob x r k) extra) := fun x f r k extra => State.runSheds_keeps (State.copyJob_keeping x r k) hz
  unfold shedCopy; dsimp only
  split
  · split
    · exact State.haltJob_keeps hz
    · exact ite_keeps (State.addJob_keeps (h1 ..)) (State.deadGranules_keeps (h1 ..))
  · exact hz

theorem execSCopy_keeps {x0 : Nat} {x1 : Nat} {x2 : Nat} {x3 : Nat} {x4 : State} {z : State} (hz : Keeps z x4) : KeepsOut z (execSCopy x0 x1 x2 x3 x4) := by
  unfold execSCopy; try dsimp only
  all_goals repeat'
    first
    | (with_reducible exact hz)
    | (with_reducible assumption)
    | (with_reducible apply KeepsOut.next)
    | (with_reducible apply KeepsOut.fault)
    | (with_reducible apply onUnit_keeps)
    | (with_reducible apply shedCopy_keeps)
    | split
    | (intro _)
    | (dsimp only)

theorem State.fillBursts_keeps {x0 : State} {x1 : Nat} {x2 : Ctx} {x3 : FillRec} {x4 : List Nat} {z : State} (hz : Keeps z x0) : KeepsE z (State.fillBursts x0 x1 x2 x3 x4) := by
  induction x4 generalizing x0 x1 x2 x3
  · unfold State.fillBursts; try dsimp only
    all_goals repeat'
      first
      | (with_reducible exact hz)
      | (with_reducible assumption)
      | (with_reducible apply KeepsE.ok)
      | (with_reducible apply KeepsE.error)
      | (with_reducible apply KeepsE.bindS)
      | (with_reducible apply KeepsE.bindP)
      | (with_reducible apply KeepsE.bind)
      | (with_reducible apply KeepsP.ok)
      | (with_reducible apply KeepsP.error)
      | (with_reducible apply KeepsP.bindS)
      | (with_reducible apply KeepsP.bindP)
      | (with_reducible apply KeepsP.bind)
      | (with_reducible apply State.store_keeps)
      | split
      | (refine (State.store_keeps ?_).of _ (by with_reducible assumption))
      | (intro _)
      | (dsimp only)
  · rename_i ih; unfold State.fillBursts; try dsimp only
    all_goals repeat'
      first
      | (with_reducible exact hz)
      | (with_reducible assumption)
      | (with_reducible apply KeepsE.ok)
      | (with_reducible apply KeepsE.error)
      | (with_reducible apply KeepsE.bindS)
      | (with_reducible apply KeepsE.bindP)
      | (with_reducible apply KeepsE.bind)
      | (with_reducible apply KeepsP.ok)
      | (with_reducible apply KeepsP.error)
      | (with_reducible apply KeepsP.bindS)
      | (with_reducible apply KeepsP.bindP)
      | (with_reducible apply KeepsP.bind)
      | (with_reducible apply State.store_keeps)
      | (with_reducible apply ih)
      | split
      | (refine (State.store_keeps ?_).of _ (by with_reducible assumption))
      | (intro _)
      | (dsimp only)

theorem State.fillJob_keeping (p : Nat) (x : Ctx) (r : FillRec) (k : Nat) : (State.fillJob p x r k).Keeping :=
  ⟨fun h => .ok h, fun h => KeepsP.map (State.fillBursts_keeps h)⟩

theorem shedFill_keeps {p c i n : Nat} {s z : State} (hz : Keeps z s) : Keeps z (shedFill p c i n s) := by
  unfold shedFill
  split
  · split
    · exact State.haltJob_keeps hz
    · exact State.runSheds_keeps (State.fillJob_keeping ..) hz
  · exact hz

theorem execSFill_keeps {x0 : Nat} {x1 : Nat} {x2 : Nat} {x3 : Nat} {x4 : State} {z : State} (hz : Keeps z x4) : KeepsOut z (execSFill x0 x1 x2 x3 x4) := by
  unfold execSFill; try dsimp only
  all_goals repeat'
    first
    | (with_reducible exact hz)
    | (with_reducible assumption)
    | (with_reducible apply KeepsOut.next)
    | (with_reducible apply KeepsOut.fault)
    | (with_reducible apply onUnit_keeps)
    | (with_reducible apply shedFill_keeps)
    | split
    | (intro _)
    | (dsimp only)

end Sys2Proof.Machine
end

