-- ==== Sys2Proof/Laws/KeepSwitch.lean ====
section
/-! SUPPORT. What the operations of Machine/Switch.lean keep (Laws/Keeps.lean): one lemma for each. -/

set_option Elab.async false

namespace Sys2Proof.Machine

theorem blockAfterExpires_keeps {x0 : Nat} {x1 : State} {z : State} (hz : Keeps z x1) : Keeps z (blockAfterExpires x0 x1) := by
  unfold blockAfterExpires; try dsimp only
  all_goals repeat'
    first
    | (with_reducible exact hz)
    | (with_reducible assumption)
    | (with_reducible apply State.enterState_keeps)
    | split
    | (intro _)
    | (dsimp only)

theorem State.blocks_keeps {x0 : State} {x1 : Nat} {x2 : Nat} {z : State} (hz : Keeps z x0) : Keeps z (State.blocks x0 x1 x2) := by
  unfold State.blocks; try dsimp only
  all_goals repeat'
    first
    | (with_reducible exact hz)
    | (with_reducible assumption)
    | (with_reducible apply State.enterState_keeps)
    | split
    | (intro _)
    | (dsimp only)

theorem execBlockAfterExpiry_keeps {x0 : Nat} {x1 : State} {z : State} (hz : Keeps z x1) : KeepsOut z (execBlockAfterExpiry x0 x1) := by
  unfold execBlockAfterExpiry; try dsimp only
  all_goals repeat'
    first
    | (with_reducible exact hz)
    | (with_reducible assumption)
    | (with_reducible apply KeepsOut.next)
    | (with_reducible apply KeepsOut.fault)
    | (with_reducible apply onUnit_keeps)
    | (with_reducible apply blockAfterExpires_keeps)
    | split
    | (intro _)
    | (dsimp only)

theorem State.saveOut_keeps {x0 : State} {x1 : Nat} {x2 : Nat} {x3 : Ctx} {z : State} (hz : Keeps z x0) : Keeps z (State.saveOut x0 x1 x2 x3) := by
  unfold State.saveOut; try dsimp only
  all_goals repeat'
    first
    | (with_reducible exact hz)
    | (with_reducible assumption)
    | (with_reducible apply State.modPd_keeps)
    | split
    | (intro _)
    | (dsimp only)

theorem switchStarts_keeps {x0 : Nat} {x1 : State} {z : State} (hz : Keeps z x1) : Keeps z (switchStarts x0 x1) := by
  unfold switchStarts; try dsimp only
  all_goals repeat'
    first
    | (with_reducible exact hz)
    | (with_reducible assumption)
    | (with_reducible apply State.modPd_keeps)
    | (with_reducible apply State.saveOut_keeps)
    | split
    | (intro _)
    | (dsimp only)

theorem execSwitch_keeps {x0 : Nat} {x1 : State} {z : State} (hz : Keeps z x1) : KeepsOut z (execSwitch x0 x1) := by
  unfold execSwitch; try dsimp only
  all_goals repeat'
    first
    | (with_reducible exact hz)
    | (with_reducible assumption)
    | (with_reducible apply KeepsOut.next)
    | (with_reducible apply KeepsOut.fault)
    | (with_reducible apply onUnit_keeps)
    | (with_reducible apply switchStarts_keeps)
    | split
    | (intro _)
    | (dsimp only)

theorem saveCompletes_keeps {x0 : Nat} {x1 : State} {z : State} (hz : Keeps z x1) : Keeps z (saveCompletes x0 x1) := by
  unfold saveCompletes; try dsimp only
  all_goals repeat'
    first
    | (with_reducible exact hz)
    | (with_reducible assumption)
    | (with_reducible apply State.modPd_keeps)
    | split
    | (intro _)
    | (dsimp only)

theorem execSaveComplete_keeps {x0 : Nat} {x1 : State} {z : State} (hz : Keeps z x1) : KeepsOut z (execSaveComplete x0 x1) := by
  unfold execSaveComplete; try dsimp only
  all_goals repeat'
    first
    | (with_reducible exact hz)
    | (with_reducible assumption)
    | (with_reducible apply KeepsOut.next)
    | (with_reducible apply KeepsOut.fault)
    | (with_reducible apply onUnit_keeps)
    | (with_reducible apply saveCompletes_keeps)
    | split
    | (intro _)
    | (dsimp only)

theorem resumeCompletes_keeps {x0 : Nat} {x1 : State} {z : State} (hz : Keeps z x1) : Keeps z (resumeCompletes x0 x1) := by
  unfold resumeCompletes; try dsimp only
  all_goals repeat'
    first
    | (with_reducible exact hz)
    | (with_reducible assumption)
    | (with_reducible apply State.reschedule_keeps)
    | (with_reducible apply State.modPd_keeps)
    | (with_reducible apply State.putBack_keeps)
    | split
    | (intro _)
    | (dsimp only)

theorem execResumeComplete_keeps {x0 : Nat} {x1 : State} {z : State} (hz : Keeps z x1) : KeepsOut z (execResumeComplete x0 x1) := by
  unfold execResumeComplete; try dsimp only
  all_goals repeat'
    first
    | (with_reducible exact hz)
    | (with_reducible assumption)
    | (with_reducible apply KeepsOut.next)
    | (with_reducible apply KeepsOut.fault)
    | (with_reducible apply onUnit_keeps)
    | (with_reducible apply resumeCompletes_keeps)
    | split
    | (intro _)
    | (dsimp only)

theorem State.swapOut_keeps {x0 : State} {x1 : Nat} {x2 : Nat} {z : State} (hz : Keeps z x0) : Keeps z (State.swapOut x0 x1 x2) := by
  unfold State.swapOut; try dsimp only
  all_goals repeat'
    first
    | (with_reducible exact hz)
    | (with_reducible assumption)
    | (with_reducible apply State.shedBoundary_keeps)
    | (with_reducible apply State.zero_keeps)
    | (with_reducible apply State.swapJobs_keeps)
    | (with_reducible apply State.modCtx_keeps)
    | (with_reducible apply foldl_keeps)
    | split
    | (intro _)
    | (dsimp only)

theorem State.vacate_keeps {x0 : State} {x1 : Nat} {x2 : Nat} {x3 : Ctx} {z : State} (hz : Keeps z x0) : Keeps z (State.vacate x0 x1 x2 x3) := by
  unfold State.vacate; try dsimp only
  all_goals repeat'
    first
    | (with_reducible exact hz)
    | (with_reducible assumption)
    | (with_reducible apply State.saveOut_keeps)
    | split
    | (intro _)
    | (dsimp only)

theorem State.swapLoop_keeps_at {p c : Nat} {x : Ctx} {n : Nat} {s z : State} (hz : Keeps z s) :
    Keeps z (s.swapLoop p c x n).1 := by
  induction n generalizing s with
  | zero => exact hz
  | succ n ih =>
    unfold State.swapLoop
    split
    · exact hz
    · dsimp only
      split
      · exact hz
      · split
        · exact hz
        · exact ih (State.swapOut_keeps (State.vacate_keeps hz))

theorem swaps_keeps {p : Nat} {s z : State} (hz : Keeps z s) : Keeps z (swaps p s) := by
  unfold swaps; dsimp only
  split
  · exact hz
  · split
    · exact hz
    · split
      · exact State.swapJobs_keeps (State.modPd_keeps (State.swapLoop_keeps_at hz))
      · exact State.swapLoop_keeps_at hz

theorem execSwap_keeps {x0 : Nat} {x1 : State} {z : State} (hz : Keeps z x1) : KeepsOut z (execSwap x0 x1) := by
  unfold execSwap; try dsimp only
  all_goals repeat'
    first
    | (with_reducible exact hz)
    | (with_reducible assumption)
    | (with_reducible apply KeepsOut.next)
    | (with_reducible apply KeepsOut.fault)
    | (with_reducible apply onUnit_keeps)
    | (with_reducible apply swaps_keeps)
    | split
    | (intro _)
    | (dsimp only)

theorem swapInCompletes_keeps {x0 : Nat} {x1 : Nat} {x2 : State} {z : State} (hz : Keeps z x2) : Keeps z (swapInCompletes x0 x1 x2) := by
  unfold swapInCompletes; try dsimp only
  all_goals repeat'
    first
    | (with_reducible exact hz)
    | (with_reducible assumption)
    | (with_reducible apply State.modPd_keeps)
    | (with_reducible apply State.shedBoundary_keeps)
    | (with_reducible apply State.wr_keeps)
    | (with_reducible apply State.spoil_keeps)
    | (with_reducible apply State.modCtx_keeps)
    | (with_reducible apply State.reschedule_keeps)
    | (with_reducible apply foldl_keeps)
    | split
    | (intro _)
    | (dsimp only)

theorem execSwapInComplete_keeps {x0 : Nat} {x1 : Nat} {x2 : State} {z : State} (hz : Keeps z x2) : KeepsOut z (execSwapInComplete x0 x1 x2) := by
  unfold execSwapInComplete; try dsimp only
  all_goals repeat'
    first
    | (with_reducible exact hz)
    | (with_reducible assumption)
    | (with_reducible apply KeepsOut.next)
    | (with_reducible apply KeepsOut.fault)
    | (with_reducible apply onUnit_keeps)
    | (with_reducible apply swapInCompletes_keeps)
    | split
    | (intro _)
    | (dsimp only)

end Sys2Proof.Machine
end

