-- ==== Sys2Proof/Laws/KeepTurnout.lean ====
section
/-! SUPPORT. What the operations of Machine/Turnout.lean keep (Laws/Keeps.lean): one lemma for each. -/

set_option Elab.async false

namespace Sys2Proof.Machine

theorem State.putGroup_keeps {x0 : State} {x1 : Ctx} {x2 : TurnRec} {x3 : List (Nat × Nat)} {z : State} (hz : Keeps z x0) : KeepsE z (State.putGroup x0 x1 x2 x3) := by
  unfold State.putGroup; try dsimp only
  all_goals repeat'
    first
    | (with_reducible exact hz)
    | (with_reducible assumption)
    | (with_reducible apply KeepsE.ok)
    | (with_reducible apply KeepsE.error)
    | (with_reducible apply KeepsE.bindS)
    | (with_reducible apply KeepsE.bindP)
    | (with_reducible apply KeepsE.bind)
    | (with_reducible apply KeepsP.ok)
    | (with_reducible apply KeepsP.error)
    | (with_reducible apply KeepsP.bindS)
    | (with_reducible apply KeepsP.bindP)
    | (with_reducible apply KeepsP.bind)
    | (with_reducible apply State.storeAll_keeps)
    | split
    | (refine (State.storeAll_keeps ?_).of _ (by with_reducible assumption))
    | (intro _)
    | (dsimp only)

theorem State.moveGroup_keeps {x0 : State} {x1 : Ctx} {x2 : TurnRec} {x3 : List (Nat × Nat)} {z : State} (hz : Keeps z x0) : KeepsE z (State.moveGroup x0 x1 x2 x3) := by
  unfold State.moveGroup; try dsimp only
  all_goals repeat'
    first
    | (with_reducible exact hz)
    | (with_reducible assumption)
    | (with_reducible apply KeepsE.ok)
    | (with_reducible apply KeepsE.error)
    | (with_reducible apply KeepsE.bindS)
    | (with_reducible apply KeepsE.bindP)
    | (with_reducible apply KeepsE.bind)
    | (with_reducible apply KeepsP.ok)
    | (with_reducible apply KeepsP.error)
    | (with_reducible apply KeepsP.bindS)
    | (with_reducible apply KeepsP.bindP)
    | (with_reducible apply KeepsP.bind)
    | (with_reducible apply State.putGroup_keeps)
    | split
    | (refine (State.putGroup_keeps ?_).of _ (by with_reducible assumption))
    | (intro _)
    | (dsimp only)

theorem State.moveScales_keeps {x0 : State} {x1 : Ctx} {x2 : TurnRec} {x3 : Nat} {x4 : Nat} {z : State} (hz : Keeps z x0) : KeepsE z (State.moveScales x0 x1 x2 x3 x4) := by
  unfold State.moveScales; try dsimp only
  all_goals repeat'
    first
    | (with_reducible exact hz)
    | (with_reducible assumption)
    | (with_reducible apply KeepsE.ok)
    | (with_reducible apply KeepsE.error)
    | (with_reducible apply KeepsP.ok)
    | (with_reducible apply KeepsP.error)
    | (with_reducible apply State.store_keeps)
    | split
    | (refine (State.store_keeps ?_).of _ (by with_reducible assumption))
    | (intro _)
    | (dsimp only)

theorem State.stepsOf_keeps_at {f : State → Nat → Except Nat State} {s z : State} {n k : Nat} (hz : Keeps z s)
    (hf : ∀ a i, Keeps z a → KeepsE z (f a i)) : Keeps z (State.stepsOf f s n k).1 := by
  induction k generalizing s n with
  | zero => exact hz
  | succ k ih =>
    unfold State.stepsOf
    split
    · exact hz
    · next h => exact ih ((hf _ _ hz).of _ h)

theorem State.moveJob_keeps_at {s z : State} {x : Ctx} {r : TurnRec} (hz : Keeps z s) : Keeps z (s.moveJob x r).1 := by
  have h1 : ∀ k, Keeps z (State.stepsOf (fun s g => s.moveGroup x r (r.moveAt (x.parcel.desc r.src).count g)) s 0 k).1 := fun k =>
    State.stepsOf_keeps_at hz fun a i h => State.moveGroup_keeps h
  unfold State.moveJob; dsimp only
  split
  · exact h1 _
  · split
    · exact State.stepsOf_keeps_at (h1 _) fun a i h => State.moveScales_keeps h
    · exact h1 _

theorem State.xposeJob_keeps_at {s z : State} {x : Ctx} {r : TurnRec} (hz : Keeps z s) : Keeps z (s.xposeJob x r).1 :=
  State.stepsOf_keeps_at hz fun a i h => State.moveGroup_keeps h

theorem State.jobRan_keeps {x0 : State} {x1 : Nat} {x2 : Nat} {x3 : TurnJob} {z : State} (hz : Keeps z x0) : Keeps z (State.jobRan x0 x1 x2 x3) := by
  unfold State.jobRan; try dsimp only
  all_goals repeat'
    first
    | (with_reducible exact hz)
    | (with_reducible assumption)
    | split
    | (with_reducible apply keeps_rec)
    | (with_reducible exact Nat.le_refl _)
    | (with_reducible exact List.suffix_refl _)
    | (with_reducible exact id)
    | (with_reducible exact rfl)
    | (intro h; rw [List.length_map]; with_reducible exact h)
    | (intro h; simp [h]; done)
    | (intro _)
    | (dsimp only)

theorem State.jobWork_keeps {s t z : State} {x : Ctx} {isXpose : Bool} {b : RecBody} {a : Option Nat}
    (h : s.jobWork x isXpose b = some (t, a)) (hz : Keeps z s) : Keeps z t := by
  have h1 : ∀ {u : State × Option Nat}, some u = some (t, a) → Keeps z u.1 → Keeps z t := fun e k => by
    rw [Option.some.inj e] at k; exact k
  unfold State.jobWork at h
  split at h
  · split at h
    · cases h
    · refine h1 h ?_
      split
      · exact State.xposeJob_keeps_at hz
      · exact State.moveJob_keeps_at hz
  · split at h
    · cases h
    · exact h1 h (State.copyDead_keeps_at hz)
  · cases h

theorem State.sendsJob_keeps {x0 : State} {x1 : Ctx} {x2 : TurnJob} {x3 : RecBody} {z : State} (hz : Keeps z x0) : Keeps z (State.sendsJob x0 x1 x2 x3) := by
  unfold State.sendsJob; try dsimp only
  all_goals repeat'
    first
    | (with_reducible exact hz)
    | (with_reducible assumption)
    | (with_reducible apply State.writeGranule_keeps)
    | (with_reducible apply foldl_keeps)
    | split
    | (intro _)
    | (dsimp only)

theorem State.runEngine_keeps {s z : State} {e : Nat} {isXpose : Bool} (hz : Keeps z s) : Keeps z (s.runEngine e isXpose) := by
  unfold State.runEngine
  split
  · exact hz
  · split
    · exact hz
    · split
      · exact ite_keeps hz (State.jobRan_keeps hz)
      · split
        · exact hz
        · split
          · exact hz
          · split
            · exact hz
            · next h => exact State.jobRan_keeps (State.sendsJob_keeps (State.jobWork_keeps h hz))
            · next h =>
              split
              · exact hz
              · exact State.haltJob_keeps (State.jobRan_keeps (State.jobWork_keeps h hz))

theorem moves_keeps {x0 : Nat} {x1 : State} {z : State} (hz : Keeps z x1) : Keeps z (moves x0 x1) := by
  unfold moves; try dsimp only
  all_goals repeat'
    first
    | (with_reducible exact hz)
    | (with_reducible assumption)
    | (with_reducible apply State.runEngine_keeps)
    | split
    | (intro _)
    | (dsimp only)

theorem xposes_keeps {x0 : Nat} {x1 : State} {z : State} (hz : Keeps z x1) : Keeps z (xposes x0 x1) := by
  unfold xposes; try dsimp only
  all_goals repeat'
    first
    | (with_reducible exact hz)
    | (with_reducible assumption)
    | (with_reducible apply State.runEngine_keeps)
    | split
    | (intro _)
    | (dsimp only)

theorem execMove_keeps {x0 : Nat} {x1 : State} {z : State} (hz : Keeps z x1) : KeepsOut z (execMove x0 x1) := by
  unfold execMove; try dsimp only
  all_goals repeat'
    first
    | (with_reducible exact hz)
    | (with_reducible assumption)
    | (with_reducible apply KeepsOut.next)
    | (with_reducible apply KeepsOut.fault)
    | (with_reducible apply onUnit_keeps)
    | (with_reducible apply moves_keeps)
    | split
    | (intro _)
    | (dsimp only)

theorem execXpose_keeps {x0 : Nat} {x1 : State} {z : State} (hz : Keeps z x1) : KeepsOut z (execXpose x0 x1) := by
  unfold execXpose; try dsimp only
  all_goals repeat'
    first
    | (with_reducible exact hz)
    | (with_reducible assumption)
    | (with_reducible apply KeepsOut.next)
    | (with_reducible apply KeepsOut.fault)
    | (with_reducible apply onUnit_keeps)
    | (with_reducible apply xposes_keeps)
    | split
    | (intro _)
    | (dsimp only)

theorem turnoutEnds_keeps {x0 : Nat} {x1 : State} {z : State} (hz : Keeps z x1) : Keeps z (turnoutEnds x0 x1) := by
  unfold turnoutEnds; try dsimp only
  all_goals repeat'
    first
    | (with_reducible exact hz)
    | (with_reducible assumption)
    | (with_reducible apply State.loadEnds_keeps)
    | (with_reducible apply State.modCtx_keeps)
    | (with_reducible apply State.makeReady_keeps)
    | (with_reducible apply State.blocks_keeps)
    | split
    | (with_reducible apply keeps_rec)
    | (with_reducible exact Nat.le_refl _)
    | (with_reducible exact List.suffix_refl _)
    | (with_reducible exact id)
    | (with_reducible exact rfl)
    | (intro h; simp [h]; done)
    | (intro _)
    | (dsimp only)

theorem execTurnoutJobEnd_keeps {x0 : Nat} {x1 : State} {z : State} (hz : Keeps z x1) : KeepsOut z (execTurnoutJobEnd x0 x1) := by
  unfold execTurnoutJobEnd; try dsimp only
  all_goals repeat'
    first
    | (with_reducible exact hz)
    | (with_reducible assumption)
    | (with_reducible apply KeepsOut.next)
    | (with_reducible apply KeepsOut.fault)
    | (with_reducible apply onUnit_keeps)
    | (with_reducible apply turnoutEnds_keeps)
    | split
    | (intro _)
    | (dsimp only)

theorem State.sendXfer_keeps {x0 : State} {x1 : Ctx} {x2 : Nat} {x3 : Nat} {x4 : List Byte} {z : State} (hz : Keeps z x0) : Keeps z (State.sendXfer x0 x1 x2 x3 x4) := by
  unfold State.sendXfer; try dsimp only
  all_goals repeat'
    first
    | (with_reducible exact hz)
    | (with_reducible assumption)
    | (with_reducible apply State.sendFrame_keeps)
    | (with_reducible apply foldl_keeps)
    | split
    | (intro _)
    | (dsimp only)

theorem State.grantXfer_keeps {x0 : State} {x1 : Ctx} {x2 : Nat} {x3 : Nat} {x4 : Nat} {z : State} (hz : Keeps z x0) : Keeps z (State.grantXfer x0 x1 x2 x3 x4) := by
  unfold State.grantXfer; try dsimp only
  all_goals repeat'
    first
    | (with_reducible exact hz)
    | (with_reducible assumption)
    | (with_reducible apply State.modPort_keeps)
    | split
    | (intro _)
    | (dsimp only)

theorem xferSends_keeps {x0 : Nat} {x1 : Nat} {x2 : Nat} {x3 : State} {z : State} (hz : Keeps z x3) : Keeps z (xferSends x0 x1 x2 x3) := by
  unfold xferSends; try dsimp only
  all_goals repeat'
    first
    | (with_reducible exact hz)
    | (with_reducible assumption)
    | (with_reducible apply State.haltJob_keeps)
    | (with_reducible apply State.sendXfer_keeps)
    | (with_reducible apply State.runOn_keeps)
    | (with_reducible apply State.launch_keeps)
    | split
    | (intro _)
    | (dsimp only)

theorem execXferSend_keeps {x0 : Nat} {x1 : Nat} {x2 : Nat} {x3 : State} {z : State} (hz : Keeps z x3) : KeepsOut z (execXferSend x0 x1 x2 x3) := by
  unfold execXferSend; try dsimp only
  all_goals repeat'
    first
    | (with_reducible exact hz)
    | (with_reducible assumption)
    | (with_reducible apply KeepsOut.next)
    | (with_reducible apply KeepsOut.fault)
    | (with_reducible apply onUnit_keeps)
    | (with_reducible apply xferSends_keeps)
    | split
    | (intro _)
    | (dsimp only)

theorem xferReceives_keeps {x0 : Nat} {x1 : Nat} {x2 : Nat} {x3 : State} {z : State} (hz : Keeps z x3) : Keeps z (xferReceives x0 x1 x2 x3) := by
  unfold xferReceives; try dsimp only
  all_goals repeat'
    first
    | (with_reducible exact hz)
    | (with_reducible assumption)
    | (with_reducible apply State.grantXfer_keeps)
    | (with_reducible apply State.launch_keeps)
    | (with_reducible apply State.modCtx_keeps)
    | (with_reducible apply State.runOn_keeps)
    | (with_reducible apply State.addExpiry_keeps)
    | split
    | (intro _)
    | (dsimp only)

theorem execXferRecv_keeps {x0 : Nat} {x1 : Nat} {x2 : Nat} {x3 : State} {z : State} (hz : Keeps z x3) : KeepsOut z (execXferRecv x0 x1 x2 x3) := by
  unfold execXferRecv; try dsimp only
  all_goals repeat'
    first
    | (with_reducible exact hz)
    | (with_reducible assumption)
    | (with_reducible apply KeepsOut.next)
    | (with_reducible apply KeepsOut.fault)
    | (with_reducible apply onUnit_keeps)
    | (with_reducible apply xferReceives_keeps)
    | split
    | (intro _)
    | (dsimp only)

theorem xferExpires_keeps {x0 : Nat} {x1 : Nat} {x2 : Nat} {x3 : State} {z : State} (hz : Keeps z x3) : Keeps z (xferExpires x0 x1 x2 x3) := by
  unfold xferExpires; try dsimp only
  all_goals repeat'
    first
    | (with_reducible exact hz)
    | (with_reducible assumption)
    | (with_reducible apply State.takeExpiry_keeps)
    | (with_reducible apply State.haltJob_keeps)
    | split
    | (refine (State.takeExpiry_keeps ?_).of _ (by with_reducible assumption))
    | (intro _)
    | (dsimp only)

theorem execXferDurationExpiry_keeps {x0 : Nat} {x1 : Nat} {x2 : Nat} {x3 : State} {z : State} (hz : Keeps z x3) : KeepsOut z (execXferDurationExpiry x0 x1 x2 x3) := by
  unfold execXferDurationExpiry; try dsimp only
  all_goals repeat'
    first
    | (with_reducible exact hz)
    | (with_reducible assumption)
    | (with_reducible apply KeepsOut.next)
    | (with_reducible apply KeepsOut.fault)
    | (with_reducible apply onUnit_keeps)
    | (with_reducible apply xferExpires_keeps)
    | split
    | (intro _)
    | (dsimp only)

end Sys2Proof.Machine
end

