-- ==== Sys2Proof/Laws/KeepUpdate.lean ====
section
/-! SUPPORT. What the operations of Machine/Update.lean keep (Laws/Keeps.lean): one lemma for each. -/

set_option Elab.async false

namespace Sys2Proof.Machine

theorem State.updateElem_keeps {x0 : State} {x1 : Ctx} {x2 : UpK} {x3 : UpL} {x4 : Nat} {x5 : Wide.W} {x6 : Option Wide.W} {z : State} (hz : Keeps z x0) : KeepsP z (State.updateElem x0 x1 x2 x3 x4 x5 x6) := by
  unfold State.updateElem; try dsimp only
  all_goals repeat'
    first
    | (with_reducible exact hz)
    | (with_reducible assumption)
    | (with_reducible apply KeepsP.ok)
    | (with_reducible apply KeepsP.pure)
    | (with_reducible apply KeepsP.error)
    | (with_reducible apply KeepsP.bindS)
    | (with_reducible apply KeepsP.bindP)
    | (with_reducible apply KeepsP.bind)
    | (with_reducible apply KeepsE.ok)
    | (with_reducible apply KeepsE.pure)
    | (with_reducible apply KeepsE.error)
    | (with_reducible apply KeepsE.bindS)
    | (with_reducible apply KeepsE.bindP)
    | (with_reducible apply KeepsE.bind)
    | (with_reducible apply State.store_keeps)
    | split
    | (refine (State.store_keeps ?_).of _ (by with_reducible assumption))
    | (intro _)
    | (dsimp only)

theorem State.updateElems_keeps {x0 : State} {x1 : Ctx} {x2 : UpK} {x3 : UpL} {x4 : UpOut} {x5 : Nat} {x6 : List (Wide.W × Option Wide.W)} {z : State} (hz : Keeps z x0) : KeepsP z (State.updateElems x0 x1 x2 x3 x4 x5 x6) := by
  induction x6 generalizing x0 x1 x2 x3 x4 x5
  · unfold State.updateElems; try dsimp only
    all_goals repeat'
      first
      | (with_reducible exact hz)
      | (with_reducible assumption)
      | (with_reducible apply KeepsP.ok)
      | (with_reducible apply KeepsP.error)
      | (with_reducible apply KeepsP.bindS)
      | (with_reducible apply KeepsP.bindP)
      | (with_reducible apply KeepsP.bind)
      | (with_reducible apply KeepsE.ok)
      | (with_reducible apply KeepsE.error)
      | (with_reducible apply KeepsE.bindS)
      | (with_reducible apply KeepsE.bindP)
      | (with_reducible apply KeepsE.bind)
      | (with_reducible apply State.updateElem_keeps)
      | split
      | (refine (State.updateElem_keeps ?_).of _ (by with_reducible assumption))
      | (intro _)
      | (dsimp only)
  · rename_i ih; unfold State.updateElems; try dsimp only
    all_goals repeat'
      first
      | (with_reducible exact hz)
      | (with_reducible assumption)
      | (with_reducible apply KeepsP.ok)
      | (with_reducible apply KeepsP.error)
      | (with_reducible apply KeepsP.bindS)
      | (with_reducible apply KeepsP.bindP)
      | (with_reducible apply KeepsP.bind)
      | (with_reducible apply KeepsE.ok)
      | (with_reducible apply KeepsE.error)
      | (with_reducible apply KeepsE.bindS)
      | (with_reducible apply KeepsE.bindP)
      | (with_reducible apply KeepsE.bind)
      | (with_reducible apply State.updateElem_keeps)
      | (with_reducible apply ih)
      | split
      | (refine (State.updateElem_keeps ?_).of _ (by with_reducible assumption))
      | (intro _)
      | (dsimp only)

theorem State.updateRow_keeps {x0 : State} {x1 : Ctx} {x2 : UpK} {x3 : UpL} {x4 : UpOut} {x5 : Nat} {z : State} (hz : Keeps z x0) : KeepsP z (State.updateRow x0 x1 x2 x3 x4 x5) := by
  unfold State.updateRow; try dsimp only
  all_goals repeat'
    first
    | (with_reducible exact hz)
    | (with_reducible assumption)
    | (with_reducible apply KeepsP.ok)
    | (with_reducible apply KeepsP.error)
    | (with_reducible apply KeepsP.bindS)
    | (with_reducible apply KeepsP.bindP)
    | (with_reducible apply KeepsP.bind)
    | (with_reducible apply KeepsE.ok)
    | (with_reducible apply KeepsE.error)
    | (with_reducible apply KeepsE.bindS)
    | (with_reducible apply KeepsE.bindP)
    | (with_reducible apply KeepsE.bind)
    | (with_reducible apply State.updateElems_keeps)
    | (with_reducible apply State.store_keeps)
    | split
    | (refine (State.updateElems_keeps ?_).of _ (by with_reducible assumption))
    | (refine (State.store_keeps ?_).of _ (by with_reducible assumption))
    | (intro _)
    | (dsimp only)

theorem State.updateRows_keeps {x0 : State} {x1 : Ctx} {x2 : UpK} {x3 : UpL} {x4 : UpOut} {x5 : List Nat} {z : State} (hz : Keeps z x0) : KeepsP z (State.updateRows x0 x1 x2 x3 x4 x5) := by
  induction x5 generalizing x0 x1 x2 x3 x4
  · unfold State.updateRows; try dsimp only
    all_goals repeat'
      first
      | (with_reducible exact hz)
      | (with_reducible assumption)
      | (with_reducible apply KeepsP.ok)
      | (with_reducible apply KeepsP.error)
      | (with_reducible apply KeepsP.bindS)
      | (with_reducible apply KeepsP.bindP)
      | (with_reducible apply KeepsP.bind)
      | (with_reducible apply KeepsE.ok)
      | (with_reducible apply KeepsE.error)
      | (with_reducible apply KeepsE.bindS)
      | (with_reducible apply KeepsE.bindP)
      | (with_reducible apply KeepsE.bind)
      | (with_reducible apply State.updateRow_keeps)
      | split
      | (refine (State.updateRow_keeps ?_).of _ (by with_reducible assumption))
      | (intro _)
      | (dsimp only)
  · rename_i ih; unfold State.updateRows; try dsimp only
    all_goals repeat'
      first
      | (with_reducible exact hz)
      | (with_reducible assumption)
      | (with_reducible apply KeepsP.ok)
      | (with_reducible apply KeepsP.error)
      | (with_reducible apply KeepsP.bindS)
      | (with_reducible apply KeepsP.bindP)
      | (with_reducible apply KeepsP.bind)
      | (with_reducible apply KeepsE.ok)
      | (with_reducible apply KeepsE.error)
      | (with_reducible apply KeepsE.bindS)
      | (with_reducible apply KeepsE.bindP)
      | (with_reducible apply KeepsE.bind)
      | (with_reducible apply State.updateRow_keeps)
      | (with_reducible apply ih)
      | split
      | (refine (State.updateRow_keeps ?_).of _ (by with_reducible assumption))
      | (intro _)
      | (dsimp only)

theorem State.padLayer_keeps {x0 : State} {x1 : Ctx} {x2 : UpL} {z : State} (hz : Keeps z x0) : KeepsE z (State.padLayer x0 x1 x2) := by
  unfold State.padLayer; try dsimp only
  all_goals repeat'
    first
    | (with_reducible exact hz)
    | (with_reducible assumption)
    | (with_reducible apply KeepsE.ok)
    | (with_reducible apply KeepsE.pure)
    | (with_reducible apply KeepsE.error)
    | (with_reducible apply KeepsE.bindS)
    | (with_reducible apply KeepsE.bindP)
    | (with_reducible apply KeepsE.bind)
    | (with_reducible apply KeepsP.ok)
    | (with_reducible apply KeepsP.pure)
    | (with_reducible apply KeepsP.error)
    | (with_reducible apply KeepsP.bindS)
    | (with_reducible apply KeepsP.bindP)
    | (with_reducible apply KeepsP.bind)
    | (with_reducible apply State.store_keeps)
    | split
    | (refine (State.store_keeps ?_).of _ (by with_reducible assumption))
    | (intro _)
    | (dsimp only)

theorem State.updateBucket_keeps {x0 : State} {x1 : Nat} {x2 : Nat} {x3 : Ctx} {x4 : BucketRec} {x5 : StepCoef} {x6 : W32} {x7 : Nat} {z : State} (hz : Keeps z x0) : KeepsP z (State.updateBucket x0 x1 x2 x3 x4 x5 x6 x7) := by
  unfold State.updateBucket; try dsimp only
  all_goals repeat'
    first
    | (with_reducible exact hz)
    | (with_reducible assumption)
    | (with_reducible apply KeepsP.ok)
    | (with_reducible apply KeepsP.pure)
    | (with_reducible apply KeepsP.error)
    | (with_reducible apply KeepsP.bindS)
    | (with_reducible apply KeepsP.bindP)
    | (with_reducible apply KeepsP.bind)
    | (with_reducible apply KeepsE.ok)
    | (with_reducible apply KeepsE.pure)
    | (with_reducible apply KeepsE.error)
    | (with_reducible apply KeepsE.bindS)
    | (with_reducible apply KeepsE.bindP)
    | (with_reducible apply KeepsE.bind)
    | (with_reducible apply State.updateRows_keeps)
    | (with_reducible apply State.modCtx_keeps)
    | (with_reducible apply State.padLayer_keeps)
    | split
    | (refine (State.updateRows_keeps ?_).of _ (by with_reducible assumption))
    | (refine (State.padLayer_keeps ?_).of _ (by with_reducible assumption))
    | (intro _)
    | (dsimp only)

end Sys2Proof.Machine
end

