-- ==== Sys2Proof/Laws/KeepAccess.lean ====
section
/-! SUPPORT. What the operations of Machine/Access.lean keep (Laws/Keeps.lean): one lemma for each. -/

set_option Elab.async false

namespace Sys2Proof.Machine

theorem State.refuseCause_keeps {x0 : State} {x1 : Nat} {z : State} (hz : Keeps z x0) : Keeps z (State.refuseCause x0 x1).s := by
  unfold State.refuseCause; try dsimp only
  all_goals repeat'
    first
    | (with_reducible exact hz)
    | (with_reducible assumption)
    | (with_reducible apply Taken.hold_keeps)
    | (with_reducible apply Taken.refuse_keeps)
    | (with_reducible apply State.gaveBad_keeps)
    | split
    | (intro _)
    | (dsimp only)

theorem State.setPens_keeps {x0 : State} {x1 : Ctx} {x2 : List (Nat × Byte)} {x3 : List Nat} {x4 : List (Nat × Nat)} {z : State} (hz : Keeps z x0) : Keeps z (State.setPens x0 x1 x2 x3 x4) := by
  unfold State.setPens; try dsimp only
  all_goals repeat'
    first
    | (with_reducible exact hz)
    | (with_reducible assumption)
    | (with_reducible apply State.zero_keeps)
    | (with_reducible apply State.wr_keeps)
    | (with_reducible apply foldl_keeps)
    | split
    | (with_reducible apply keeps_rec)
    | (with_reducible exact Nat.le_refl _)
    | (with_reducible exact List.suffix_refl _)
    | (with_reducible exact id)
    | (with_reducible exact rfl)
    | (intro _)
    | (dsimp only)

theorem State.lendPens_keeps {x0 : State} {x1 : Ctx} {z : State} (hz : Keeps z x0) : Keeps z (State.lendPens x0 x1) := by
  unfold State.lendPens; try dsimp only
  all_goals repeat'
    first
    | (with_reducible exact hz)
    | (with_reducible assumption)
    | (with_reducible apply State.setPens_keeps)
    | split
    | (intro _)
    | (dsimp only)

theorem State.returnPens_keeps {x0 : State} {x1 : State} {x2 : Nat} {x3 : Nat} {x4 : Ctx} {z : State} (hz : Keeps z x0) : Keeps z (State.returnPens x0 x1 x2 x3 x4) := by
  unfold State.returnPens; try dsimp only
  all_goals repeat'
    first
    | (with_reducible exact hz)
    | (with_reducible assumption)
    | (with_reducible apply State.modCtx_keeps)
    | (with_reducible apply State.setPens_keeps)
    | split
    | (intro _)
    | (dsimp only)

theorem State.onPens_keeps {s z : State} {p c : Nat} {x : Ctx} {f : State → Taken} (hz : Keeps z s)
    (hf : ∀ t, Keeps z t → Keeps z (f t).s) : Keeps z (s.onPens p c x f).s :=
  State.returnPens_keeps (hf _ (State.lendPens_keeps hz))

theorem State.putPieces_keeps {x0 : State} {x1 : Ctx} {x2 : List (Nat × List Byte)} {z : State} (hz : Keeps z x0) : KeepsE z (State.putPieces x0 x1 x2) := by
  induction x2 generalizing x0 x1
  · unfold State.putPieces; try dsimp only
    all_goals repeat'
      first
      | (with_reducible exact hz)
      | (with_reducible assumption)
      | (with_reducible apply KeepsE.ok)
      | (with_reducible apply KeepsE.error)
      | (with_reducible apply KeepsE.bindS)
      | (with_reducible apply KeepsE.bindP)
      | (with_reducible apply KeepsE.bind)
      | (with_reducible apply KeepsP.ok)
      | (with_reducible apply KeepsP.error)
      | (with_reducible apply KeepsP.bindS)
      | (with_reducible apply KeepsP.bindP)
      | (with_reducible apply KeepsP.bind)
      | (with_reducible apply State.store_keeps)
      | split
      | (refine (State.store_keeps ?_).of _ (by with_reducible assumption))
      | (intro _)
      | (dsimp only)
  · rename_i ih; unfold State.putPieces; try dsimp only
    all_goals repeat'
      first
      | (with_reducible exact hz)
      | (with_reducible assumption)
      | (with_reducible apply KeepsE.ok)
      | (with_reducible apply KeepsE.error)
      | (with_reducible apply KeepsE.bindS)
      | (with_reducible apply KeepsE.bindP)
      | (with_reducible apply KeepsE.bind)
      | (with_reducible apply KeepsP.ok)
      | (with_reducible apply KeepsP.error)
      | (with_reducible apply KeepsP.bindS)
      | (with_reducible apply KeepsP.bindP)
      | (with_reducible apply KeepsP.bind)
      | (with_reducible apply State.store_keeps)
      | (with_reducible apply ih)
      | split
      | (refine (State.store_keeps ?_).of _ (by with_reducible assumption))
      | (intro _)
      | (dsimp only)

theorem State.putDesc_keeps {x0 : State} {x1 : Ctx} {x2 : Desc} {x3 : Nat} {x4 : List Byte} {z : State} (hz : Keeps z x0) : KeepsE z (State.putDesc x0 x1 x2 x3 x4) := by
  induction x4 generalizing x0 x1 x2 x3
  · unfold State.putDesc; try dsimp only
    all_goals repeat'
      first
      | (with_reducible exact hz)
      | (with_reducible assumption)
      | (with_reducible apply KeepsE.ok)
      | (with_reducible apply KeepsE.error)
      | (with_reducible apply KeepsE.bindS)
      | (with_reducible apply KeepsE.bindP)
      | (with_reducible apply KeepsE.bind)
      | (with_reducible apply KeepsP.ok)
      | (with_reducible apply KeepsP.error)
      | (with_reducible apply KeepsP.bindS)
      | (with_reducible apply KeepsP.bindP)
      | (with_reducible apply KeepsP.bind)
      | (with_reducible apply State.storeBits_keeps)
      | split
      | (refine (State.storeBits_keeps ?_).of _ (by with_reducible assumption))
      | (intro _)
      | (dsimp only)
  · rename_i ih; unfold State.putDesc; try dsimp only
    all_goals repeat'
      first
      | (with_reducible exact hz)
      | (with_reducible assumption)
      | (with_reducible apply KeepsE.ok)
      | (with_reducible apply KeepsE.error)
      | (with_reducible apply KeepsE.bindS)
      | (with_reducible apply KeepsE.bindP)
      | (with_reducible apply KeepsE.bind)
      | (with_reducible apply KeepsP.ok)
      | (with_reducible apply KeepsP.error)
      | (with_reducible apply KeepsP.bindS)
      | (with_reducible apply KeepsP.bindP)
      | (with_reducible apply KeepsP.bind)
      | (with_reducible apply State.storeBits_keeps)
      | (with_reducible apply ih)
      | split
      | (refine (State.storeBits_keeps ?_).of _ (by with_reducible assumption))
      | (intro _)
      | (dsimp only)

end Sys2Proof.Machine
end

