-- ==== Sys2Proof/Laws/KeepBackground.lean ====
section
/-! SUPPORT. What the operations of Machine/Background.lean keep (Laws/Keeps.lean): one lemma for each. -/

set_option Elab.async false

namespace Sys2Proof.Machine

theorem watchdogWarns_keeps {x0 : Nat} {x1 : Nat} {x2 : State} {z : State} (hz : Keeps z x2) : Keeps z (watchdogWarns x0 x1 x2) := by
  unfold watchdogWarns; try dsimp only
  all_goals repeat'
    first
    | (with_reducible exact hz)
    | (with_reducible assumption)
    | (with_reducible apply State.postEvent_keeps)
    | (with_reducible apply State.modStable_keeps)
    | split
    | (intro _)
    | (dsimp only)

theorem execWatchdogWarning_keeps {x0 : Nat} {x1 : Nat} {x2 : State} {z : State} (hz : Keeps z x2) : KeepsOut z (execWatchdogWarning x0 x1 x2) := by
  unfold execWatchdogWarning; try dsimp only
  all_goals repeat'
    first
    | (with_reducible exact hz)
    | (with_reducible assumption)
    | (with_reducible apply KeepsOut.next)
    | (with_reducible apply KeepsOut.fault)
    | (with_reducible apply onUnit_keeps)
    | (with_reducible apply watchdogWarns_keeps)
    | split
    | (intro _)
    | (dsimp only)

theorem watchdogHalts_keeps {x0 : Nat} {x1 : State} {z : State} (hz : Keeps z x1) : Keeps z (watchdogHalts x0 x1) := by
  unfold watchdogHalts; try dsimp only
  all_goals repeat'
    first
    | (with_reducible exact hz)
    | (with_reducible assumption)
    | (with_reducible apply State.haltFailed_keeps)
    | split
    | (intro _)
    | (dsimp only)

theorem execWatchdogHalt_keeps {x0 : Nat} {x1 : State} {z : State} (hz : Keeps z x1) : KeepsOut z (execWatchdogHalt x0 x1) := by
  unfold execWatchdogHalt; try dsimp only
  all_goals repeat'
    first
    | (with_reducible exact hz)
    | (with_reducible assumption)
    | (with_reducible apply KeepsOut.next)
    | (with_reducible apply KeepsOut.fault)
    | (with_reducible apply onUnit_keeps)
    | (with_reducible apply watchdogHalts_keeps)
    | split
    | (intro _)
    | (dsimp only)

theorem patrols_keeps {x0 : Nat} {x1 : Nat} {x2 : EccOutcome} {x3 : State} {z : State} (hz : Keeps z x3) : Keeps z (patrols x0 x1 x2 x3) := by
  unfold patrols; try dsimp only
  all_goals repeat'
    first
    | (with_reducible exact hz)
    | (with_reducible assumption)
    | (with_reducible apply State.modChannel_keeps)
    | (with_reducible apply State.loses_keeps)
    | (with_reducible apply State.corrects_keeps)
    | split
    | (intro _)
    | (dsimp only)

theorem execPatrolScrubRead_keeps {x0 : Nat} {x1 : Nat} {x2 : EccOutcome} {x3 : State} {z : State} (hz : Keeps z x3) : KeepsOut z (execPatrolScrubRead x0 x1 x2 x3) := by
  unfold execPatrolScrubRead; try dsimp only
  all_goals repeat'
    first
    | (with_reducible exact hz)
    | (with_reducible assumption)
    | (with_reducible apply KeepsOut.next)
    | (with_reducible apply KeepsOut.fault)
    | (with_reducible apply onUnit_keeps)
    | (with_reducible apply patrols_keeps)
    | split
    | (intro _)
    | (dsimp only)

theorem execScrubPeriodEnd_keeps {x0 : Nat} {x1 : State} {z : State} (hz : Keeps z x1) : KeepsOut z (execScrubPeriodEnd x0 x1) := by
  unfold execScrubPeriodEnd; try dsimp only
  all_goals repeat'
    first
    | (with_reducible exact hz)
    | (with_reducible assumption)
    | (with_reducible apply KeepsOut.next)
    | (with_reducible apply KeepsOut.fault)
    | (with_reducible apply onUnit_keeps)
    | (with_reducible apply State.modChannel_keeps)
    | split
    | (intro _)
    | (dsimp only)

theorem yardScrubs_keeps {x0 : Nat} {x1 : Nat} {x2 : EccOutcome} {x3 : State} {z : State} (hz : Keeps z x3) : Keeps z (yardScrubs x0 x1 x2 x3) := by
  unfold yardScrubs; try dsimp only
  all_goals repeat'
    first
    | (with_reducible exact hz)
    | (with_reducible assumption)
    | (with_reducible apply State.postOwned_keeps)
    | (with_reducible apply State.spoil_keeps)
    | (with_reducible apply State.unflip_keeps)
    | split
    | (intro _)
    | (dsimp only)

theorem execYardScrub_keeps {x0 : Nat} {x1 : Nat} {x2 : EccOutcome} {x3 : State} {z : State} (hz : Keeps z x3) : KeepsOut z (execYardScrub x0 x1 x2 x3) := by
  unfold execYardScrub; try dsimp only
  all_goals repeat'
    first
    | (with_reducible exact hz)
    | (with_reducible assumption)
    | (with_reducible apply KeepsOut.next)
    | (with_reducible apply KeepsOut.fault)
    | (with_reducible apply onUnit_keeps)
    | (with_reducible apply yardScrubs_keeps)
    | split
    | (intro _)
    | (dsimp only)

theorem tracks_keeps {x0 : Nat} {x1 : Bool} {x2 : Bool} {x3 : Int} {x4 : State} {z : State} (hz : Keeps z x4) : Keeps z (tracks x0 x1 x2 x3 x4) := by
  unfold tracks; try dsimp only
  all_goals repeat'
    first
    | (with_reducible exact hz)
    | (with_reducible assumption)
    | (with_reducible apply State.modChannel_keeps)
    | (with_reducible apply State.retireChannel_keeps)
    | split
    | (intro _)
    | (dsimp only)

theorem execWck2dqTrack_keeps {x0 : Nat} {x1 : Bool} {x2 : Bool} {x3 : Int} {x4 : State} {z : State} (hz : Keeps z x4) : KeepsOut z (execWck2dqTrack x0 x1 x2 x3 x4) := by
  unfold execWck2dqTrack; try dsimp only
  all_goals repeat'
    first
    | (with_reducible exact hz)
    | (with_reducible assumption)
    | (with_reducible apply KeepsOut.next)
    | (with_reducible apply KeepsOut.fault)
    | (with_reducible apply onUnit_keeps)
    | (with_reducible apply tracks_keeps)
    | split
    | (intro _)
    | (dsimp only)

theorem State.postHot_keeps {x0 : State} {x1 : Nat} {x2 : Bool} {z : State} (hz : Keeps z x0) : Keeps z (State.postHot x0 x1 x2) := by
  unfold State.postHot; try dsimp only
  all_goals repeat'
    first
    | (with_reducible exact hz)
    | (with_reducible assumption)
    | (with_reducible apply State.postOwned_keeps)
    | split
    | (intro _)
    | (dsimp only)

theorem polls_keeps {x0 : Nat} {x1 : Bool} {x2 : Bool} {x3 : State} {z : State} (hz : Keeps z x3) : Keeps z (polls x0 x1 x2 x3) := by
  unfold polls; try dsimp only
  all_goals repeat'
    first
    | (with_reducible exact hz)
    | (with_reducible assumption)
    | (with_reducible apply State.modChannel_keeps)
    | (with_reducible apply State.postHot_keeps)
    | split
    | (intro _)
    | (dsimp only)

theorem execMr4Poll_keeps {x0 : Nat} {x1 : Bool} {x2 : Bool} {x3 : State} {z : State} (hz : Keeps z x3) : KeepsOut z (execMr4Poll x0 x1 x2 x3) := by
  unfold execMr4Poll; try dsimp only
  all_goals repeat'
    first
    | (with_reducible exact hz)
    | (with_reducible assumption)
    | (with_reducible apply KeepsOut.next)
    | (with_reducible apply KeepsOut.fault)
    | (with_reducible apply onUnit_keeps)
    | (with_reducible apply polls_keeps)
    | split
    | (intro _)
    | (dsimp only)

theorem execPerBankRefresh_keeps {x0 : Nat} {x1 : Nat} {x2 : Nat} {x3 : Bool} {x4 : State} {z : State} (hz : Keeps z x4) : KeepsOut z (execPerBankRefresh x0 x1 x2 x3 x4) := by
  unfold execPerBankRefresh; try dsimp only
  all_goals repeat'
    first
    | (with_reducible exact hz)
    | (with_reducible assumption)
    | (with_reducible apply KeepsOut.next)
    | (with_reducible apply KeepsOut.fault)
    | (with_reducible apply onUnit_keeps)
    | (with_reducible apply State.modChannel_keeps)
    | split
    | (intro _)
    | (dsimp only)

end Sys2Proof.Machine
end

