-- ==== Sys2Proof/Laws/KeepCollect.lean ====
section
/-! SUPPORT. What the operations of Machine/Collect.lean keep (Laws/Keeps.lean): one lemma for each. -/

set_option Elab.async false

namespace Sys2Proof.Machine

theorem State.dropFrame_keeps {x0 : State} {x1 : Nat} {z : State} (hz : Keeps z x0) : Keeps z (State.dropFrame x0 x1) := by
  unfold State.dropFrame; try dsimp only
  all_goals repeat'
    first
    | (with_reducible exact hz)
    | (with_reducible assumption)
    | (with_reducible apply State.modPort_keeps)
    | split
    | (intro _)
    | (dsimp only)

theorem State.peerMismatch_keeps {x0 : State} {x1 : Nat} {x2 : Nat} {x3 : Nat} {z : State} (hz : Keeps z x0) : Keeps z (State.peerMismatch x0 x1 x2 x3) := by
  unfold State.peerMismatch; try dsimp only
  all_goals repeat'
    first
    | (with_reducible exact hz)
    | (with_reducible assumption)
    | (with_reducible apply State.modPort_keeps)
    | (with_reducible apply State.postEvent_keeps)
    | split
    | (intro _)
    | (dsimp only)

theorem State.dropAt_keeps {x0 : State} {x1 : Nat} {x2 : Nat} {x3 : Nat} {z : State} (hz : Keeps z x0) : Keeps z (State.dropAt x0 x1 x2 x3) := by
  unfold State.dropAt; try dsimp only
  all_goals repeat'
    first
    | (with_reducible exact hz)
    | (with_reducible assumption)
    | (with_reducible apply State.modPort_keeps)
    | (with_reducible apply State.dropFrame_keeps)
    | split
    | (intro _)
    | (dsimp only)

theorem State.takeFrame_keeps {s z : State} {port : Nat} {f : FrameHead} {n stage : Nat} {act : Nat → Nat → Ctx → State → State} (hz : Keeps z s)
    (ha : ∀ p c x a, Keeps z a → Keeps z (act p c x a)) : Keeps z (s.takeFrame port f n stage act) := by
  have h0 : Keeps z (s.hearsPort port) := State.hearsPort_keeps hz
  unfold State.takeFrame; dsimp only
  split
  · exact hz
  · split
    · exact State.askResend_keeps h0
    · split
      · exact h0
      · split
        · exact State.dropAt_keeps (State.modPort_keeps h0)
        · split
          · exact State.peerMismatch_keeps (State.dropAt_keeps (State.modPort_keeps h0))
          · exact ha _ _ _ _ (State.modPort_keeps h0)

theorem State.takeLive_keeps {s z : State} {port : Nat} {f : FrameHead} {n stage : Nat} {act : Nat → Nat → Ctx → State → State} (hz : Keeps z s)
    (ha : ∀ p c x a, Keeps z a → Keeps z (act p c x a)) : Keeps z (s.takeLive port f n stage act) := by
  unfold State.takeLive
  split
  · exact hz
  refine State.takeFrame_keeps hz fun p c x a h => ?_
  split
  · exact State.dropAt_keeps h
  · exact ha _ _ _ _ h

theorem State.sendBlock_keeps {x0 : State} {x1 : Nat} {x2 : OpenBlock} {z : State} (hz : Keeps z x0) : Keeps z (State.sendBlock x0 x1 x2) := by
  unfold State.sendBlock; try dsimp only
  all_goals repeat'
    first
    | (with_reducible exact hz)
    | (with_reducible assumption)
    | (with_reducible apply State.sendFrame_keeps)
    | split
    | (intro _)
    | (dsimp only)

theorem State.sendDown_keeps {x0 : State} {x1 : TreeRec} {x2 : Nat} {x3 : Nat} {x4 : FrameBody} {z : State} (hz : Keeps z x0) : Keeps z (State.sendDown x0 x1 x2 x3 x4) := by
  unfold State.sendDown; try dsimp only
  all_goals repeat'
    first
    | (with_reducible exact hz)
    | (with_reducible assumption)
    | (with_reducible apply State.sendFrame_keeps)
    | (with_reducible apply foldl_keeps)
    | split
    | (intro _)
    | (dsimp only)

theorem State.stageBlock_keeps {x0 : State} {x1 : Ctx} {x2 : BucketRec} {x3 : Nat} {x4 : List Int} {z : State} (hz : Keeps z x0) : KeepsE z (State.stageBlock x0 x1 x2 x3 x4) := by
  unfold State.stageBlock; try dsimp only
  all_goals repeat'
    first
    | (with_reducible exact hz)
    | (with_reducible assumption)
    | (with_reducible apply KeepsE.ok)
    | (with_reducible apply KeepsE.error)
    | (with_reducible apply KeepsP.ok)
    | (with_reducible apply KeepsP.error)
    | (with_reducible apply State.store_keeps)
    | split
    | (refine (State.store_keeps ?_).of _ (by with_reducible assumption))
    | (intro _)
    | (dsimp only)

theorem State.bucketBoundary_keeps {x0 : State} {x1 : Ctx} {x2 : BucketRec} {z : State} (hz : Keeps z x0) : Keeps z (State.bucketBoundary x0 x1 x2) := by
  unfold State.bucketBoundary; try dsimp only
  all_goals repeat'
    first
    | (with_reducible exact hz)
    | (with_reducible assumption)
    | (with_reducible apply State.shedBoundary_keeps)
    | (with_reducible apply foldl_keeps)
    | split
    | (intro _)
    | (dsimp only)

theorem State.applyBucket_keeps {x0 : State} {x1 : Nat} {x2 : Nat} {x3 : Ctx} {x4 : BucketRec} {x5 : W32} {z : State} (hz : Keeps z x0) : KeepsE z (State.applyBucket x0 x1 x2 x3 x4 x5) := by
  unfold State.applyBucket; try dsimp only
  all_goals repeat'
    first
    | (with_reducible exact hz)
    | (with_reducible assumption)
    | (with_reducible apply KeepsE.ok)
    | (with_reducible apply KeepsE.pure)
    | (with_reducible apply KeepsE.error)
    | (with_reducible apply KeepsE.bindS)
    | (with_reducible apply KeepsE.bindP)
    | (with_reducible apply KeepsE.bind)
    | (with_reducible apply KeepsP.ok)
    | (with_reducible apply KeepsP.pure)
    | (with_reducible apply KeepsP.error)
    | (with_reducible apply KeepsP.bindS)
    | (with_reducible apply KeepsP.bindP)
    | (with_reducible apply KeepsP.bind)
    | (with_reducible apply State.updateBucket_keeps)
    | (with_reducible apply State.modCtx_keeps)
    | (with_reducible apply State.hasRead_keeps)
    | split
    | (refine (State.updateBucket_keeps ?_).of _ (by with_reducible assumption))
    | (intro _)
    | (dsimp only)

theorem State.bucketDone_keeps {x0 : State} {x1 : Nat} {x2 : Nat} {x3 : BucketRec} {z : State} (hz : Keeps z x0) : Keeps z (State.bucketDone x0 x1 x2 x3) := by
  unfold State.bucketDone; try dsimp only
  all_goals repeat'
    first
    | (with_reducible exact hz)
    | (with_reducible assumption)
    | (with_reducible apply State.applyBucket_keeps)
    | (with_reducible apply State.bucketBoundary_keeps)
    | (with_reducible apply State.haltJob_keeps)
    | split
    | (refine (State.applyBucket_keeps ?_).of _ (by with_reducible assumption))
    | (intro _)
    | (dsimp only)

theorem State.ownerTakes_keeps {x0 : State} {x1 : Nat} {x2 : Nat} {x3 : Nat} {x4 : BucketRec} {x5 : Nat} {x6 : GBlock} {z : State} (hz : Keeps z x0) : Keeps z (State.ownerTakes x0 x1 x2 x3 x4 x5 x6) := by
  unfold State.ownerTakes; try dsimp only
  all_goals repeat'
    first
    | (with_reducible exact hz)
    | (with_reducible assumption)
    | (with_reducible apply State.modCtx_keeps)
    | (with_reducible apply State.bucketDone_keeps)
    | (with_reducible apply State.postEvent_keeps)
    | (with_reducible apply State.stageBlock_keeps)
    | (with_reducible apply State.haltJob_keeps)
    | split
    | (refine (State.stageBlock_keeps ?_).of _ (by with_reducible assumption))
    | (intro _)
    | (dsimp only)

theorem State.adderTakes_keeps {x0 : State} {x1 : Nat} {x2 : Nat} {x3 : Nat} {x4 : Ctx} {x5 : WaitIn} {z : State} (hz : Keeps z x0) : Keeps z (State.adderTakes x0 x1 x2 x3 x4 x5) := by
  unfold State.adderTakes; try dsimp only
  all_goals repeat'
    first
    | (with_reducible exact hz)
    | (with_reducible assumption)
    | (with_reducible apply State.postEvent_keeps)
    | (with_reducible apply State.modPort_keeps)
    | (with_reducible apply State.ownerTakes_keeps)
    | (with_reducible apply State.sendBlock_keeps)
    | split
    | (intro _)
    | (dsimp only)

theorem State.drainInputs_keeps {x0 : State} {x1 : Nat} {x2 : Nat} {z : State} (hz : Keeps z x0) : Keeps z (State.drainInputs x0 x1 x2) := by
  induction x2 generalizing x0 x1
  · unfold State.drainInputs; try dsimp only
    all_goals repeat'
      first
      | (with_reducible exact hz)
      | (with_reducible assumption)
      | (with_reducible apply State.modPort_keeps)
      | (with_reducible apply State.adderTakes_keeps)
      | split
      | (intro _)
      | (dsimp only)
  · rename_i ih; unfold State.drainInputs; try dsimp only
    all_goals repeat'
      first
      | (with_reducible exact hz)
      | (with_reducible assumption)
      | (with_reducible apply State.modPort_keeps)
      | (with_reducible apply State.adderTakes_keeps)
      | (with_reducible apply ih)
      | split
      | (intro _)
      | (dsimp only)

theorem State.enterLocal_keeps {x0 : State} {x1 : Nat} {x2 : Nat} {x3 : Ctx} {x4 : BucketRec} {x5 : Nat} {z : State} (hz : Keeps z x0) : Keeps z (State.enterLocal x0 x1 x2 x3 x4 x5) := by
  unfold State.enterLocal; try dsimp only
  all_goals repeat'
    first
    | (with_reducible exact hz)
    | (with_reducible assumption)
    | (with_reducible apply State.haltJob_keeps)
    | (with_reducible apply State.modCtx_keeps)
    | (with_reducible apply State.hasRead_keeps)
    | (with_reducible apply State.adderTakes_keeps)
    | (with_reducible apply State.ownerTakes_keeps)
    | split
    | (intro _)
    | (dsimp only)

theorem State.collectOn_keeps {x0 : State} {x1 : Nat} {x2 : Nat} {x3 : Nat} {z : State} (hz : Keeps z x0) : Keeps z (State.collectOn x0 x1 x2 x3) := by
  induction x3 generalizing x0 x1 x2
  · unfold State.collectOn; try dsimp only
    all_goals repeat'
      first
      | (with_reducible exact hz)
      | (with_reducible assumption)
      | (with_reducible apply State.drainInputs_keeps)
      | (with_reducible apply State.enterLocal_keeps)
      | (with_reducible apply foldl_keeps)
      | split
      | (intro _)
      | (dsimp only)
  · rename_i ih; unfold State.collectOn; try dsimp only
    all_goals repeat'
      first
      | (with_reducible exact hz)
      | (with_reducible assumption)
      | (with_reducible apply State.drainInputs_keeps)
      | (with_reducible apply State.enterLocal_keeps)
      | (with_reducible apply foldl_keeps)
      | (with_reducible apply ih)
      | split
      | (intro _)
      | (dsimp only)

theorem State.collectAll_keeps {x0 : State} {x1 : Nat} {x2 : Nat} {z : State} (hz : Keeps z x0) : Keeps z (State.collectAll x0 x1 x2) := by
  unfold State.collectAll; try dsimp only
  all_goals repeat'
    first
    | (with_reducible exact hz)
    | (with_reducible assumption)
    | (with_reducible apply State.collectOn_keeps)
    | split
    | (intro _)
    | (dsimp only)

theorem gradFrame_keeps {x0 : Nat} {x1 : FrameHead} {x2 : GradHead} {x3 : List GBlock} {x4 : State} {z : State} (hz : Keeps z x4) : Keeps z (gradFrame x0 x1 x2 x3 x4) := by
  unfold gradFrame; try dsimp only
  all_goals repeat'
    first
    | (with_reducible exact hz)
    | (with_reducible assumption)
    | (with_reducible apply State.takeLive_keeps)
    | (with_reducible apply State.dropAt_keeps)
    | (with_reducible apply State.modPort_keeps)
    | (with_reducible apply State.collectAll_keeps)
    | (with_reducible apply State.drainInputs_keeps)
    | split
    | (intro _)
    | (dsimp only)

theorem execGrad_keeps {x0 : Nat} {x1 : FrameHead} {x2 : GradHead} {x3 : List GBlock} {x4 : State} {z : State} (hz : Keeps z x4) : KeepsOut z (execGrad x0 x1 x2 x3 x4) := by
  unfold execGrad; try dsimp only
  all_goals repeat'
    first
    | (with_reducible exact hz)
    | (with_reducible assumption)
    | (with_reducible apply KeepsOut.next)
    | (with_reducible apply KeepsOut.fault)
    | (with_reducible apply onUnit_keeps)
    | (with_reducible apply gradFrame_keeps)
    | split
    | (intro _)
    | (dsimp only)

theorem State.writeSealLog_keeps {x0 : State} {x1 : Nat} {x2 : Nat} {z : State} (hz : Keeps z x0) : Keeps z (State.writeSealLog x0 x1 x2) := by
  unfold State.writeSealLog
  all_goals repeat'
    first
    | (with_reducible exact hz)
    | (with_reducible assumption)
    | (with_reducible apply State.draw_keeps_at)
    | (with_reducible apply State.store_keeps)
    | (with_reducible apply State.haltJob_keeps)
    | split
    | (dsimp only)
    | (refine State.draw_keeps (by with_reducible assumption) ?_)
    | (refine (State.store_keeps ?_).of _ (by with_reducible assumption))
    | (intro _)
    | (dsimp only)

theorem State.discardBlocks_keeps {x0 : State} {x1 : Ctx} {z : State} (hz : Keeps z x0) : Keeps z (State.discardBlocks x0 x1) := by
  unfold State.discardBlocks; try dsimp only
  all_goals repeat'
    first
    | (with_reducible exact hz)
    | (with_reducible assumption)
    | (with_reducible apply State.dropBlocks_keeps)
    | split
    | (intro _)
    | (dsimp only)

theorem State.dropPhaseExpiries_keeps {x0 : State} {x1 : Nat} {x2 : Nat} {z : State} (hz : Keeps z x0) : Keeps z (State.dropPhaseExpiries x0 x1 x2) := by
  unfold State.dropPhaseExpiries; try dsimp only
  all_goals repeat'
    first
    | (with_reducible exact hz)
    | (with_reducible assumption)
    | (with_reducible apply State.dropExpiries_keeps)
    | split
    | (intro _)
    | (dsimp only)

theorem State.toDrain_keeps {x0 : State} {x1 : Nat} {x2 : Nat} {x3 : Verdict} {z : State} (hz : Keeps z x0) : Keeps z (State.toDrain x0 x1 x2 x3) := by
  unfold State.toDrain; try dsimp only
  all_goals repeat'
    first
    | (with_reducible exact hz)
    | (with_reducible assumption)
    | (with_reducible apply State.writeSealLog_keeps)
    | (with_reducible apply State.discardBlocks_keeps)
    | (with_reducible apply State.modCtx_keeps)
    | (with_reducible apply State.spanEnds_keeps)
    | (with_reducible apply State.dropPhaseExpiries_keeps)
    | split
    | (intro _)
    | (dsimp only)

theorem State.sendParams_keeps {x0 : State} {x1 : Ctx} {x2 : BucketRec} {x3 : Nat} {x4 : List Byte} {z : State} (hz : Keeps z x0) : Keeps z (State.sendParams x0 x1 x2 x3 x4) := by
  unfold State.sendParams; try dsimp only
  all_goals repeat'
    first
    | (with_reducible exact hz)
    | (with_reducible assumption)
    | (with_reducible apply State.sendDown_keeps)
    | (with_reducible apply foldl_keeps)
    | split
    | (intro _)
    | (dsimp only)

theorem State.leadLayer_keeps {x0 : State} {x1 : Nat} {x2 : Nat} {x3 : LayerRec} {z : State} (hz : Keeps z x0) : Keeps z (State.leadLayer x0 x1 x2 x3) := by
  unfold State.leadLayer; try dsimp only
  all_goals repeat'
    first
    | (with_reducible exact hz)
    | (with_reducible assumption)
    | (with_reducible apply State.modCtx_keeps)
    | (with_reducible apply State.sendParams_keeps)
    | split
    | (intro _)
    | (dsimp only)

theorem State.actClose_keeps {x0 : State} {x1 : Nat} {x2 : Nat} {x3 : CloseRec} {z : State} (hz : Keeps z x0) : Keeps z (State.actClose x0 x1 x2 x3) := by
  unfold State.actClose; try dsimp only
  all_goals repeat'
    first
    | (with_reducible exact hz)
    | (with_reducible assumption)
    | (with_reducible apply State.sendDown_keeps)
    | (with_reducible apply State.modCtx_keeps)
    | (with_reducible apply State.toDrain_keeps)
    | (with_reducible apply State.writeSealLog_keeps)
    | (with_reducible apply State.dropPhaseExpiries_keeps)
    | split
    | (intro _)
    | (dsimp only)

theorem State.offerClose_keeps {x0 : State} {x1 : Nat} {x2 : Nat} {x3 : Nat} {x4 : CloseRec} {z : State} (hz : Keeps z x0) : Keeps z (State.offerClose x0 x1 x2 x3 x4) := by
  unfold State.offerClose; try dsimp only
  all_goals repeat'
    first
    | (with_reducible exact hz)
    | (with_reducible assumption)
    | (with_reducible apply State.modCtx_keeps)
    | (with_reducible apply State.actClose_keeps)
    | (with_reducible apply State.sendFrame_keeps)
    | split
    | (intro _)
    | (dsimp only)

theorem State.closeOn_keeps {x0 : State} {x1 : Nat} {x2 : Nat} {z : State} (hz : Keeps z x0) : Keeps z (State.closeOn x0 x1 x2) := by
  unfold State.closeOn; try dsimp only
  all_goals repeat'
    first
    | (with_reducible exact hz)
    | (with_reducible assumption)
    | (with_reducible apply State.leadLayer_keeps)
    | (with_reducible apply State.offerClose_keeps)
    | (with_reducible apply foldl_keeps)
    | split
    | (intro _)
    | (dsimp only)

theorem State.sendPartial_keeps {x0 : State} {x1 : Nat} {x2 : Nat} {x3 : Ctx} {x4 : BucketRun} {z : State} (hz : Keeps z x0) : Keeps z (State.sendPartial x0 x1 x2 x3 x4) := by
  unfold State.sendPartial; try dsimp only
  all_goals repeat'
    first
    | (with_reducible exact hz)
    | (with_reducible assumption)
    | (with_reducible apply State.modCtx_keeps)
    | (with_reducible apply State.sendXfer_keeps)
    | split
    | (intro _)
    | (dsimp only)

theorem State.grantPartials_keeps {x0 : State} {x1 : Ctx} {z : State} (hz : Keeps z x0) : Keeps z (State.grantPartials x0 x1) := by
  unfold State.grantPartials; try dsimp only
  all_goals repeat'
    first
    | (with_reducible exact hz)
    | (with_reducible assumption)
    | (with_reducible apply State.grantXfer_keeps)
    | (with_reducible apply foldl_keeps)
    | split
    | (intro _)
    | (dsimp only)

theorem State.columnsOn_keeps {x0 : State} {x1 : Nat} {x2 : Nat} {z : State} (hz : Keeps z x0) : Keeps z (State.columnsOn x0 x1 x2) := by
  unfold State.columnsOn; try dsimp only
  all_goals repeat'
    first
    | (with_reducible exact hz)
    | (with_reducible assumption)
    | (with_reducible apply State.closeOn_keeps)
    | (with_reducible apply State.sendPartial_keeps)
    | (with_reducible apply foldl_keeps)
    | split
    | (intro _)
    | (dsimp only)

theorem State.actSeal_keeps {x0 : State} {x1 : Nat} {x2 : Nat} {x3 : SealRec} {z : State} (hz : Keeps z x0) : Keeps z (State.actSeal x0 x1 x2 x3) := by
  unfold State.actSeal; try dsimp only
  all_goals repeat'
    first
    | (with_reducible exact hz)
    | (with_reducible assumption)
    | (with_reducible apply State.sendDown_keeps)
    | (with_reducible apply State.modCtx_keeps)
    | (with_reducible apply State.toDrain_keeps)
    | (with_reducible apply State.columnsOn_keeps)
    | split
    | (intro _)
    | (dsimp only)

theorem State.offerSeal_keeps {x0 : State} {x1 : Nat} {x2 : Nat} {x3 : Nat} {x4 : SealRec} {z : State} (hz : Keeps z x0) : Keeps z (State.offerSeal x0 x1 x2 x3 x4) := by
  unfold State.offerSeal; try dsimp only
  all_goals repeat'
    first
    | (with_reducible exact hz)
    | (with_reducible assumption)
    | (with_reducible apply State.modCtx_keeps)
    | (with_reducible apply State.actSeal_keeps)
    | (with_reducible apply State.sendFrame_keeps)
    | split
    | (intro _)
    | (dsimp only)

theorem State.enterSeal_keeps {x0 : State} {x1 : Nat} {x2 : Nat} {z : State} (hz : Keeps z x0) : Keeps z (State.enterSeal x0 x1 x2) := by
  unfold State.enterSeal; try dsimp only
  all_goals repeat'
    first
    | (with_reducible exact hz)
    | (with_reducible assumption)
    | (with_reducible apply State.dropPhaseExpiries_keeps)
    | (with_reducible apply State.modCtx_keeps)
    | (with_reducible apply State.offerSeal_keeps)
    | (with_reducible apply State.addExpiry_keeps)
    | split
    | (intro _)
    | (dsimp only)

theorem sealFrameIn_keeps {x0 : Nat} {x1 : FrameHead} {x2 : SealRec} {x3 : State} {z : State} (hz : Keeps z x3) : Keeps z (sealFrameIn x0 x1 x2 x3) := by
  unfold sealFrameIn; try dsimp only
  all_goals repeat'
    first
    | (with_reducible exact hz)
    | (with_reducible assumption)
    | (with_reducible apply State.takeLive_keeps)
    | (with_reducible apply State.dropFrame_keeps)
    | (with_reducible apply State.offerSeal_keeps)
    | (with_reducible apply State.actSeal_keeps)
    | split
    | (intro _)
    | (dsimp only)

theorem execSealFrame_keeps {x0 : Nat} {x1 : FrameHead} {x2 : SealRec} {x3 : State} {z : State} (hz : Keeps z x3) : KeepsOut z (execSealFrame x0 x1 x2 x3) := by
  unfold execSealFrame; try dsimp only
  all_goals repeat'
    first
    | (with_reducible exact hz)
    | (with_reducible assumption)
    | (with_reducible apply KeepsOut.next)
    | (with_reducible apply KeepsOut.fault)
    | (with_reducible apply onUnit_keeps)
    | (with_reducible apply sealFrameIn_keeps)
    | split
    | (intro _)
    | (dsimp only)

theorem closeFrameIn_keeps {x0 : Nat} {x1 : FrameHead} {x2 : CloseRec} {x3 : State} {z : State} (hz : Keeps z x3) : Keeps z (closeFrameIn x0 x1 x2 x3) := by
  unfold closeFrameIn; try dsimp only
  all_goals repeat'
    first
    | (with_reducible exact hz)
    | (with_reducible assumption)
    | (with_reducible apply State.takeLive_keeps)
    | (with_reducible apply State.dropFrame_keeps)
    | (with_reducible apply State.offerClose_keeps)
    | (with_reducible apply State.actClose_keeps)
    | split
    | (intro _)
    | (dsimp only)

theorem execClose_keeps {x0 : Nat} {x1 : FrameHead} {x2 : CloseRec} {x3 : State} {z : State} (hz : Keeps z x3) : KeepsOut z (execClose x0 x1 x2 x3) := by
  unfold execClose; try dsimp only
  all_goals repeat'
    first
    | (with_reducible exact hz)
    | (with_reducible assumption)
    | (with_reducible apply KeepsOut.next)
    | (with_reducible apply KeepsOut.fault)
    | (with_reducible apply onUnit_keeps)
    | (with_reducible apply closeFrameIn_keeps)
    | split
    | (intro _)
    | (dsimp only)

theorem State.recomputeAll_keeps {x0 : State} {x1 : Nat} {x2 : Nat} {x3 : W32} {x4 : List BucketRec} {z : State} (hz : Keeps z x0) : KeepsE z (State.recomputeAll x0 x1 x2 x3 x4) := by
  induction x4 generalizing x0 x1 x2 x3
  · unfold State.recomputeAll; try dsimp only
    all_goals repeat'
      first
      | (with_reducible exact hz)
      | (with_reducible assumption)
      | (with_reducible apply KeepsE.ok)
      | (with_reducible apply KeepsE.error)
      | (with_reducible apply KeepsP.ok)
      | (with_reducible apply KeepsP.error)
      | (with_reducible apply State.applyBucket_keeps)
      | split
      | (refine (State.applyBucket_keeps ?_).of _ (by with_reducible assumption))
      | (intro _)
      | (dsimp only)
  · rename_i ih; unfold State.recomputeAll; try dsimp only
    all_goals repeat'
      first
      | (with_reducible exact hz)
      | (with_reducible assumption)
      | (with_reducible apply KeepsE.ok)
      | (with_reducible apply KeepsE.error)
      | (with_reducible apply KeepsP.ok)
      | (with_reducible apply KeepsP.error)
      | (with_reducible apply State.applyBucket_keeps)
      | (with_reducible apply ih)
      | split
      | (refine (State.applyBucket_keeps ?_).of _ (by with_reducible assumption))
      | (intro _)
      | (dsimp only)

theorem recomputed_keeps {x0 : Nat} {x1 : Nat} {x2 : State} {z : State} (hz : Keeps z x2) : Keeps z (recomputed x0 x1 x2) := by
  unfold recomputed; try dsimp only
  all_goals repeat'
    first
    | (with_reducible exact hz)
    | (with_reducible assumption)
    | (with_reducible apply State.bucketBoundary_keeps)
    | (with_reducible apply State.recomputeAll_keeps)
    | (with_reducible apply State.haltJob_keeps)
    | (with_reducible apply State.columnsOn_keeps)
    | (with_reducible apply State.modCtx_keeps)
    | (with_reducible apply foldl_keeps)
    | split
    | (refine (State.recomputeAll_keeps ?_).of _ (by with_reducible assumption))
    | (intro _)
    | (dsimp only)

theorem execDriftRecomputeDone_keeps {x0 : Nat} {x1 : Nat} {x2 : State} {z : State} (hz : Keeps z x2) : KeepsOut z (execDriftRecomputeDone x0 x1 x2) := by
  unfold execDriftRecomputeDone; try dsimp only
  all_goals repeat'
    first
    | (with_reducible exact hz)
    | (with_reducible assumption)
    | (with_reducible apply KeepsOut.next)
    | (with_reducible apply KeepsOut.fault)
    | (with_reducible apply onUnit_keeps)
    | (with_reducible apply recomputed_keeps)
    | split
    | (intro _)
    | (dsimp only)

theorem State.broadcastOn_keeps {x0 : State} {x1 : Nat} {x2 : Nat} {z : State} (hz : Keeps z x0) : Keeps z (State.broadcastOn x0 x1 x2) := by
  unfold State.broadcastOn; try dsimp only
  all_goals repeat'
    first
    | (with_reducible exact hz)
    | (with_reducible assumption)
    | (with_reducible apply State.modCtx_keeps)
    | (with_reducible apply State.dropPhaseExpiries_keeps)
    | (with_reducible apply foldl_keeps)
    | split
    | (intro _)
    | (dsimp only)

theorem State.putParams_keeps {x0 : State} {x1 : Ctx} {x2 : Bool} {x3 : BucketRec} {x4 : LayerRec} {x5 : LayerSt} {x6 : Nat} {x7 : List Byte} {z : State} (hz : Keeps z x0) : KeepsE z (State.putParams x0 x1 x2 x3 x4 x5 x6 x7) := by
  induction x7 generalizing x0 x1 x2 x3 x4 x5 x6
  · unfold State.putParams; try dsimp only
    all_goals repeat'
      first
      | (with_reducible exact hz)
      | (with_reducible assumption)
      | (with_reducible apply KeepsE.ok)
      | (with_reducible apply KeepsE.pure)
      | (with_reducible apply KeepsE.error)
      | (with_reducible apply KeepsE.bindS)
      | (with_reducible apply KeepsE.bindP)
      | (with_reducible apply KeepsE.bind)
      | (with_reducible apply KeepsP.ok)
      | (with_reducible apply KeepsP.pure)
      | (with_reducible apply KeepsP.error)
      | (with_reducible apply KeepsP.bindS)
      | (with_reducible apply KeepsP.bindP)
      | (with_reducible apply KeepsP.bind)
      | (with_reducible apply State.store_keeps)
      | split
      | (refine (State.store_keeps ?_).of _ (by with_reducible assumption))
      | (intro _)
      | (dsimp only)
  · rename_i ih; unfold State.putParams; try dsimp only
    all_goals repeat'
      first
      | (with_reducible exact hz)
      | (with_reducible assumption)
      | (with_reducible apply KeepsE.ok)
      | (with_reducible apply KeepsE.pure)
      | (with_reducible apply KeepsE.error)
      | (with_reducible apply KeepsE.bindS)
      | (with_reducible apply KeepsE.bindP)
      | (with_reducible apply KeepsE.bind)
      | (with_reducible apply KeepsP.ok)
      | (with_reducible apply KeepsP.pure)
      | (with_reducible apply KeepsP.error)
      | (with_reducible apply KeepsP.bindS)
      | (with_reducible apply KeepsP.bindP)
      | (with_reducible apply KeepsP.bind)
      | (with_reducible apply State.store_keeps)
      | (with_reducible apply ih)
      | split
      | (refine (State.store_keeps ?_).of _ (by with_reducible assumption))
      | (intro _)
      | (dsimp only)

theorem State.takeHi_keeps {x0 : State} {x1 : Nat} {x2 : Nat} {x3 : Ctx} {x4 : BucketRec} {x5 : LayerRec} {x6 : LayerSt} {x7 : Nat} {x8 : List Byte} {z : State} (hz : Keeps z x0) : Keeps z (State.takeHi x0 x1 x2 x3 x4 x5 x6 x7 x8) := by
  unfold State.takeHi; try dsimp only
  all_goals repeat'
    first
    | (with_reducible exact hz)
    | (with_reducible assumption)
    | (with_reducible apply State.putParams_keeps)
    | (with_reducible apply State.haltJob_keeps)
    | (with_reducible apply State.modCtx_keeps)
    | (with_reducible apply State.broadcastOn_keeps)
    | split
    | (refine (State.putParams_keeps ?_).of _ (by with_reducible assumption))
    | (intro _)
    | (dsimp only)

theorem paramFrame_keeps {x0 : Nat} {x1 : FrameHead} {x2 : ParamHead} {x3 : List Byte} {x4 : State} {z : State} (hz : Keeps z x4) : Keeps z (paramFrame x0 x1 x2 x3 x4) := by
  unfold paramFrame; try dsimp only
  all_goals repeat'
    first
    | (with_reducible exact hz)
    | (with_reducible assumption)
    | (with_reducible apply State.takeLive_keeps)
    | (with_reducible apply State.dropFrame_keeps)
    | (with_reducible apply State.sendDown_keeps)
    | (with_reducible apply State.takeHi_keeps)
    | (with_reducible apply State.modCtx_keeps)
    | (with_reducible apply State.closeOn_keeps)
    | split
    | (intro _)
    | (dsimp only)

theorem execParam_keeps {x0 : Nat} {x1 : FrameHead} {x2 : ParamHead} {x3 : List Byte} {x4 : State} {z : State} (hz : Keeps z x4) : KeepsOut z (execParam x0 x1 x2 x3 x4) := by
  unfold execParam; try dsimp only
  all_goals repeat'
    first
    | (with_reducible exact hz)
    | (with_reducible assumption)
    | (with_reducible apply KeepsOut.next)
    | (with_reducible apply KeepsOut.fault)
    | (with_reducible apply onUnit_keeps)
    | (with_reducible apply paramFrame_keeps)
    | split
    | (intro _)
    | (dsimp only)

theorem State.putXfer_keeps {x0 : State} {x1 : Ctx} {x2 : Desc} {x3 : Nat} {x4 : List Byte} {z : State} (hz : Keeps z x0) : KeepsE z (State.putXfer x0 x1 x2 x3 x4) := by
  induction x4 generalizing x0 x1 x2 x3
  · unfold State.putXfer; try dsimp only
    all_goals repeat'
      first
      | (with_reducible exact hz)
      | (with_reducible assumption)
      | (with_reducible apply KeepsE.ok)
      | (with_reducible apply KeepsE.error)
      | (with_reducible apply KeepsP.ok)
      | (with_reducible apply KeepsP.error)
      | (with_reducible apply State.storeBits_keeps)
      | split
      | (refine (State.storeBits_keeps ?_).of _ (by with_reducible assumption))
      | (intro _)
      | (dsimp only)
  · rename_i ih; unfold State.putXfer; try dsimp only
    all_goals repeat'
      first
      | (with_reducible exact hz)
      | (with_reducible assumption)
      | (with_reducible apply KeepsE.ok)
      | (with_reducible apply KeepsE.error)
      | (with_reducible apply KeepsP.ok)
      | (with_reducible apply KeepsP.error)
      | (with_reducible apply State.storeBits_keeps)
      | (with_reducible apply ih)
      | split
      | (refine (State.storeBits_keeps ?_).of _ (by with_reducible assumption))
      | (intro _)
      | (dsimp only)

theorem State.takeXfer_keeps {x0 : State} {x1 : Nat} {x2 : Nat} {x3 : Ctx} {x4 : XferRx} {x5 : Nat} {x6 : List Byte} {z : State} (hz : Keeps z x0) : Keeps z (State.takeXfer x0 x1 x2 x3 x4 x5 x6) := by
  unfold State.takeXfer; try dsimp only
  all_goals repeat'
    first
    | (with_reducible exact hz)
    | (with_reducible assumption)
    | (with_reducible apply State.putXfer_keeps)
    | (with_reducible apply State.haltJob_keeps)
    | (with_reducible apply State.modCtx_keeps)
    | (with_reducible apply State.makeReady_keeps)
    | (with_reducible apply State.dropExpiries_keeps)
    | split
    | (refine (State.putXfer_keeps ?_).of _ (by with_reducible assumption))
    | (intro _)
    | (dsimp only)

theorem xferFrame_keeps {x0 : Nat} {x1 : FrameHead} {x2 : Nat} {x3 : Nat} {x4 : Nat} {x5 : Nat} {x6 : List Byte} {x7 : State} {z : State} (hz : Keeps z x7) : Keeps z (xferFrame x0 x1 x2 x3 x4 x5 x6 x7) := by
  unfold xferFrame; try dsimp only
  all_goals repeat'
    first
    | (with_reducible exact hz)
    | (with_reducible assumption)
    | (with_reducible apply State.takeLive_keeps)
    | (with_reducible apply State.sendFrame_keeps)
    | (with_reducible apply State.dropFrame_keeps)
    | (with_reducible apply State.takeXfer_keeps)
    | (with_reducible apply State.closeOn_keeps)
    | (with_reducible apply State.modCtx_keeps)
    | split
    | (intro _)
    | (dsimp only)

theorem execXfer_keeps {x0 : Nat} {x1 : FrameHead} {x2 : Nat} {x3 : Nat} {x4 : Nat} {x5 : Nat} {x6 : List Byte} {x7 : State} {z : State} (hz : Keeps z x7) : KeepsOut z (execXfer x0 x1 x2 x3 x4 x5 x6 x7) := by
  unfold execXfer; try dsimp only
  all_goals repeat'
    first
    | (with_reducible exact hz)
    | (with_reducible assumption)
    | (with_reducible apply KeepsOut.next)
    | (with_reducible apply KeepsOut.fault)
    | (with_reducible apply onUnit_keeps)
    | (with_reducible apply xferFrame_keeps)
    | split
    | (intro _)
    | (dsimp only)

theorem collectEnds_keeps {x0 : Nat} {x1 : Nat} {x2 : State} {z : State} (hz : Keeps z x2) : Keeps z (collectEnds x0 x1 x2) := by
  unfold collectEnds; try dsimp only
  all_goals repeat'
    first
    | (with_reducible exact hz)
    | (with_reducible assumption)
    | (with_reducible apply State.enterSeal_keeps)
    | split
    | (intro _)
    | (dsimp only)

theorem execCollectEnd_keeps {x0 : Nat} {x1 : Nat} {x2 : State} {z : State} (hz : Keeps z x2) : KeepsOut z (execCollectEnd x0 x1 x2) := by
  unfold execCollectEnd; try dsimp only
  all_goals repeat'
    first
    | (with_reducible exact hz)
    | (with_reducible assumption)
    | (with_reducible apply KeepsOut.next)
    | (with_reducible apply KeepsOut.fault)
    | (with_reducible apply onUnit_keeps)
    | (with_reducible apply collectEnds_keeps)
    | split
    | (intro _)
    | (dsimp only)

theorem collectExpires_keeps {x0 : Nat} {x1 : Nat} {x2 : State} {z : State} (hz : Keeps z x2) : Keeps z (collectExpires x0 x1 x2) := by
  unfold collectExpires; try dsimp only
  all_goals repeat'
    first
    | (with_reducible exact hz)
    | (with_reducible assumption)
    | (with_reducible apply State.takeExpiry_keeps)
    | (with_reducible apply State.enterSeal_keeps)
    | (with_reducible apply State.modCtx_keeps)
    | split
    | (refine (State.takeExpiry_keeps ?_).of _ (by with_reducible assumption))
    | (intro _)
    | (dsimp only)

theorem execCollectExpiry_keeps {x0 : Nat} {x1 : Nat} {x2 : State} {z : State} (hz : Keeps z x2) : KeepsOut z (execCollectExpiry x0 x1 x2) := by
  unfold execCollectExpiry; try dsimp only
  all_goals repeat'
    first
    | (with_reducible exact hz)
    | (with_reducible assumption)
    | (with_reducible apply KeepsOut.next)
    | (with_reducible apply KeepsOut.fault)
    | (with_reducible apply onUnit_keeps)
    | (with_reducible apply collectExpires_keeps)
    | split
    | (intro _)
    | (dsimp only)

theorem sealExpires_keeps {x0 : Nat} {x1 : Nat} {x2 : State} {z : State} (hz : Keeps z x2) : Keeps z (sealExpires x0 x1 x2) := by
  unfold sealExpires; try dsimp only
  all_goals repeat'
    first
    | (with_reducible exact hz)
    | (with_reducible assumption)
    | (with_reducible apply State.takeExpiry_keeps)
    | (with_reducible apply State.toDrain_keeps)
    | (with_reducible apply State.postEvent_keeps)
    | split
    | (refine (State.takeExpiry_keeps ?_).of _ (by with_reducible assumption))
    | (intro _)
    | (dsimp only)

theorem execSealExpiry_keeps {x0 : Nat} {x1 : Nat} {x2 : State} {z : State} (hz : Keeps z x2) : KeepsOut z (execSealExpiry x0 x1 x2) := by
  unfold execSealExpiry; try dsimp only
  all_goals repeat'
    first
    | (with_reducible exact hz)
    | (with_reducible assumption)
    | (with_reducible apply KeepsOut.next)
    | (with_reducible apply KeepsOut.fault)
    | (with_reducible apply onUnit_keeps)
    | (with_reducible apply sealExpires_keeps)
    | split
    | (intro _)
    | (dsimp only)

theorem broadcastExpires_keeps {x0 : Nat} {x1 : Nat} {x2 : State} {z : State} (hz : Keeps z x2) : Keeps z (broadcastExpires x0 x1 x2) := by
  unfold broadcastExpires; try dsimp only
  all_goals repeat'
    first
    | (with_reducible exact hz)
    | (with_reducible assumption)
    | (with_reducible apply State.takeExpiry_keeps)
    | (with_reducible apply State.postEvent_keeps)
    | (with_reducible apply State.haltNow_keeps)
    | split
    | (refine (State.takeExpiry_keeps ?_).of _ (by with_reducible assumption))
    | (intro _)
    | (dsimp only)

theorem execBroadcastExpiry_keeps {x0 : Nat} {x1 : Nat} {x2 : State} {z : State} (hz : Keeps z x2) : KeepsOut z (execBroadcastExpiry x0 x1 x2) := by
  unfold execBroadcastExpiry; try dsimp only
  all_goals repeat'
    first
    | (with_reducible exact hz)
    | (with_reducible assumption)
    | (with_reducible apply KeepsOut.next)
    | (with_reducible apply KeepsOut.fault)
    | (with_reducible apply onUnit_keeps)
    | (with_reducible apply broadcastExpires_keeps)
    | split
    | (intro _)
    | (dsimp only)

end Sys2Proof.Machine
end

