-- ==== Sys2Proof/Laws/KeepReplayRun.lean ====
section
/-! SUPPORT. What the operations of Machine/ReplayRun.lean keep (Laws/Keeps.lean): one lemma for each. -/

set_option Elab.async false

namespace Sys2Proof.Machine

theorem State.replayUpdates_keeps {x0 : State} {x1 : Nat} {x2 : Nat} {x3 : W32} {x4 : List BucketRec} {z : State} (hz : Keeps z x0) : KeepsE z (State.replayUpdates x0 x1 x2 x3 x4) := by
  induction x4 generalizing x0 x1 x2 x3
  · unfold State.replayUpdates; try dsimp only
    all_goals repeat'
      first
      | (with_reducible exact hz)
      | (with_reducible assumption)
      | (with_reducible apply KeepsE.ok)
      | (with_reducible apply KeepsE.error)
      | (with_reducible apply KeepsE.bindS)
      | (with_reducible apply KeepsE.bindP)
      | (with_reducible apply KeepsE.bind)
      | (with_reducible apply KeepsP.ok)
      | (with_reducible apply KeepsP.error)
      | (with_reducible apply KeepsP.bindS)
      | (with_reducible apply KeepsP.bindP)
      | (with_reducible apply KeepsP.bind)
      | (with_reducible apply State.applyBucket_keeps)
      | (with_reducible apply State.bucketBoundary_keeps)
      | split
      | (refine (State.applyBucket_keeps ?_).of _ (by with_reducible assumption))
      | (intro _)
      | (dsimp only)
  · rename_i ih; unfold State.replayUpdates; try dsimp only
    all_goals repeat'
      first
      | (with_reducible exact hz)
      | (with_reducible assumption)
      | (with_reducible apply KeepsE.ok)
      | (with_reducible apply KeepsE.error)
      | (with_reducible apply KeepsE.bindS)
      | (with_reducible apply KeepsE.bindP)
      | (with_reducible apply KeepsE.bind)
      | (with_reducible apply KeepsP.ok)
      | (with_reducible apply KeepsP.error)
      | (with_reducible apply KeepsP.bindS)
      | (with_reducible apply KeepsP.bindP)
      | (with_reducible apply KeepsP.bind)
      | (with_reducible apply State.applyBucket_keeps)
      | (with_reducible apply State.bucketBoundary_keeps)
      | (with_reducible apply ih)
      | split
      | (refine (State.applyBucket_keeps ?_).of _ (by with_reducible assumption))
      | (intro _)
      | (dsimp only)

theorem State.replayEnds_keeps {s z : State} {p c : Nat} {x : Ctx} {r : Replay} (hz : Keeps z s) : Keeps z (s.replayEnds p c x r) := by
  have h1 : ∀ (e : Except Nat (State × List Byte)), KeepsP z e → Keeps z (match e with
      | .error e => s.haltJob p c e
      | .ok (s, payload) =>
        ((if ((s.modCtx p c Ctx.afterReplay).ctx p c).map (·.stepsLeft) = some 0 then
            (s.modCtx p c Ctx.afterReplay).enterState p c .idle else s.modCtx p c Ctx.afterReplay)).reply p 0x0081 ⟨r.tag, r.quiet⟩ 0 payload) := by
    intro e he
    split
    · exact State.haltJob_keeps hz
    · next t payload => 
      have ht : Keeps z (t.modCtx p c Ctx.afterReplay) := State.modCtx_keeps (he.of _ rfl)
      exact State.reply_keeps (ite_keeps (State.enterState_keeps ht) ht)
  have hd := State.draw_keeps_at (x0 := s) hz
  refine h1 _ ?_
  refine KeepsP.bind fun log => KeepsP.bind fun rs => ?_
  split
  next v t hv =>
  rw [hv] at hd
  split
  · exact KeepsP.bindS (State.replayUpdates_keeps (State.modCtx_keeps hd)) fun a ha => .pure ha
  · exact .pure hd

end Sys2Proof.Machine
end

