-- ==== Sys2Proof/Laws/KeepStepFlow.lean ====
section
/-! SUPPORT. What the operations of Machine/StepFlow.lean keep (Laws/Keeps.lean): one lemma for each. -/

set_option Elab.async false

namespace Sys2Proof.Machine

theorem State.stepOver_keeps {x0 : State} {x1 : Nat} {x2 : Nat} {z : State} (hz : Keeps z x0) : Keeps z (State.stepOver x0 x1 x2) := by
  unfold State.stepOver; try dsimp only
  all_goals repeat'
    first
    | (with_reducible exact hz)
    | (with_reducible assumption)
    | (with_reducible apply State.modCtx_keeps)
    | (with_reducible apply State.enterState_keeps)
    | split
    | (intro _)
    | (dsimp only)

theorem phaseStarts_keeps {x0 : Nat} {x1 : Nat} {x2 : State} {z : State} (hz : Keeps z x2) : Keeps z (phaseStarts x0 x1 x2) := by
  unfold phaseStarts; try dsimp only
  all_goals repeat'
    first
    | (with_reducible exact hz)
    | (with_reducible assumption)
    | (with_reducible apply State.modCtx_keeps)
    | (with_reducible apply State.runOn_keeps)
    | split
    | (intro _)
    | (dsimp only)

theorem execPhase_keeps {x0 : Nat} {x1 : Nat} {x2 : State} {z : State} (hz : Keeps z x2) : KeepsOut z (execPhase x0 x1 x2) := by
  unfold execPhase; try dsimp only
  all_goals repeat'
    first
    | (with_reducible exact hz)
    | (with_reducible assumption)
    | (with_reducible apply KeepsOut.next)
    | (with_reducible apply KeepsOut.fault)
    | (with_reducible apply onUnit_keeps)
    | (with_reducible apply phaseStarts_keeps)
    | split
    | (intro _)
    | (dsimp only)

theorem State.leaveProbe_keeps {x0 : State} {x1 : Nat} {x2 : Nat} {x3 : Nat} {z : State} (hz : Keeps z x0) : Keeps z (State.leaveProbe x0 x1 x2 x3) := by
  unfold State.leaveProbe; try dsimp only
  all_goals repeat'
    first
    | (with_reducible exact hz)
    | (with_reducible assumption)
    | (with_reducible apply State.postEvent_keeps)
    | (with_reducible apply State.modPd_keeps)
    | (with_reducible apply foldl_keeps)
    | split
    | (intro _)
    | (dsimp only)

theorem State.takeN_keeps {x0 : State} {x1 : Nat} {x2 : Nat} {x3 : Nat} {z : State} (hz : Keeps z x0) : Keeps z (State.takeN x0 x1 x2 x3) := by
  unfold State.takeN; try dsimp only
  all_goals repeat'
    first
    | (with_reducible exact hz)
    | (with_reducible assumption)
    | (with_reducible apply State.leaveProbe_keeps)
    | (with_reducible apply State.modPd_keeps)
    | split
    | (intro _)
    | (dsimp only)

theorem State.refuseStep_keeps {x0 : State} {x1 : Nat} {x2 : Nat} {x3 : Ctx} {z : State} (hz : Keeps z x0) : Keeps z (State.refuseStep x0 x1 x2 x3) := by
  unfold State.refuseStep; try dsimp only
  all_goals repeat'
    first
    | (with_reducible exact hz)
    | (with_reducible assumption)
    | (with_reducible apply State.postEvent_keeps)
    | (with_reducible apply State.modCtx_keeps)
    | (with_reducible apply State.enterState_keeps)
    | split
    | (intro _)
    | (dsimp only)

theorem State.bindScales_keeps {x0 : State} {x1 : Nat} {x2 : Nat} {x3 : Nat} {x4 : Ctx} {z : State} (hz : Keeps z x0) : KeepsE z (State.bindScales x0 x1 x2 x3 x4) := by
  unfold State.bindScales; try dsimp only
  all_goals repeat'
    first
    | (with_reducible exact hz)
    | (with_reducible assumption)
    | (with_reducible apply KeepsE.ok)
    | (with_reducible apply KeepsE.error)
    | (with_reducible apply KeepsP.ok)
    | (with_reducible apply KeepsP.error)
    | (with_reducible apply State.postEvent_keeps)
    | (with_reducible apply State.modPd_keeps)
    | (with_reducible apply State.modCtx_keeps)
    | (with_reducible apply foldl_keeps)
    | split
    | (intro _)
    | (dsimp only)

theorem State.bindRecords_keeps {x0 : State} {x1 : Nat} {x2 : Nat} {x3 : Ctx} {z : State} (hz : Keeps z x0) : KeepsE z (State.bindRecords x0 x1 x2 x3) := by
  unfold State.bindRecords; try dsimp only
  all_goals repeat'
    first
    | (with_reducible exact hz)
    | (with_reducible assumption)
    | (with_reducible apply KeepsE.ok)
    | (with_reducible apply KeepsE.error)
    | (with_reducible apply KeepsP.ok)
    | (with_reducible apply KeepsP.error)
    | (with_reducible apply State.modCtx_keeps)
    | split
    | (intro _)
    | (dsimp only)

theorem State.bindStep_keeps {x0 : State} {x1 : Nat} {x2 : Nat} {x3 : Nat} {x4 : Ctx} {z : State} (hz : Keeps z x0) : KeepsE z (State.bindStep x0 x1 x2 x3 x4) := by
  unfold State.bindStep; try dsimp only
  all_goals repeat'
    first
    | (with_reducible exact hz)
    | (with_reducible assumption)
    | (with_reducible apply KeepsE.ok)
    | (with_reducible apply KeepsE.error)
    | (with_reducible apply KeepsP.ok)
    | (with_reducible apply KeepsP.error)
    | (with_reducible apply State.bindRecords_keeps)
    | (with_reducible apply State.bindScales_keeps)
    | split
    | (refine (State.bindRecords_keeps ?_).of _ (by with_reducible assumption))
    | (refine (State.bindScales_keeps ?_).of _ (by with_reducible assumption))
    | (intro _)
    | (dsimp only)

theorem State.defersLoad_keeps {x0 : State} {x1 : Nat} {x2 : Nat} {z : State} (hz : Keeps z x0) : Keeps z (State.defersLoad x0 x1 x2) := by
  unfold State.defersLoad; try dsimp only
  all_goals repeat'
    first
    | (with_reducible exact hz)
    | (with_reducible assumption)
    | (with_reducible apply State.modCtx_keeps)
    | split
    | (intro _)
    | (dsimp only)

theorem State.loadStep_keeps {s z : State} {p c : Nat} {fresh : Bool} (hz : Keeps z s) : Keeps z (s.loadStep p c fresh) := by
  unfold State.loadStep
  extract_lets step v
  have h1 : Keeps z v := State.modCtx_keeps (State.takeN_keeps hz)
  clear_value v
  split
  · exact h1
  · split
    · exact State.haltJob_keeps h1
    · next t ht =>
      have h2 : Keeps z t := by
        split at ht
        · exact (State.bindStep_keeps h1).of _ ht
        · cases ht; exact h1
      split
      · split
        · exact State.defersLoad_keeps h2
        · exact State.haltJob_keeps h2
      · split
        · exact State.haltJob_keeps h2
        · exact State.runOn_keeps (State.modCtx_keeps (State.hasRead_keeps h2))

theorem stepBegins_keeps {x0 : Nat} {x1 : Nat} {x2 : State} {z : State} (hz : Keeps z x2) : Keeps z (stepBegins x0 x1 x2) := by
  unfold stepBegins; try dsimp only
  all_goals repeat'
    first
    | (with_reducible exact hz)
    | (with_reducible assumption)
    | (with_reducible apply State.runOn_keeps)
    | (with_reducible apply State.modCtx_keeps)
    | (with_reducible apply State.loadStep_keeps)
    | (with_reducible apply State.refuseStep_keeps)
    | split
    | (intro _)
    | (dsimp only)

theorem execStepBegin_keeps {x0 : Nat} {x1 : Nat} {x2 : State} {z : State} (hz : Keeps z x2) : KeepsOut z (execStepBegin x0 x1 x2) := by
  unfold execStepBegin; try dsimp only
  all_goals repeat'
    first
    | (with_reducible exact hz)
    | (with_reducible assumption)
    | (with_reducible apply KeepsOut.next)
    | (with_reducible apply KeepsOut.fault)
    | (with_reducible apply onUnit_keeps)
    | (with_reducible apply stepBegins_keeps)
    | split
    | (intro _)
    | (dsimp only)

theorem State.enterPhase_keeps {x0 : State} {x1 : Nat} {x2 : Nat} {x3 : Nat} {x4 : Nat} {z : State} (hz : Keeps z x0) : Keeps z (State.enterPhase x0 x1 x2 x3 x4) := by
  unfold State.enterPhase; try dsimp only
  all_goals repeat'
    first
    | (with_reducible exact hz)
    | (with_reducible assumption)
    | (with_reducible apply State.runOn_keeps)
    | (with_reducible apply State.modCtx_keeps)
    | split
    | (intro _)
    | (dsimp only)

theorem forwardEnds_keeps {x0 : Nat} {x1 : Nat} {x2 : State} {z : State} (hz : Keeps z x2) : Keeps z (forwardEnds x0 x1 x2) := by
  unfold forwardEnds; try dsimp only
  all_goals repeat'
    first
    | (with_reducible exact hz)
    | (with_reducible assumption)
    | (with_reducible apply State.enterPhase_keeps)
    | (with_reducible apply State.modCtx_keeps)
    | split
    | (intro _)
    | (dsimp only)

theorem execForwardPassEnd_keeps {x0 : Nat} {x1 : Nat} {x2 : State} {z : State} (hz : Keeps z x2) : KeepsOut z (execForwardPassEnd x0 x1 x2) := by
  unfold execForwardPassEnd; try dsimp only
  all_goals repeat'
    first
    | (with_reducible exact hz)
    | (with_reducible assumption)
    | (with_reducible apply KeepsOut.next)
    | (with_reducible apply KeepsOut.fault)
    | (with_reducible apply onUnit_keeps)
    | (with_reducible apply forwardEnds_keeps)
    | split
    | (intro _)
    | (dsimp only)

theorem State.passesEnd_keeps {s z : State} {p c : Nat} {collect : State → Nat → Nat → State} (hz : Keeps z s)
    (hc : ∀ a p c, Keeps z a → Keeps z (collect a p c)) : Keeps z (s.passesEnd p c collect) := by
  unfold State.passesEnd
  split
  · exact hz
  · split
    · exact State.replayEnds_keeps hz
    · exact hc _ _ _ hz

theorem State.enterCollect_keeps {x0 : State} {x1 : Nat} {x2 : Nat} {z : State} (hz : Keeps z x0) : Keeps z (State.enterCollect x0 x1 x2) := by
  unfold State.enterCollect; try dsimp only
  all_goals repeat'
    first
    | (with_reducible exact hz)
    | (with_reducible assumption)
    | (with_reducible apply State.modCtx_keeps)
    | (with_reducible apply State.collectAll_keeps)
    | (with_reducible apply State.addExpiry_keeps)
    | (with_reducible apply State.grantPartials_keeps)
    | split
    | (intro _)
    | (dsimp only)

theorem lossEnds_keeps {x0 : Nat} {x1 : Nat} {x2 : State} {z : State} (hz : Keeps z x2) : Keeps z (lossEnds x0 x1 x2) := by
  unfold lossEnds; try dsimp only
  all_goals repeat'
    first
    | (with_reducible exact hz)
    | (with_reducible assumption)
    | (with_reducible apply State.haltJob_keeps)
    | (with_reducible apply State.modCtx_keeps)
    | (with_reducible apply State.toDrain_keeps)
    | (with_reducible apply State.passesEnd_keeps)
    | (with_reducible apply State.enterCollect_keeps)
    | (with_reducible apply State.runOn_keeps)
    | (with_reducible apply State.enterPhase_keeps)
    | split
    | (intro _)
    | (dsimp only)

theorem execLossPassEnd_keeps {x0 : Nat} {x1 : Nat} {x2 : State} {z : State} (hz : Keeps z x2) : KeepsOut z (execLossPassEnd x0 x1 x2) := by
  unfold execLossPassEnd; try dsimp only
  all_goals repeat'
    first
    | (with_reducible exact hz)
    | (with_reducible assumption)
    | (with_reducible apply KeepsOut.next)
    | (with_reducible apply KeepsOut.fault)
    | (with_reducible apply onUnit_keeps)
    | (with_reducible apply lossEnds_keeps)
    | split
    | (intro _)
    | (dsimp only)

theorem backwardEnds_keeps {x0 : Nat} {x1 : Nat} {x2 : State} {z : State} (hz : Keeps z x2) : Keeps z (backwardEnds x0 x1 x2) := by
  unfold backwardEnds; try dsimp only
  all_goals repeat'
    first
    | (with_reducible exact hz)
    | (with_reducible assumption)
    | (with_reducible apply State.enterPhase_keeps)
    | (with_reducible apply State.passesEnd_keeps)
    | (with_reducible apply State.enterCollect_keeps)
    | split
    | (intro _)
    | (dsimp only)

theorem execBackwardEnd_keeps {x0 : Nat} {x1 : Nat} {x2 : State} {z : State} (hz : Keeps z x2) : KeepsOut z (execBackwardEnd x0 x1 x2) := by
  unfold execBackwardEnd; try dsimp only
  all_goals repeat'
    first
    | (with_reducible exact hz)
    | (with_reducible assumption)
    | (with_reducible apply KeepsOut.next)
    | (with_reducible apply KeepsOut.fault)
    | (with_reducible apply onUnit_keeps)
    | (with_reducible apply backwardEnds_keeps)
    | split
    | (intro _)
    | (dsimp only)

theorem State.postSilent_keeps {x0 : State} {x1 : Nat} {x2 : Nat} {x3 : Ctx} {x4 : Nat} {z : State} (hz : Keeps z x0) : Keeps z (State.postSilent x0 x1 x2 x3 x4) := by
  unfold State.postSilent; try dsimp only
  all_goals repeat'
    first
    | (with_reducible exact hz)
    | (with_reducible assumption)
    | (with_reducible apply State.modCtx_keeps)
    | (with_reducible apply State.postEvent_keeps)
    | split
    | (intro _)
    | (dsimp only)

theorem State.broadcastBuckets_keeps {x0 : State} {x1 : Nat} {x2 : Nat} {x3 : List BucketRec} {z : State} (hz : Keeps z x0) : Keeps z (State.broadcastBuckets x0 x1 x2 x3) := by
  induction x3 generalizing x0 x1 x2
  · unfold State.broadcastBuckets; try dsimp only
    all_goals repeat'
      first
      | (with_reducible exact hz)
      | (with_reducible assumption)
      | (with_reducible apply State.sendParams_keeps)
      | split
      | (intro _)
      | (dsimp only)
  · rename_i ih; unfold State.broadcastBuckets; try dsimp only
    all_goals repeat'
      first
      | (with_reducible exact hz)
      | (with_reducible assumption)
      | (with_reducible apply State.sendParams_keeps)
      | (with_reducible apply ih)
      | split
      | (intro _)
      | (dsimp only)

theorem commits_keeps {x0 : Nat} {x1 : Nat} {x2 : State} {z : State} (hz : Keeps z x2) : Keeps z (commits x0 x1 x2) := by
  unfold commits; try dsimp only
  all_goals repeat'
    first
    | (with_reducible exact hz)
    | (with_reducible assumption)
    | (with_reducible apply State.modCtx_keeps)
    | (with_reducible apply State.postSilent_keeps)
    | (with_reducible apply State.postEvent_keeps)
    | (with_reducible apply State.modPd_keeps)
    | (with_reducible apply State.leaveProbe_keeps)
    | (with_reducible apply State.addExpiry_keeps)
    | (with_reducible apply State.spanEnds_keeps)
    | (with_reducible apply State.broadcastOn_keeps)
    | (with_reducible apply State.broadcastBuckets_keeps)
    | (with_reducible apply foldl_keeps)
    | split
    | (intro _)
    | (dsimp only)

theorem execCommit_keeps {x0 : Nat} {x1 : Nat} {x2 : State} {z : State} (hz : Keeps z x2) : KeepsOut z (execCommit x0 x1 x2) := by
  unfold execCommit; try dsimp only
  all_goals repeat'
    first
    | (with_reducible exact hz)
    | (with_reducible assumption)
    | (with_reducible apply KeepsOut.next)
    | (with_reducible apply KeepsOut.fault)
    | (with_reducible apply onUnit_keeps)
    | (with_reducible apply commits_keeps)
    | split
    | (intro _)
    | (dsimp only)

theorem State.reportCommitted_keeps {x0 : State} {x1 : Nat} {x2 : Nat} {x3 : Ctx} {x4 : StepBeginRec} {z : State} (hz : Keeps z x0) : Keeps z (State.reportCommitted x0 x1 x2 x3 x4) := by
  unfold State.reportCommitted; try dsimp only
  all_goals repeat'
    first
    | (with_reducible exact hz)
    | (with_reducible assumption)
    | (with_reducible apply State.postEvent_keeps)
    | (with_reducible apply State.modCtx_keeps)
    | (with_reducible apply State.stepOver_keeps)
    | split
    | (intro _)
    | (dsimp only)

theorem State.repeatStep_keeps {x0 : State} {x1 : Nat} {x2 : Nat} {x3 : Nat} {x4 : Train → Train} {z : State} (hz : Keeps z x0) : Keeps z (State.repeatStep x0 x1 x2 x3 x4) := by
  unfold State.repeatStep; try dsimp only
  all_goals repeat'
    first
    | (with_reducible exact hz)
    | (with_reducible assumption)
    | (with_reducible apply State.modCtx_keeps)
    | (with_reducible apply State.postEvent_keeps)
    | split
    | (intro _)
    | (dsimp only)

theorem State.repeatNf_keeps {x0 : State} {x1 : Nat} {x2 : Nat} {x3 : Nat} {x4 : Ctx} {z : State} (hz : Keeps z x0) : Keeps z (State.repeatNf x0 x1 x2 x3 x4) := by
  unfold State.repeatNf; try dsimp only
  all_goals repeat'
    first
    | (with_reducible exact hz)
    | (with_reducible assumption)
    | (with_reducible apply State.modCtx_keeps)
    | (with_reducible apply State.haltNow_keeps)
    | (with_reducible apply State.repeatStep_keeps)
    | split
    | (intro _)
    | (dsimp only)

theorem State.repeatOther_keeps {x0 : State} {x1 : Nat} {x2 : Nat} {x3 : Nat} {x4 : Nat} {x5 : Ctx} {z : State} (hz : Keeps z x0) : Keeps z (State.repeatOther x0 x1 x2 x3 x4 x5) := by
  unfold State.repeatOther; try dsimp only
  all_goals repeat'
    first
    | (with_reducible exact hz)
    | (with_reducible assumption)
    | (with_reducible apply State.haltNow_keeps)
    | (with_reducible apply State.repeatStep_keeps)
    | split
    | (intro _)
    | (dsimp only)

theorem drainEnds_keeps {x0 : Nat} {x1 : Nat} {x2 : State} {z : State} (hz : Keeps z x2) : Keeps z (drainEnds x0 x1 x2) := by
  unfold drainEnds; try dsimp only
  all_goals repeat'
    first
    | (with_reducible exact hz)
    | (with_reducible assumption)
    | (with_reducible apply State.stepOver_keeps)
    | (with_reducible apply State.modCtx_keeps)
    | (with_reducible apply State.discardBlocks_keeps)
    | (with_reducible apply State.reportCommitted_keeps)
    | (with_reducible apply State.haltNow_keeps)
    | (with_reducible apply State.repeatNf_keeps)
    | (with_reducible apply State.repeatOther_keeps)
    | split
    | (intro _)
    | (dsimp only)

theorem execDrainEnd_keeps {x0 : Nat} {x1 : Nat} {x2 : State} {z : State} (hz : Keeps z x2) : KeepsOut z (execDrainEnd x0 x1 x2) := by
  unfold execDrainEnd; try dsimp only
  all_goals repeat'
    first
    | (with_reducible exact hz)
    | (with_reducible assumption)
    | (with_reducible apply KeepsOut.next)
    | (with_reducible apply KeepsOut.fault)
    | (with_reducible apply onUnit_keeps)
    | (with_reducible apply drainEnds_keeps)
    | split
    | (intro _)
    | (dsimp only)

end Sys2Proof.Machine
end

