-- ==== Sys2Proof/Laws/KeepLoad.lean ====
section
/-! SUPPORT. What the operations of Machine/Load.lean keep (Laws/Keeps.lean): one lemma for each. -/

set_option Elab.async false

namespace Sys2Proof.Machine

theorem actParcelLoad_keeps {x0 : Nat} {x1 : Nat} {x2 : Nat} {x3 : Nat} {x4 : Nat} {x5 : State} {z : State} (hz : Keeps z x5) : Keeps z (actParcelLoad x0 x1 x2 x3 x4 x5).s := by
  unfold actParcelLoad; try dsimp only
  all_goals repeat'
    first
    | (with_reducible exact hz)
    | (with_reducible assumption)
    | (with_reducible apply Taken.refuse_keeps)
    | (with_reducible apply Taken.ok_keeps)
    | (with_reducible apply State.modPd_keeps)
    | split
    | (intro _)
    | (dsimp only)

theorem execParcelLoad_keeps {x0 : Nat} {x1 : LetterHead} {x2 : Nat} {x3 : Nat} {x4 : Nat} {x5 : Nat} {x6 : State} {z : State} (hz : Keeps z x6) : KeepsOut z (execParcelLoad x0 x1 x2 x3 x4 x5 x6) := by
  unfold execParcelLoad; try dsimp only
  all_goals repeat'
    first
    | (with_reducible exact hz)
    | (with_reducible assumption)
    | (with_reducible apply KeepsOut.next)
    | (with_reducible apply KeepsOut.fault)
    | (with_reducible apply onUnit_keeps)
    | (with_reducible apply State.takeLetter_keeps)
    | (with_reducible apply actParcelLoad_keeps)
    | split
    | (intro _)
    | (dsimp only)

theorem State.onQuiet_keeps {s z : State} {p ctx : Nat} {f : Ctx → Taken} (hz : Keeps z s) (hf : ∀ x, Keeps z (f x).s) :
    Keeps z (s.onQuiet p ctx f).s := by
  unfold State.onQuiet
  split
  · exact hz
  · split
    · exact hf _
    · exact hz

theorem actParcelUnload_keeps {x0 : Nat} {x1 : Nat} {x2 : State} {z : State} (hz : Keeps z x2) : Keeps z (actParcelUnload x0 x1 x2).s := by
  unfold actParcelUnload; try dsimp only
  all_goals repeat'
    first
    | (with_reducible exact hz)
    | (with_reducible assumption)
    | (with_reducible apply State.onQuiet_keeps)
    | (with_reducible apply Taken.ok_keeps)
    | (with_reducible apply State.reschedule_keeps)
    | (with_reducible apply State.modPd_keeps)
    | (with_reducible apply State.refuseEpoch_keeps)
    | split
    | (intro _)
    | (dsimp only)

theorem execParcelUnload_keeps {x0 : Nat} {x1 : LetterHead} {x2 : Nat} {x3 : State} {z : State} (hz : Keeps z x3) : KeepsOut z (execParcelUnload x0 x1 x2 x3) := by
  unfold execParcelUnload; try dsimp only
  all_goals repeat'
    first
    | (with_reducible exact hz)
    | (with_reducible assumption)
    | (with_reducible apply KeepsOut.next)
    | (with_reducible apply KeepsOut.fault)
    | (with_reducible apply onUnit_keeps)
    | (with_reducible apply State.takeLetter_keeps)
    | (with_reducible apply actParcelUnload_keeps)
    | split
    | (intro _)
    | (dsimp only)

theorem actStepRun_keeps {x0 : Nat} {x1 : Nat} {x2 : Nat} {x3 : Nat} {x4 : State} {z : State} (hz : Keeps z x4) : Keeps z (actStepRun x0 x1 x2 x3 x4).s := by
  unfold actStepRun; try dsimp only
  all_goals repeat'
    first
    | (with_reducible exact hz)
    | (with_reducible assumption)
    | (with_reducible apply Taken.refuse_keeps)
    | (with_reducible apply Taken.ok_keeps)
    | (with_reducible apply State.modCtx_keeps)
    | (with_reducible apply State.enterState_keeps)
    | (with_reducible apply State.makeReady_keeps)
    | split
    | (intro _)
    | (dsimp only)

theorem execStepRun_keeps {x0 : Nat} {x1 : LetterHead} {x2 : Nat} {x3 : Nat} {x4 : Nat} {x5 : State} {z : State} (hz : Keeps z x5) : KeepsOut z (execStepRun x0 x1 x2 x3 x4 x5) := by
  unfold execStepRun; try dsimp only
  all_goals repeat'
    first
    | (with_reducible exact hz)
    | (with_reducible assumption)
    | (with_reducible apply KeepsOut.next)
    | (with_reducible apply KeepsOut.fault)
    | (with_reducible apply onUnit_keeps)
    | (with_reducible apply State.takeLetter_keeps)
    | (with_reducible apply actStepRun_keeps)
    | split
    | (intro _)
    | (dsimp only)

theorem actStateRead_keeps {x0 : Nat} {x1 : Nat} {x2 : Nat} {x3 : Nat} {x4 : Nat} {x5 : Bulk} {x6 : State} {z : State} (hz : Keeps z x6) : Keeps z (actStateRead x0 x1 x2 x3 x4 x5 x6).s := by
  unfold actStateRead; try dsimp only
  all_goals repeat'
    first
    | (with_reducible exact hz)
    | (with_reducible assumption)
    | (with_reducible apply Taken.refuse_keeps)
    | (with_reducible apply State.bulk_keeps)
    | split
    | (intro _)
    | (dsimp only)

theorem execStateRead_keeps {x0 : Nat} {x1 : LetterHead} {x2 : Nat} {x3 : Nat} {x4 : Nat} {x5 : Nat} {x6 : Bulk} {x7 : State} {z : State} (hz : Keeps z x7) : KeepsOut z (execStateRead x0 x1 x2 x3 x4 x5 x6 x7) := by
  unfold execStateRead; try dsimp only
  all_goals repeat'
    first
    | (with_reducible exact hz)
    | (with_reducible assumption)
    | (with_reducible apply KeepsOut.next)
    | (with_reducible apply KeepsOut.fault)
    | (with_reducible apply onUnit_keeps)
    | (with_reducible apply State.takeLetter_keeps)
    | (with_reducible apply actStateRead_keeps)
    | split
    | (intro _)
    | (dsimp only)

theorem State.freeCounters_keeps_at {x0 : State} {z : State} (hz : Keeps z x0) : Keeps z (State.freeCounters x0).2 := by
  unfold State.freeCounters
  all_goals repeat'
    first
    | (with_reducible exact hz)
    | (with_reducible assumption)
    | (with_reducible apply State.draw_keeps_at)
    | split
    | (dsimp only)
    | (refine State.draw_keeps (by with_reducible assumption) ?_)
    | (intro _)
    | (dsimp only)

theorem State.freeCounters_keeps {x0 : State} {z t : State} {a : List Byte} (h : State.freeCounters x0 = (a, t)) (hz : Keeps z x0) : Keeps z t := by
  have k := State.freeCounters_keeps_at (x0 := x0) hz
  rw [h] at k; exact k

theorem actDiagCounters_keeps {x0 : Nat} {x1 : Nat} {x2 : Bulk} {x3 : State} {z : State} (hz : Keeps z x3) : Keeps z (actDiagCounters x0 x1 x2 x3).s := by
  unfold actDiagCounters
  all_goals repeat'
    first
    | (with_reducible exact hz)
    | (with_reducible assumption)
    | (with_reducible apply State.bulk_keeps)
    | (with_reducible apply State.freeCounters_keeps_at)
    | (with_reducible apply Taken.refuse_keeps)
    | split
    | (dsimp only)
    | (refine State.freeCounters_keeps (by with_reducible assumption) ?_)
    | (intro _)
    | (dsimp only)

theorem execDiagCounters_keeps {x0 : Nat} {x1 : LetterHead} {x2 : Nat} {x3 : Nat} {x4 : Bulk} {x5 : State} {z : State} (hz : Keeps z x5) : KeepsOut z (execDiagCounters x0 x1 x2 x3 x4 x5) := by
  unfold execDiagCounters; try dsimp only
  all_goals repeat'
    first
    | (with_reducible exact hz)
    | (with_reducible assumption)
    | (with_reducible apply KeepsOut.next)
    | (with_reducible apply KeepsOut.fault)
    | (with_reducible apply onUnit_keeps)
    | (with_reducible apply State.takeLetter_keeps)
    | (with_reducible apply actDiagCounters_keeps)
    | split
    | (intro _)
    | (dsimp only)

end Sys2Proof.Machine
end

