-- ==== Sys2Proof/Laws/KeepCheckpoint.lean ====
section
/-! SUPPORT. What the operations of Machine/Checkpoint.lean keep (Laws/Keeps.lean): one lemma for each. -/

set_option Elab.async false

namespace Sys2Proof.Machine

theorem actCheckpoint_keeps {x0 : Nat} {x1 : Nat} {x2 : Nat} {x3 : State} {z : State} (hz : Keeps z x3) : Keeps z (actCheckpoint x0 x1 x2 x3).s := by
  unfold actCheckpoint; try dsimp only
  all_goals repeat'
    first
    | (with_reducible exact hz)
    | (with_reducible assumption)
    | (with_reducible apply State.onQuiet_keeps)
    | (with_reducible apply State.onPens_keeps)
    | (with_reducible apply Taken.refuse_keeps)
    | (with_reducible apply State.refuseCause_keeps)
    | (with_reducible apply State.putDesc_keeps)
    | (with_reducible apply Taken.ok_keeps)
    | (with_reducible apply State.hasRead_keeps)
    | split
    | (refine (State.putDesc_keeps ?_).of _ (by with_reducible assumption))
    | (intro _)
    | (dsimp only)

theorem execCheckpoint_keeps {x0 : Nat} {x1 : LetterHead} {x2 : Nat} {x3 : Nat} {x4 : State} {z : State} (hz : Keeps z x4) : KeepsOut z (execCheckpoint x0 x1 x2 x3 x4) := by
  unfold execCheckpoint; try dsimp only
  all_goals repeat'
    first
    | (with_reducible exact hz)
    | (with_reducible assumption)
    | (with_reducible apply KeepsOut.next)
    | (with_reducible apply KeepsOut.fault)
    | (with_reducible apply onUnit_keeps)
    | (with_reducible apply State.takeLetter_keeps)
    | (with_reducible apply actCheckpoint_keeps)
    | split
    | (intro _)
    | (dsimp only)

theorem State.restoreHere_keeps {x0 : State} {x1 : Nat} {x2 : Nat} {x3 : Ctx} {x4 : Desc} {z : State} (hz : Keeps z x0) : KeepsP z (State.restoreHere x0 x1 x2 x3 x4) := by
  unfold State.restoreHere; try dsimp only
  all_goals repeat'
    first
    | (with_reducible exact hz)
    | (with_reducible assumption)
    | (with_reducible apply KeepsP.ok)
    | (with_reducible apply KeepsP.pure)
    | (with_reducible apply KeepsP.error)
    | (with_reducible apply KeepsP.throw)
    | (with_reducible apply KeepsP.bindS)
    | (with_reducible apply KeepsP.bindP)
    | (with_reducible apply KeepsP.bind)
    | (with_reducible apply KeepsE.ok)
    | (with_reducible apply KeepsE.pure)
    | (with_reducible apply KeepsE.error)
    | (with_reducible apply KeepsE.throw)
    | (with_reducible apply KeepsE.bindS)
    | (with_reducible apply KeepsE.bindP)
    | (with_reducible apply KeepsE.bind)
    | (with_reducible apply State.putPieces_keeps)
    | (with_reducible apply State.modPd_keeps)
    | split
    | (refine (State.putPieces_keeps ?_).of _ (by with_reducible assumption))
    | (intro _)
    | (dsimp only)

theorem State.restoreFrom_keeps {x0 : State} {x1 : Nat} {x2 : Nat} {x3 : Ctx} {x4 : Desc} {z : State} (hz : Keeps z x0) : KeepsP z (State.restoreFrom x0 x1 x2 x3 x4) := by
  unfold State.restoreFrom; try dsimp only
  all_goals repeat'
    first
    | (with_reducible exact hz)
    | (with_reducible assumption)
    | (with_reducible apply KeepsP.ok)
    | (with_reducible apply KeepsP.pure)
    | (with_reducible apply KeepsP.error)
    | (with_reducible apply KeepsP.bindS)
    | (with_reducible apply KeepsP.bindP)
    | (with_reducible apply KeepsP.bind)
    | (with_reducible apply KeepsE.ok)
    | (with_reducible apply KeepsE.pure)
    | (with_reducible apply KeepsE.error)
    | (with_reducible apply KeepsE.bindS)
    | (with_reducible apply KeepsE.bindP)
    | (with_reducible apply KeepsE.bind)
    | (with_reducible apply State.restoreHere_keeps)
    | (with_reducible apply State.lendPens_keeps)
    | (with_reducible apply State.returnPens_keeps)
    | split
    | (refine (State.restoreHere_keeps ?_).of _ (by with_reducible assumption))
    | (intro _)
    | (dsimp only)

theorem actRestore_keeps {x0 : Nat} {x1 : Nat} {x2 : Nat} {x3 : State} {z : State} (hz : Keeps z x3) : Keeps z (actRestore x0 x1 x2 x3).s := by
  unfold actRestore; try dsimp only
  all_goals repeat'
    first
    | (with_reducible exact hz)
    | (with_reducible assumption)
    | (with_reducible apply State.onQuiet_keeps)
    | (with_reducible apply Taken.refuse_keeps)
    | (with_reducible apply State.restoreFrom_keeps)
    | (with_reducible apply State.refuseCause_keeps)
    | (with_reducible apply Taken.ok_keeps)
    | split
    | (refine (State.restoreFrom_keeps ?_).of _ (by with_reducible assumption))
    | (intro _)
    | (dsimp only)

theorem execRestore_keeps {x0 : Nat} {x1 : LetterHead} {x2 : Nat} {x3 : Nat} {x4 : State} {z : State} (hz : Keeps z x4) : KeepsOut z (execRestore x0 x1 x2 x3 x4) := by
  unfold execRestore; try dsimp only
  all_goals repeat'
    first
    | (with_reducible exact hz)
    | (with_reducible assumption)
    | (with_reducible apply KeepsOut.next)
    | (with_reducible apply KeepsOut.fault)
    | (with_reducible apply onUnit_keeps)
    | (with_reducible apply State.takeLetter_keeps)
    | (with_reducible apply actRestore_keeps)
    | split
    | (intro _)
    | (dsimp only)

theorem actInitialise_keeps {x0 : Nat} {x1 : Nat} {x2 : Nat} {x3 : Nat} {x4 : Nat} {x5 : State} {z : State} (hz : Keeps z x5) : Keeps z (actInitialise x0 x1 x2 x3 x4 x5).s := by
  unfold actInitialise; try dsimp only
  all_goals repeat'
    first
    | (with_reducible exact hz)
    | (with_reducible assumption)
    | (with_reducible apply State.onQuiet_keeps)
    | (with_reducible apply State.onPens_keeps)
    | (with_reducible apply Taken.refuse_keeps)
    | (with_reducible apply State.refuseCause_keeps)
    | (with_reducible apply Taken.ok_keeps)
    | (with_reducible apply State.modCtx_keeps)
    | (with_reducible apply State.putPieces_keeps)
    | split
    | (refine (State.putPieces_keeps ?_).of _ (by with_reducible assumption))
    | (intro _)
    | (dsimp only)

theorem execInitialise_keeps {x0 : Nat} {x1 : LetterHead} {x2 : Nat} {x3 : Nat} {x4 : Nat} {x5 : Nat} {x6 : State} {z : State} (hz : Keeps z x6) : KeepsOut z (execInitialise x0 x1 x2 x3 x4 x5 x6) := by
  unfold execInitialise; try dsimp only
  all_goals repeat'
    first
    | (with_reducible exact hz)
    | (with_reducible assumption)
    | (with_reducible apply KeepsOut.next)
    | (with_reducible apply KeepsOut.fault)
    | (with_reducible apply onUnit_keeps)
    | (with_reducible apply State.takeLetter_keeps)
    | (with_reducible apply actInitialise_keeps)
    | split
    | (intro _)
    | (dsimp only)

end Sys2Proof.Machine
end

