-- ==== Sys2Proof/Laws/KeepEpoch.lean ====
section
/-! SUPPORT. What the operations of Machine/Epoch.lean keep (Laws/Keeps.lean): one lemma for each. -/

set_option Elab.async false

namespace Sys2Proof.Machine

theorem State.epochInEffect_keeps {s z : State} {p c : Nat} {q : Proposal} (hz : Keeps z s) : Keeps z (s.epochInEffect p c q) := by
  have h1 : Keeps z ((s.dropExpiries fun e => e.paddock == p && e.ctx == c && e.kind == .agree).modCtx p c fun x =>
      x.modTr fun t => { t with epoch := q.epoch, roles := q.roles, proposal := none, epochIn := [] }) :=
    State.modCtx_keeps (State.dropExpiries_keeps hz)
  unfold State.epochInEffect; dsimp only
  split
  · exact h1
  · split
    · next h =>
      refine State.reply_keeps (KeepsE.of ⟨fun t ht => ?_⟩ _ h)
      split at ht
      · cases ht
      · next h2 =>
        split at ht
        · cases ht; exact (State.restoreFrom_keeps h1).of _ h2
        · cases ht
    · exact State.reply_keeps (State.haltFailed_keeps (ite_keeps h1 (State.gaveBad_keeps h1)))

theorem State.actEpoch_keeps {x0 : State} {x1 : Nat} {x2 : Nat} {x3 : Proposal} {x4 : EpochRec} {z : State} (hz : Keeps z x0) : Keeps z (State.actEpoch x0 x1 x2 x3 x4) := by
  unfold State.actEpoch; try dsimp only
  all_goals repeat'
    first
    | (with_reducible exact hz)
    | (with_reducible assumption)
    | (with_reducible apply State.sendDown_keeps)
    | (with_reducible apply State.refuseEpoch_keeps)
    | (with_reducible apply State.epochInEffect_keeps)
    | split
    | (intro _)
    | (dsimp only)

theorem State.epochOn_keeps {x0 : State} {x1 : Nat} {x2 : Nat} {z : State} (hz : Keeps z x0) : Keeps z (State.epochOn x0 x1 x2) := by
  unfold State.epochOn; try dsimp only
  all_goals repeat'
    first
    | (with_reducible exact hz)
    | (with_reducible assumption)
    | (with_reducible apply State.actEpoch_keeps)
    | (with_reducible apply State.modCtx_keeps)
    | (with_reducible apply State.sendFrame_keeps)
    | (with_reducible apply foldl_keeps)
    | split
    | (intro _)
    | (dsimp only)

theorem epochFrameIn_keeps {x0 : Nat} {x1 : FrameHead} {x2 : EpochRec} {x3 : State} {z : State} (hz : Keeps z x3) : Keeps z (epochFrameIn x0 x1 x2 x3) := by
  unfold epochFrameIn; try dsimp only
  all_goals repeat'
    first
    | (with_reducible exact hz)
    | (with_reducible assumption)
    | (with_reducible apply State.takeFrame_keeps)
    | (with_reducible apply State.dropFrame_keeps)
    | (with_reducible apply State.epochOn_keeps)
    | (with_reducible apply State.modCtx_keeps)
    | (with_reducible apply State.actEpoch_keeps)
    | split
    | (intro _)
    | (dsimp only)

theorem execEpoch_keeps {x0 : Nat} {x1 : FrameHead} {x2 : EpochRec} {x3 : State} {z : State} (hz : Keeps z x3) : KeepsOut z (execEpoch x0 x1 x2 x3) := by
  unfold execEpoch; try dsimp only
  all_goals repeat'
    first
    | (with_reducible exact hz)
    | (with_reducible assumption)
    | (with_reducible apply KeepsOut.next)
    | (with_reducible apply KeepsOut.fault)
    | (with_reducible apply onUnit_keeps)
    | (with_reducible apply epochFrameIn_keeps)
    | split
    | (intro _)
    | (dsimp only)

theorem agreeTimesOut_keeps {x0 : Nat} {x1 : Nat} {x2 : State} {z : State} (hz : Keeps z x2) : Keeps z (agreeTimesOut x0 x1 x2) := by
  unfold agreeTimesOut; try dsimp only
  all_goals repeat'
    first
    | (with_reducible exact hz)
    | (with_reducible assumption)
    | (with_reducible apply State.takeExpiry_keeps)
    | (with_reducible apply State.refuseEpoch_keeps)
    | split
    | (refine (State.takeExpiry_keeps ?_).of _ (by with_reducible assumption))
    | (intro _)
    | (dsimp only)

theorem execAgreeTimeout_keeps {x0 : Nat} {x1 : Nat} {x2 : State} {z : State} (hz : Keeps z x2) : KeepsOut z (execAgreeTimeout x0 x1 x2) := by
  unfold execAgreeTimeout; try dsimp only
  all_goals repeat'
    first
    | (with_reducible exact hz)
    | (with_reducible assumption)
    | (with_reducible apply KeepsOut.next)
    | (with_reducible apply KeepsOut.fault)
    | (with_reducible apply onUnit_keeps)
    | (with_reducible apply agreeTimesOut_keeps)
    | split
    | (intro _)
    | (dsimp only)

theorem refuseMembership_keeps {x0 : State} {x1 : Nat} {x2 : Nat} {z : State} (hz : Keeps z x0) : Keeps z (refuseMembership x0 x1 x2).s := by
  unfold refuseMembership; try dsimp only
  all_goals repeat'
    first
    | (with_reducible exact hz)
    | (with_reducible assumption)
    | split
    | (intro _)
    | (dsimp only)

theorem State.propose_keeps {x0 : State} {x1 : Nat} {x2 : Nat} {x3 : Owed} {x4 : Nat} {x5 : List Role} {x6 : Desc} {x7 : Nat} {x8 : Nat} {z : State} (hz : Keeps z x0) : Keeps z (State.propose x0 x1 x2 x3 x4 x5 x6 x7 x8) := by
  unfold State.propose; try dsimp only
  all_goals repeat'
    first
    | (with_reducible exact hz)
    | (with_reducible assumption)
    | (with_reducible apply State.modCtx_keeps)
    | (with_reducible apply State.epochOn_keeps)
    | (with_reducible apply State.addExpiry_keeps)
    | split
    | (intro _)
    | (dsimp only)

theorem actMembership_keeps {x0 : Nat} {x1 : LetterHead} {x2 : Nat} {x3 : Nat} {x4 : Nat} {x5 : Nat} {x6 : Nat} {x7 : Nat} {x8 : State} {z : State} (hz : Keeps z x8) : Keeps z (actMembership x0 x1 x2 x3 x4 x5 x6 x7 x8).s := by
  unfold actMembership; try dsimp only
  all_goals repeat'
    first
    | (with_reducible exact hz)
    | (with_reducible assumption)
    | (with_reducible apply State.onQuiet_keeps)
    | (with_reducible apply refuseMembership_keeps)
    | (with_reducible apply Taken.refuse_keeps)
    | (with_reducible apply State.refuseCause_keeps)
    | (with_reducible apply Taken.later_keeps)
    | (with_reducible apply State.propose_keeps)
    | split
    | (intro _)
    | (dsimp only)

theorem execMembership_keeps {x0 : Nat} {x1 : LetterHead} {x2 : Nat} {x3 : Nat} {x4 : Nat} {x5 : Nat} {x6 : Nat} {x7 : Nat} {x8 : State} {z : State} (hz : Keeps z x8) : KeepsOut z (execMembership x0 x1 x2 x3 x4 x5 x6 x7 x8) := by
  unfold execMembership; try dsimp only
  all_goals repeat'
    first
    | (with_reducible exact hz)
    | (with_reducible assumption)
    | (with_reducible apply KeepsOut.next)
    | (with_reducible apply KeepsOut.fault)
    | (with_reducible apply onUnit_keeps)
    | (with_reducible apply State.takeLetter_keeps)
    | (with_reducible apply actMembership_keeps)
    | split
    | (intro _)
    | (dsimp only)

end Sys2Proof.Machine
end

