-- ==== Sys2Proof/Laws/KeepGrooms.lean ====
section
/-! SUPPORT. What the operations of Machine/Grooms.lean keep (Laws/Keeps.lean): one lemma for each. -/

set_option Elab.async false

namespace Sys2Proof.Machine

theorem issueGroom_keeps {op n : Nat} {f : Kop → Nat → State → State} {s z : State} (hz : Keeps z s)
    (hf : ∀ o w s, Keeps z s → Keeps z (f o w s)) : Keeps z (issueGroom op f n s) := by
  have h1 : Keeps z (s.startShare n) := State.startShare_keeps hz
  unfold issueGroom; dsimp only
  split
  · exact hz
  · split
    · exact h1
    · split
      · exact h1
      · split
        · exact State.haltJob_keeps h1
        · split
          · exact h1
          · split
            · exact State.shareEnds_keeps (State.groomEnds_keeps (hf _ _ _ h1))
            · exact hf _ _ _ h1

theorem onGroom_keeps {f : Nat → Groom → Groom} {o : Kop} {w : Nat} {s z : State} (hz : Keeps z s) :
    Keeps z (onGroom f o w s) := State.modGroom_keeps hz

theorem gLdIssues_keeps {n : Nat} {s z : State} (hz : Keeps z s) : Keeps z (gLdIssues n s) :=
  issueGroom_keeps hz fun _ _ _ h => State.gLoad_keeps h

theorem execGLd_keeps {n : Nat} {s z : State} (hz : Keeps z s) : KeepsOut z (execGLd n s) := onUnit_keeps (gLdIssues_keeps hz)

theorem gStIssues_keeps {n : Nat} {s z : State} (hz : Keeps z s) : Keeps z (gStIssues n s) :=
  issueGroom_keeps hz fun _ _ _ h => State.gStore_keeps h

theorem execGSt_keeps {n : Nat} {s z : State} (hz : Keeps z s) : KeepsOut z (execGSt n s) := onUnit_keeps (gStIssues_keeps hz)

theorem gGathIssues_keeps {n : Nat} {s z : State} (hz : Keeps z s) : Keeps z (gGathIssues n s) :=
  issueGroom_keeps hz fun _ _ _ h => State.gGather_keeps h

theorem execGGath_keeps {n : Nat} {s z : State} (hz : Keeps z s) : KeepsOut z (execGGath n s) := onUnit_keeps (gGathIssues_keeps hz)

theorem gScatIssues_keeps {n : Nat} {s z : State} (hz : Keeps z s) : Keeps z (gScatIssues n s) :=
  issueGroom_keeps hz fun _ _ _ h => State.gScatter_keeps h

theorem execGScat_keeps {n : Nat} {s z : State} (hz : Keeps z s) : KeepsOut z (execGScat n s) := onUnit_keeps (gScatIssues_keeps hz)

theorem gRandIssues_keeps {n : Nat} {s z : State} (hz : Keeps z s) : Keeps z (gRandIssues n s) :=
  issueGroom_keeps hz fun _ _ _ h => State.modGroom_keeps h

theorem execGRand_keeps {n : Nat} {s z : State} (hz : Keeps z s) : KeepsOut z (execGRand n s) := onUnit_keeps (gRandIssues_keeps hz)

theorem gLdkIssues_keeps {n : Nat} {s z : State} (hz : Keeps z s) : Keeps z (gLdkIssues n s) :=
  issueGroom_keeps hz fun _ _ _ h => State.modGroom_keeps h

theorem execGLdk_keeps {n : Nat} {s z : State} (hz : Keeps z s) : KeepsOut z (execGLdk n s) := onUnit_keeps (gLdkIssues_keeps hz)

theorem gMovIssues_keeps {n : Nat} {s z : State} (hz : Keeps z s) : Keeps z (gMovIssues n s) :=
  issueGroom_keeps hz fun _ _ _ h => State.modGroom_keeps h

theorem execGMov_keeps {n : Nat} {s z : State} (hz : Keeps z s) : KeepsOut z (execGMov n s) := onUnit_keeps (gMovIssues_keeps hz)

theorem gSelIssues_keeps {n : Nat} {s z : State} (hz : Keeps z s) : Keeps z (gSelIssues n s) :=
  issueGroom_keeps hz fun _ _ _ h => State.modGroom_keeps h

theorem execGSel_keeps {n : Nat} {s z : State} (hz : Keeps z s) : KeepsOut z (execGSel n s) := onUnit_keeps (gSelIssues_keeps hz)

theorem gAddIssues_keeps {n : Nat} {s z : State} (hz : Keeps z s) : Keeps z (gAddIssues n s) :=
  issueGroom_keeps hz fun _ _ _ h => State.modGroom_keeps h

theorem execGAdd_keeps {n : Nat} {s z : State} (hz : Keeps z s) : KeepsOut z (execGAdd n s) := onUnit_keeps (gAddIssues_keeps hz)

theorem gSubIssues_keeps {n : Nat} {s z : State} (hz : Keeps z s) : Keeps z (gSubIssues n s) :=
  issueGroom_keeps hz fun _ _ _ h => State.modGroom_keeps h

theorem execGSub_keeps {n : Nat} {s z : State} (hz : Keeps z s) : KeepsOut z (execGSub n s) := onUnit_keeps (gSubIssues_keeps hz)

theorem gMulIssues_keeps {n : Nat} {s z : State} (hz : Keeps z s) : Keeps z (gMulIssues n s) :=
  issueGroom_keeps hz fun _ _ _ h => State.modGroom_keeps h

theorem execGMul_keeps {n : Nat} {s z : State} (hz : Keeps z s) : KeepsOut z (execGMul n s) := onUnit_keeps (gMulIssues_keeps hz)

theorem gFmaIssues_keeps {n : Nat} {s z : State} (hz : Keeps z s) : Keeps z (gFmaIssues n s) :=
  issueGroom_keeps hz fun _ _ _ h => State.modGroom_keeps h

theorem execGFma_keeps {n : Nat} {s z : State} (hz : Keeps z s) : KeepsOut z (execGFma n s) := onUnit_keeps (gFmaIssues_keeps hz)

theorem gFmsIssues_keeps {n : Nat} {s z : State} (hz : Keeps z s) : Keeps z (gFmsIssues n s) :=
  issueGroom_keeps hz fun _ _ _ h => State.modGroom_keeps h

theorem execGFms_keeps {n : Nat} {s z : State} (hz : Keeps z s) : KeepsOut z (execGFms n s) := onUnit_keeps (gFmsIssues_keeps hz)

theorem gFnmaIssues_keeps {n : Nat} {s z : State} (hz : Keeps z s) : Keeps z (gFnmaIssues n s) :=
  issueGroom_keeps hz fun _ _ _ h => State.modGroom_keeps h

theorem execGFnma_keeps {n : Nat} {s z : State} (hz : Keeps z s) : KeepsOut z (execGFnma n s) := onUnit_keeps (gFnmaIssues_keeps hz)

theorem gFnmsIssues_keeps {n : Nat} {s z : State} (hz : Keeps z s) : Keeps z (gFnmsIssues n s) :=
  issueGroom_keeps hz fun _ _ _ h => State.modGroom_keeps h

theorem execGFnms_keeps {n : Nat} {s z : State} (hz : Keeps z s) : KeepsOut z (execGFnms n s) := onUnit_keeps (gFnmsIssues_keeps hz)

theorem gMaxIssues_keeps {n : Nat} {s z : State} (hz : Keeps z s) : Keeps z (gMaxIssues n s) :=
  issueGroom_keeps hz fun _ _ _ h => State.modGroom_keeps h

theorem execGMax_keeps {n : Nat} {s z : State} (hz : Keeps z s) : KeepsOut z (execGMax n s) := onUnit_keeps (gMaxIssues_keeps hz)

theorem gMinIssues_keeps {n : Nat} {s z : State} (hz : Keeps z s) : Keeps z (gMinIssues n s) :=
  issueGroom_keeps hz fun _ _ _ h => State.modGroom_keeps h

theorem execGMin_keeps {n : Nat} {s z : State} (hz : Keeps z s) : KeepsOut z (execGMin n s) := onUnit_keeps (gMinIssues_keeps hz)

theorem gAbsIssues_keeps {n : Nat} {s z : State} (hz : Keeps z s) : Keeps z (gAbsIssues n s) :=
  issueGroom_keeps hz fun _ _ _ h => State.modGroom_keeps h

theorem execGAbs_keeps {n : Nat} {s z : State} (hz : Keeps z s) : KeepsOut z (execGAbs n s) := onUnit_keeps (gAbsIssues_keeps hz)

theorem gNegIssues_keeps {n : Nat} {s z : State} (hz : Keeps z s) : Keeps z (gNegIssues n s) :=
  issueGroom_keeps hz fun _ _ _ h => State.modGroom_keeps h

theorem execGNeg_keeps {n : Nat} {s z : State} (hz : Keeps z s) : KeepsOut z (execGNeg n s) := onUnit_keeps (gNegIssues_keeps hz)

theorem gCmpIssues_keeps {n : Nat} {s z : State} (hz : Keeps z s) : Keeps z (gCmpIssues n s) :=
  issueGroom_keeps hz fun _ _ _ h => State.modGroom_keeps h

theorem execGCmp_keeps {n : Nat} {s z : State} (hz : Keeps z s) : KeepsOut z (execGCmp n s) := onUnit_keeps (gCmpIssues_keeps hz)

theorem gRcpIssues_keeps {n : Nat} {s z : State} (hz : Keeps z s) : Keeps z (gRcpIssues n s) :=
  issueGroom_keeps hz fun _ _ _ h => State.modGroom_keeps h

theorem execGRcp_keeps {n : Nat} {s z : State} (hz : Keeps z s) : KeepsOut z (execGRcp n s) := onUnit_keeps (gRcpIssues_keeps hz)

theorem gDivIssues_keeps {n : Nat} {s z : State} (hz : Keeps z s) : Keeps z (gDivIssues n s) :=
  issueGroom_keeps hz fun _ _ _ h => State.modGroom_keeps h

theorem execGDiv_keeps {n : Nat} {s z : State} (hz : Keeps z s) : KeepsOut z (execGDiv n s) := onUnit_keeps (gDivIssues_keeps hz)

theorem gSqrtIssues_keeps {n : Nat} {s z : State} (hz : Keeps z s) : Keeps z (gSqrtIssues n s) :=
  issueGroom_keeps hz fun _ _ _ h => State.modGroom_keeps h

theorem execGSqrt_keeps {n : Nat} {s z : State} (hz : Keeps z s) : KeepsOut z (execGSqrt n s) := onUnit_keeps (gSqrtIssues_keeps hz)

theorem gRsqrtIssues_keeps {n : Nat} {s z : State} (hz : Keeps z s) : Keeps z (gRsqrtIssues n s) :=
  issueGroom_keeps hz fun _ _ _ h => State.modGroom_keeps h

theorem execGRsqrt_keeps {n : Nat} {s z : State} (hz : Keeps z s) : KeepsOut z (execGRsqrt n s) := onUnit_keeps (gRsqrtIssues_keeps hz)

theorem gExpIssues_keeps {n : Nat} {s z : State} (hz : Keeps z s) : Keeps z (gExpIssues n s) :=
  issueGroom_keeps hz fun _ _ _ h => State.modGroom_keeps h

theorem execGExp_keeps {n : Nat} {s z : State} (hz : Keeps z s) : KeepsOut z (execGExp n s) := onUnit_keeps (gExpIssues_keeps hz)

theorem gLogIssues_keeps {n : Nat} {s z : State} (hz : Keeps z s) : Keeps z (gLogIssues n s) :=
  issueGroom_keeps hz fun _ _ _ h => State.modGroom_keeps h

theorem execGLog_keeps {n : Nat} {s z : State} (hz : Keeps z s) : KeepsOut z (execGLog n s) := onUnit_keeps (gLogIssues_keeps hz)

theorem gTanhIssues_keeps {n : Nat} {s z : State} (hz : Keeps z s) : Keeps z (gTanhIssues n s) :=
  issueGroom_keeps hz fun _ _ _ h => State.modGroom_keeps h

theorem execGTanh_keeps {n : Nat} {s z : State} (hz : Keeps z s) : KeepsOut z (execGTanh n s) := onUnit_keeps (gTanhIssues_keeps hz)

theorem gSigIssues_keeps {n : Nat} {s z : State} (hz : Keeps z s) : Keeps z (gSigIssues n s) :=
  issueGroom_keeps hz fun _ _ _ h => State.modGroom_keeps h

theorem execGSig_keeps {n : Nat} {s z : State} (hz : Keeps z s) : KeepsOut z (execGSig n s) := onUnit_keeps (gSigIssues_keeps hz)

theorem gErfIssues_keeps {n : Nat} {s z : State} (hz : Keeps z s) : Keeps z (gErfIssues n s) :=
  issueGroom_keeps hz fun _ _ _ h => State.modGroom_keeps h

theorem execGErf_keeps {n : Nat} {s z : State} (hz : Keeps z s) : KeepsOut z (execGErf n s) := onUnit_keeps (gErfIssues_keeps hz)

theorem gRsumIssues_keeps {n : Nat} {s z : State} (hz : Keeps z s) : Keeps z (gRsumIssues n s) :=
  issueGroom_keeps hz fun _ _ _ h => State.modGroom_keeps h

theorem execGRsum_keeps {n : Nat} {s z : State} (hz : Keeps z s) : KeepsOut z (execGRsum n s) := onUnit_keeps (gRsumIssues_keeps hz)

theorem gCsumIssues_keeps {n : Nat} {s z : State} (hz : Keeps z s) : Keeps z (gCsumIssues n s) :=
  issueGroom_keeps hz fun _ _ _ h => State.modGroom_keeps h

theorem execGCsum_keeps {n : Nat} {s z : State} (hz : Keeps z s) : KeepsOut z (execGCsum n s) := onUnit_keeps (gCsumIssues_keeps hz)

theorem gRmaxIssues_keeps {n : Nat} {s z : State} (hz : Keeps z s) : Keeps z (gRmaxIssues n s) :=
  issueGroom_keeps hz fun _ _ _ h => State.modGroom_keeps h

theorem execGRmax_keeps {n : Nat} {s z : State} (hz : Keeps z s) : KeepsOut z (execGRmax n s) := onUnit_keeps (gRmaxIssues_keeps hz)

theorem gCmaxIssues_keeps {n : Nat} {s z : State} (hz : Keeps z s) : Keeps z (gCmaxIssues n s) :=
  issueGroom_keeps hz fun _ _ _ h => State.modGroom_keeps h

theorem execGCmax_keeps {n : Nat} {s z : State} (hz : Keeps z s) : KeepsOut z (execGCmax n s) := onUnit_keeps (gCmaxIssues_keeps hz)

theorem gRminIssues_keeps {n : Nat} {s z : State} (hz : Keeps z s) : Keeps z (gRminIssues n s) :=
  issueGroom_keeps hz fun _ _ _ h => State.modGroom_keeps h

theorem execGRmin_keeps {n : Nat} {s z : State} (hz : Keeps z s) : KeepsOut z (execGRmin n s) := onUnit_keeps (gRminIssues_keeps hz)

theorem gCminIssues_keeps {n : Nat} {s z : State} (hz : Keeps z s) : Keeps z (gCminIssues n s) :=
  issueGroom_keeps hz fun _ _ _ h => State.modGroom_keeps h

theorem execGCmin_keeps {n : Nat} {s z : State} (hz : Keeps z s) : KeepsOut z (execGCmin n s) := onUnit_keeps (gCminIssues_keeps hz)

theorem gRepIssues_keeps {n : Nat} {s z : State} (hz : Keeps z s) : Keeps z (gRepIssues n s) :=
  issueGroom_keeps hz fun _ _ _ h => State.modGroom_keeps h

theorem execGRep_keeps {n : Nat} {s z : State} (hz : Keeps z s) : KeepsOut z (execGRep n s) := onUnit_keeps (gRepIssues_keeps hz)

theorem gScalIssues_keeps {n : Nat} {s z : State} (hz : Keeps z s) : Keeps z (gScalIssues n s) :=
  issueGroom_keeps hz fun _ _ _ h => State.modGroom_keeps h

theorem execGScal_keeps {n : Nat} {s z : State} (hz : Keeps z s) : KeepsOut z (execGScal n s) := onUnit_keeps (gScalIssues_keeps hz)

end Sys2Proof.Machine
end

