-- ==== Sys2Proof/Laws/KeepHalter.lean ====
section
/-! SUPPORT. What the operations of Machine/Halter.lean keep (Laws/Keeps.lean): one lemma for each. -/

set_option Elab.async false

namespace Sys2Proof.Machine

theorem State.cutFor_keeps {x0 : State} {x1 : Nat} {z : State} (hz : Keeps z x0) : Keeps z (State.cutFor x0 x1) := by
  unfold State.cutFor; try dsimp only
  all_goals repeat'
    first
    | (with_reducible exact hz)
    | (with_reducible assumption)
    | split
    | (with_reducible apply keeps_rec)
    | (with_reducible exact Nat.le_refl _)
    | (with_reducible exact List.suffix_refl _)
    | (with_reducible exact id)
    | (with_reducible exact rfl)
    | (intro _)
    | (dsimp only)

theorem State.enterHalter_keeps {x0 : State} {z : State} (hz : Keeps z x0) : Keeps z (State.enterHalter x0) := by
  unfold State.enterHalter; try dsimp only
  all_goals repeat'
    first
    | (with_reducible exact hz)
    | (with_reducible assumption)
    | (with_reducible apply State.cutFor_keeps)
    | split
    | (with_reducible apply keeps_rec)
    | (with_reducible exact Nat.le_refl _)
    | (with_reducible exact List.suffix_refl _)
    | (with_reducible exact id)
    | (with_reducible exact rfl)
    | (intro h; rw [List.length_map]; with_reducible exact h)
    | (intro _)
    | (dsimp only)

theorem halterLow_keeps {x0 : State} {z : State} (hz : Keeps z x0) : Keeps z (halterLow x0) := by
  unfold halterLow; try dsimp only
  all_goals repeat'
    first
    | (with_reducible exact hz)
    | (with_reducible assumption)
    | (with_reducible apply State.enterHalter_keeps)
    | split
    | (with_reducible apply keeps_rec)
    | (with_reducible exact Nat.le_refl _)
    | (with_reducible exact List.suffix_refl _)
    | (with_reducible exact id)
    | (with_reducible exact rfl)
    | (intro _)
    | (dsimp only)

theorem execHalterNLow_keeps {x0 : State} {z : State} (hz : Keeps z x0) : KeepsOut z (execHalterNLow x0) := by
  unfold execHalterNLow; try dsimp only
  all_goals repeat'
    first
    | (with_reducible exact hz)
    | (with_reducible assumption)
    | (with_reducible apply KeepsOut.next)
    | (with_reducible apply KeepsOut.fault)
    | (with_reducible apply halterLow_keeps)
    | split
    | (intro _)
    | (dsimp only)

theorem execHalterAcknowledged_keeps {x0 : Nat} {x1 : State} {z : State} (hz : Keeps z x1) : KeepsOut z (execHalterAcknowledged x0 x1) := by
  unfold execHalterAcknowledged; try dsimp only
  all_goals repeat'
    first
    | (with_reducible exact hz)
    | (with_reducible assumption)
    | (with_reducible apply KeepsOut.next)
    | (with_reducible apply KeepsOut.fault)
    | split
    | (with_reducible apply keeps_rec)
    | (with_reducible exact Nat.le_refl _)
    | (with_reducible exact List.suffix_refl _)
    | (with_reducible exact id)
    | (with_reducible exact rfl)
    | (intro _)
    | (dsimp only)

theorem State.moveExpiries_keeps {x0 : State} {x1 : Nat} {z : State} (hz : Keeps z x0) : Keeps z (State.moveExpiries x0 x1) := by
  unfold State.moveExpiries; try dsimp only
  all_goals repeat'
    first
    | (with_reducible exact hz)
    | (with_reducible assumption)
    | split
    | (with_reducible apply keeps_rec)
    | (with_reducible exact Nat.le_refl _)
    | (with_reducible exact List.suffix_refl _)
    | (with_reducible exact id)
    | (with_reducible exact rfl)
    | (intro h; rw [List.length_map]; with_reducible exact h)
    | (intro _)
    | (dsimp only)

theorem State.holdIntegrals_keeps {x0 : State} {x1 : Nat} {z : State} (hz : Keeps z x0) : Keeps z (State.holdIntegrals x0 x1) := by
  unfold State.holdIntegrals; try dsimp only
  all_goals repeat'
    first
    | (with_reducible exact hz)
    | (with_reducible assumption)
    | split
    | (with_reducible apply keeps_rec)
    | (with_reducible exact Nat.le_refl _)
    | (with_reducible exact List.suffix_refl _)
    | (with_reducible exact id)
    | (with_reducible exact rfl)
    | (intro h; rw [List.length_map]; with_reducible exact h)
    | (intro _)
    | (dsimp only)

theorem State.fillDuration_keeps {x0 : State} {x1 : Nat} {x2 : Nat} {z : State} (hz : Keeps z x0) : Keeps z (State.fillDuration x0 x1 x2) := by
  unfold State.fillDuration; try dsimp only
  all_goals repeat'
    first
    | (with_reducible exact hz)
    | (with_reducible assumption)
    | split
    | (with_reducible apply keeps_rec)
    | (with_reducible exact Nat.le_refl _)
    | (with_reducible exact List.suffix_refl _)
    | (with_reducible exact id)
    | (with_reducible exact rfl)
    | (intro _)
    | (dsimp only)

theorem State.thaw_keeps {x0 : State} {z : State} (hz : Keeps z x0) : Keeps z (State.thaw x0) := by
  unfold State.thaw; try dsimp only
  all_goals repeat'
    first
    | (with_reducible exact hz)
    | (with_reducible assumption)
    | (with_reducible apply State.holdIntegrals_keeps)
    | (with_reducible apply State.flushRing_keeps)
    | (with_reducible apply State.undefer_keeps)
    | (with_reducible apply foldl_keeps)
    | split
    | (intro _)
    | (dsimp only)

theorem State.thermal_keeps {x0 : State} {x1 : Nat} {x2 : Nat} {z : State} (hz : Keeps z x0) : Keeps z (State.thermal x0 x1 x2) := by
  unfold State.thermal; try dsimp only
  all_goals repeat'
    first
    | (with_reducible exact hz)
    | (with_reducible assumption)
    | (with_reducible apply State.postShared_keeps)
    | split
    | (intro _)
    | (dsimp only)

theorem State.leaveThermal_keeps {x0 : State} {x1 : Nat} {z : State} (hz : Keeps z x0) : Keeps z (State.leaveThermal x0 x1) := by
  unfold State.leaveThermal; try dsimp only
  all_goals repeat'
    first
    | (with_reducible exact hz)
    | (with_reducible assumption)
    | (with_reducible apply State.fillDuration_keeps)
    | (with_reducible apply State.thermal_keeps)
    | split
    | (with_reducible apply keeps_rec)
    | (with_reducible exact Nat.le_refl _)
    | (with_reducible exact List.suffix_refl _)
    | (with_reducible exact id)
    | (with_reducible exact rfl)
    | (intro _)
    | (dsimp only)

theorem halterHigh_keeps {x0 : State} {z : State} (hz : Keeps z x0) : Keeps z (halterHigh x0) := by
  unfold halterHigh; try dsimp only
  all_goals repeat'
    first
    | (with_reducible exact hz)
    | (with_reducible assumption)
    | (with_reducible apply State.fillDuration_keeps)
    | (with_reducible apply State.moveExpiries_keeps)
    | (with_reducible apply State.leaveThermal_keeps)
    | (with_reducible apply State.postShared_keeps)
    | (with_reducible apply State.thaw_keeps)
    | split
    | (with_reducible apply keeps_rec)
    | (with_reducible exact Nat.le_refl _)
    | (with_reducible exact List.suffix_refl _)
    | (with_reducible exact id)
    | (with_reducible exact rfl)
    | (intro _)
    | (dsimp only)

theorem execHalterNHigh_keeps {x0 : State} {z : State} (hz : Keeps z x0) : KeepsOut z (execHalterNHigh x0) := by
  unfold execHalterNHigh; try dsimp only
  all_goals repeat'
    first
    | (with_reducible exact hz)
    | (with_reducible assumption)
    | (with_reducible apply KeepsOut.next)
    | (with_reducible apply KeepsOut.fault)
    | (with_reducible apply halterHigh_keeps)
    | split
    | (intro _)
    | (dsimp only)

theorem State.sendVctl_keeps {x0 : State} {x1 : Nat} {z : State} (hz : Keeps z x0) : Keeps z (State.sendVctl x0 x1) := by
  unfold State.sendVctl; try dsimp only
  all_goals repeat'
    first
    | (with_reducible exact hz)
    | (with_reducible assumption)
    | (with_reducible apply State.modDie_keeps)
    | split
    | (intro _)
    | (dsimp only)

theorem State.setVcore_keeps {x0 : State} {x1 : Nat} {x2 : Nat} {z : State} (hz : Keeps z x0) : Keeps z (State.setVcore x0 x1 x2) := by
  unfold State.setVcore; try dsimp only
  all_goals repeat'
    first
    | (with_reducible exact hz)
    | (with_reducible assumption)
    | (with_reducible apply State.sendVctl_keeps)
    | (with_reducible apply State.modDie_keeps)
    | split
    | (intro _)
    | (dsimp only)

theorem execVctlRepeat_keeps {x0 : Nat} {x1 : State} {z : State} (hz : Keeps z x1) : KeepsOut z (execVctlRepeat x0 x1) := by
  unfold execVctlRepeat; try dsimp only
  all_goals repeat'
    first
    | (with_reducible exact hz)
    | (with_reducible assumption)
    | (with_reducible apply KeepsOut.next)
    | (with_reducible apply KeepsOut.fault)
    | (with_reducible apply onUnit_keeps)
    | (with_reducible apply State.sendVctl_keeps)
    | split
    | (intro _)
    | (dsimp only)

theorem State.reportPoint_keeps {x0 : State} {x1 : Nat} {x2 : Nat} {x3 : Nat} {z : State} (hz : Keeps z x0) : Keeps z (State.reportPoint x0 x1 x2 x3) := by
  unfold State.reportPoint; try dsimp only
  all_goals repeat'
    first
    | (with_reducible exact hz)
    | (with_reducible assumption)
    | (with_reducible apply State.postShared_keeps)
    | (with_reducible apply State.modDie_keeps)
    | split
    | (intro _)
    | (dsimp only)

theorem governs_keeps {x0 : Nat} {x1 : Measured} {x2 : State} {z : State} (hz : Keeps z x2) : Keeps z (governs x0 x1 x2) := by
  unfold governs; try dsimp only
  all_goals repeat'
    first
    | (with_reducible exact hz)
    | (with_reducible assumption)
    | (with_reducible apply State.modDie_keeps)
    | (with_reducible apply State.reportPoint_keeps)
    | (with_reducible apply State.setVcore_keeps)
    | split
    | (with_reducible apply keeps_rec)
    | (with_reducible exact Nat.le_refl _)
    | (with_reducible exact List.suffix_refl _)
    | (with_reducible exact id)
    | (with_reducible exact rfl)
    | (intro h; rw [List.length_map]; with_reducible exact h)
    | (intro h; simp [h]; done)
    | (intro _)
    | (dsimp only)

theorem execGovernorInterval_keeps {x0 : Nat} {x1 : Measured} {x2 : State} {z : State} (hz : Keeps z x2) : KeepsOut z (execGovernorInterval x0 x1 x2) := by
  unfold execGovernorInterval; try dsimp only
  all_goals repeat'
    first
    | (with_reducible exact hz)
    | (with_reducible assumption)
    | (with_reducible apply KeepsOut.next)
    | (with_reducible apply KeepsOut.fault)
    | (with_reducible apply onUnit_keeps)
    | (with_reducible apply governs_keeps)
    | split
    | (intro _)
    | (dsimp only)

theorem State.trip_keeps {x0 : State} {z : State} (hz : Keeps z x0) : Keeps z (State.trip x0) := by
  unfold State.trip; try dsimp only
  all_goals repeat'
    first
    | (with_reducible exact hz)
    | (with_reducible assumption)
    | (with_reducible apply State.toReset_keeps)
    | split
    | (with_reducible apply keeps_rec)
    | (with_reducible exact Nat.le_refl _)
    | (with_reducible exact List.suffix_refl _)
    | (with_reducible exact id)
    | (with_reducible exact rfl)
    | (intro _)
    | (dsimp only)

theorem State.thermLimit_keeps {x0 : State} {x1 : Nat} {z : State} (hz : Keeps z x0) : Keeps z (State.thermLimit x0 x1) := by
  unfold State.thermLimit; try dsimp only
  all_goals repeat'
    first
    | (with_reducible exact hz)
    | (with_reducible assumption)
    | (with_reducible apply State.setVcore_keeps)
    | (with_reducible apply State.thermal_keeps)
    | (with_reducible apply State.modDie_keeps)
    | split
    | (intro _)
    | (dsimp only)

theorem State.enterThermal_keeps {x0 : State} {x1 : Nat} {z : State} (hz : Keeps z x0) : Keeps z (State.enterThermal x0 x1) := by
  unfold State.enterThermal; try dsimp only
  all_goals repeat'
    first
    | (with_reducible exact hz)
    | (with_reducible assumption)
    | (with_reducible apply State.cutFor_keeps)
    | (with_reducible apply State.thermal_keeps)
    | split
    | (with_reducible apply keeps_rec)
    | (with_reducible exact Nat.le_refl _)
    | (with_reducible exact List.suffix_refl _)
    | (with_reducible exact id)
    | (with_reducible exact rfl)
    | (intro h; rw [List.length_map]; with_reducible exact h)
    | (intro _)
    | (dsimp only)

theorem samplesTj_keeps {x0 : Nat} {x1 : Int} {x2 : State} {z : State} (hz : Keeps z x2) : Keeps z (samplesTj x0 x1 x2) := by
  unfold samplesTj; try dsimp only
  all_goals repeat'
    first
    | (with_reducible exact hz)
    | (with_reducible assumption)
    | (with_reducible apply State.modDie_keeps)
    | (with_reducible apply State.trip_keeps)
    | (with_reducible apply State.thermLimit_keeps)
    | (with_reducible apply State.enterThermal_keeps)
    | (with_reducible apply State.thaw_keeps)
    | (with_reducible apply State.leaveThermal_keeps)
    | split
    | (intro _)
    | (dsimp only)

theorem execTjSample_keeps {x0 : Nat} {x1 : Int} {x2 : State} {z : State} (hz : Keeps z x2) : KeepsOut z (execTjSample x0 x1 x2) := by
  unfold execTjSample; try dsimp only
  all_goals repeat'
    first
    | (with_reducible exact hz)
    | (with_reducible assumption)
    | (with_reducible apply KeepsOut.next)
    | (with_reducible apply KeepsOut.fault)
    | (with_reducible apply onUnit_keeps)
    | (with_reducible apply samplesTj_keeps)
    | split
    | (intro _)
    | (dsimp only)

theorem execCoolOkLow_keeps {x0 : State} {z : State} (hz : Keeps z x0) : KeepsOut z (execCoolOkLow x0) := by
  unfold execCoolOkLow; try dsimp only
  all_goals repeat'
    first
    | (with_reducible exact hz)
    | (with_reducible assumption)
    | (with_reducible apply KeepsOut.next)
    | (with_reducible apply KeepsOut.fault)
    | (with_reducible apply State.trip_keeps)
    | split
    | (intro _)
    | (dsimp only)

theorem checksCoolant_keeps {x0 : Int} {x1 : Int} {x2 : Nat} {x3 : State} {z : State} (hz : Keeps z x3) : Keeps z (checksCoolant x0 x1 x2 x3) := by
  unfold checksCoolant; try dsimp only
  all_goals repeat'
    first
    | (with_reducible exact hz)
    | (with_reducible assumption)
    | (with_reducible apply State.postShared_keeps)
    | split
    | (with_reducible apply keeps_rec)
    | (with_reducible exact Nat.le_refl _)
    | (with_reducible exact List.suffix_refl _)
    | (with_reducible exact id)
    | (with_reducible exact rfl)
    | (intro _)
    | (dsimp only)

theorem execCoolantCheck_keeps {x0 : Int} {x1 : Int} {x2 : Nat} {x3 : State} {z : State} (hz : Keeps z x3) : KeepsOut z (execCoolantCheck x0 x1 x2 x3) := by
  unfold execCoolantCheck; try dsimp only
  all_goals repeat'
    first
    | (with_reducible exact hz)
    | (with_reducible assumption)
    | (with_reducible apply KeepsOut.next)
    | (with_reducible apply KeepsOut.fault)
    | (with_reducible apply checksCoolant_keeps)
    | split
    | (intro _)
    | (dsimp only)

theorem finishes_keeps {x0 : Nat} {x1 : List (Nat × Nat)} {x2 : State} {z : State} (hz : Keeps z x2) : Keeps z (finishes x0 x1 x2) := by
  unfold finishes; try dsimp only
  all_goals repeat'
    first
    | (with_reducible exact hz)
    | (with_reducible assumption)
    | (with_reducible apply State.startPorts_keeps)
    | (with_reducible apply State.rawFill_keeps)
    | (with_reducible apply State.zeroOnDie_keeps)
    | (with_reducible apply State.postShared_keeps)
    | (with_reducible apply State.enterHalter_keeps)
    | (with_reducible apply foldl_keeps)
    | split
    | (with_reducible apply keeps_rec)
    | (with_reducible exact Nat.le_refl _)
    | (with_reducible exact List.suffix_refl _)
    | (with_reducible exact id)
    | (with_reducible exact rfl)
    | (intro _)
    | (dsimp only)

theorem execFinish_keeps {x0 : Nat} {x1 : List (Nat × Nat)} {x2 : State} {z : State} (hz : Keeps z x2) : KeepsOut z (execFinish x0 x1 x2) := by
  unfold execFinish; try dsimp only
  all_goals repeat'
    first
    | (with_reducible exact hz)
    | (with_reducible assumption)
    | (with_reducible apply KeepsOut.next)
    | (with_reducible apply KeepsOut.fault)
    | (with_reducible apply finishes_keeps)
    | split
    | (intro _)
    | (dsimp only)

end Sys2Proof.Machine
end

