-- ==== Sys2Proof/Laws/KeepServing.lean ====
section
/-! SUPPORT. What the operations of Machine/Serving.lean keep (Laws/Keeps.lean): one lemma for each. -/

set_option Elab.async false

namespace Sys2Proof.Machine

theorem binds_keeps {x0 : Nat} {x1 : Nat} {x2 : State} {z : State} (hz : Keeps z x2) : Keeps z (binds x0 x1 x2) := by
  unfold binds; try dsimp only
  all_goals repeat'
    first
    | (with_reducible exact hz)
    | (with_reducible assumption)
    | (with_reducible apply State.runOn_keeps)
    | (with_reducible apply State.modCtx_keeps)
    | (with_reducible apply State.bindScales_keeps)
    | (with_reducible apply State.takeN_keeps)
    | (with_reducible apply State.haltJob_keeps)
    | split
    | (refine (State.bindScales_keeps ?_).of _ (by with_reducible assumption))
    | (intro _)
    | (dsimp only)

theorem execBind_keeps {x0 : Nat} {x1 : Nat} {x2 : State} {z : State} (hz : Keeps z x2) : KeepsOut z (execBind x0 x1 x2) := by
  unfold execBind; try dsimp only
  all_goals repeat'
    first
    | (with_reducible exact hz)
    | (with_reducible assumption)
    | (with_reducible apply KeepsOut.next)
    | (with_reducible apply KeepsOut.fault)
    | (with_reducible apply onUnit_keeps)
    | (with_reducible apply binds_keeps)
    | split
    | (intro _)
    | (dsimp only)

theorem commitPoint_keeps {x0 : Nat} {x1 : Nat} {x2 : List Sampled} {x3 : State} {z : State} (hz : Keeps z x3) : Keeps z (commitPoint x0 x1 x2 x3) := by
  unfold commitPoint; try dsimp only
  all_goals repeat'
    first
    | (with_reducible exact hz)
    | (with_reducible assumption)
    | (with_reducible apply State.modCtx_keeps)
    | (with_reducible apply State.dropExpiries_keeps)
    | split
    | (intro _)
    | (dsimp only)

theorem execServingCommitPoint_keeps {x0 : Nat} {x1 : Nat} {x2 : List Sampled} {x3 : State} {z : State} (hz : Keeps z x3) : KeepsOut z (execServingCommitPoint x0 x1 x2 x3) := by
  unfold execServingCommitPoint; try dsimp only
  all_goals repeat'
    first
    | (with_reducible exact hz)
    | (with_reducible assumption)
    | (with_reducible apply KeepsOut.next)
    | (with_reducible apply KeepsOut.fault)
    | (with_reducible apply onUnit_keeps)
    | (with_reducible apply commitPoint_keeps)
    | split
    | (intro _)
    | (dsimp only)

theorem State.deliverBuffers_keeps {x0 : State} {x1 : Nat} {x2 : Nat} {x3 : List Stream} {z : State} (hz : Keeps z x0) : Keeps z (State.deliverBuffers x0 x1 x2 x3) := by
  unfold State.deliverBuffers; try dsimp only
  all_goals repeat'
    first
    | (with_reducible exact hz)
    | (with_reducible assumption)
    | (with_reducible apply State.writeHeader_keeps)
    | (with_reducible apply State.writeEntries_keeps)
    | (with_reducible apply foldl_keeps)
    | split
    | (intro _)
    | (dsimp only)

theorem State.postTerminals_keeps {x0 : State} {x1 : Nat} {x2 : Nat} {x3 : List Stream} {z : State} (hz : Keeps z x0) : Keeps z (State.postTerminals x0 x1 x2 x3) := by
  unfold State.postTerminals; try dsimp only
  all_goals repeat'
    first
    | (with_reducible exact hz)
    | (with_reducible assumption)
    | (with_reducible apply State.postSure_keeps)
    | (with_reducible apply foldl_keeps)
    | split
    | (intro _)
    | (dsimp only)

theorem delivers_keeps {x0 : Nat} {x1 : Nat} {x2 : State} {z : State} (hz : Keeps z x2) : Keeps z (delivers x0 x1 x2) := by
  unfold delivers; try dsimp only
  all_goals repeat'
    first
    | (with_reducible exact hz)
    | (with_reducible assumption)
    | (with_reducible apply State.postTerminals_keeps)
    | (with_reducible apply State.deliverBuffers_keeps)
    | (with_reducible apply State.modCtx_keeps)
    | (with_reducible apply State.modPd_keeps)
    | (with_reducible apply State.spanEnds_keeps)
    | (with_reducible apply State.leaveProbe_keeps)
    | (with_reducible apply foldl_keeps)
    | split
    | (intro _)
    | (dsimp only)

theorem execDeliver_keeps {x0 : Nat} {x1 : Nat} {x2 : State} {z : State} (hz : Keeps z x2) : KeepsOut z (execDeliver x0 x1 x2) := by
  unfold execDeliver; try dsimp only
  all_goals repeat'
    first
    | (with_reducible exact hz)
    | (with_reducible assumption)
    | (with_reducible apply KeepsOut.next)
    | (with_reducible apply KeepsOut.fault)
    | (with_reducible apply onUnit_keeps)
    | (with_reducible apply delivers_keeps)
    | split
    | (intro _)
    | (dsimp only)

theorem servingDrains_keeps {x0 : Nat} {x1 : Nat} {x2 : State} {z : State} (hz : Keeps z x2) : Keeps z (servingDrains x0 x1 x2) := by
  unfold servingDrains; try dsimp only
  all_goals repeat'
    first
    | (with_reducible exact hz)
    | (with_reducible assumption)
    | (with_reducible apply State.queuePass_keeps)
    | (with_reducible apply State.modCtx_keeps)
    | (with_reducible apply State.settleServer_keeps)
    | split
    | (intro _)
    | (dsimp only)

theorem execServingDrain_keeps {x0 : Nat} {x1 : Nat} {x2 : State} {z : State} (hz : Keeps z x2) : KeepsOut z (execServingDrain x0 x1 x2) := by
  unfold execServingDrain; try dsimp only
  all_goals repeat'
    first
    | (with_reducible exact hz)
    | (with_reducible assumption)
    | (with_reducible apply KeepsOut.next)
    | (with_reducible apply KeepsOut.fault)
    | (with_reducible apply onUnit_keeps)
    | (with_reducible apply servingDrains_keeps)
    | split
    | (intro _)
    | (dsimp only)

end Sys2Proof.Machine
end

