-- ==== Sys2Proof/Laws/KeepOstlers.lean ====
section
/-! SUPPORT. What the operations of Machine/Ostlers.lean keep (Laws/Keeps.lean): one lemma for each. -/

set_option Elab.async false

namespace Sys2Proof.Machine

theorem State.listOstler_keeps {x0 : State} {x1 : Nat} {x2 : Nat} {z : State} (hz : Keeps z x0) : Keeps z (State.listOstler x0 x1 x2) := by
  unfold State.listOstler; try dsimp only
  all_goals repeat'
    first
    | (with_reducible exact hz)
    | (with_reducible assumption)
    | split
    | (with_reducible apply keeps_rec)
    | (with_reducible exact Nat.le_refl _)
    | (with_reducible exact List.suffix_refl _)
    | (with_reducible exact id)
    | (with_reducible exact rfl)
    | (intro _)
    | (dsimp only)

theorem State.mapOstler_keeps {x0 : State} {x1 : Nat} {x2 : Nat} {z : State} (hz : Keeps z x0) : Keeps z (State.mapOstler x0 x1 x2) := by
  unfold State.mapOstler; try dsimp only
  all_goals repeat'
    first
    | (with_reducible exact hz)
    | (with_reducible assumption)
    | (with_reducible apply State.postShared_keeps)
    | (with_reducible apply State.listOstler_keeps)
    | split
    | (intro _)
    | (dsimp only)

theorem State.rebase_keeps {x0 : State} {x1 : Nat} {x2 : Nat} {x3 : Nat} {z : State} (hz : Keeps z x0) : Keeps z (State.rebase x0 x1 x2 x3) := by
  unfold State.rebase; try dsimp only
  all_goals repeat'
    first
    | (with_reducible exact hz)
    | (with_reducible assumption)
    | split
    | (with_reducible apply keeps_rec)
    | (with_reducible exact Nat.le_refl _)
    | (with_reducible exact List.suffix_refl _)
    | (with_reducible exact id)
    | (with_reducible exact rfl)
    | (intro h; rw [List.length_map]; with_reducible exact h)
    | (intro _)
    | (dsimp only)

theorem State.bothDeviceFail_keeps {x0 : State} {z : State} (hz : Keeps z x0) : Keeps z (State.bothDeviceFail x0) := by
  unfold State.bothDeviceFail; try dsimp only
  all_goals repeat'
    first
    | (with_reducible exact hz)
    | (with_reducible assumption)
    | (with_reducible apply State.setVcore_keeps)
    | split
    | (with_reducible apply keeps_rec)
    | (with_reducible exact Nat.le_refl _)
    | (with_reducible exact List.suffix_refl _)
    | (with_reducible exact id)
    | (with_reducible exact rfl)
    | (intro _)
    | (dsimp only)

theorem State.haltEach_keeps {x0 : State} {x1 : Nat} {x2 : Nat} {z : State} (hz : Keeps z x0) : Keeps z (State.haltEach x0 x1 x2) := by
  unfold State.haltEach; try dsimp only
  all_goals repeat'
    first
    | (with_reducible exact hz)
    | (with_reducible assumption)
    | (with_reducible apply State.haltNow_keeps)
    | (with_reducible apply foldl_keeps)
    | split
    | (intro _)
    | (dsimp only)

theorem State.noStandIn_keeps {x0 : State} {x1 : Nat} {z : State} (hz : Keeps z x0) : Keeps z (State.noStandIn x0 x1) := by
  unfold State.noStandIn; try dsimp only
  all_goals repeat'
    first
    | (with_reducible exact hz)
    | (with_reducible assumption)
    | (with_reducible apply State.mapOstler_keeps)
    | (with_reducible apply State.modOstler_keeps)
    | (with_reducible apply State.haltEach_keeps)
    | split
    | (intro _)
    | (dsimp only)

theorem State.dutyLost_keeps {x0 : State} {x1 : Nat} {z : State} (hz : Keeps z x0) : Keeps z (State.dutyLost x0 x1) := by
  unfold State.dutyLost; try dsimp only
  all_goals repeat'
    first
    | (with_reducible exact hz)
    | (with_reducible assumption)
    | (with_reducible apply State.listOstler_keeps)
    | (with_reducible apply State.modOstler_keeps)
    | (with_reducible apply State.noStandIn_keeps)
    | (with_reducible apply State.bothDeviceFail_keeps)
    | split
    | (intro _)
    | (dsimp only)

theorem heartbeatMisses_keeps {x0 : Nat} {x1 : State} {z : State} (hz : Keeps z x1) : Keeps z (heartbeatMisses x0 x1) := by
  unfold heartbeatMisses; try dsimp only
  all_goals repeat'
    first
    | (with_reducible exact hz)
    | (with_reducible assumption)
    | (with_reducible apply State.modOstler_keeps)
    | (with_reducible apply State.mapOstler_keeps)
    | (with_reducible apply State.dutyLost_keeps)
    | (with_reducible apply State.rebase_keeps)
    | split
    | (intro _)
    | (dsimp only)

theorem execHeartbeatMiss_keeps {x0 : Nat} {x1 : State} {z : State} (hz : Keeps z x1) : KeepsOut z (execHeartbeatMiss x0 x1) := by
  unfold execHeartbeatMiss; try dsimp only
  all_goals repeat'
    first
    | (with_reducible exact hz)
    | (with_reducible assumption)
    | (with_reducible apply KeepsOut.next)
    | (with_reducible apply KeepsOut.fault)
    | (with_reducible apply onUnit_keeps)
    | (with_reducible apply heartbeatMisses_keeps)
    | split
    | (intro _)
    | (dsimp only)

theorem State.stopRecords_keeps {x0 : State} {x1 : Nat} {x2 : Nat} {x3 : Ctx} {z : State} (hz : Keeps z x0) : Keeps z (State.stopRecords x0 x1 x2 x3) := by
  unfold State.stopRecords; try dsimp only
  all_goals repeat'
    first
    | (with_reducible exact hz)
    | (with_reducible assumption)
    | (with_reducible apply State.modPd_keeps)
    | split
    | (with_reducible apply keeps_rec)
    | (with_reducible exact Nat.le_refl _)
    | (with_reducible exact List.suffix_refl _)
    | (with_reducible exact id)
    | (with_reducible exact rfl)
    | (intro h; rw [List.length_map]; with_reducible exact h)
    | (intro _)
    | (dsimp only)

theorem State.rerun_keeps {x0 : State} {x1 : Nat} {x2 : Nat} {x3 : Ctx} {z : State} (hz : Keeps z x0) : Keeps z (State.rerun x0 x1 x2 x3) := by
  unfold State.rerun; try dsimp only
  all_goals repeat'
    first
    | (with_reducible exact hz)
    | (with_reducible assumption)
    | (with_reducible apply State.loadStep_keeps)
    | (with_reducible apply State.dropExpiries_keeps)
    | (with_reducible apply State.stopRecords_keeps)
    | split
    | (intro _)
    | (dsimp only)

theorem State.actOnStep_keeps {x0 : State} {x1 : Nat} {x2 : Nat} {z : State} (hz : Keeps z x0) : Keeps z (State.actOnStep x0 x1 x2) := by
  unfold State.actOnStep; try dsimp only
  all_goals repeat'
    first
    | (with_reducible exact hz)
    | (with_reducible assumption)
    | (with_reducible apply State.modCtx_keeps)
    | (with_reducible apply State.stopRecords_keeps)
    | (with_reducible apply State.rerun_keeps)
    | split
    | (intro _)
    | (dsimp only)

theorem takesOver_keeps {x0 : Nat} {x1 : State} {z : State} (hz : Keeps z x1) : Keeps z (takesOver x0 x1) := by
  unfold takesOver; try dsimp only
  all_goals repeat'
    first
    | (with_reducible exact hz)
    | (with_reducible assumption)
    | (with_reducible apply State.noStandIn_keeps)
    | (with_reducible apply State.modOstler_keeps)
    | (with_reducible apply State.mapOstler_keeps)
    | (with_reducible apply State.rebase_keeps)
    | (with_reducible apply State.actOnStep_keeps)
    | (with_reducible apply foldl_keeps)
    | split
    | (intro _)
    | (dsimp only)

theorem execOstlerTakeover_keeps {x0 : Nat} {x1 : State} {z : State} (hz : Keeps z x1) : KeepsOut z (execOstlerTakeover x0 x1) := by
  unfold execOstlerTakeover; try dsimp only
  all_goals repeat'
    first
    | (with_reducible exact hz)
    | (with_reducible assumption)
    | (with_reducible apply KeepsOut.next)
    | (with_reducible apply KeepsOut.fault)
    | (with_reducible apply onUnit_keeps)
    | (with_reducible apply takesOver_keeps)
    | split
    | (intro _)
    | (dsimp only)

theorem stableFails_keeps {x0 : Nat} {x1 : State} {z : State} (hz : Keeps z x1) : Keeps z (stableFails x0 x1) := by
  unfold stableFails; try dsimp only
  all_goals repeat'
    first
    | (with_reducible exact hz)
    | (with_reducible assumption)
    | (with_reducible apply State.replaceStable_keeps)
    | (with_reducible apply State.modStable_keeps)
    | split
    | (intro _)
    | (dsimp only)

theorem execSelfCheckFailure_keeps {x0 : Bool} {x1 : Nat} {x2 : State} {z : State} (hz : Keeps z x2) : KeepsOut z (execSelfCheckFailure x0 x1 x2) := by
  unfold execSelfCheckFailure; try dsimp only
  all_goals repeat'
    first
    | (with_reducible exact hz)
    | (with_reducible assumption)
    | (with_reducible apply KeepsOut.next)
    | (with_reducible apply KeepsOut.fault)
    | (with_reducible apply onUnit_keeps)
    | (with_reducible apply stableFails_keeps)
    | (with_reducible apply heartbeatMisses_keeps)
    | split
    | (intro _)
    | (dsimp only)

end Sys2Proof.Machine
end

