-- ==== Sys2Proof/Laws/KeepPostBus.lean ====
section
/-! SUPPORT. What the operations of Machine/PostBus.lean keep (Laws/Keeps.lean): one lemma for each. -/

set_option Elab.async false

namespace Sys2Proof.Machine

theorem State.modBus_keeps {x0 : State} {x1 : Bus → Bus} {z : State} (hz : Keeps z x0) : Keeps z (State.modBus x0 x1) := by
  unfold State.modBus; try dsimp only
  all_goals repeat'
    first
    | (with_reducible exact hz)
    | (with_reducible assumption)
    | split
    | (with_reducible apply keeps_rec)
    | (with_reducible exact Nat.le_refl _)
    | (with_reducible exact List.suffix_refl _)
    | (with_reducible exact id)
    | (with_reducible exact rfl)
    | (intro _)
    | (dsimp only)

theorem State.answer_keeps {x0 : State} {x1 : Nat} {x2 : Nat} {x3 : Nat} {x4 : List Byte} {z : State} (hz : Keeps z x0) : Keeps z (State.answer x0 x1 x2 x3 x4) := by
  unfold State.answer; try dsimp only
  all_goals repeat'
    first
    | (with_reducible exact hz)
    | (with_reducible assumption)
    | (with_reducible apply State.modBus_keeps)
    | split
    | (intro _)
    | (dsimp only)

theorem State.collide_keeps {x0 : State} {z : State} (hz : Keeps z x0) : Keeps z (State.collide x0) := by
  unfold State.collide; try dsimp only
  all_goals repeat'
    first
    | (with_reducible exact hz)
    | (with_reducible assumption)
    | (with_reducible apply State.postShared_keeps)
    | (with_reducible apply State.modBus_keeps)
    | split
    | (intro _)
    | (dsimp only)

theorem State.answers_keeps {x0 : State} {x1 : Bool} {x2 : Nat} {x3 : Nat} {x4 : Nat} {x5 : List Byte} {z : State} (hz : Keeps z x0) : Keeps z (State.answers x0 x1 x2 x3 x4 x5) := by
  unfold State.answers; try dsimp only
  all_goals repeat'
    first
    | (with_reducible exact hz)
    | (with_reducible assumption)
    | (with_reducible apply State.collide_keeps)
    | (with_reducible apply State.answer_keeps)
    | split
    | (intro _)
    | (dsimp only)

theorem execCall_keeps {x0 : State} {z : State} (hz : Keeps z x0) : KeepsOut z (execCall x0) := by
  unfold execCall; try dsimp only
  all_goals repeat'
    first
    | (with_reducible exact hz)
    | (with_reducible assumption)
    | (with_reducible apply KeepsOut.next)
    | (with_reducible apply KeepsOut.fault)
    | (with_reducible apply State.modBus_keeps)
    | split
    | (intro _)
    | (dsimp only)

theorem arbitrationRuns_keeps {x0 : List Bool} {x1 : State} {z : State} (hz : Keeps z x1) : Keeps z (arbitrationRuns x0 x1) := by
  unfold arbitrationRuns; try dsimp only
  all_goals repeat'
    first
    | (with_reducible exact hz)
    | (with_reducible assumption)
    | (with_reducible apply State.modBus_keeps)
    | split
    | (intro _)
    | (dsimp only)

theorem execArbitrationWindow_keeps {x0 : List Bool} {x1 : State} {z : State} (hz : Keeps z x1) : KeepsOut z (execArbitrationWindow x0 x1) := by
  unfold execArbitrationWindow; try dsimp only
  all_goals repeat'
    first
    | (with_reducible exact hz)
    | (with_reducible assumption)
    | (with_reducible apply KeepsOut.next)
    | (with_reducible apply KeepsOut.fault)
    | (with_reducible apply arbitrationRuns_keeps)
    | split
    | (intro _)
    | (dsimp only)

theorem assigns_keeps {x0 : Nat} {x1 : Nat} {x2 : Bool} {x3 : State} {z : State} (hz : Keeps z x3) : Keeps z (assigns x0 x1 x2 x3) := by
  unfold assigns; try dsimp only
  all_goals repeat'
    first
    | (with_reducible exact hz)
    | (with_reducible assumption)
    | (with_reducible apply State.answers_keeps)
    | (with_reducible apply State.postcodeEvent_keeps)
    | (with_reducible apply State.modBus_keeps)
    | split
    | (intro _)
    | (dsimp only)

theorem execAssign_keeps {x0 : Nat} {x1 : Nat} {x2 : Bool} {x3 : State} {z : State} (hz : Keeps z x3) : KeepsOut z (execAssign x0 x1 x2 x3) := by
  unfold execAssign; try dsimp only
  all_goals repeat'
    first
    | (with_reducible exact hz)
    | (with_reducible assumption)
    | (with_reducible apply KeepsOut.next)
    | (with_reducible apply KeepsOut.fault)
    | (with_reducible apply assigns_keeps)
    | split
    | (intro _)
    | (dsimp only)

theorem releases_keeps {x0 : Nat} {x1 : Bool} {x2 : State} {z : State} (hz : Keeps z x2) : Keeps z (releases x0 x1 x2) := by
  unfold releases; try dsimp only
  all_goals repeat'
    first
    | (with_reducible exact hz)
    | (with_reducible assumption)
    | (with_reducible apply State.answers_keeps)
    | (with_reducible apply State.postcodeEvent_keeps)
    | (with_reducible apply State.modBus_keeps)
    | split
    | (intro _)
    | (dsimp only)

theorem execRelease_keeps {x0 : Nat} {x1 : Bool} {x2 : State} {z : State} (hz : Keeps z x2) : KeepsOut z (execRelease x0 x1 x2) := by
  unfold execRelease; try dsimp only
  all_goals repeat'
    first
    | (with_reducible exact hz)
    | (with_reducible assumption)
    | (with_reducible apply KeepsOut.next)
    | (with_reducible apply KeepsOut.fault)
    | (with_reducible apply releases_keeps)
    | split
    | (intro _)
    | (dsimp only)

theorem readAnswers_keeps {x0 : Nat} {x1 : Nat} {x2 : Nat} {x3 : Bool} {x4 : State} {z : State} (hz : Keeps z x4) : Keeps z (readAnswers x0 x1 x2 x3 x4) := by
  unfold readAnswers; try dsimp only
  all_goals repeat'
    first
    | (with_reducible exact hz)
    | (with_reducible assumption)
    | (with_reducible apply State.answers_keeps)
    | split
    | (intro _)
    | (dsimp only)

theorem execRead_keeps {x0 : Nat} {x1 : Nat} {x2 : Nat} {x3 : Bool} {x4 : State} {z : State} (hz : Keeps z x4) : KeepsOut z (execRead x0 x1 x2 x3 x4) := by
  unfold execRead; try dsimp only
  all_goals repeat'
    first
    | (with_reducible exact hz)
    | (with_reducible assumption)
    | (with_reducible apply KeepsOut.next)
    | (with_reducible apply KeepsOut.fault)
    | (with_reducible apply readAnswers_keeps)
    | split
    | (intro _)
    | (dsimp only)

theorem execStatus_keeps {x0 : Nat} {x1 : Bool} {x2 : State} {z : State} (hz : Keeps z x2) : KeepsOut z (execStatus x0 x1 x2) := by
  unfold execStatus; try dsimp only
  all_goals repeat'
    first
    | (with_reducible exact hz)
    | (with_reducible assumption)
    | (with_reducible apply KeepsOut.next)
    | (with_reducible apply KeepsOut.fault)
    | (with_reducible apply State.answers_keeps)
    | split
    | (intro _)
    | (dsimp only)

theorem execIdentity_keeps {x0 : Nat} {x1 : Bool} {x2 : State} {z : State} (hz : Keeps z x2) : KeepsOut z (execIdentity x0 x1 x2) := by
  unfold execIdentity; try dsimp only
  all_goals repeat'
    first
    | (with_reducible exact hz)
    | (with_reducible assumption)
    | (with_reducible apply KeepsOut.next)
    | (with_reducible apply KeepsOut.fault)
    | (with_reducible apply State.answers_keeps)
    | split
    | (intro _)
    | (dsimp only)

theorem execPostBusUnknownOp_keeps {x0 : Nat} {x1 : Nat} {x2 : Bool} {x3 : State} {z : State} (hz : Keeps z x3) : KeepsOut z (execPostBusUnknownOp x0 x1 x2 x3) := by
  unfold execPostBusUnknownOp; try dsimp only
  all_goals repeat'
    first
    | (with_reducible exact hz)
    | (with_reducible assumption)
    | (with_reducible apply KeepsOut.next)
    | (with_reducible apply KeepsOut.fault)
    | (with_reducible apply State.answers_keeps)
    | split
    | (intro _)
    | (dsimp only)

end Sys2Proof.Machine
end

