-- ==== Sys2Proof/Laws/KeepReplay.lean ====
section
/-! SUPPORT. What the operations of Machine/Replay.lean keep (Laws/Keeps.lean): one lemma for each. -/

set_option Elab.async false

namespace Sys2Proof.Machine

theorem actReplay_keeps {x0 : Nat} {x1 : LetterHead} {x2 : Nat} {x3 : Nat} {x4 : Nat} {x5 : Nat} {x6 : Nat} {x7 : Nat} {x8 : Nat} {x9 : Nat} {x10 : State} {z : State} (hz : Keeps z x10) : Keeps z (actReplay x0 x1 x2 x3 x4 x5 x6 x7 x8 x9 x10).s := by
  unfold actReplay; try dsimp only
  all_goals repeat'
    first
    | (with_reducible exact hz)
    | (with_reducible assumption)
    | (with_reducible apply Taken.refuse_keeps)
    | (with_reducible apply State.onQuiet_keeps)
    | (with_reducible apply State.restoreFrom_keeps)
    | (with_reducible apply State.refuseCause_keeps)
    | (with_reducible apply State.modCtx_keeps)
    | (with_reducible apply Taken.later_keeps)
    | (with_reducible apply State.makeReady_keeps)
    | split
    | (refine (State.restoreFrom_keeps ?_).of _ (by with_reducible assumption))
    | (intro _)
    | (dsimp only)

theorem execReplay_keeps {x0 : Nat} {x1 : LetterHead} {x2 : Nat} {x3 : Nat} {x4 : Nat} {x5 : Nat} {x6 : Nat} {x7 : Nat} {x8 : Nat} {x9 : Nat} {x10 : State} {z : State} (hz : Keeps z x10) : KeepsOut z (execReplay x0 x1 x2 x3 x4 x5 x6 x7 x8 x9 x10) := by
  unfold execReplay; try dsimp only
  all_goals repeat'
    first
    | (with_reducible exact hz)
    | (with_reducible assumption)
    | (with_reducible apply KeepsOut.next)
    | (with_reducible apply KeepsOut.fault)
    | (with_reducible apply onUnit_keeps)
    | (with_reducible apply State.takeLetter_keeps)
    | (with_reducible apply actReplay_keeps)
    | split
    | (intro _)
    | (dsimp only)

end Sys2Proof.Machine
end

