-- ==== Sys2Proof/Laws/KeepTick.lean ====
section
/-! SUPPORT. What the operations of Machine/Tick.lean keep (Laws/Keeps.lean): one lemma for each. -/

set_option Elab.async false

namespace Sys2Proof.Machine

theorem tick_keeps {x0 : State} {z : State} (hz : Keeps z x0) : Keeps z (tick x0) := by
  unfold tick; try dsimp only
  all_goals repeat'
    first
    | (with_reducible exact hz)
    | (with_reducible assumption)
    | (with_reducible apply State.firmwareEnds_keeps)
    | split
    | (with_reducible apply keeps_rec)
    | (with_reducible exact Nat.le_refl _)
    | (with_reducible exact List.suffix_refl _)
    | (with_reducible exact id)
    | (with_reducible exact rfl)
    | (intro h; rw [List.length_map]; with_reducible exact h)
    | (intro h; simp [h]; done)
    | (intro _)
    | (dsimp only)

end Sys2Proof.Machine
end

