-- ==== Sys2Proof/Laws/Letters.lean ====
section
/-! SUPPORT. What an accepted letter does (R556-R558, R571-R573): it is taken up, its action runs, its reply goes out. With these a statement about a letter is a statement about its action. -/

set_option Elab.async false

namespace Sys2Proof.Machine

/-- Taking up an accepted letter is a matter of the exchange alone. -/
theorem State.accepts_posted {s : State} {p kind need : Nat} {h : LetterHead} (ha : s.accepts p kind need h = true) :
    Posted s (s.took p h) := s.took_posted p h (State.accepts_en ha)

theorem State.answered_posted (s : State) (p kind : Nat) (h : LetterHead) (st : Nat) (pl : List Byte) :
    Posted s (s.answered p kind h st pl) := State.reply_posted _ _ _ _ _ _

theorem State.letter_exec {s : State} {p kind need : Nat} {h : LetterHead} {act : State → Taken}
    (ha : s.accepts p kind need h = true) :
    onUnit (p < 16) (s.takeLetter p kind need h act) = .next (if (act (s.took p h)).waits then s else match (act (s.took p h)).now with
      | some (st, payload) => (act (s.took p h)).s.answered p kind h st payload
      | none => (act (s.took p h)).s) := by
  rw [State.takeLetter_accepted act ha]
  unfold onUnit
  exact (if_pos (by simpa using State.accepts_pad ha)).trans rfl

/-- An action that answers at once. -/
theorem State.letter_now {s : State} {p kind need : Nat} {h : LetterHead} {act : State → Taken} {t : State} {st : Nat}
    {pl : List Byte} (ha : s.accepts p kind need h = true) (e : act (s.took p h) = ⟨t, some (st, pl), false⟩) :
    onUnit (p < 16) (s.takeLetter p kind need h act) = .next (t.answered p kind h st pl) := by
  rw [State.letter_exec ha, e]
  rfl

/-- An action whose reply is owed. -/
theorem State.letter_later {s : State} {p kind need : Nat} {h : LetterHead} {act : State → Taken} {t : State}
    (ha : s.accepts p kind need h = true) (e : act (s.took p h) = ⟨t, none, false⟩) :
    onUnit (p < 16) (s.takeLetter p kind need h act) = .next t := by
  rw [State.letter_exec ha, e]
  rfl

/-- An action that waits for a table switch leaves the letter where it stands (R545). -/
theorem State.letter_waits {s : State} {p kind need : Nat} {h : LetterHead} {act : State → Taken}
    (ha : s.accepts p kind need h = true) (e : (act (s.took p h)).waits = true) :
    onUnit (p < 16) (s.takeLetter p kind need h act) = .next s := by
  rw [State.letter_exec ha, e]
  rfl

/-! ### What posting leaves -/

theorem Posted.pd {s t : State} (h : Posted s t) (p : Nat) : (t.pd p).noRing = (s.pd p).noRing := by
  obtain ⟨m, c, f, ps, rfl, hp, _⟩ := h
  exact noRing_getD hp p

theorem Posted.ctx {s t : State} (h : Posted s t) (p c : Nat) : t.ctx p c = s.ctx p c := by
  have := congrArg (fun d : Paddock => d.ctx c) (h.pd p)
  exact this

theorem Posted.state {s t : State} (h : Posted s t) (p : Nat) : (t.pd p).state = (s.pd p).state := by
  have := congrArg Paddock.state (h.pd p)
  exact this

/-- A property of paddocks that does not look at the ring holds of as many after posting. -/
theorem Posted.all {s t : State} (h : Posted s t) (f : Paddock → Bool) (hf : ∀ d, f d.noRing = f d) :
    t.pads.all f = s.pads.all f := by
  obtain ⟨m, c, g, ps, rfl, hp, _⟩ := h
  have key : ∀ l : List Paddock, l.all f = (l.map Paddock.noRing).all f := by
    intro l
    rw [List.all_map]
    congr 1
    funext d
    exact (hf d).symm
  rw [key, key s.pads]
  exact congrArg (fun l => List.all l f) hp

theorem Posted.any {s t : State} (h : Posted s t) (f : Paddock → Bool) (hf : ∀ d, f d.noRing = f d) :
    t.pads.any f = s.pads.any f := by
  obtain ⟨m, c, g, ps, rfl, hp, _⟩ := h
  have key : ∀ l : List Paddock, l.any f = (l.map Paddock.noRing).any f := by
    intro l
    rw [List.any_map]
    congr 1
    funext d
    exact (hf d).symm
  rw [key, key s.pads]
  exact congrArg (fun l => List.any l f) hp

theorem Posted.allClosed {s t : State} (h : Posted s t) : t.allClosed = s.allClosed := h.all _ fun _ => rfl

/-- A change of one paddock carries over posting. -/
theorem Posted.modPd {s t : State} (h : Posted s t) (p : Nat) (f : Paddock → Paddock)
    (hf : ∀ d e : Paddock, d.noRing = e.noRing → (f d).noRing = (f e).noRing)
    (hr : ∀ d : Paddock, (f d).ring.en = d.ring.en ∧ (f d).ring.base = d.ring.base) : Posted (s.modPd p f) (t.modPd p f) := by
  obtain ⟨m, c, g, ps, rfl, hp, hw⟩ := h
  refine ⟨m, c, g, ps.modify p f, rfl, ?_, fun hx => ⟨(hw hx).1, fun a ha => (hw hx).2 a fun hc => ha ?_⟩⟩
  · show (ps.modify p f).map Paddock.noRing = (s.pads.modify p f).map Paddock.noRing
    clear hw
    revert p
    generalize s.pads = qs at hp
    induction ps generalizing qs with
    | nil => cases qs with
      | nil => exact fun p => by cases p <;> rfl
      | cons _ _ => simp at hp
    | cons d ds ih => cases qs with
      | nil => simp at hp
      | cons e es =>
        simp only [List.map_cons, List.cons.injEq] at hp
        intro p
        cases p with
        | zero => simp only [List.modify_zero_cons, List.map_cons, hf d e hp.1, hp.2]
        | succ p => simp only [List.modify_succ_cons, List.map_cons, hp.1, ih es hp.2 p]
  · obtain ⟨q, h1, h2⟩ := hc
    refine ⟨q, ?_⟩
    have key : ((s.modPd p f).pd q).ring.en = (s.pd q).ring.en ∧ ((s.modPd p f).pd q).ring.base = (s.pd q).ring.base := by
      show ((s.pads.modify p f).getD q Paddock.closed).ring.en = _ ∧ ((s.pads.modify p f).getD q Paddock.closed).ring.base = _
      unfold State.pd
      simp only [List.getD_eq_getElem?_getD, List.getElem?_modify]
      split
      · cases s.pads[q]? with
        | none => exact ⟨rfl, rfl⟩
        | some d => exact hr d
      · cases s.pads[q]? <;> exact ⟨rfl, rfl⟩
    rw [key.1, key.2]
    exact ⟨h1, h2⟩

/-- A change of a context carries over posting. -/
theorem Posted.modCtx {s t : State} (h : Posted s t) (p c : Nat) (f : Ctx → Ctx) : Posted (s.modCtx p c f) (t.modCtx p c f) := by
  refine h.modPd p _ (fun d e hde => ?_) fun d => ⟨rfl, rfl⟩
  have := congrArg (fun x : Paddock => x.modCtx c f) hde
  exact this

/-- Where nothing is taken, posting changes no ring's answer: a prepared module takes no letter (R608). -/
theorem Posted.takes_none {s t : State} (h : Posted s t) (hs : s.start.prepared = true) (q : Nat) : t.takesLetters q = false := by
  obtain ⟨m, c, f, ps, rfl, _⟩ := h
  unfold State.takesLetters
  simp [hs]

/-! ### Bulk reads (R575) -/

theorem bulk_ok {s : State} {b : Bulk} {bs x : List Byte} (hb : bulkHolds b bs.length = true) :
    s.bulk b bs x = ⟨s.sendComp .buffer b.addr bs, some (0, leBytes 4 bs.length ++ x), false⟩ := by
  simp only [bulkHolds, Bool.and_eq_true, decide_eq_true_eq] at hb
  unfold State.bulk
  rw [if_neg (by simp [hb]), if_neg (by omega)]
  rfl

end Sys2Proof.Machine
end

