-- ==== Sys2Proof/Laws/Messages.lean ====
section
/-! SUPPORT. What the shared operations of the links can do: a frame offered to a port (R413, R414, R551) and a message of the companion (R425, R429, R430). Later proofs cite these and unfold neither. -/

namespace Sys2Proof.Machine

/-! ### A frame offered to a port -/

/-- A frame goes out at once, waits at the transmitter, or waits in its paddock. -/
theorem Port.offer_cases (x : Port) (f : SentFrame) :
    (x.clear f = true ∧ (x.waiting.any (·.pad == f.pad)) = false ∧ x.offer f = (x.spend f).emit f) ∨
    ((x.queue.filter (·.pad == f.pad)).length < portFrames ∧ x.clear f = false ∧ x.offer f = { x with queue := x.queue ++ [f] }) ∨
    x.offer f = { x with waiting := x.waiting ++ [f] } := by
  unfold Port.offer
  by_cases hw : x.waiting.any (·.pad == f.pad) = true
  · exact .inr (.inr (if_pos hw))
  · rw [if_neg hw]
    by_cases hc : x.clear f = true
    · exact .inl ⟨hc, by simpa using hw, if_pos hc⟩
    · rw [if_neg hc]
      by_cases hq : (x.queue.filter (·.pad == f.pad)).length < portFrames
      · exact .inr (.inl ⟨hq, by simpa using hc, if_pos hq⟩)
      · exact .inr (.inr (if_neg hq))

/-- A frame goes out only on a port that carries frames, with credit for its first frame and room in the replay buffer. -/
theorem Port.clear_needs {x : Port} {f : SentFrame} (h : x.clear f = true) :
    x.carries = true ∧ ((min 16 f.cells : Int) ≤ x.creditFor f.stage) ∧ x.keeps f = true := by
  simp only [Port.clear, Bool.and_eq_true, decide_eq_true_eq] at h
  exact ⟨h.1.1.1, h.1.2, h.2⟩

/-- The credit of a stage after it is set; that of another stage stays. -/
theorem Port.creditFor_setCredit (x : Port) (a b : Nat) (n : Int) :
    (x.setCredit a n).creditFor b = if a = b then n else x.creditFor b := by
  unfold Port.setCredit Port.creditFor
  by_cases h : a = b
  · simp [h]
  · rw [if_neg h, List.find?_cons_of_neg (by simpa using h), List.find?_filter]
    congr 3
    funext e
    by_cases he : e.1 = b
    · simp [he, Ne.symm h]
    · simp [he]

/-- A frame that goes out spends its cells at its own stage and no others. -/
theorem Port.creditFor_spend (x : Port) (f : SentFrame) (b : Nat) :
    (x.spend f).creditFor b = if f.stage = b then x.creditFor f.stage - f.cells else x.creditFor b :=
  x.creditFor_setCredit _ _ _

/-- Offering a frame loses none that the replay buffer keeps. -/
theorem Port.offer_replay (x : Port) (f : SentFrame) : x.replay <+: (x.offer f).replay := by
  rcases x.offer_cases f with ⟨-, -, h⟩ | ⟨-, -, h⟩ | h
  · rw [h] <;> exact List.prefix_append _ _
  · rw [h] <;> exact List.prefix_rfl
  · rw [h] <;> exact List.prefix_rfl

/-- Offering a frame changes the state of no port. -/
theorem Port.offer_state (x : Port) (f : SentFrame) : (x.offer f).state = x.state := by
  rcases x.offer_cases f with ⟨-, -, h⟩ | ⟨-, -, h⟩ | h <;> rw [h] <;> rfl

/-! ### A message of the companion -/

/-- A message is not heard, is dropped, is a protocol error, or is taken and has its effect. -/
theorem State.onMessage_cases (s : State) (h : McHead) (ok : Bool) (requests dataUnits invs : Nat) (f : State → State) :
    (s.hearsMcl = false ∧ s.onMessage h ok requests dataUnits invs f = s) ∨
    (s.hearsMcl = true ∧ s.onMessage h ok requests dataUnits invs f = s.hearsWord) ∨
    (s.hearsMcl = true ∧ (h.sound && ok) = false ∧ s.onMessage h ok requests dataUnits invs f = s.hearsWord.protocolError) ∨
    (s.hearsMcl = true ∧ h.cseq = s.mcl.cseqIn ∧ s.mcl.allows requests dataUnits invs = true ∧ (h.sound && ok) = true ∧
      s.onMessage h ok requests dataUnits invs f = f (s.hearsWord.modMcl (Mcl.took h requests dataUnits invs))) := by
  unfold State.onMessage
  by_cases hh : s.hearsMcl = true
  · rw [hh]
    simp only [Bool.not_true, Bool.false_eq_true, if_false]
    by_cases hd : h.cseq ≠ s.hearsWord.mcl.cseqIn ∨ s.hearsWord.mcl.allows requests dataUnits invs = false
    · exact .inr (.inl ⟨trivial, if_pos hd⟩)
    · rw [if_neg hd]
      by_cases hb : (h.sound && ok) = true
      · refine .inr (.inr (.inr ⟨trivial, ?_, ?_, hb, by simp [hb]⟩))
        · exact Decidable.byContradiction fun c => hd (.inl c)
        · exact Decidable.byContradiction fun c => hd (.inr (Bool.eq_false_iff.mpr c))
      · exact .inr (.inr (.inl ⟨trivial, by simpa using hb, by simp [hb]⟩))
  · exact .inl ⟨by simpa using hh, if_pos (by simpa using hh)⟩

/-- A message that is next, under credit, sound and heard has its effect. -/
theorem State.onMessage_taken {s : State} {h : McHead} {ok : Bool} {requests dataUnits invs : Nat} (f : State → State)
    (hh : s.hearsMcl = true) (hc : h.cseq = s.mcl.cseqIn) (ha : s.mcl.allows requests dataUnits invs = true)
    (hb : (h.sound && ok) = true) :
    s.onMessage h ok requests dataUnits invs f = f (s.hearsWord.modMcl (Mcl.took h requests dataUnits invs)) := by
  have hd : ¬(h.cseq ≠ s.hearsWord.mcl.cseqIn ∨ s.hearsWord.mcl.allows requests dataUnits invs = false) := by
    rintro (c | c)
    · exact c hc
    · exact Bool.noConfusion (ha.symm.trans c)
  unfold State.onMessage
  rw [hh]
  simp only [Bool.not_true, Bool.false_eq_true, if_false]
  rw [if_neg hd, hb]
  rfl

end Sys2Proof.Machine
end

