-- ==== Sys2Proof/Laws/Reading.lean ====
section
/-!
SUPPORT. Companion memory read after it was written, and across the taking up of a
letter.
-/

set_option Elab.async false

namespace Sys2Proof.Machine

/-- Reading a range depends on its bytes alone. -/
theorem memRead_congr (m k : Memory) (n : Nat) : ∀ a, (∀ x, a ≤ x → x < a + n → memGet m x = memGet k x) →
    memRead m a n = memRead k a n := by
  induction n with
  | zero => exact fun _ _ => rfl
  | succ n ih =>
    intro a h
    simp only [memRead]
    rw [h a (Nat.le_refl _) (by omega), ih (a + 1) fun x h1 h2 => h x (by omega) (by omega)]

/-- What was written to companion memory reads back. -/
theorem State.wrComp_rdComp (s : State) (a : Nat) (bs : List Byte) (hw : s.mem.wf = true) :
    (s.wrComp a bs).rdComp a bs.length = bs :=
  memRead_memWrite s.mem (windowBase + a) bs hw

/-- The taking up of a letter writes the consumer line alone (R557). -/
theorem State.took_rdComp (s : State) (p : Nat) (h : LetterHead) (a n : Nat) (hw : s.mem.wf = true)
    (hd : a + n ≤ (s.pd p).ring.base + 0x8040 ∨ (s.pd p).ring.base + 0x8044 ≤ a) :
    (s.took p h).rdComp a n = s.rdComp a n := by
  refine memRead_congr _ _ n _ fun x h1 h2 => ?_
  rw [show (s.took p h).mem = _ from State.sendComp_mem ..]
  refine memWrite_get_outside _ s.mem _ x hw ?_
  rw [leBytes_length]
  omega

end Sys2Proof.Machine
end

