-- ==== Sys2Proof/Laws/State.lean ====
section
/-!
SUPPORT. The small lemmas of State: what each update of Machine/Ops.lean makes of each
field, true by definition, so that no later proof unfolds a record update; and reading
a unit after a unit has changed.
-/

namespace Sys2Proof.Machine

/-! ### State.modPd -/

@[simp] theorem State.modPd_pending (s : State) (p : Nat) (f : Paddock → Paddock) : (s.modPd p f).pending = s.pending := rfl
@[simp] theorem State.modPd_free (s : State) (p : Nat) (f : Paddock → Paddock) : (s.modPd p f).free = s.free := rfl
@[simp] theorem State.modPd_otp (s : State) (p : Nat) (f : Paddock → Paddock) : (s.modPd p f).otp = s.otp := rfl
@[simp] theorem State.modPd_flash (s : State) (p : Nat) (f : Paddock → Paddock) : (s.modPd p f).flash = s.flash := rfl
@[simp] theorem State.modPd_cfg (s : State) (p : Nat) (f : Paddock → Paddock) : (s.modPd p f).cfg = s.cfg := rfl
@[simp] theorem State.modPd_start (s : State) (p : Nat) (f : Paddock → Paddock) : (s.modPd p f).start = s.start := rfl
@[simp] theorem State.modPd_grant (s : State) (p : Nat) (f : Paddock → Paddock) : (s.modPd p f).grant = s.grant := rfl
@[simp] theorem State.modPd_dies (s : State) (p : Nat) (f : Paddock → Paddock) : (s.modPd p f).dies = s.dies := rfl
@[simp] theorem State.modPd_power (s : State) (p : Nat) (f : Paddock → Paddock) : (s.modPd p f).power = s.power := rfl
@[simp] theorem State.modPd_freeze (s : State) (p : Nat) (f : Paddock → Paddock) : (s.modPd p f).freeze = s.freeze := rfl
@[simp] theorem State.modPd_deferred (s : State) (p : Nat) (f : Paddock → Paddock) : (s.modPd p f).deferred = s.deferred := rfl
@[simp] theorem State.modPd_ostlers (s : State) (p : Nat) (f : Paddock → Paddock) : (s.modPd p f).ostlers = s.ostlers := rfl
@[simp] theorem State.modPd_expiries (s : State) (p : Nat) (f : Paddock → Paddock) : (s.modPd p f).expiries = s.expiries := rfl
@[simp] theorem State.modPd_remount (s : State) (p : Nat) (f : Paddock → Paddock) : (s.modPd p f).remount = s.remount := rfl
@[simp] theorem State.modPd_channels (s : State) (p : Nat) (f : Paddock → Paddock) : (s.modPd p f).channels = s.channels := rfl
@[simp] theorem State.modPd_sheds (s : State) (p : Nat) (f : Paddock → Paddock) : (s.modPd p f).sheds = s.sheds := rfl
@[simp] theorem State.modPd_turnout (s : State) (p : Nat) (f : Paddock → Paddock) : (s.modPd p f).turnout = s.turnout := rfl
@[simp] theorem State.modPd_scrubHours (s : State) (p : Nat) (f : Paddock → Paddock) : (s.modPd p f).scrubHours = s.scrubHours := rfl
@[simp] theorem State.modPd_bus (s : State) (p : Nat) (f : Paddock → Paddock) : (s.modPd p f).bus = s.bus := rfl
@[simp] theorem State.modPd_tap (s : State) (p : Nat) (f : Paddock → Paddock) : (s.modPd p f).tap = s.tap := rfl
@[simp] theorem State.modPd_stables (s : State) (p : Nat) (f : Paddock → Paddock) : (s.modPd p f).stables = s.stables := rfl
@[simp] theorem State.modPd_mem (s : State) (p : Nat) (f : Paddock → Paddock) : (s.modPd p f).mem = s.mem := rfl
@[simp] theorem State.modPd_bad (s : State) (p : Nat) (f : Paddock → Paddock) : (s.modPd p f).bad = s.bad := rfl
@[simp] theorem State.modPd_flips (s : State) (p : Nat) (f : Paddock → Paddock) : (s.modPd p f).flips = s.flips := rfl
@[simp] theorem State.modPd_foreign (s : State) (p : Nat) (f : Paddock → Paddock) : (s.modPd p f).foreign = s.foreign := rfl
@[simp] theorem State.modPd_pads (s : State) (p : Nat) (f : Paddock → Paddock) : (s.modPd p f).pads = s.pads.modify p f := rfl
@[simp] theorem State.modPd_ports (s : State) (p : Nat) (f : Paddock → Paddock) : (s.modPd p f).ports = s.ports := rfl
@[simp] theorem State.modPd_mcl (s : State) (p : Nat) (f : Paddock → Paddock) : (s.modPd p f).mcl = s.mcl := rfl
@[simp] theorem State.modPd_bridge (s : State) (p : Nat) (f : Paddock → Paddock) : (s.modPd p f).bridge = s.bridge := rfl

/-! ### State.modCtx -/

@[simp] theorem State.modCtx_pending (s : State) (p c : Nat) (f : Ctx → Ctx) : (s.modCtx p c f).pending = s.pending := rfl
@[simp] theorem State.modCtx_free (s : State) (p c : Nat) (f : Ctx → Ctx) : (s.modCtx p c f).free = s.free := rfl
@[simp] theorem State.modCtx_otp (s : State) (p c : Nat) (f : Ctx → Ctx) : (s.modCtx p c f).otp = s.otp := rfl
@[simp] theorem State.modCtx_flash (s : State) (p c : Nat) (f : Ctx → Ctx) : (s.modCtx p c f).flash = s.flash := rfl
@[simp] theorem State.modCtx_cfg (s : State) (p c : Nat) (f : Ctx → Ctx) : (s.modCtx p c f).cfg = s.cfg := rfl
@[simp] theorem State.modCtx_start (s : State) (p c : Nat) (f : Ctx → Ctx) : (s.modCtx p c f).start = s.start := rfl
@[simp] theorem State.modCtx_grant (s : State) (p c : Nat) (f : Ctx → Ctx) : (s.modCtx p c f).grant = s.grant := rfl
@[simp] theorem State.modCtx_dies (s : State) (p c : Nat) (f : Ctx → Ctx) : (s.modCtx p c f).dies = s.dies := rfl
@[simp] theorem State.modCtx_power (s : State) (p c : Nat) (f : Ctx → Ctx) : (s.modCtx p c f).power = s.power := rfl
@[simp] theorem State.modCtx_freeze (s : State) (p c : Nat) (f : Ctx → Ctx) : (s.modCtx p c f).freeze = s.freeze := rfl
@[simp] theorem State.modCtx_deferred (s : State) (p c : Nat) (f : Ctx → Ctx) : (s.modCtx p c f).deferred = s.deferred := rfl
@[simp] theorem State.modCtx_ostlers (s : State) (p c : Nat) (f : Ctx → Ctx) : (s.modCtx p c f).ostlers = s.ostlers := rfl
@[simp] theorem State.modCtx_expiries (s : State) (p c : Nat) (f : Ctx → Ctx) : (s.modCtx p c f).expiries = s.expiries := rfl
@[simp] theorem State.modCtx_remount (s : State) (p c : Nat) (f : Ctx → Ctx) : (s.modCtx p c f).remount = s.remount := rfl
@[simp] theorem State.modCtx_channels (s : State) (p c : Nat) (f : Ctx → Ctx) : (s.modCtx p c f).channels = s.channels := rfl
@[simp] theorem State.modCtx_sheds (s : State) (p c : Nat) (f : Ctx → Ctx) : (s.modCtx p c f).sheds = s.sheds := rfl
@[simp] theorem State.modCtx_turnout (s : State) (p c : Nat) (f : Ctx → Ctx) : (s.modCtx p c f).turnout = s.turnout := rfl
@[simp] theorem State.modCtx_scrubHours (s : State) (p c : Nat) (f : Ctx → Ctx) : (s.modCtx p c f).scrubHours = s.scrubHours := rfl
@[simp] theorem State.modCtx_bus (s : State) (p c : Nat) (f : Ctx → Ctx) : (s.modCtx p c f).bus = s.bus := rfl
@[simp] theorem State.modCtx_tap (s : State) (p c : Nat) (f : Ctx → Ctx) : (s.modCtx p c f).tap = s.tap := rfl
@[simp] theorem State.modCtx_stables (s : State) (p c : Nat) (f : Ctx → Ctx) : (s.modCtx p c f).stables = s.stables := rfl
@[simp] theorem State.modCtx_mem (s : State) (p c : Nat) (f : Ctx → Ctx) : (s.modCtx p c f).mem = s.mem := rfl
@[simp] theorem State.modCtx_bad (s : State) (p c : Nat) (f : Ctx → Ctx) : (s.modCtx p c f).bad = s.bad := rfl
@[simp] theorem State.modCtx_flips (s : State) (p c : Nat) (f : Ctx → Ctx) : (s.modCtx p c f).flips = s.flips := rfl
@[simp] theorem State.modCtx_foreign (s : State) (p c : Nat) (f : Ctx → Ctx) : (s.modCtx p c f).foreign = s.foreign := rfl
@[simp] theorem State.modCtx_pads (s : State) (p c : Nat) (f : Ctx → Ctx) : (s.modCtx p c f).pads = s.pads.modify p (·.modCtx c f) := rfl
@[simp] theorem State.modCtx_ports (s : State) (p c : Nat) (f : Ctx → Ctx) : (s.modCtx p c f).ports = s.ports := rfl
@[simp] theorem State.modCtx_mcl (s : State) (p c : Nat) (f : Ctx → Ctx) : (s.modCtx p c f).mcl = s.mcl := rfl
@[simp] theorem State.modCtx_bridge (s : State) (p c : Nat) (f : Ctx → Ctx) : (s.modCtx p c f).bridge = s.bridge := rfl

/-! ### State.modRing -/

@[simp] theorem State.modRing_pending (s : State) (p : Nat) (f : Ring → Ring) : (s.modRing p f).pending = s.pending := rfl
@[simp] theorem State.modRing_free (s : State) (p : Nat) (f : Ring → Ring) : (s.modRing p f).free = s.free := rfl
@[simp] theorem State.modRing_otp (s : State) (p : Nat) (f : Ring → Ring) : (s.modRing p f).otp = s.otp := rfl
@[simp] theorem State.modRing_flash (s : State) (p : Nat) (f : Ring → Ring) : (s.modRing p f).flash = s.flash := rfl
@[simp] theorem State.modRing_cfg (s : State) (p : Nat) (f : Ring → Ring) : (s.modRing p f).cfg = s.cfg := rfl
@[simp] theorem State.modRing_start (s : State) (p : Nat) (f : Ring → Ring) : (s.modRing p f).start = s.start := rfl
@[simp] theorem State.modRing_grant (s : State) (p : Nat) (f : Ring → Ring) : (s.modRing p f).grant = s.grant := rfl
@[simp] theorem State.modRing_dies (s : State) (p : Nat) (f : Ring → Ring) : (s.modRing p f).dies = s.dies := rfl
@[simp] theorem State.modRing_power (s : State) (p : Nat) (f : Ring → Ring) : (s.modRing p f).power = s.power := rfl
@[simp] theorem State.modRing_freeze (s : State) (p : Nat) (f : Ring → Ring) : (s.modRing p f).freeze = s.freeze := rfl
@[simp] theorem State.modRing_deferred (s : State) (p : Nat) (f : Ring → Ring) : (s.modRing p f).deferred = s.deferred := rfl
@[simp] theorem State.modRing_ostlers (s : State) (p : Nat) (f : Ring → Ring) : (s.modRing p f).ostlers = s.ostlers := rfl
@[simp] theorem State.modRing_expiries (s : State) (p : Nat) (f : Ring → Ring) : (s.modRing p f).expiries = s.expiries := rfl
@[simp] theorem State.modRing_remount (s : State) (p : Nat) (f : Ring → Ring) : (s.modRing p f).remount = s.remount := rfl
@[simp] theorem State.modRing_channels (s : State) (p : Nat) (f : Ring → Ring) : (s.modRing p f).channels = s.channels := rfl
@[simp] theorem State.modRing_sheds (s : State) (p : Nat) (f : Ring → Ring) : (s.modRing p f).sheds = s.sheds := rfl
@[simp] theorem State.modRing_turnout (s : State) (p : Nat) (f : Ring → Ring) : (s.modRing p f).turnout = s.turnout := rfl
@[simp] theorem State.modRing_scrubHours (s : State) (p : Nat) (f : Ring → Ring) : (s.modRing p f).scrubHours = s.scrubHours := rfl
@[simp] theorem State.modRing_bus (s : State) (p : Nat) (f : Ring → Ring) : (s.modRing p f).bus = s.bus := rfl
@[simp] theorem State.modRing_tap (s : State) (p : Nat) (f : Ring → Ring) : (s.modRing p f).tap = s.tap := rfl
@[simp] theorem State.modRing_stables (s : State) (p : Nat) (f : Ring → Ring) : (s.modRing p f).stables = s.stables := rfl
@[simp] theorem State.modRing_mem (s : State) (p : Nat) (f : Ring → Ring) : (s.modRing p f).mem = s.mem := rfl
@[simp] theorem State.modRing_bad (s : State) (p : Nat) (f : Ring → Ring) : (s.modRing p f).bad = s.bad := rfl
@[simp] theorem State.modRing_flips (s : State) (p : Nat) (f : Ring → Ring) : (s.modRing p f).flips = s.flips := rfl
@[simp] theorem State.modRing_foreign (s : State) (p : Nat) (f : Ring → Ring) : (s.modRing p f).foreign = s.foreign := rfl
@[simp] theorem State.modRing_pads (s : State) (p : Nat) (f : Ring → Ring) : (s.modRing p f).pads = s.pads.modify p fun d => { d with ring := f d.ring } := rfl
@[simp] theorem State.modRing_ports (s : State) (p : Nat) (f : Ring → Ring) : (s.modRing p f).ports = s.ports := rfl
@[simp] theorem State.modRing_mcl (s : State) (p : Nat) (f : Ring → Ring) : (s.modRing p f).mcl = s.mcl := rfl
@[simp] theorem State.modRing_bridge (s : State) (p : Nat) (f : Ring → Ring) : (s.modRing p f).bridge = s.bridge := rfl

/-! ### State.modDie -/

@[simp] theorem State.modDie_pending (s : State) (n : Nat) (f : Die → Die) : (s.modDie n f).pending = s.pending := rfl
@[simp] theorem State.modDie_free (s : State) (n : Nat) (f : Die → Die) : (s.modDie n f).free = s.free := rfl
@[simp] theorem State.modDie_otp (s : State) (n : Nat) (f : Die → Die) : (s.modDie n f).otp = s.otp := rfl
@[simp] theorem State.modDie_flash (s : State) (n : Nat) (f : Die → Die) : (s.modDie n f).flash = s.flash := rfl
@[simp] theorem State.modDie_cfg (s : State) (n : Nat) (f : Die → Die) : (s.modDie n f).cfg = s.cfg := rfl
@[simp] theorem State.modDie_start (s : State) (n : Nat) (f : Die → Die) : (s.modDie n f).start = s.start := rfl
@[simp] theorem State.modDie_grant (s : State) (n : Nat) (f : Die → Die) : (s.modDie n f).grant = s.grant := rfl
@[simp] theorem State.modDie_dies (s : State) (n : Nat) (f : Die → Die) : (s.modDie n f).dies = s.dies.modify n f := rfl
@[simp] theorem State.modDie_power (s : State) (n : Nat) (f : Die → Die) : (s.modDie n f).power = s.power := rfl
@[simp] theorem State.modDie_freeze (s : State) (n : Nat) (f : Die → Die) : (s.modDie n f).freeze = s.freeze := rfl
@[simp] theorem State.modDie_deferred (s : State) (n : Nat) (f : Die → Die) : (s.modDie n f).deferred = s.deferred := rfl
@[simp] theorem State.modDie_ostlers (s : State) (n : Nat) (f : Die → Die) : (s.modDie n f).ostlers = s.ostlers := rfl
@[simp] theorem State.modDie_expiries (s : State) (n : Nat) (f : Die → Die) : (s.modDie n f).expiries = s.expiries := rfl
@[simp] theorem State.modDie_remount (s : State) (n : Nat) (f : Die → Die) : (s.modDie n f).remount = s.remount := rfl
@[simp] theorem State.modDie_channels (s : State) (n : Nat) (f : Die → Die) : (s.modDie n f).channels = s.channels := rfl
@[simp] theorem State.modDie_sheds (s : State) (n : Nat) (f : Die → Die) : (s.modDie n f).sheds = s.sheds := rfl
@[simp] theorem State.modDie_turnout (s : State) (n : Nat) (f : Die → Die) : (s.modDie n f).turnout = s.turnout := rfl
@[simp] theorem State.modDie_scrubHours (s : State) (n : Nat) (f : Die → Die) : (s.modDie n f).scrubHours = s.scrubHours := rfl
@[simp] theorem State.modDie_bus (s : State) (n : Nat) (f : Die → Die) : (s.modDie n f).bus = s.bus := rfl
@[simp] theorem State.modDie_tap (s : State) (n : Nat) (f : Die → Die) : (s.modDie n f).tap = s.tap := rfl
@[simp] theorem State.modDie_stables (s : State) (n : Nat) (f : Die → Die) : (s.modDie n f).stables = s.stables := rfl
@[simp] theorem State.modDie_mem (s : State) (n : Nat) (f : Die → Die) : (s.modDie n f).mem = s.mem := rfl
@[simp] theorem State.modDie_bad (s : State) (n : Nat) (f : Die → Die) : (s.modDie n f).bad = s.bad := rfl
@[simp] theorem State.modDie_flips (s : State) (n : Nat) (f : Die → Die) : (s.modDie n f).flips = s.flips := rfl
@[simp] theorem State.modDie_foreign (s : State) (n : Nat) (f : Die → Die) : (s.modDie n f).foreign = s.foreign := rfl
@[simp] theorem State.modDie_pads (s : State) (n : Nat) (f : Die → Die) : (s.modDie n f).pads = s.pads := rfl
@[simp] theorem State.modDie_ports (s : State) (n : Nat) (f : Die → Die) : (s.modDie n f).ports = s.ports := rfl
@[simp] theorem State.modDie_mcl (s : State) (n : Nat) (f : Die → Die) : (s.modDie n f).mcl = s.mcl := rfl
@[simp] theorem State.modDie_bridge (s : State) (n : Nat) (f : Die → Die) : (s.modDie n f).bridge = s.bridge := rfl

/-! ### State.modOstler -/

@[simp] theorem State.modOstler_pending (s : State) (n : Nat) (f : Ostler → Ostler) : (s.modOstler n f).pending = s.pending := rfl
@[simp] theorem State.modOstler_free (s : State) (n : Nat) (f : Ostler → Ostler) : (s.modOstler n f).free = s.free := rfl
@[simp] theorem State.modOstler_otp (s : State) (n : Nat) (f : Ostler → Ostler) : (s.modOstler n f).otp = s.otp := rfl
@[simp] theorem State.modOstler_flash (s : State) (n : Nat) (f : Ostler → Ostler) : (s.modOstler n f).flash = s.flash := rfl
@[simp] theorem State.modOstler_cfg (s : State) (n : Nat) (f : Ostler → Ostler) : (s.modOstler n f).cfg = s.cfg := rfl
@[simp] theorem State.modOstler_start (s : State) (n : Nat) (f : Ostler → Ostler) : (s.modOstler n f).start = s.start := rfl
@[simp] theorem State.modOstler_grant (s : State) (n : Nat) (f : Ostler → Ostler) : (s.modOstler n f).grant = s.grant := rfl
@[simp] theorem State.modOstler_dies (s : State) (n : Nat) (f : Ostler → Ostler) : (s.modOstler n f).dies = s.dies := rfl
@[simp] theorem State.modOstler_power (s : State) (n : Nat) (f : Ostler → Ostler) : (s.modOstler n f).power = s.power := rfl
@[simp] theorem State.modOstler_freeze (s : State) (n : Nat) (f : Ostler → Ostler) : (s.modOstler n f).freeze = s.freeze := rfl
@[simp] theorem State.modOstler_deferred (s : State) (n : Nat) (f : Ostler → Ostler) : (s.modOstler n f).deferred = s.deferred := rfl
@[simp] theorem State.modOstler_ostlers (s : State) (n : Nat) (f : Ostler → Ostler) : (s.modOstler n f).ostlers = s.ostlers.modify n f := rfl
@[simp] theorem State.modOstler_expiries (s : State) (n : Nat) (f : Ostler → Ostler) : (s.modOstler n f).expiries = s.expiries := rfl
@[simp] theorem State.modOstler_remount (s : State) (n : Nat) (f : Ostler → Ostler) : (s.modOstler n f).remount = s.remount := rfl
@[simp] theorem State.modOstler_channels (s : State) (n : Nat) (f : Ostler → Ostler) : (s.modOstler n f).channels = s.channels := rfl
@[simp] theorem State.modOstler_sheds (s : State) (n : Nat) (f : Ostler → Ostler) : (s.modOstler n f).sheds = s.sheds := rfl
@[simp] theorem State.modOstler_turnout (s : State) (n : Nat) (f : Ostler → Ostler) : (s.modOstler n f).turnout = s.turnout := rfl
@[simp] theorem State.modOstler_scrubHours (s : State) (n : Nat) (f : Ostler → Ostler) : (s.modOstler n f).scrubHours = s.scrubHours := rfl
@[simp] theorem State.modOstler_bus (s : State) (n : Nat) (f : Ostler → Ostler) : (s.modOstler n f).bus = s.bus := rfl
@[simp] theorem State.modOstler_tap (s : State) (n : Nat) (f : Ostler → Ostler) : (s.modOstler n f).tap = s.tap := rfl
@[simp] theorem State.modOstler_stables (s : State) (n : Nat) (f : Ostler → Ostler) : (s.modOstler n f).stables = s.stables := rfl
@[simp] theorem State.modOstler_mem (s : State) (n : Nat) (f : Ostler → Ostler) : (s.modOstler n f).mem = s.mem := rfl
@[simp] theorem State.modOstler_bad (s : State) (n : Nat) (f : Ostler → Ostler) : (s.modOstler n f).bad = s.bad := rfl
@[simp] theorem State.modOstler_flips (s : State) (n : Nat) (f : Ostler → Ostler) : (s.modOstler n f).flips = s.flips := rfl
@[simp] theorem State.modOstler_foreign (s : State) (n : Nat) (f : Ostler → Ostler) : (s.modOstler n f).foreign = s.foreign := rfl
@[simp] theorem State.modOstler_pads (s : State) (n : Nat) (f : Ostler → Ostler) : (s.modOstler n f).pads = s.pads := rfl
@[simp] theorem State.modOstler_ports (s : State) (n : Nat) (f : Ostler → Ostler) : (s.modOstler n f).ports = s.ports := rfl
@[simp] theorem State.modOstler_mcl (s : State) (n : Nat) (f : Ostler → Ostler) : (s.modOstler n f).mcl = s.mcl := rfl
@[simp] theorem State.modOstler_bridge (s : State) (n : Nat) (f : Ostler → Ostler) : (s.modOstler n f).bridge = s.bridge := rfl

/-! ### State.modChannel -/

@[simp] theorem State.modChannel_pending (s : State) (n : Nat) (f : Channel → Channel) : (s.modChannel n f).pending = s.pending := rfl
@[simp] theorem State.modChannel_free (s : State) (n : Nat) (f : Channel → Channel) : (s.modChannel n f).free = s.free := rfl
@[simp] theorem State.modChannel_otp (s : State) (n : Nat) (f : Channel → Channel) : (s.modChannel n f).otp = s.otp := rfl
@[simp] theorem State.modChannel_flash (s : State) (n : Nat) (f : Channel → Channel) : (s.modChannel n f).flash = s.flash := rfl
@[simp] theorem State.modChannel_cfg (s : State) (n : Nat) (f : Channel → Channel) : (s.modChannel n f).cfg = s.cfg := rfl
@[simp] theorem State.modChannel_start (s : State) (n : Nat) (f : Channel → Channel) : (s.modChannel n f).start = s.start := rfl
@[simp] theorem State.modChannel_grant (s : State) (n : Nat) (f : Channel → Channel) : (s.modChannel n f).grant = s.grant := rfl
@[simp] theorem State.modChannel_dies (s : State) (n : Nat) (f : Channel → Channel) : (s.modChannel n f).dies = s.dies := rfl
@[simp] theorem State.modChannel_power (s : State) (n : Nat) (f : Channel → Channel) : (s.modChannel n f).power = s.power := rfl
@[simp] theorem State.modChannel_freeze (s : State) (n : Nat) (f : Channel → Channel) : (s.modChannel n f).freeze = s.freeze := rfl
@[simp] theorem State.modChannel_deferred (s : State) (n : Nat) (f : Channel → Channel) : (s.modChannel n f).deferred = s.deferred := rfl
@[simp] theorem State.modChannel_ostlers (s : State) (n : Nat) (f : Channel → Channel) : (s.modChannel n f).ostlers = s.ostlers := rfl
@[simp] theorem State.modChannel_expiries (s : State) (n : Nat) (f : Channel → Channel) : (s.modChannel n f).expiries = s.expiries := rfl
@[simp] theorem State.modChannel_remount (s : State) (n : Nat) (f : Channel → Channel) : (s.modChannel n f).remount = s.remount := rfl
@[simp] theorem State.modChannel_channels (s : State) (n : Nat) (f : Channel → Channel) : (s.modChannel n f).channels = s.channels.modify n f := rfl
@[simp] theorem State.modChannel_sheds (s : State) (n : Nat) (f : Channel → Channel) : (s.modChannel n f).sheds = s.sheds := rfl
@[simp] theorem State.modChannel_turnout (s : State) (n : Nat) (f : Channel → Channel) : (s.modChannel n f).turnout = s.turnout := rfl
@[simp] theorem State.modChannel_scrubHours (s : State) (n : Nat) (f : Channel → Channel) : (s.modChannel n f).scrubHours = s.scrubHours := rfl
@[simp] theorem State.modChannel_bus (s : State) (n : Nat) (f : Channel → Channel) : (s.modChannel n f).bus = s.bus := rfl
@[simp] theorem State.modChannel_tap (s : State) (n : Nat) (f : Channel → Channel) : (s.modChannel n f).tap = s.tap := rfl
@[simp] theorem State.modChannel_stables (s : State) (n : Nat) (f : Channel → Channel) : (s.modChannel n f).stables = s.stables := rfl
@[simp] theorem State.modChannel_mem (s : State) (n : Nat) (f : Channel → Channel) : (s.modChannel n f).mem = s.mem := rfl
@[simp] theorem State.modChannel_bad (s : State) (n : Nat) (f : Channel → Channel) : (s.modChannel n f).bad = s.bad := rfl
@[simp] theorem State.modChannel_flips (s : State) (n : Nat) (f : Channel → Channel) : (s.modChannel n f).flips = s.flips := rfl
@[simp] theorem State.modChannel_foreign (s : State) (n : Nat) (f : Channel → Channel) : (s.modChannel n f).foreign = s.foreign := rfl
@[simp] theorem State.modChannel_pads (s : State) (n : Nat) (f : Channel → Channel) : (s.modChannel n f).pads = s.pads := rfl
@[simp] theorem State.modChannel_ports (s : State) (n : Nat) (f : Channel → Channel) : (s.modChannel n f).ports = s.ports := rfl
@[simp] theorem State.modChannel_mcl (s : State) (n : Nat) (f : Channel → Channel) : (s.modChannel n f).mcl = s.mcl := rfl
@[simp] theorem State.modChannel_bridge (s : State) (n : Nat) (f : Channel → Channel) : (s.modChannel n f).bridge = s.bridge := rfl

/-! ### State.modShed -/

@[simp] theorem State.modShed_pending (s : State) (n : Nat) (f : Shed → Shed) : (s.modShed n f).pending = s.pending := rfl
@[simp] theorem State.modShed_free (s : State) (n : Nat) (f : Shed → Shed) : (s.modShed n f).free = s.free := rfl
@[simp] theorem State.modShed_otp (s : State) (n : Nat) (f : Shed → Shed) : (s.modShed n f).otp = s.otp := rfl
@[simp] theorem State.modShed_flash (s : State) (n : Nat) (f : Shed → Shed) : (s.modShed n f).flash = s.flash := rfl
@[simp] theorem State.modShed_cfg (s : State) (n : Nat) (f : Shed → Shed) : (s.modShed n f).cfg = s.cfg := rfl
@[simp] theorem State.modShed_start (s : State) (n : Nat) (f : Shed → Shed) : (s.modShed n f).start = s.start := rfl
@[simp] theorem State.modShed_grant (s : State) (n : Nat) (f : Shed → Shed) : (s.modShed n f).grant = s.grant := rfl
@[simp] theorem State.modShed_dies (s : State) (n : Nat) (f : Shed → Shed) : (s.modShed n f).dies = s.dies := rfl
@[simp] theorem State.modShed_power (s : State) (n : Nat) (f : Shed → Shed) : (s.modShed n f).power = s.power := rfl
@[simp] theorem State.modShed_freeze (s : State) (n : Nat) (f : Shed → Shed) : (s.modShed n f).freeze = s.freeze := rfl
@[simp] theorem State.modShed_deferred (s : State) (n : Nat) (f : Shed → Shed) : (s.modShed n f).deferred = s.deferred := rfl
@[simp] theorem State.modShed_ostlers (s : State) (n : Nat) (f : Shed → Shed) : (s.modShed n f).ostlers = s.ostlers := rfl
@[simp] theorem State.modShed_expiries (s : State) (n : Nat) (f : Shed → Shed) : (s.modShed n f).expiries = s.expiries := rfl
@[simp] theorem State.modShed_remount (s : State) (n : Nat) (f : Shed → Shed) : (s.modShed n f).remount = s.remount := rfl
@[simp] theorem State.modShed_channels (s : State) (n : Nat) (f : Shed → Shed) : (s.modShed n f).channels = s.channels := rfl
@[simp] theorem State.modShed_sheds (s : State) (n : Nat) (f : Shed → Shed) : (s.modShed n f).sheds = s.sheds.modify n f := rfl
@[simp] theorem State.modShed_turnout (s : State) (n : Nat) (f : Shed → Shed) : (s.modShed n f).turnout = s.turnout := rfl
@[simp] theorem State.modShed_scrubHours (s : State) (n : Nat) (f : Shed → Shed) : (s.modShed n f).scrubHours = s.scrubHours := rfl
@[simp] theorem State.modShed_bus (s : State) (n : Nat) (f : Shed → Shed) : (s.modShed n f).bus = s.bus := rfl
@[simp] theorem State.modShed_tap (s : State) (n : Nat) (f : Shed → Shed) : (s.modShed n f).tap = s.tap := rfl
@[simp] theorem State.modShed_stables (s : State) (n : Nat) (f : Shed → Shed) : (s.modShed n f).stables = s.stables := rfl
@[simp] theorem State.modShed_mem (s : State) (n : Nat) (f : Shed → Shed) : (s.modShed n f).mem = s.mem := rfl
@[simp] theorem State.modShed_bad (s : State) (n : Nat) (f : Shed → Shed) : (s.modShed n f).bad = s.bad := rfl
@[simp] theorem State.modShed_flips (s : State) (n : Nat) (f : Shed → Shed) : (s.modShed n f).flips = s.flips := rfl
@[simp] theorem State.modShed_foreign (s : State) (n : Nat) (f : Shed → Shed) : (s.modShed n f).foreign = s.foreign := rfl
@[simp] theorem State.modShed_pads (s : State) (n : Nat) (f : Shed → Shed) : (s.modShed n f).pads = s.pads := rfl
@[simp] theorem State.modShed_ports (s : State) (n : Nat) (f : Shed → Shed) : (s.modShed n f).ports = s.ports := rfl
@[simp] theorem State.modShed_mcl (s : State) (n : Nat) (f : Shed → Shed) : (s.modShed n f).mcl = s.mcl := rfl
@[simp] theorem State.modShed_bridge (s : State) (n : Nat) (f : Shed → Shed) : (s.modShed n f).bridge = s.bridge := rfl

/-! ### State.modStable -/

@[simp] theorem State.modStable_pending (s : State) (n : Nat) (f : Stable → Stable) : (s.modStable n f).pending = s.pending := rfl
@[simp] theorem State.modStable_free (s : State) (n : Nat) (f : Stable → Stable) : (s.modStable n f).free = s.free := rfl
@[simp] theorem State.modStable_otp (s : State) (n : Nat) (f : Stable → Stable) : (s.modStable n f).otp = s.otp := rfl
@[simp] theorem State.modStable_flash (s : State) (n : Nat) (f : Stable → Stable) : (s.modStable n f).flash = s.flash := rfl
@[simp] theorem State.modStable_cfg (s : State) (n : Nat) (f : Stable → Stable) : (s.modStable n f).cfg = s.cfg := rfl
@[simp] theorem State.modStable_start (s : State) (n : Nat) (f : Stable → Stable) : (s.modStable n f).start = s.start := rfl
@[simp] theorem State.modStable_grant (s : State) (n : Nat) (f : Stable → Stable) : (s.modStable n f).grant = s.grant := rfl
@[simp] theorem State.modStable_dies (s : State) (n : Nat) (f : Stable → Stable) : (s.modStable n f).dies = s.dies := rfl
@[simp] theorem State.modStable_power (s : State) (n : Nat) (f : Stable → Stable) : (s.modStable n f).power = s.power := rfl
@[simp] theorem State.modStable_freeze (s : State) (n : Nat) (f : Stable → Stable) : (s.modStable n f).freeze = s.freeze := rfl
@[simp] theorem State.modStable_deferred (s : State) (n : Nat) (f : Stable → Stable) : (s.modStable n f).deferred = s.deferred := rfl
@[simp] theorem State.modStable_ostlers (s : State) (n : Nat) (f : Stable → Stable) : (s.modStable n f).ostlers = s.ostlers := rfl
@[simp] theorem State.modStable_expiries (s : State) (n : Nat) (f : Stable → Stable) : (s.modStable n f).expiries = s.expiries := rfl
@[simp] theorem State.modStable_remount (s : State) (n : Nat) (f : Stable → Stable) : (s.modStable n f).remount = s.remount := rfl
@[simp] theorem State.modStable_channels (s : State) (n : Nat) (f : Stable → Stable) : (s.modStable n f).channels = s.channels := rfl
@[simp] theorem State.modStable_sheds (s : State) (n : Nat) (f : Stable → Stable) : (s.modStable n f).sheds = s.sheds := rfl
@[simp] theorem State.modStable_turnout (s : State) (n : Nat) (f : Stable → Stable) : (s.modStable n f).turnout = s.turnout := rfl
@[simp] theorem State.modStable_scrubHours (s : State) (n : Nat) (f : Stable → Stable) : (s.modStable n f).scrubHours = s.scrubHours := rfl
@[simp] theorem State.modStable_bus (s : State) (n : Nat) (f : Stable → Stable) : (s.modStable n f).bus = s.bus := rfl
@[simp] theorem State.modStable_tap (s : State) (n : Nat) (f : Stable → Stable) : (s.modStable n f).tap = s.tap := rfl
@[simp] theorem State.modStable_stables (s : State) (n : Nat) (f : Stable → Stable) : (s.modStable n f).stables = s.stables.modify n f := rfl
@[simp] theorem State.modStable_mem (s : State) (n : Nat) (f : Stable → Stable) : (s.modStable n f).mem = s.mem := rfl
@[simp] theorem State.modStable_bad (s : State) (n : Nat) (f : Stable → Stable) : (s.modStable n f).bad = s.bad := rfl
@[simp] theorem State.modStable_flips (s : State) (n : Nat) (f : Stable → Stable) : (s.modStable n f).flips = s.flips := rfl
@[simp] theorem State.modStable_foreign (s : State) (n : Nat) (f : Stable → Stable) : (s.modStable n f).foreign = s.foreign := rfl
@[simp] theorem State.modStable_pads (s : State) (n : Nat) (f : Stable → Stable) : (s.modStable n f).pads = s.pads := rfl
@[simp] theorem State.modStable_ports (s : State) (n : Nat) (f : Stable → Stable) : (s.modStable n f).ports = s.ports := rfl
@[simp] theorem State.modStable_mcl (s : State) (n : Nat) (f : Stable → Stable) : (s.modStable n f).mcl = s.mcl := rfl
@[simp] theorem State.modStable_bridge (s : State) (n : Nat) (f : Stable → Stable) : (s.modStable n f).bridge = s.bridge := rfl

/-! ### State.modPort -/

@[simp] theorem State.modPort_pending (s : State) (n : Nat) (f : Port → Port) : (s.modPort n f).pending = s.pending := rfl
@[simp] theorem State.modPort_free (s : State) (n : Nat) (f : Port → Port) : (s.modPort n f).free = s.free := rfl
@[simp] theorem State.modPort_otp (s : State) (n : Nat) (f : Port → Port) : (s.modPort n f).otp = s.otp := rfl
@[simp] theorem State.modPort_flash (s : State) (n : Nat) (f : Port → Port) : (s.modPort n f).flash = s.flash := rfl
@[simp] theorem State.modPort_cfg (s : State) (n : Nat) (f : Port → Port) : (s.modPort n f).cfg = s.cfg := rfl
@[simp] theorem State.modPort_start (s : State) (n : Nat) (f : Port → Port) : (s.modPort n f).start = s.start := rfl
@[simp] theorem State.modPort_grant (s : State) (n : Nat) (f : Port → Port) : (s.modPort n f).grant = s.grant := rfl
@[simp] theorem State.modPort_dies (s : State) (n : Nat) (f : Port → Port) : (s.modPort n f).dies = s.dies := rfl
@[simp] theorem State.modPort_power (s : State) (n : Nat) (f : Port → Port) : (s.modPort n f).power = s.power := rfl
@[simp] theorem State.modPort_freeze (s : State) (n : Nat) (f : Port → Port) : (s.modPort n f).freeze = s.freeze := rfl
@[simp] theorem State.modPort_deferred (s : State) (n : Nat) (f : Port → Port) : (s.modPort n f).deferred = s.deferred := rfl
@[simp] theorem State.modPort_ostlers (s : State) (n : Nat) (f : Port → Port) : (s.modPort n f).ostlers = s.ostlers := rfl
@[simp] theorem State.modPort_expiries (s : State) (n : Nat) (f : Port → Port) : (s.modPort n f).expiries = s.expiries := rfl
@[simp] theorem State.modPort_remount (s : State) (n : Nat) (f : Port → Port) : (s.modPort n f).remount = s.remount := rfl
@[simp] theorem State.modPort_channels (s : State) (n : Nat) (f : Port → Port) : (s.modPort n f).channels = s.channels := rfl
@[simp] theorem State.modPort_sheds (s : State) (n : Nat) (f : Port → Port) : (s.modPort n f).sheds = s.sheds := rfl
@[simp] theorem State.modPort_turnout (s : State) (n : Nat) (f : Port → Port) : (s.modPort n f).turnout = s.turnout := rfl
@[simp] theorem State.modPort_scrubHours (s : State) (n : Nat) (f : Port → Port) : (s.modPort n f).scrubHours = s.scrubHours := rfl
@[simp] theorem State.modPort_bus (s : State) (n : Nat) (f : Port → Port) : (s.modPort n f).bus = s.bus := rfl
@[simp] theorem State.modPort_tap (s : State) (n : Nat) (f : Port → Port) : (s.modPort n f).tap = s.tap := rfl
@[simp] theorem State.modPort_stables (s : State) (n : Nat) (f : Port → Port) : (s.modPort n f).stables = s.stables := rfl
@[simp] theorem State.modPort_mem (s : State) (n : Nat) (f : Port → Port) : (s.modPort n f).mem = s.mem := rfl
@[simp] theorem State.modPort_bad (s : State) (n : Nat) (f : Port → Port) : (s.modPort n f).bad = s.bad := rfl
@[simp] theorem State.modPort_flips (s : State) (n : Nat) (f : Port → Port) : (s.modPort n f).flips = s.flips := rfl
@[simp] theorem State.modPort_foreign (s : State) (n : Nat) (f : Port → Port) : (s.modPort n f).foreign = s.foreign := rfl
@[simp] theorem State.modPort_pads (s : State) (n : Nat) (f : Port → Port) : (s.modPort n f).pads = s.pads := rfl
@[simp] theorem State.modPort_ports (s : State) (n : Nat) (f : Port → Port) : (s.modPort n f).ports = s.ports.modify n f := rfl
@[simp] theorem State.modPort_mcl (s : State) (n : Nat) (f : Port → Port) : (s.modPort n f).mcl = s.mcl := rfl
@[simp] theorem State.modPort_bridge (s : State) (n : Nat) (f : Port → Port) : (s.modPort n f).bridge = s.bridge := rfl

/-! ### State.modMcl -/

@[simp] theorem State.modMcl_pending (s : State) (f : Mcl → Mcl) : (s.modMcl f).pending = s.pending := rfl
@[simp] theorem State.modMcl_free (s : State) (f : Mcl → Mcl) : (s.modMcl f).free = s.free := rfl
@[simp] theorem State.modMcl_otp (s : State) (f : Mcl → Mcl) : (s.modMcl f).otp = s.otp := rfl
@[simp] theorem State.modMcl_flash (s : State) (f : Mcl → Mcl) : (s.modMcl f).flash = s.flash := rfl
@[simp] theorem State.modMcl_cfg (s : State) (f : Mcl → Mcl) : (s.modMcl f).cfg = s.cfg := rfl
@[simp] theorem State.modMcl_start (s : State) (f : Mcl → Mcl) : (s.modMcl f).start = s.start := rfl
@[simp] theorem State.modMcl_grant (s : State) (f : Mcl → Mcl) : (s.modMcl f).grant = s.grant := rfl
@[simp] theorem State.modMcl_dies (s : State) (f : Mcl → Mcl) : (s.modMcl f).dies = s.dies := rfl
@[simp] theorem State.modMcl_power (s : State) (f : Mcl → Mcl) : (s.modMcl f).power = s.power := rfl
@[simp] theorem State.modMcl_freeze (s : State) (f : Mcl → Mcl) : (s.modMcl f).freeze = s.freeze := rfl
@[simp] theorem State.modMcl_deferred (s : State) (f : Mcl → Mcl) : (s.modMcl f).deferred = s.deferred := rfl
@[simp] theorem State.modMcl_ostlers (s : State) (f : Mcl → Mcl) : (s.modMcl f).ostlers = s.ostlers := rfl
@[simp] theorem State.modMcl_expiries (s : State) (f : Mcl → Mcl) : (s.modMcl f).expiries = s.expiries := rfl
@[simp] theorem State.modMcl_remount (s : State) (f : Mcl → Mcl) : (s.modMcl f).remount = s.remount := rfl
@[simp] theorem State.modMcl_channels (s : State) (f : Mcl → Mcl) : (s.modMcl f).channels = s.channels := rfl
@[simp] theorem State.modMcl_sheds (s : State) (f : Mcl → Mcl) : (s.modMcl f).sheds = s.sheds := rfl
@[simp] theorem State.modMcl_turnout (s : State) (f : Mcl → Mcl) : (s.modMcl f).turnout = s.turnout := rfl
@[simp] theorem State.modMcl_scrubHours (s : State) (f : Mcl → Mcl) : (s.modMcl f).scrubHours = s.scrubHours := rfl
@[simp] theorem State.modMcl_bus (s : State) (f : Mcl → Mcl) : (s.modMcl f).bus = s.bus := rfl
@[simp] theorem State.modMcl_tap (s : State) (f : Mcl → Mcl) : (s.modMcl f).tap = s.tap := rfl
@[simp] theorem State.modMcl_stables (s : State) (f : Mcl → Mcl) : (s.modMcl f).stables = s.stables := rfl
@[simp] theorem State.modMcl_mem (s : State) (f : Mcl → Mcl) : (s.modMcl f).mem = s.mem := rfl
@[simp] theorem State.modMcl_bad (s : State) (f : Mcl → Mcl) : (s.modMcl f).bad = s.bad := rfl
@[simp] theorem State.modMcl_flips (s : State) (f : Mcl → Mcl) : (s.modMcl f).flips = s.flips := rfl
@[simp] theorem State.modMcl_foreign (s : State) (f : Mcl → Mcl) : (s.modMcl f).foreign = s.foreign := rfl
@[simp] theorem State.modMcl_pads (s : State) (f : Mcl → Mcl) : (s.modMcl f).pads = s.pads := rfl
@[simp] theorem State.modMcl_ports (s : State) (f : Mcl → Mcl) : (s.modMcl f).ports = s.ports := rfl
@[simp] theorem State.modMcl_mcl (s : State) (f : Mcl → Mcl) : (s.modMcl f).mcl = f s.mcl := rfl
@[simp] theorem State.modMcl_bridge (s : State) (f : Mcl → Mcl) : (s.modMcl f).bridge = s.bridge := rfl

/-! ### State.wr -/

@[simp] theorem State.wr_pending (s : State) (a : Nat) (bs : List Byte) : (s.wr a bs).pending = s.pending := rfl
@[simp] theorem State.wr_free (s : State) (a : Nat) (bs : List Byte) : (s.wr a bs).free = s.free := rfl
@[simp] theorem State.wr_otp (s : State) (a : Nat) (bs : List Byte) : (s.wr a bs).otp = s.otp := rfl
@[simp] theorem State.wr_flash (s : State) (a : Nat) (bs : List Byte) : (s.wr a bs).flash = s.flash := rfl
@[simp] theorem State.wr_cfg (s : State) (a : Nat) (bs : List Byte) : (s.wr a bs).cfg = s.cfg := rfl
@[simp] theorem State.wr_start (s : State) (a : Nat) (bs : List Byte) : (s.wr a bs).start = s.start := rfl
@[simp] theorem State.wr_grant (s : State) (a : Nat) (bs : List Byte) : (s.wr a bs).grant = s.grant := rfl
@[simp] theorem State.wr_dies (s : State) (a : Nat) (bs : List Byte) : (s.wr a bs).dies = s.dies := rfl
@[simp] theorem State.wr_power (s : State) (a : Nat) (bs : List Byte) : (s.wr a bs).power = s.power := rfl
@[simp] theorem State.wr_freeze (s : State) (a : Nat) (bs : List Byte) : (s.wr a bs).freeze = s.freeze := rfl
@[simp] theorem State.wr_deferred (s : State) (a : Nat) (bs : List Byte) : (s.wr a bs).deferred = s.deferred := rfl
@[simp] theorem State.wr_ostlers (s : State) (a : Nat) (bs : List Byte) : (s.wr a bs).ostlers = s.ostlers := rfl
@[simp] theorem State.wr_expiries (s : State) (a : Nat) (bs : List Byte) : (s.wr a bs).expiries = s.expiries := rfl
@[simp] theorem State.wr_remount (s : State) (a : Nat) (bs : List Byte) : (s.wr a bs).remount = s.remount := rfl
@[simp] theorem State.wr_channels (s : State) (a : Nat) (bs : List Byte) : (s.wr a bs).channels = s.channels := rfl
@[simp] theorem State.wr_sheds (s : State) (a : Nat) (bs : List Byte) : (s.wr a bs).sheds = s.sheds := rfl
@[simp] theorem State.wr_turnout (s : State) (a : Nat) (bs : List Byte) : (s.wr a bs).turnout = s.turnout := rfl
@[simp] theorem State.wr_scrubHours (s : State) (a : Nat) (bs : List Byte) : (s.wr a bs).scrubHours = s.scrubHours := rfl
@[simp] theorem State.wr_bus (s : State) (a : Nat) (bs : List Byte) : (s.wr a bs).bus = s.bus := rfl
@[simp] theorem State.wr_tap (s : State) (a : Nat) (bs : List Byte) : (s.wr a bs).tap = s.tap := rfl
@[simp] theorem State.wr_stables (s : State) (a : Nat) (bs : List Byte) : (s.wr a bs).stables = s.stables := rfl
@[simp] theorem State.wr_mem (s : State) (a : Nat) (bs : List Byte) : (s.wr a bs).mem = memWrite s.mem a bs := rfl
@[simp] theorem State.wr_bad (s : State) (a : Nat) (bs : List Byte) : (s.wr a bs).bad = s.bad := rfl
@[simp] theorem State.wr_flips (s : State) (a : Nat) (bs : List Byte) : (s.wr a bs).flips = s.flips := rfl
@[simp] theorem State.wr_foreign (s : State) (a : Nat) (bs : List Byte) : (s.wr a bs).foreign = s.foreign := rfl
@[simp] theorem State.wr_pads (s : State) (a : Nat) (bs : List Byte) : (s.wr a bs).pads = s.pads := rfl
@[simp] theorem State.wr_ports (s : State) (a : Nat) (bs : List Byte) : (s.wr a bs).ports = s.ports := rfl
@[simp] theorem State.wr_mcl (s : State) (a : Nat) (bs : List Byte) : (s.wr a bs).mcl = s.mcl := rfl
@[simp] theorem State.wr_bridge (s : State) (a : Nat) (bs : List Byte) : (s.wr a bs).bridge = s.bridge := rfl

/-! ### State.wrComp -/

@[simp] theorem State.wrComp_pending (s : State) (a : Nat) (bs : List Byte) : (s.wrComp a bs).pending = s.pending := rfl
@[simp] theorem State.wrComp_free (s : State) (a : Nat) (bs : List Byte) : (s.wrComp a bs).free = s.free := rfl
@[simp] theorem State.wrComp_otp (s : State) (a : Nat) (bs : List Byte) : (s.wrComp a bs).otp = s.otp := rfl
@[simp] theorem State.wrComp_flash (s : State) (a : Nat) (bs : List Byte) : (s.wrComp a bs).flash = s.flash := rfl
@[simp] theorem State.wrComp_cfg (s : State) (a : Nat) (bs : List Byte) : (s.wrComp a bs).cfg = s.cfg := rfl
@[simp] theorem State.wrComp_start (s : State) (a : Nat) (bs : List Byte) : (s.wrComp a bs).start = s.start := rfl
@[simp] theorem State.wrComp_grant (s : State) (a : Nat) (bs : List Byte) : (s.wrComp a bs).grant = s.grant := rfl
@[simp] theorem State.wrComp_dies (s : State) (a : Nat) (bs : List Byte) : (s.wrComp a bs).dies = s.dies := rfl
@[simp] theorem State.wrComp_power (s : State) (a : Nat) (bs : List Byte) : (s.wrComp a bs).power = s.power := rfl
@[simp] theorem State.wrComp_freeze (s : State) (a : Nat) (bs : List Byte) : (s.wrComp a bs).freeze = s.freeze := rfl
@[simp] theorem State.wrComp_deferred (s : State) (a : Nat) (bs : List Byte) : (s.wrComp a bs).deferred = s.deferred := rfl
@[simp] theorem State.wrComp_ostlers (s : State) (a : Nat) (bs : List Byte) : (s.wrComp a bs).ostlers = s.ostlers := rfl
@[simp] theorem State.wrComp_expiries (s : State) (a : Nat) (bs : List Byte) : (s.wrComp a bs).expiries = s.expiries := rfl
@[simp] theorem State.wrComp_remount (s : State) (a : Nat) (bs : List Byte) : (s.wrComp a bs).remount = s.remount := rfl
@[simp] theorem State.wrComp_channels (s : State) (a : Nat) (bs : List Byte) : (s.wrComp a bs).channels = s.channels := rfl
@[simp] theorem State.wrComp_sheds (s : State) (a : Nat) (bs : List Byte) : (s.wrComp a bs).sheds = s.sheds := rfl
@[simp] theorem State.wrComp_turnout (s : State) (a : Nat) (bs : List Byte) : (s.wrComp a bs).turnout = s.turnout := rfl
@[simp] theorem State.wrComp_scrubHours (s : State) (a : Nat) (bs : List Byte) : (s.wrComp a bs).scrubHours = s.scrubHours := rfl
@[simp] theorem State.wrComp_bus (s : State) (a : Nat) (bs : List Byte) : (s.wrComp a bs).bus = s.bus := rfl
@[simp] theorem State.wrComp_tap (s : State) (a : Nat) (bs : List Byte) : (s.wrComp a bs).tap = s.tap := rfl
@[simp] theorem State.wrComp_stables (s : State) (a : Nat) (bs : List Byte) : (s.wrComp a bs).stables = s.stables := rfl
@[simp] theorem State.wrComp_mem (s : State) (a : Nat) (bs : List Byte) : (s.wrComp a bs).mem = memWrite s.mem (windowBase + a) bs := rfl
@[simp] theorem State.wrComp_bad (s : State) (a : Nat) (bs : List Byte) : (s.wrComp a bs).bad = s.bad := rfl
@[simp] theorem State.wrComp_flips (s : State) (a : Nat) (bs : List Byte) : (s.wrComp a bs).flips = s.flips := rfl
@[simp] theorem State.wrComp_foreign (s : State) (a : Nat) (bs : List Byte) : (s.wrComp a bs).foreign = s.foreign := rfl
@[simp] theorem State.wrComp_pads (s : State) (a : Nat) (bs : List Byte) : (s.wrComp a bs).pads = s.pads := rfl
@[simp] theorem State.wrComp_ports (s : State) (a : Nat) (bs : List Byte) : (s.wrComp a bs).ports = s.ports := rfl
@[simp] theorem State.wrComp_mcl (s : State) (a : Nat) (bs : List Byte) : (s.wrComp a bs).mcl = s.mcl := rfl
@[simp] theorem State.wrComp_bridge (s : State) (a : Nat) (bs : List Byte) : (s.wrComp a bs).bridge = s.bridge := rfl

/-! ### State.request -/

@[simp] theorem State.request_pending (s : State) (k : ReqKind) (op addr count aux : Nat) (data : List (List Byte)) : (s.request k op addr count aux data).pending = s.pending := rfl
@[simp] theorem State.request_free (s : State) (k : ReqKind) (op addr count aux : Nat) (data : List (List Byte)) : (s.request k op addr count aux data).free = s.free := rfl
@[simp] theorem State.request_otp (s : State) (k : ReqKind) (op addr count aux : Nat) (data : List (List Byte)) : (s.request k op addr count aux data).otp = s.otp := rfl
@[simp] theorem State.request_flash (s : State) (k : ReqKind) (op addr count aux : Nat) (data : List (List Byte)) : (s.request k op addr count aux data).flash = s.flash := rfl
@[simp] theorem State.request_cfg (s : State) (k : ReqKind) (op addr count aux : Nat) (data : List (List Byte)) : (s.request k op addr count aux data).cfg = s.cfg := rfl
@[simp] theorem State.request_start (s : State) (k : ReqKind) (op addr count aux : Nat) (data : List (List Byte)) : (s.request k op addr count aux data).start = s.start := rfl
@[simp] theorem State.request_grant (s : State) (k : ReqKind) (op addr count aux : Nat) (data : List (List Byte)) : (s.request k op addr count aux data).grant = s.grant := rfl
@[simp] theorem State.request_dies (s : State) (k : ReqKind) (op addr count aux : Nat) (data : List (List Byte)) : (s.request k op addr count aux data).dies = s.dies := rfl
@[simp] theorem State.request_power (s : State) (k : ReqKind) (op addr count aux : Nat) (data : List (List Byte)) : (s.request k op addr count aux data).power = s.power := rfl
@[simp] theorem State.request_freeze (s : State) (k : ReqKind) (op addr count aux : Nat) (data : List (List Byte)) : (s.request k op addr count aux data).freeze = s.freeze := rfl
@[simp] theorem State.request_deferred (s : State) (k : ReqKind) (op addr count aux : Nat) (data : List (List Byte)) : (s.request k op addr count aux data).deferred = s.deferred := rfl
@[simp] theorem State.request_ostlers (s : State) (k : ReqKind) (op addr count aux : Nat) (data : List (List Byte)) : (s.request k op addr count aux data).ostlers = s.ostlers := rfl
@[simp] theorem State.request_expiries (s : State) (k : ReqKind) (op addr count aux : Nat) (data : List (List Byte)) : (s.request k op addr count aux data).expiries = s.expiries := rfl
@[simp] theorem State.request_remount (s : State) (k : ReqKind) (op addr count aux : Nat) (data : List (List Byte)) : (s.request k op addr count aux data).remount = s.remount := rfl
@[simp] theorem State.request_channels (s : State) (k : ReqKind) (op addr count aux : Nat) (data : List (List Byte)) : (s.request k op addr count aux data).channels = s.channels := rfl
@[simp] theorem State.request_sheds (s : State) (k : ReqKind) (op addr count aux : Nat) (data : List (List Byte)) : (s.request k op addr count aux data).sheds = s.sheds := rfl
@[simp] theorem State.request_turnout (s : State) (k : ReqKind) (op addr count aux : Nat) (data : List (List Byte)) : (s.request k op addr count aux data).turnout = s.turnout := rfl
@[simp] theorem State.request_scrubHours (s : State) (k : ReqKind) (op addr count aux : Nat) (data : List (List Byte)) : (s.request k op addr count aux data).scrubHours = s.scrubHours := rfl
@[simp] theorem State.request_bus (s : State) (k : ReqKind) (op addr count aux : Nat) (data : List (List Byte)) : (s.request k op addr count aux data).bus = s.bus := rfl
@[simp] theorem State.request_tap (s : State) (k : ReqKind) (op addr count aux : Nat) (data : List (List Byte)) : (s.request k op addr count aux data).tap = s.tap := rfl
@[simp] theorem State.request_stables (s : State) (k : ReqKind) (op addr count aux : Nat) (data : List (List Byte)) : (s.request k op addr count aux data).stables = s.stables := rfl
@[simp] theorem State.request_mem (s : State) (k : ReqKind) (op addr count aux : Nat) (data : List (List Byte)) : (s.request k op addr count aux data).mem = s.mem := rfl
@[simp] theorem State.request_bad (s : State) (k : ReqKind) (op addr count aux : Nat) (data : List (List Byte)) : (s.request k op addr count aux data).bad = s.bad := rfl
@[simp] theorem State.request_flips (s : State) (k : ReqKind) (op addr count aux : Nat) (data : List (List Byte)) : (s.request k op addr count aux data).flips = s.flips := rfl
@[simp] theorem State.request_foreign (s : State) (k : ReqKind) (op addr count aux : Nat) (data : List (List Byte)) : (s.request k op addr count aux data).foreign = s.foreign := rfl
@[simp] theorem State.request_pads (s : State) (k : ReqKind) (op addr count aux : Nat) (data : List (List Byte)) : (s.request k op addr count aux data).pads = s.pads := rfl
@[simp] theorem State.request_ports (s : State) (k : ReqKind) (op addr count aux : Nat) (data : List (List Byte)) : (s.request k op addr count aux data).ports = s.ports := rfl
@[simp] theorem State.request_mcl (s : State) (k : ReqKind) (op addr count aux : Nat) (data : List (List Byte)) : (s.request k op addr count aux data).mcl = s.mcl.request k op addr count aux data s.now16 := rfl
@[simp] theorem State.request_bridge (s : State) (k : ReqKind) (op addr count aux : Nat) (data : List (List Byte)) : (s.request k op addr count aux data).bridge = s.bridge := rfl

/-! ### State.dropExpiries -/

@[simp] theorem State.dropExpiries_pending (s : State) (f : Expiry → Bool) : (s.dropExpiries f).pending = s.pending := rfl
@[simp] theorem State.dropExpiries_free (s : State) (f : Expiry → Bool) : (s.dropExpiries f).free = s.free := rfl
@[simp] theorem State.dropExpiries_otp (s : State) (f : Expiry → Bool) : (s.dropExpiries f).otp = s.otp := rfl
@[simp] theorem State.dropExpiries_flash (s : State) (f : Expiry → Bool) : (s.dropExpiries f).flash = s.flash := rfl
@[simp] theorem State.dropExpiries_cfg (s : State) (f : Expiry → Bool) : (s.dropExpiries f).cfg = s.cfg := rfl
@[simp] theorem State.dropExpiries_start (s : State) (f : Expiry → Bool) : (s.dropExpiries f).start = s.start := rfl
@[simp] theorem State.dropExpiries_grant (s : State) (f : Expiry → Bool) : (s.dropExpiries f).grant = s.grant := rfl
@[simp] theorem State.dropExpiries_dies (s : State) (f : Expiry → Bool) : (s.dropExpiries f).dies = s.dies := rfl
@[simp] theorem State.dropExpiries_power (s : State) (f : Expiry → Bool) : (s.dropExpiries f).power = s.power := rfl
@[simp] theorem State.dropExpiries_freeze (s : State) (f : Expiry → Bool) : (s.dropExpiries f).freeze = s.freeze := rfl
@[simp] theorem State.dropExpiries_deferred (s : State) (f : Expiry → Bool) : (s.dropExpiries f).deferred = s.deferred := rfl
@[simp] theorem State.dropExpiries_ostlers (s : State) (f : Expiry → Bool) : (s.dropExpiries f).ostlers = s.ostlers := rfl
@[simp] theorem State.dropExpiries_expiries (s : State) (f : Expiry → Bool) : (s.dropExpiries f).expiries = s.expiries.filter fun e => !f e := rfl
@[simp] theorem State.dropExpiries_remount (s : State) (f : Expiry → Bool) : (s.dropExpiries f).remount = s.remount := rfl
@[simp] theorem State.dropExpiries_channels (s : State) (f : Expiry → Bool) : (s.dropExpiries f).channels = s.channels := rfl
@[simp] theorem State.dropExpiries_sheds (s : State) (f : Expiry → Bool) : (s.dropExpiries f).sheds = s.sheds := rfl
@[simp] theorem State.dropExpiries_turnout (s : State) (f : Expiry → Bool) : (s.dropExpiries f).turnout = s.turnout := rfl
@[simp] theorem State.dropExpiries_scrubHours (s : State) (f : Expiry → Bool) : (s.dropExpiries f).scrubHours = s.scrubHours := rfl
@[simp] theorem State.dropExpiries_bus (s : State) (f : Expiry → Bool) : (s.dropExpiries f).bus = s.bus := rfl
@[simp] theorem State.dropExpiries_tap (s : State) (f : Expiry → Bool) : (s.dropExpiries f).tap = s.tap := rfl
@[simp] theorem State.dropExpiries_stables (s : State) (f : Expiry → Bool) : (s.dropExpiries f).stables = s.stables := rfl
@[simp] theorem State.dropExpiries_mem (s : State) (f : Expiry → Bool) : (s.dropExpiries f).mem = s.mem := rfl
@[simp] theorem State.dropExpiries_bad (s : State) (f : Expiry → Bool) : (s.dropExpiries f).bad = s.bad := rfl
@[simp] theorem State.dropExpiries_flips (s : State) (f : Expiry → Bool) : (s.dropExpiries f).flips = s.flips := rfl
@[simp] theorem State.dropExpiries_foreign (s : State) (f : Expiry → Bool) : (s.dropExpiries f).foreign = s.foreign := rfl
@[simp] theorem State.dropExpiries_pads (s : State) (f : Expiry → Bool) : (s.dropExpiries f).pads = s.pads := rfl
@[simp] theorem State.dropExpiries_ports (s : State) (f : Expiry → Bool) : (s.dropExpiries f).ports = s.ports := rfl
@[simp] theorem State.dropExpiries_mcl (s : State) (f : Expiry → Bool) : (s.dropExpiries f).mcl = s.mcl := rfl
@[simp] theorem State.dropExpiries_bridge (s : State) (f : Expiry → Bool) : (s.dropExpiries f).bridge = s.bridge := rfl

/-! ### Units after a change -/

@[simp] theorem State.pd_wrComp (s : State) (a : Nat) (bs : List Byte) (p : Nat) : (s.wrComp a bs).pd p = s.pd p := rfl
@[simp] theorem State.pd_request (s : State) (k : ReqKind) (op addr count aux : Nat) (data : List (List Byte)) (p : Nat) : (s.request k op addr count aux data).pd p = s.pd p := rfl
@[simp] theorem State.pd_modMcl (s : State) (f : Mcl → Mcl) (p : Nat) : (s.modMcl f).pd p = s.pd p := rfl

theorem getD_modify_same {α : Type} (l : List α) (n : Nat) (f : α → α) (d : α) (h : n < l.length) :
    (l.modify n f).getD n d = f (l.getD n d) := by
  simp [List.getD_eq_getElem?_getD, h]

theorem getD_modify_other {α : Type} (l : List α) (n m : Nat) (f : α → α) (d : α) (h : n ≠ m) :
    (l.modify n f).getD m d = l.getD m d := by
  simp [List.getD_eq_getElem?_getD, h]

/-- A changed paddock, and every other one. -/
theorem State.pd_modPd_same (s : State) (p : Nat) (f : Paddock → Paddock) (h : p < s.pads.length) :
    (s.modPd p f).pd p = f (s.pd p) := getD_modify_same _ _ _ _ h
theorem State.pd_modPd_other (s : State) (p q : Nat) (f : Paddock → Paddock) (h : p ≠ q) :
    (s.modPd p f).pd q = s.pd q := getD_modify_other _ _ _ _ _ h
theorem State.pd_modRing_same (s : State) (p : Nat) (f : Ring → Ring) (h : p < s.pads.length) :
    (s.modRing p f).pd p = { s.pd p with ring := f (s.pd p).ring } := getD_modify_same _ _ _ _ h
theorem State.pd_modRing_other (s : State) (p q : Nat) (f : Ring → Ring) (h : p ≠ q) :
    (s.modRing p f).pd q = s.pd q := getD_modify_other _ _ _ _ _ h
theorem State.die_modDie_same (s : State) (n : Nat) (f : Die → Die) (h : n < s.dies.length) :
    (s.modDie n f).die n = f (s.die n) := getD_modify_same _ _ _ _ h
theorem State.die_modDie_other (s : State) (n m : Nat) (f : Die → Die) (h : n ≠ m) :
    (s.modDie n f).die m = s.die m := getD_modify_other _ _ _ _ _ h
theorem State.ostler_modOstler_same (s : State) (n : Nat) (f : Ostler → Ostler) (h : n < s.ostlers.length) :
    (s.modOstler n f).ostler n = f (s.ostler n) := getD_modify_same _ _ _ _ h
theorem State.ostler_modOstler_other (s : State) (n m : Nat) (f : Ostler → Ostler) (h : n ≠ m) :
    (s.modOstler n f).ostler m = s.ostler m := getD_modify_other _ _ _ _ _ h
theorem State.channel_modChannel_same (s : State) (n : Nat) (f : Channel → Channel) (h : n < s.channels.length) :
    (s.modChannel n f).channel n = f (s.channel n) := getD_modify_same _ _ _ _ h
theorem State.channel_modChannel_other (s : State) (n m : Nat) (f : Channel → Channel) (h : n ≠ m) :
    (s.modChannel n f).channel m = s.channel m := getD_modify_other _ _ _ _ _ h
theorem State.shed_modShed_same (s : State) (n : Nat) (f : Shed → Shed) (h : n < s.sheds.length) :
    (s.modShed n f).shed n = f (s.shed n) := getD_modify_same _ _ _ _ h
theorem State.shed_modShed_other (s : State) (n m : Nat) (f : Shed → Shed) (h : n ≠ m) :
    (s.modShed n f).shed m = s.shed m := getD_modify_other _ _ _ _ _ h
theorem State.stable_modStable_same (s : State) (n : Nat) (f : Stable → Stable) (h : n < s.stables.length) :
    (s.modStable n f).stable n = f (s.stable n) := getD_modify_same _ _ _ _ h
theorem State.stable_modStable_other (s : State) (n m : Nat) (f : Stable → Stable) (h : n ≠ m) :
    (s.modStable n f).stable m = s.stable m := getD_modify_other _ _ _ _ _ h
theorem State.port_modPort_same (s : State) (n : Nat) (f : Port → Port) (h : n < s.ports.length) :
    (s.modPort n f).port n = f (s.port n) := getD_modify_same _ _ _ _ h
theorem State.port_modPort_other (s : State) (n m : Nat) (f : Port → Port) (h : n ≠ m) :
    (s.modPort n f).port m = s.port m := getD_modify_other _ _ _ _ _ h

end Sys2Proof.Machine
end

