-- ==== Sys2Proof/WellFormed.lean ====
section
/-!
DEFINITION. Which commands are well formed: every operand names a unit that the
module has, or fits the field that the spec gives it. The meanings are total and do
not rest on this; it says which terms a sender can spell.
-/

namespace Sys2Proof

/-- A value fits a field of `w` bits. -/
def fits (w n : Nat) : Bool := decide (n < 2 ^ w)

/-! ### Units (R25-R33, R512, R513) -/

def isPaddock (p : Nat) : Bool := decide (p < 16)
def isContext (c : Nat) : Bool := decide (c < 8)
def isStable (n : Nat) : Bool := decide (n < 72)
def isDie (d : Nat) : Bool := decide (d < 2)
def isPort (p : Nat) : Bool := decide (p < 32)
def isChannel (c : Nat) : Bool := decide (c < 192)
def isEngine (e : Nat) : Bool := decide (e < 2)
def isRail (r : Nat) : Bool := decide (r < 9)
def isPen (n : Nat) : Bool := decide (n < 96)
def isOstler (o : Nat) : Bool := decide (o < 20)
/-- A post-bus seat is one byte (R639). -/
def isSeat (n : Nat) : Bool := fits 8 n
/-- Tags of the module run to 4,095 (R424). -/
def isRtag (t : Nat) : Bool := fits 12 t

/-- The lane exists (R408, R417, R423). -/
def LaneUnit.has : LaneUnit → Nat → Bool
  | .port p, l => isPort p && decide (l < 5)
  | .mcl, l => decide (l < 18)
  | .bridge d, l => decide (d < 2 ∧ l < 68)

/-! ### Letters (R570, R574, R575) -/

/-- The letters that R576 lists, by kind (R576, R615, R670). -/
def letterKinds : List Nat :=
  [0x00, 0x01, 0x02, 0x03, 0x04, 0x05, 0x10, 0x11, 0x12, 0x13, 0x14, 0x18, 0x19, 0x1A, 0x1B, 0x1C, 0x20, 0x21, 0x22, 0x23, 0x24, 0x25, 0x26,
    0x27, 0x40, 0x41, 0x42, 0x43, 0x44, 0x45, 0x60, 0x61, 0x62, 0x80, 0x81, 0xA0, 0xA1, 0xA2]

def LetterHead.wf (h : LetterHead) : Bool :=
  fits 8 h.flags && fits 8 h.length && fits 32 h.sequence && fits 64 h.tag &&
    (match h.unlisted with | some k => fits 16 k && !letterKinds.contains k | none => true)

def Bulk.wf (b : Bulk) : Bool := fits 64 b.addr && fits 32 b.len

def Units.wf (u : Units) : Bool :=
  fits 16 u.groups && fits 24 u.packages && fits 96 u.pens && fits 8 u.slotBlocks && fits 8 u.entries

/-- R479. -/
def AdmitFields.wf (f : AdmitFields) : Bool :=
  fits 2 f.cls && fits 1 f.queue && fits 8 f.model && fits 3 f.spec && fits 64 f.seed && fits 48 f.prompt && fits 24 f.promptLen &&
    fits 24 f.maxNew && fits 48 f.deadline && fits 48 f.out && decide (f.stop.length = 4) && f.stop.all (fits 20) &&
    decide (f.param.length = 4)

/-! ### Frames and messages (R412, R424, R441, R442, R458, R462, R464, R471) -/

def FrameHead.wf (f : FrameHead) : Bool :=
  fits 16 f.tree && fits 32 f.tag && fits 32 f.lseq && decide (1 ≤ f.cells ∧ f.cells ≤ 16)

def GradHead.wf (g : GradHead) : Bool :=
  fits 20 g.bucket && fits 32 g.block && decide (-128 ≤ g.exp ∧ g.exp < 128) && fits 8 g.attempt && fits 16 g.epoch && fits 32 g.step

/-- A block holds 32 integers of 40 bits, two's complement (R442). -/
def GBlock.wf (b : GBlock) : Bool :=
  decide (b.q.length = 32) && b.q.all (fun v => decide (-(2 ^ 39) ≤ v ∧ v < 2 ^ 39)) && fits 19 b.members && fits 31 b.blkSeal

def SealRec.wf (r : SealRec) : Bool :=
  fits 64 r.step && fits 32 r.epoch && fits 8 r.attempt && fits 6 r.votes && fits 16 r.nclass && fits 128 r.nsq &&
    decide (r.setdig.length = 32 ∧ r.coefdig.length = 32 ∧ r.amax.length = r.nclass)

def CloseRec.wf (r : CloseRec) : Bool :=
  fits 64 r.step && fits 32 r.epoch && fits 8 r.attempt && fits 8 r.votes && fits 32 r.nlayer && decide (r.live < 2 ^ r.nlayer)

def EpochRec.wf (r : EpochRec) : Bool := fits 32 r.epoch && decide (r.roleDigest.length = 32) && fits 64 r.step

def ParamHead.wf (h : ParamHead) : Bool := fits 20 h.bucket && decide (h.kind < 2) && fits 32 h.offset && fits 32 h.step

def LinkInfo.wf (i : LinkInfo) : Bool :=
  i.acked.all (fits 32) && i.resend.all (fits 32) && i.credits.all (fun c => fits 24 c.1 && fits 32 c.2) &&
    fits 64 i.serial && fits 64 i.postcode

/-- A frame carries 1 to 2,016 bytes of payload (R464). -/
def framePayload (bs : List Byte) : Bool := decide (1 ≤ bs.length ∧ bs.length ≤ 2016)

/-- A reply's data is 1 to 32 whole granules (R424). -/
def wholeGranules (bs : List Byte) : Bool := decide (bs.length % 64 = 0 ∧ 64 ≤ bs.length ∧ bs.length ≤ 2048)

/-! ### Measurements -/

/-- A serving stream writes at most its guesses and one token (R489). -/
def Sampled.wf (x : Sampled) : Bool := decide (1 ≤ x.tokens.length ∧ x.tokens.length ≤ 8 ∧ x.guesses.length ≤ 7)

/-- Temperatures are reported in units of 0.25 C, in two signed bytes (R247). -/
def isTemp (t : Int) : Bool := decide (-32768 ≤ t ∧ t < 32768)

/-- Errored symbols lie in a codeword (R410). -/
def McHead.wf (m : McHead) : Bool := fits 8 m.cseq
def symbolErrors (es : List (Nat × Nat)) : Bool := es.all fun e => decide (e.1 < 544) && fits 10 e.2

/-- A stable has 4 ranks of 136 stalls (R96); a checksum stall's sums have 144 bits (R132). -/
def Upset.wf : Upset → Bool
  | .none => true
  | .stall r i mask => decide (r < 4 ∧ i < 136) && fits 144 mask
  | .sums r d1 d2 => decide (r < 4 ∧ -(2 ^ 143) ≤ d1 ∧ d1 < 2 ^ 143 ∧ -(2 ^ 143) ≤ d2 ∧ d2 < 2 ^ 143)
  | .cell dev bit => fits 48 dev && decide (bit < 512)

/-- A shed has eight vector lanes (R288). -/
def ShedFail.wf (f : ShedFail) : Bool := decide (f.shed < 192) && f.lane.all (fun l => decide (l < 8))

/-! ### Commands -/

/-- The command's operands name units and fit their fields. -/
def wellFormed : Instr → Bool
  | .pad p h => isPaddock p && h.wf && h.unlisted.isNone
  | .hello p h ifMajor ifMinor => isPaddock p && h.wf && fits 16 ifMajor && fits 16 ifMinor
  | .features p h requested => isPaddock p && h.wf && decide (requested.length = 4) && requested.all (fits 64)
  | .powerCap p h watts => isPaddock p && h.wf && fits 16 watts
  | .scrubSet p h hours => isPaddock p && h.wf && fits 8 hours
  | .remountMap p h b => isPaddock p && h.wf && b.wf
  | .warmPrepare p h retained => isPaddock p && h.wf && fits 16 retained
  | .warmHandback p h count map mapLen records => isPaddock p && h.wf && fits 8 count && fits 64 map && fits 32 mapLen && fits 64 records
  | .trainingRead p h b => isPaddock p && h.wf && b.wf
  | .configRead p h b => isPaddock p && h.wf && b.wf
  | .configWrite p h src => isPaddock p && h.wf && fits 64 src
  | .attest p h nonce b _ => isPaddock p && h.wf && b.wf && decide (nonce.length = 32)
  | .firmwareWrite p h src length => isPaddock p && h.wf && fits 64 src && fits 32 length
  | .rollbackCommit p h svn => isPaddock p && h.wf && fits 8 svn
  | .segmentSet p h segment => isPaddock p && h.wf && fits 16 segment
  | .identityRead p h b => isPaddock p && h.wf && b.wf
  | .paddockOpen p h u crypt retained _ => isPaddock p && h.wf && u.wf && fits 1 crypt && fits 1 retained
  | .openingComplete p => isPaddock p
  | .paddockClose p h => isPaddock p && h.wf
  | .closingComplete p => isPaddock p
  | .paddockResize p h add rem => isPaddock p && h.wf && add.wf && rem.wf
  | .resizeComplete p => isPaddock p
  | .paddockMap p h ctx nadd nremove list => isPaddock p && h.wf && fits 8 ctx && fits 16 nadd && fits 16 nremove && fits 64 list
  | .schedSet p h slice blockAfter => isPaddock p && h.wf && fits 48 slice && fits 32 blockAfter
  | .paddockPower p h watts => isPaddock p && h.wf && fits 16 watts
  | .historySet p h n => isPaddock p && h.wf && fits 8 n
  | .stateRead p h ctx selector first count b => isPaddock p && h.wf && fits 8 ctx && b.wf && fits 8 selector && fits 32 first && fits 32 count
  | .parcelLoad p h address length priority step => isPaddock p && h.wf && fits 64 address && fits 32 length && fits 8 priority && fits 64 step
  | .parcelUnload p h ctx => isPaddock p && h.wf && fits 8 ctx
  | .stepRun p h ctx step count => isPaddock p && h.wf && fits 8 ctx && fits 64 step && fits 32 count
  | .checkpoint p h ctx dest => isPaddock p && h.wf && fits 8 ctx && fits 64 dest
  | .restore p h ctx src => isPaddock p && h.wf && fits 8 ctx && fits 64 src
  | .initialise p h ctx layer part src => isPaddock p && h.wf && fits 8 ctx && fits 16 layer && fits 8 part && fits 64 src
  | .admitLetter p h f => isPaddock p && h.wf && f.wf
  | .cancel p h => isPaddock p && h.wf
  | .requestRead p h => isPaddock p && h.wf
  | .membership p h epoch roles parcel checkpoint ckStep agreeTimeout => isPaddock p && h.wf && fits 32 epoch && fits 64 roles && fits 16 parcel && fits 64 checkpoint && fits 64 ckStep && fits 48 agreeTimeout
  | .replay p h step attempt nfBefore mode role ctx checkpoint sealLog => isPaddock p && h.wf && fits 8 ctx && fits 64 step && fits 8 attempt && fits 8 nfBefore && fits 8 mode && fits 24 role && fits 64 checkpoint && fits 64 sealLog
  | .diagCounters p h unit index b => isPaddock p && h.wf && b.wf && fits 8 unit && fits 16 index
  | .refcount p h ostler => isPaddock p && h.wf && fits 8 ostler
  | .freezeInfo p h b => isPaddock p && h.wf && b.wf
  | .pbxbaseEnable m rtag p value => m.wf && isRtag rtag && isPaddock p && fits 64 value
  | .pbxbaseDisable m rtag p value => m.wf && isRtag rtag && isPaddock p && fits 64 value
  | .cfgWr m rtag offset value => m.wf && isRtag rtag && fits 48 offset && fits 64 (value.getD 0)
  | .apRd m rtag addr count => m.wf && isRtag rtag && fits 48 addr && fits 5 count
  | .inv m rtag addr _ => m.wf && isRtag rtag && fits 48 addr
  | .cmp m rtag status => m.wf && isRtag rtag && fits 8 status
  | .cmpD m rtag status data => m.wf && isRtag rtag && fits 8 status && wholeGranules data
  | .credit m requests dataUnits invs => m.wf && fits 12 requests && fits 12 dataUnits && fits 8 invs
  | .ack m cseq => m.wf && fits 8 cseq
  | .retry m cseq => m.wf && fits 8 cseq
  | .mclUncorrectableCodeword errors => symbolErrors errors
  | .mclAlignTimeout => true
  | .mclTrainingDone good taken _ => fits 18 good && fits 18 taken
  | .postboxRetryTimer rtag => isRtag rtag
  | .mclTimeout p ctx => isPaddock p && isContext ctx
  | .mclStall p => isPaddock p
  | .link port f info => isPort port && f.wf && info.wf
  | .grad port f g blocks => isPort port && f.wf && g.wf && decide (1 ≤ blocks.length ∧ blocks.length ≤ 12) && blocks.all GBlock.wf
  | .sealFrame port f r => isPort port && f.wf && r.wf
  | .close port f r => isPort port && f.wf && r.wf
  | .param port f h payload => isPort port && f.wf && h.wf && framePayload payload
  | .xfer port f dest src number offset payload => isPort port && f.wf && fits 24 dest && fits 24 src && fits 24 number && fits 32 offset && framePayload payload
  | .epoch port f r => isPort port && f.wf && r.wf
  | .linkUncorrectableCodeword port errors => isPort port && symbolErrors errors
  | .linkAlignTimeout port => isPort port
  | .holdTimeout port => isPort port
  | .linkRetrainRetry port _ => isPort port
  | .linkTrainingDone port _ serial postcode => isPort port && fits 64 serial && fits 64 postcode
  | .laneLockLoss u lane => u.has lane
  | .laneWindowEnd u _ => u.has 0
  | .heartbeatMiss ostler => isOstler ostler
  | .governorInterval die _ => isDie die
  | .vctlRepeat die => isDie die
  | .watchdogWarning stable source => isStable stable && decide (source < 4)
  | .watchdogHalt stable => isStable stable
  | .blockAfterExpiry p => isPaddock p
  | .sliceExpiry p => isPaddock p
  | .deadlineExpiry p tag => isPaddock p && fits 64 tag
  | .collectExpiry p ctx => isPaddock p && isContext ctx
  | .sealExpiry p ctx => isPaddock p && isContext ctx
  | .broadcastExpiry p ctx => isPaddock p && isContext ctx
  | .xferDurationExpiry p ctx number => isPaddock p && isContext ctx && fits 24 number
  | .agreeTimeout p ctx => isPaddock p && isContext ctx
  | .handbackTimeout => true
  | .scrubPeriodEnd channel => isChannel channel
  | .patrolScrubRead channel ca _ => isChannel channel && fits 33 ca
  | .yardScrub pen offset _ => isPen pen && fits 23 offset
  | .wck2dqTrack channel _ _ temp => isChannel channel && isTemp temp
  | .mr4Poll channel _ _ => isChannel channel
  | .perBankRefresh channel rank bank _ => isChannel channel && decide (rank < 2 ∧ bank < 16)
  | .tjSample die _ => isDie die
  | .coolOkLow => true
  | .coolantCheck _ _ _ => true
  | .railDip rail _ => isRail rail
  | .railRecovered rail => isRail rail
  | .railReset rail => isRail rail
  | .v12InputGood _ => true
  | .v12InputLow => true
  | .mresetNFall => true
  | .mresetNRise => true
  | .boot _ => true
  | .repair badStables _ => badStables.all isStable
  | .mclPhase good => fits 18 good
  | .memory failed patternBad temps _ => failed.all isChannel && patternBad.all isChannel && temps.all isTemp
  | .finish portsUp peers => fits 32 portsUp && peers.all fun q => fits 64 q.1 && fits 64 q.2
  | .halterNLow => true
  | .halterAcknowledged _ => true
  | .halterNHigh => true
  | .call => true
  | .arbitrationWindow _ => true
  | .assign serial seat _ => isSeat seat && fits 64 serial
  | .release seat _ => isSeat seat
  | .read seat offset count _ => isSeat seat && fits 16 offset && fits 8 count
  | .status seat _ => isSeat seat
  | .identity seat _ => isSeat seat
  | .postBusUnknownOp op seat _ => isSeat seat && fits 8 op && decide (6 < op ∨ op = 0)
  | .testLogicReset => true
  | .bypass die => isDie die
  | .idcode die => isDie die
  | .samplePreload die _ _ => isDie die
  | .extest die => isDie die
  | .clamp die => isDie die
  | .highz die => isDie die
  | .extestPulse die => isDie die
  | .extestTrain die => isDie die
  | .readout addr => fits 48 addr
  | .kernel p ctx => isPaddock p && isContext ctx
  | .kMm stable => isStable stable
  | .kConv stable => isStable stable
  | .kDist stable => isStable stable
  | .kTopk stable => isStable stable
  | .kCompact stable => isStable stable
  | .kExpand stable => isStable stable
  | .feedEvent stable _ u => isStable stable && u.wf
  | .rampDown stable ranks => isStable stable && decide (ranks < 4)
  | .rampUp stable ranks => isStable stable && decide (1 ≤ ranks ∧ ranks ≤ 4)
  | .kernelBoundary stable => isStable stable
  | .stableReplacement stable => isStable stable
  | .stableCopyDone stable => isStable stable
  | .groomParityError stable => isStable stable
  | .recordEnd p ctx _ => isPaddock p && isContext ctx
  | .branch p ctx _ => isPaddock p && isContext ctx
  | .gLd stable => isStable stable
  | .gSt stable => isStable stable
  | .gLdk stable => isStable stable
  | .gMov stable => isStable stable
  | .gGath stable => isStable stable
  | .gScat stable => isStable stable
  | .gSel stable => isStable stable
  | .gRand stable => isStable stable
  | .gAdd stable => isStable stable
  | .gSub stable => isStable stable
  | .gMul stable => isStable stable
  | .gFma stable => isStable stable
  | .gFms stable => isStable stable
  | .gFnma stable => isStable stable
  | .gFnms stable => isStable stable
  | .gMax stable => isStable stable
  | .gMin stable => isStable stable
  | .gAbs stable => isStable stable
  | .gNeg stable => isStable stable
  | .gCmp stable => isStable stable
  | .gRcp stable => isStable stable
  | .gDiv stable => isStable stable
  | .gSqrt stable => isStable stable
  | .gRsqrt stable => isStable stable
  | .gExp stable => isStable stable
  | .gLog stable => isStable stable
  | .gTanh stable => isStable stable
  | .gSig stable => isStable stable
  | .gErf stable => isStable stable
  | .gRsum stable => isStable stable
  | .gCsum stable => isStable stable
  | .gRmax stable => isStable stable
  | .gCmax stable => isStable stable
  | .gRmin stable => isStable stable
  | .gCmin stable => isStable stable
  | .gRep stable => isStable stable
  | .gScal stable => isStable stable
  | .sMv p ctx _ _ fails => isPaddock p && isContext ctx && fails.all ShedFail.wf
  | .sAttn p ctx _ _ fails => isPaddock p && isContext ctx && fails.all ShedFail.wf
  | .sAcomb p ctx _ _ => isPaddock p && isContext ctx
  | .sCopy p ctx _ _ => isPaddock p && isContext ctx
  | .sFill p ctx _ _ => isPaddock p && isContext ctx
  | .move engine => isEngine engine
  | .xpose engine => isEngine engine
  | .turnoutJobEnd engine => isEngine engine
  | .xferSend p ctx _ => isPaddock p && isContext ctx
  | .xferRecv p ctx _ => isPaddock p && isContext ctx
  | .phase p ctx => isPaddock p && isContext ctx
  | .stepBegin p ctx => isPaddock p && isContext ctx
  | .forwardPassEnd p ctx => isPaddock p && isContext ctx
  | .lossPassEnd p ctx => isPaddock p && isContext ctx
  | .backwardEnd p ctx => isPaddock p && isContext ctx
  | .collectEnd p ctx => isPaddock p && isContext ctx
  | .commit p ctx => isPaddock p && isContext ctx
  | .drainEnd p ctx => isPaddock p && isContext ctx
  | .bind p ctx => isPaddock p && isContext ctx
  | .servingCommitPoint p ctx sampled => isPaddock p && isContext ctx && sampled.all Sampled.wf
  | .deliver p ctx => isPaddock p && isContext ctx
  | .servingDrain p ctx => isPaddock p && isContext ctx
  | .modelSwap p => isPaddock p
  | .switch p => isPaddock p
  | .saveComplete p => isPaddock p
  | .resumeComplete p => isPaddock p
  | .swap p => isPaddock p
  | .tableRebuildDone p ctx => isPaddock p && isContext ctx
  | .tableSwitch p ctx => isPaddock p && isContext ctx
  | .swapInComplete p ctx => isPaddock p && isContext ctx
  | .ostlerTakeover ostler => isOstler ostler
  | .selfCheckFailure isStable unit => (if isStable then Sys2Proof.isStable unit else isOstler unit)
  | .driftRecomputeDone p ctx => isPaddock p && isContext ctx
end Sys2Proof
end

