-- ==== Sys2Proof/Tests/Slice0.lean ====
section
/-!
SUPPORT. Tests of this row: small states, a term that each check of WellFormed refuses,
the worked examples and published vectors of the spec, and, for every statement with
hypotheses, a state and operands that meet them, clause by clause.
-/

set_option Elab.async false

open Sys2Proof Sys2Proof.Machine

namespace Sys2Proof.Tests

/-! ### Small states -/

/-- A ring in the companion window at 0x10000. -/
def ringOn : Ring := { Ring.off with en := true, base := 0x10000 }

/-- A closed paddock with its ring enabled. -/
def ringed : Paddock := { Paddock.closed with ring := ringOn }

/-- An open paddock: group 0, package 0, pen 0, one block of slots. -/
def openPd : Paddock := { ringed with state := .opened, owned := ⟨1, 1, 1, [0], 1⟩ }

/-- A module in phase 7 with features granted, MCL trained, and these paddocks first. -/
def up (ds : List Paddock) : State :=
  { State.reset with
    otp := ⟨0x1234, false, false, 0, 0, 0xFFFF, 0, [], []⟩
    flash := { State.reset.flash with config := List.replicate 256 0, slotA := ⟨true, leBytes 256 (5 * 2 ^ 48)⟩ }
    grant := 0xFFFF
    start := { Start.none with phase := 7, hello := true, ready := true, certOk := some true }
    power := { Power.reset with mreset := true }
    mcl := Mcl.reset.trainedWith 0x3FFFF 0
    pads := ds ++ List.replicate (16 - ds.length) Paddock.closed }

/-- The module with these bytes at an address of companion memory. -/
def having (s : State) (a : Nat) (bs : List Byte) : State := s.wrComp a bs

/-- The first letter on a ring, in one slot; and in two slots. -/
def letter : LetterHead := ⟨0, 1, 0, 5, 0, none⟩
def letter2 : LetterHead := { letter with length := 2 }

/-- The only message of the companion's first codeword. -/
def mcHead : McHead := ⟨0, true, true⟩

/-- One unit of each kind, and none. -/
def oneUnit : Units := ⟨1, 1, 1, 0, 1⟩
def noUnits : Units := ⟨0, 0, 0, 0, 0⟩

/-- A configuration record: magic, version 1 and its digest (R611, R615). -/
def configRecord : List Byte :=
  leBytes 224 0x146435850 ++ leBytes 32 0x24418ec0cb27e7dfebe0189e0f348bfc61ac76ee3411465cfccf0c3550906d53

/-- A map that binds logical stable k to physical stable k + 4 (k / 32). -/
def mapBytes : List Byte :=
  (List.range 64).flatMap fun k => (⟨1, k / 32, k, k + 4 * (k / 32), 0⟩ : MapEntry).bytes

/-- Phase 4 of a warm start, with that map at the companion's address 0. -/
def warming : State :=
  having { up [ringed] with start := { (up [ringed]).start with phase := 4, warm := true } } 0 mapBytes

/-- Bytes below the ring that the companion holds stand there when a letter is taken up. -/
theorem reads_back (s : State) (a : Nat) (bs : List Byte) (p : Nat) (h : LetterHead) (n : Nat) (hn : n = bs.length)
    (hw : s.mem.wf = true) (hd : a + bs.length ≤ (s.pd p).ring.base + 0x8040) :
    ((having s a bs).took p h).rdComp a n = bs := by
  subst hn
  refine (State.took_rdComp (having s a bs) p h a bs.length (memWrite_wf bs s.mem _ hw) (Or.inl hd)).trans ?_
  exact State.wrComp_rdComp s a bs hw

/-- A module whose ostlers have counted n reference cycles. -/
def atCount (n : Nat) (s : State) : State := { s with ostlers := List.replicate 20 { Ostler.reset with count := n } }

/-- A parcel without records, and a context that holds one, idle before step 0. -/
def parcel0 : Parcel := ⟨3, 0, 1000000, 0, 0, [], [], [], []⟩
def ctx0 : Ctx :=
  { (default : Ctx) with parcel := parcel0, state := .idle, resident := true, tr := Train.start, sv := Serve.start }

/-- The open paddock with a context loaded. -/
def withCtx (x : Ctx) : Paddock := { openPd with ctxs := some x :: List.replicate 7 none }

/-- An entry of a translation table: 4 KiB of package 0 at paddock address 0 (R541). -/
def rangeEntry : List Byte := leBytes 16 0 ++ leBytes 8 0x1000 ++ leBytes 8 0x300

/-- The module with one entry in its remount map: channel 0 retired. -/
def mapped : State := { up [ringed] with remount := { Remount.empty with entries := [⟨8, 0, 0, noUnit, 0⟩] } }

/-- A paddock without contexts has none to ask about. -/
theorem no_ctx {s : State} {p : Nat} (Q : Ctx → Prop) (h : (s.pd p).ctxs = List.replicate 8 none) :
    ∀ c x, s.ctx p c = some x → Q x := by
  intro c x hx
  rw [State.ctx, Paddock.ctx, h, List.getD_eq_getElem?_getD, List.getElem?_replicate] at hx
  split at hx <;> cases hx

/-- What an operation that ends well answers, and what one that does not says. -/
def okOf {α : Type} (e : Except Nat α) (d : α) : α := e.toOption.getD d
theorem okOf_eq {α : Type} {e : Except Nat α} {d : α} (h : e.isOk = true) : e = .ok (okOf e d) := by
  cases e with
  | error e => cases h
  | ok a => rfl
theorem ok_of {α : Type} {e : Except Nat α} {a : α} (h : e.toOption = some a) : e = .ok a := by
  cases e with
  | error e => cases h
  | ok b => exact congrArg Except.ok (Option.some.inj h)
def errorOf {α : Type} (e : Except Nat α) : Option Nat := match e with | .error n => some n | .ok _ => none
theorem error_of {α : Type} {e : Except Nat α} {n : Nat} (h : errorOf e = some n) : e = .error n := by
  cases e with
  | error m => exact congrArg Except.error (Option.some.inj h)
  | ok b => cases h
theorem forall_lt {n : Nat} {Q : Nat → Prop} (h : ∀ i : Fin n, Q i) : ∀ c, c < n → Q c := fun c hc => h ⟨c, hc⟩

/-! ### Contexts -/

/-- The smallest parcel: a header and one record that fills 16 KiB with zeros. -/
def parcelBytes : List Byte := leBytes 256 0x4000000000000000050000000000000000000000000000000300000000000000000000000000000000000000000000000000000000000000003576adfef26307392ebc9b8497f762dc4fea8b5becee8fc58a5756bed0eaa9a400000000000000000000000000000000000000000000000000000000000000000000000000000000000000000000000000000000000000010003000143505850

/-- A record with no row mask, tag or sampling. -/
def recOf (b : RecBody) : Rec :=
  ⟨⟨match b with | .stepCoef _ => 1 | .collSet _ _ _ => 1 | _ => 0, 0, false, 0, 1, 0⟩, b⟩

/-- A context over these records, with one page of package 0 mapped at paddock address 0. -/
def ctxOf (kind : Nat) (bs : List RecBody) : Ctx :=
  { ctx0 with parcel := { parcel0 with kind := kind, recs := bs.map recOf }
              table := [⟨0, 0x1000, 0x1000, 0, 3, 0, 0, []⟩] }

/-- A descriptor of n bytes from paddock address 0, as its 80 bytes. -/
def descFor (n : Nat) : Desc := ⟨0, false, 0, [⟨n, 1, 0, n - 1⟩]⟩

/-- The module with a context in paddock 0 and a descriptor of n bytes at the companion's address 0. -/
def pointed (x : Ctx) (n : Nat) : State := having (up [withCtx x]) 0 (descFor n).bytes

/-- A layer of one element, at paddock address 0x100. -/
def layerOne : LayerRec := { (default : LayerRec) with cls := 1, rows := 1, cols := 1, hiBase := 0x100, frozen := true }

/-- A serving parcel of variant 3. -/
def servingOne : ServingRec :=
  { (default : ServingRec) with model := 3, chunk := 64, budget := 64, maxCtx := 100, heads := 7, queueLimit := 1, kvPool := [0], cBase := 1 }
def ctxServing : Ctx :=
  let x := ctxOf 1 [.serving servingOne]
  { x with parcel := { x.parcel with descs := [descFor 4096] } }

/-- A request of one prompt token and 99 more. -/
def request : AdmitFields := ⟨0, 1, 3, 0, 0, 0, 1, 99, noLimit, 0, [], [0, 0, 0, 0]⟩
def stream : Stream := { (default : Stream) with tag := 5, slot := some 0, model := 3 }

def ctxLive : Ctx := { ctxServing with sv := { Serve.start with streams := [stream] } }
def ctxQueued : Ctx := { ctxServing with sv := { Serve.start with queue := [stream] } }

/-- A training parcel of a job with one member, whose die has serial 9. -/
def ctxJob : Ctx :=
  let x := ctxOf 0 [.collection ⟨7, 1, 0, 0, 0xFFFF⟩, .stepBegin default, .stepCoef default, .collSet true 0 0]
  { x with tr := { x.tr with epoch := 4, roles := [⟨0, 0, 9⟩] } }

/-- The smallest parcel in companion memory, with a context free and with all eight taken. -/
def loaded : State := having (up [openPd]) 0 parcelBytes
def full : State := having (up [{ openPd with ctxs := List.replicate 8 (some ctx0) }]) 0 parcelBytes
theorem loaded_bytes : (loaded.took 0 letter).rdComp 0 256 = parcelBytes :=
  reads_back _ 0 parcelBytes 0 letter 256 (by decide +kernel) rfl (by decide +kernel)
theorem full_bytes : (full.took 0 letter).rdComp 0 256 = parcelBytes :=
  reads_back _ 0 parcelBytes 0 letter 256 (by decide +kernel) rfl (by decide +kernel)

/-- A role table with one member of this serial, where its descriptor points. -/
def withRoles (serial : Nat) : State := (pointed ctxJob 16).wr 0x1000 (⟨0, 0, serial⟩ : Role).bytes

theorem pattern_byte (b : Byte) : BitVec.ofNat 8 (patternOf 0x08 0 [b]) = b := by
  have h : fmtBits 0x08 = 8 := by decide
  simp [patternOf, leVal, h, Nat.mod_eq_of_lt b.isLt]

/-- A checkpoint's masking is its own inverse. -/
theorem mask_twice (l : List Byte) : ∀ i, maskBytes i (maskBytes i l) = l := by
  induction l with
  | nil => exact fun _ => rfl
  | cons b l ih => intro i; simp [maskBytes, ih, BitVec.xor_assoc]

/-- What a checkpoint of a context without layers holds: no layer, no class, step 0, c_prev of 1. -/
def kept : List Byte := leBytes 16 (0x3F800000 * 2 ^ 96)

/-- That checkpoint, masked, where the descriptor at the companion's address 0 points. -/
def restorable (x : Ctx) : State :=
  { pointed x 16 with mem := ((maskBytes 0 kept).zipIdx.map fun b => (0x1000 + b.2, b.1)) ++ (pointed x 16).mem }

def ctxPlain : Ctx := ctxOf 0 []

theorem kept_there : ((restorable ctxPlain).took 0 letter).descBytes ctxPlain.plain (descFor 16) 16 =
    .ok ((maskBytes 0 kept).map fun b => BitVec.ofNat 8 (patternOf 0x08 0 [b])) := by rfl
theorem restores : (((restorable ctxPlain).took 0 letter).restoreFrom 0 0 ctxPlain (descFor 16)).isOk = true := by
  have hl : ((restorable ctxPlain).took 0 letter).lendPens ctxPlain = (restorable ctxPlain).took 0 letter := rfl
  have hb := kept_there
  have hd : (((restorable ctxPlain).took 0 letter).ckHead 0 ctxPlain).length + (ctxPlain.parts.map Part.bytes).sum = 16 := by
    decide +kernel
  have hc : ¬ (descFor 16).count < 16 := by decide
  simp only [pattern_byte, List.map_id'] at hb
  unfold State.restoreFrom
  rw [hl]
  unfold State.restoreHere
  simp only [hd, hc, if_false, hb, bind, Except.bind, pure, Except.pure, mask_twice]
  decide +kernel

/-- A module that may replay the job: logical stable 0 is bound, and one is enough. -/
def replayable : State :=
  { restorable ctxJob with remount := { Remount.empty with bind := some 0 :: List.replicate 63 none } }
theorem kept_there_replay : (replayable.took 0 letter).descBytes ctxJob.plain (descFor 16) 16 =
    .ok ((maskBytes 0 kept).map fun b => BitVec.ofNat 8 (patternOf 0x08 0 [b])) := by rfl
theorem restores_replay : ((replayable.took 0 letter).restoreFrom 0 0 ctxJob (descFor 16)).isOk = true ∧
    (okOf ((replayable.took 0 letter).restoreFrom 0 0 ctxJob (descFor 16)) (State.reset, 1)).2 = 0 := by
  have hl : (replayable.took 0 letter).lendPens ctxJob = replayable.took 0 letter := rfl
  have hb := kept_there_replay
  have hd : ((replayable.took 0 letter).ckHead 0 ctxJob).length + (ctxJob.parts.map Part.bytes).sum = 16 := by
    decide +kernel
  have hc : ¬ (descFor 16).count < 16 := by decide
  simp only [pattern_byte, List.map_id'] at hb
  unfold State.restoreFrom
  rw [hl]
  unfold State.restoreHere
  simp only [hd, hc, if_false, hb, bind, Except.bind, pure, Except.pure, mask_twice]
  decide +kernel

/-- Where INITIALISE puts hi of that layer. -/
def atHi : Nat → Nat :=
  fun e => layerOne.hiBase + layerOne.elemOff ((ctxOf 0 [.layer layerOne]).parcel.striped layerOne) 2 e

theorem replay_step : (replayable.took 0 letter).restoreFrom 0 0 ctxJob (descFor 16) =
    .ok ((okOf ((replayable.took 0 letter).restoreFrom 0 0 ctxJob (descFor 16)) (State.reset, 1)).1, 0) :=
  (okOf_eq restores_replay.1).trans (congrArg Except.ok (Prod.ext rfl restores_replay.2))

/-! ### Ports and jobs -/

/-- Port 0 in this state, the others down. -/
def linked (s : State) (d : Port) : State := { s with ports := d :: List.replicate 31 Port.down }
def portUp : Port := { Port.down with state := .up, serial := 9, lseqIn := 3 }
def portSpared : Port := { portUp with state := .spared, retired := some 2, replay := [⟨0, 0, 0, 1, 0, 7, .epoch default⟩], resent := (1, 7) }

theorem linked_port (P : Port → Prop) {s : State} {d : Port} (h0 : P d) (h1 : P Port.down) : ∀ k, P ((linked s d).port k) := by
  intro k
  cases k with
  | zero => exact h0
  | succ k =>
    show P ((d :: List.replicate 31 Port.down).getD (k + 1) Port.down)
    rw [List.getD_eq_getElem?_getD, List.getElem?_cons_succ, List.getElem?_replicate]
    split <;> exact h1

/-- A tree with one child, at port 0, whose root is here; and one whose root is above port 2. -/
def treeRoot : TreeRec := ⟨0, 0x3F, 1, 0, 1, [(0, 1)], 2⟩
def treeInner : TreeRec := ⟨0, 2, 0x3F, 1, 1, [(0, 1)], 3⟩
def treeLeaf : TreeRec := ⟨0, 0, 0x3F, 1, 0, [], 1⟩

/-- A training context of a job of two roles, whose tag is 7, with this tree. -/
def ctxMember (t : TreeRec) : Ctx :=
  let x := ctxOf 0 [.xferRecv 1 5 0 100, .collection ⟨7, 2, 0, 1, 0xFFFF⟩, .bucket default, .tree t,
    .layer { layerOne with frozen := false }, .route 0 2]
  { x with parcel := { x.parcel with descs := [descFor 100], blob := [1, 1] }
           tr := { x.tr with phase := 5, roles := [⟨0, 0, 8⟩, ⟨1, 0, 9⟩], layers := [default] , xfers := [⟨0, 1, 5, 0⟩] } }
def member (t : TreeRec) : State := linked (up [withCtx (ctxMember t)]) portUp

/-- The next frame of port 0, and a block of zeros from one member. -/
def frame : FrameHead := ⟨0, 7, 3, 1, true⟩
def zeros : GBlock := ⟨List.replicate 32 0, false, false, false, 1, 0⟩
def waits (e : Expiry) (x : Ctx) : State := { up [withCtx x] with expiries := [e] }

/-- With every paddock closed, whatever holds of a closed paddock holds of each. -/
theorem no_pd (P : Paddock → Prop) {s : State} (h : s.pads = List.replicate 16 Paddock.closed) (h0 : P Paddock.closed) :
    ∀ q, P (s.pd q) := by
  intro q
  rw [State.pd, h, List.getD_eq_getElem?_getD, List.getElem?_replicate]
  split <;> exact h0

/-! ### The device -/

/-- A module in phase n of a cold start; with a rail dipped; with a supply die; frozen by the halter. -/
def phaseIs (n : Nat) : State := { up [] with start := { Start.none with phase := n } }
def dipped (r : Nat) : State :=
  { up [] with power := { (up []).power with rails := (up []).power.rails.set r ⟨true, 1000, 3, 0⟩ } }
def supplyDie (on : Bool) : State :=
  { up [] with otp := { (up []).otp with supplyT := true }, power := { (up []).power with railsUp := on } }
def halted (acked : Bool) : State := { up [] with freeze := { Freeze.none with halter := true, acked := acked } }

/-- Two milliseconds after the start began, without a seat; and with seat 63 held and n answers abandoned. -/
def unseated : State := { up [] with ostlers := List.replicate 20 { Ostler.reset with count := 200000 } }
def seated (n : Nat) : State := { unseated with bus := { Bus.reset with seat := some 63, abandoned := n } }

/-- A job whose kernel record stands at the head of physical stable 3, which is logical stable 5. -/
def ctxWatched (halt : Nat) : Ctx :=
  let x := ctxOf 0 [.kernel default]
  { x with state := .running, parcel := { x.parcel with watchHalt := halt } }
def shareOf (p c : Nat) : Run := { (default : Run) with paddock := p, ctx := c, count := 1, begun := true }
def watched (halt : Nat) : State :=
  let s := up [withCtx (ctxWatched halt)]
  { s with stables := List.replicate 3 Stable.reset ++ [{ Stable.reset with queue := [shareOf 0 0], watch := 1000000 }] ++ List.replicate 68 Stable.reset
           remount := { Remount.empty with bind := List.replicate 5 none ++ [some 3] ++ List.replicate 58 none } }

/-- Channels: 0 one corrected burst short of a repair with n repair resources in each bank, 1 with a row found bad, 2 trained. -/
def upkeep (n : Nat) : State :=
  let s := up []
  let c := Channel.reset
  { s with cfg := { s.cfg with ecc := 0xFFFFFF }
           channels := { c with rows := [⟨0, [1, 2]⟩], resources := List.replicate 32 n } :: { c with uncorrectableRows := [1] } ::
             { c with trained := true } :: List.replicate 189 c }

/-! ### The groom -/

/-- A kernel record with a program of two words at 0x100 of the row store, and one groom descriptor. -/
def kGroom : KernelRec := { (default : KernelRec) with progOff := 0x100, progLen := 2, gdesc := [0] }
def ctxGroom : Ctx :=
  let x := ctxOf 0 [.kernel kGroom]
  { x with state := .running, parcel := { x.parcel with descs := [⟨0, false, 0, [⟨16, 4, 0, 15⟩]⟩] } }
def oGroom : Kop := ⟨3, shareOf 0 0, ctxGroom, kGroom⟩

/-- Stable 3 in the middle of this list, the others as at reset. -/
def stable3 (x : Stable) : List Stable := List.replicate 3 Stable.reset ++ [x] ++ List.replicate 68 Stable.reset

/-- Stable 3 about to issue word w; the first FP32 element of its descriptor is 1. -/
def grooming (w : Nat) : State :=
  { up [withCtx ctxGroom] with
    stables := stable3 { Stable.reset with queue := [shareOf 0 0] }
    mem := memWrite (memWrite [] 0x1000 [0, 0, 0x80, 0x3F]) (rowStoreBase 3 + 0x100) (leBytes 8 w) }

theorem one_only {n : Nat} {Q : Nat → Prop} (hn : n = 1) (h : Q 0) : ∀ k, k < n → Q k := by
  intro k hk
  obtain rfl : k = 0 := by omega
  exact h

/-- The same, with a NaN as the first element of every register. -/
def groomingNan (w : Nat) : State :=
  { grooming w with stables := stable3 { Stable.reset with
      queue := [shareOf 0 0], groom := { Groom.start with tiles := List.replicate 8 [Fp.nan32] } } }

theorem groom_at {s : State} {n : Nat} {o : Kop} {w : Nat} (h : n < 72 ∧ n < s.stables.length ∧ s.running = true ∧
    s.kop? n = some o ∧ s.canIssue o = true ∧ (s.groomWord o (s.groom n).pc).toOption = some w) :
    s.groomAt n o w := ⟨h.1, h.2.1, h.2.2.1, h.2.2.2.1, h.2.2.2.2.1, ok_of h.2.2.2.2.2⟩

/-! ### Scheduling and kernel records -/

/-- Two contexts of an open paddock. -/
def twoCtx (x : Ctx) (y : Option Ctx) : Paddock := { openPd with ctxs := some x :: y :: List.replicate 6 none, running := some 0 }
theorem two_ctx (P : Nat → Ctx → Prop) {s : State} {p : Nat} {x : Ctx} {y : Option Ctx}
    (h : (s.pd p).ctxs = some x :: y :: List.replicate 6 none) (hx : P 0 x) (hy : ∀ z, y = some z → P 1 z) :
    ∀ k z, s.ctx p k = some z → P k z := by
  intro k z hz
  rw [State.ctx, Paddock.ctx, h] at hz
  match k with
  | 0 => cases hz; exact hx
  | 1 => exact hy z hz
  | k + 2 =>
    have : (List.replicate 6 (none : Option Ctx)).getD k none = some z := hz
    rw [List.getD_eq_getElem?_getD, List.getElem?_replicate] at this
    split at this <;> cases this
theorem one_ctx {s : State} {p : Nat} {x : Ctx} (h : (s.pd p).ctxs = some x :: none :: List.replicate 6 none) :
    ∀ k, k ≠ 0 → s.ctx p k = none := by
  intro k hk
  cases hz : s.ctx p k with
  | none => rfl
  | some z => exact absurd (two_ctx (fun k _ => k = 0) h rfl (fun _ h => absurd h (by simp)) k z hz) hk
theorem bare {s : State} {p : Nat} (h : (s.pd p).ctxs = List.replicate 8 none) : ∀ c, s.ctx p c = none := by
  intro c
  cases hz : s.ctx p c with
  | none => rfl
  | some z => exact (no_ctx (fun _ => False) h c z hz).elim

/-- A plain parcel over these records, in its step and running. -/
def running (bs : List RecBody) : Ctx := { ctxOf 3 bs with state := .running, inStep := true }
def readyCtx : Ctx := { ctxOf 3 [] with state := .ready, priority := 1 }
def runningLow : Ctx := { running [] with priority := 1 }

/-- Logical stable 0 bound to physical stable 3, which is this. -/
def onStable (s : State) (x : Stable) : State :=
  { s with stables := stable3 x, remount := { Remount.empty with bind := some 3 :: List.replicate 63 none, good := [3, 4] } }

/-- A product of one row, one column and one term, without a program. -/
def kMm1 : KernelRec :=
  { (default : KernelRec) with kop := 1, fmtA := 0x04, fmtB := 0x04, fmtC := 0x01, m := 1, k := 1, n := 1, progBlob := 0xFFFFFFFF, gdesc := [] }
def ctxWorking (k : KernelRec) : Ctx :=
  { running [.kernel k] with
    table := [⟨0, penBase 0, 0x1000, 1, 3, 0, 0, []⟩]
    parcel := { (running [.kernel k]).parcel with descs := [⟨0, false, 0, [⟨16, 4, 0, 15⟩]⟩] } }
/-- A K.COMPACT record whose source lies where its count word goes. -/
def ctxOnRow : Ctx := { ctxWorking { kMm1 with kop := 5 } with table := [⟨0, 0, 0x1000, 2, 3, 0, 3, []⟩] }
def working (k : KernelRec) (x : Stable) : State :=
  onStable (up [twoCtx (ctxWorking k) none]) { x with queue := [shareOf 0 0] }
def oWorking (k : KernelRec) : Kop := ⟨3, shareOf 0 0, ctxWorking k, k⟩

/-- The stage at which one product's only sum reaches the drain, and the rank that holds its row. -/
def stageOne (last : Bool) (moved : Option (List (Option Accum))) : Stage :=
  ⟨⟨0, 0, 0, 0, 0, true⟩, [some [.zero false]], [⟨0, 0, []⟩], false, last, moved⟩
def rankOne : Rank := { Rank.empty with bankA := { Bank.empty with holds := some (0, 0, 0), rows := [some ⟨[some 0], []⟩] } }
def stableOne (pipe : List (Option Stage)) : Stable :=
  { Stable.reset with ranks := rankOne :: List.replicate 3 Rank.empty, active := 4, pipe := pipe, pos := ⟨0, 0, 0, 0, 0, true⟩ }
def ctxBranch (b : BranchRec) : Ctx :=
  let x := running [.kernel kMm1, .branch b, .kernel kMm1]
  { x with tr := { x.tr with cur := 1 } }
theorem busy_one {s : State} (h : (s.stable 3).queue = [shareOf 0 1] ∧ 3 < s.stables.length) :
    ∀ u ∈ [((3, 0, 1) : Nat × Nat × Nat)], u.1 < s.stables.length ∧ (s.stable u.1).busy := by
  intro u hu
  obtain rfl := List.mem_singleton.1 hu
  exact ⟨h.2, shareOf 0 1, [], h.1, rfl, rfl⟩

/-- Which ostlers are in service. -/
def ostlers (f : Nat → Bool) : State :=
  { up [] with ostlers := (List.range 20).map fun o => { Ostler.reset with ok := f o } }

/-- A selection of the best of one row of one column, and a compaction of one item. -/
def kTop : KernelRec := { kMm1 with kop := 4, fmtA := 0x01 }
def topOne : TopRank := ⟨0, 1, [], [(5, 0)], [], true⟩
def kMove : KernelRec := { kMm1 with kop := 5, esize := 4 }

/-! ### Sheds, turnout and steps -/

/-- A plain parcel of one record, with a descriptor of 16 words from paddock address 0 and one from 0x200. -/
def ctxShed (b : RecBody) : Ctx :=
  let x := running [b]
  { x with parcel := { x.parcel with descs := [⟨0, false, 0, [⟨16, 4, 0, 15⟩]⟩, ⟨0x200, false, 0, [⟨16, 4, 0, 15⟩]⟩, ⟨0x2000, false, 0, [⟨16, 4, 0, 15⟩]⟩] }
           table := x.table ++ [⟨0x2000, penBase 0, 0x1000, 1, 3, 0, 0, []⟩] }
def shedding (b : RecBody) : State := up [twoCtx (ctxShed b) none]
theorem all_sheds {s : State} (h : s.sheds = List.replicate 192 Shed.reset) : ∀ ch, (s.shed ch).ok = true := by
  intro ch
  rw [State.shed, h, List.getD_eq_getElem?_getD, List.getElem?_replicate]
  split <;> rfl
def mvOne : MvRec := ⟨1, 1, 1, 0x04, 0x04, 0x01, 0x800, 0, 0, 1, 0, 0, 0⟩
def attnOne (final : Bool) : AttnRec :=
  { (default : AttnRec) with kvList := 0x100, nblk := 1, valid := 1, seglen := 1, d := 1, g := 1, fmtKv := 0x02, fmtQ := 0x02, qDesc := 0, outDesc := 1, fmtOut := 0x02, final := final, qkScale := 0x3F800000 }
def acombOne : AcombRec := ⟨0, 0, 1, 1, 1, 0x02, 1⟩
def copyOne (toPen : Bool) : CopyRec := ⟨0x400, 4, 2, toPen⟩
def fillOne : FillRec := ⟨0x400, 128, true⟩
def turnOne (xpose : Bool) : TurnRec := ⟨xpose, 4, 4, 4, 0, 1⟩
def jobOne (copied : Bool) : TurnJob := ⟨0, 0, 0, true, copied, 0⟩
def engine (b : RecBody) (copied : Bool) : State := { shedding b with turnout := [[], [jobOne copied]] }
/-- A BLOCKED context whose turnout record reads the companion window. -/
def ctxAway : Ctx := { ctxShed (.turnout (turnOne true)) with state := .blocked, table := [⟨0, 0, 0x1000, 3, 3, 0, 0, []⟩] }
/-- A turnout record that reads a row store, whose job has not run, in a context that is to be pre-empted. -/
def ctxRowMove : Ctx := { ctxShed (.turnout (turnOne false)) with table := [⟨0, 0, 0x1000, 2, 3, 0, 3, []⟩] }
def rowMoving : State :=
  { up [{ twoCtx ctxRowMove none with switching := some ⟨some 0, 1, .requested⟩ }] with turnout := [[], [jobOne false]] }
/-- A plain parcel of a job of two roles that sends 16 bytes to role 1. -/
def ctxSends : Ctx :=
  let x := running [.xferSend 1 5 0, .collection ⟨7, 2, 0, 1, 0xFFFF⟩, .route 0 2]
  { x with parcel := { x.parcel with descs := [descFor 16], blob := [1, 1] } }

/-- One that receives 16 bytes from role 1, over port 2. -/
def ctxRecv : Ctx :=
  let x := running [.xferRecv 1 5 0 9, .collection ⟨7, 2, 0, 1, 0xFFFF⟩, .route 0 2]
  { x with parcel := { x.parcel with descs := [descFor 16], blob := [1, 2] } }

/-- The begin of a step that gives one stable to the teacher; with a second micro-batch. -/
def beginOne : StepBeginRec := { (default : StepBeginRec) with tLo := 1, tHi := 1 }
def beginTwo : StepBeginRec := { beginOne with micro := 1 }
def bodyOf (b : StepBeginRec) : List RecBody := [.stepBegin b, .stepCoef default, .collSet true 0 0, .stepEnd]

/-- A running context of this kind, in this phase of its step, or asked for one. -/
def inPhase (kind n : Nat) (bs : List RecBody) : Ctx :=
  let x := ctxOf kind bs
  { x with state := .running, stepsLeft := 1, inStep := decide (n ≠ 0), tr := { x.tr with phase := n } }
def stepping (x : Ctx) : State := linked (up [twoCtx x none]) Port.down
def bound (s : State) : State := { s with remount := { Remount.empty with bind := some 3 :: some 4 :: List.replicate 62 none } }

/-- An attempt that has ended with a verdict. -/
def judged (v : Verdict) : Ctx := let x := inPhase 0 9 (bodyOf beginOne); { x with tr := { x.tr with verdict := some v } }

/-- A serving context in this phase, and one whose variant is not in the paddock. -/
def inServing (n : Nat) : Ctx := { ctxLive with state := .running, sv := { ctxLive.sv with phase := n } }
def inCommit : Ctx := { ctxLive with state := .running, sv := { ctxLive.sv with phase := 18, record := some ctxLive.sv.streams } }
def bound16 : Ctx := { ctxLive with state := .running, sv := { ctxLive.sv with phase := 16, bound := true } }
def outside (bs : List RecBody) : Ctx :=
  let x := ctxOf 1 (.serving { servingOne with swap := true } :: bs)
  { x with parcel := { x.parcel with recs := x.parcel.recs.map fun r => { r with head := { r.head with tag := 1 } } }
           sv := { Serve.start with active := false, queue := [stream] } }
def away : Ctx := { outside [] with sv := { Serve.start with active := false } }
theorem nothing_queued {x : Ctx} (h : x.sv.queue = []) : ∀ k y, (stepping x).ctx 0 k = some y → y.sv.queue = [] :=
  two_ctx (fun _ y => y.sv.queue = []) (x := x) rfl h fun _ h => nomatch h

/-! ### Requests and codewords of MCL -/

/-- A request of the module that has been sent, and the module with these requests open. -/
def ask (tag : Nat) (k : ReqKind) (addr : Nat) : McReq := ⟨tag, k, addr, false, 2, 0, 0, [], 0, true, 0⟩
def asking (ds : List Paddock) (rs : List McReq) : State := { up ds with mcl := { (up ds).mcl with requests := rs } }
/-- The module with these codewords in the replay buffer. -/
def wordsHeld (ws : List McWord) : State := { up [] with mcl := { (up []).mcl with held := ws } }
/-- The module with the lanes of MCL counted so. -/
def counted (cs : List LaneCount) : State := { up [] with mcl := { (up []).mcl with counts := cs } }
/-- The companion holds no request slots; a request waits for one; codewords in the replay buffer, before and after training; a request to be sent again. -/
def spentCredit : State := { up [] with mcl := { (up []).mcl with granted := (0, 1024, 64) } }
def unsentAsk : McReq := { ask noTag (.postbox 0) 64 with sent := false }
def waitsForSlot : State := { up [] with mcl := { (up []).mcl with requests := [unsentAsk], reqCredit := 0 } }
def heldWords : State := wordsHeld [⟨2, []⟩, ⟨3, []⟩, ⟨4, []⟩]
def untrainedHolding : State := { up [] with mcl := { Mcl.reset with held := [⟨2, []⟩, ⟨3, []⟩, ⟨4, []⟩] } }
def waitingAsk : McReq := { ask 1 (.postbox 0) 64 with waits := true }
/-- An access of a job that was made 1,000,000 cycles ago. -/
def lateAsk : State := atCount 1000000 (asking [withCtx ctxPlain] [ask 1 (.job 0 0 0) 64])
/-- Sixteen symbols of lane 0 in error: more than the code corrects; and one. -/
def manyErrors : List (Nat × Nat) := (List.range 16).map fun i => (16 * i, 1)
def oneError : List (Nat × Nat) := [(0, 1)]

/-- A frame of one block that waits at a port for a cell of credit; a port whose peer has granted all 32. -/
def waitsForCredit : SentFrame := ⟨0, 0, 0, 2, 0, 7, .grad default [zeros]⟩
def portWaiting : Port := { portUp with credit := [(0, 0)], queue := [waitsForCredit] }

/-- The second port leads to role 1 of the job whose transfer this module forwards. -/
def forwarding : State := { up [withCtx ctxSends] with ports := portUp :: portUp :: List.replicate 30 Port.down }

/-! ### A firmware image -/

/-- The smallest image: its header names one byte of code by its SHA-256 and holds the key; the signature is a string of zeros. -/
def imageKey : List Byte := List.replicate 60 7
def imageHead : List Byte :=
  [0x50, 0x58, 0x46, 0x57, 1, 0, 0, 0, 1, 0, 0, 0, 1, 0, 0, 0, 1, 0, 0, 0] ++ imageKey ++ sha256 [0] ++ List.replicate 144 0
def imageOne : List Byte := imageHead ++ [0] ++ List.replicate 3124 0
/-- It is whole where the device's key is this one and the signature holds (R651; both are the configuration's). -/
theorem image_whole (hk : sha256 imageKey = Config.fwKeyHash) (hv : Config.fwVerify imageKey imageHead (List.replicate 3124 0) = true) :
    imageWhole imageOne = true := by
  have h1 : imageOne.take 256 = imageHead := by decide +kernel
  have h2 : fieldAt imageOne 8 4 = 1 := by decide +kernel
  have h3 : (imageOne.drop 257).take 3124 = List.replicate 3124 0 := by decide +kernel
  have h4 : (imageOne.drop 20).take 60 = imageKey := by decide +kernel
  have h5 : (imageOne.take 4 == [0x50, 0x58, 0x46, 0x57] && fieldAt imageOne 4 2 == 1 && fieldAt imageOne 7 1 == 0 &&
      ((imageOne.drop 112).take 144).all (· == 0) && decide (fieldAt imageOne 6 1 ≤ 128) && decide (1 ≤ 1 ∧ 1 ≤ 0x7F0000) &&
      decide (256 + 1 + 3124 ≤ imageOne.length)) = true := by decide +kernel
  have h6 : (sha256 ((imageOne.drop 256).take 1) == (imageOne.drop 80).take 32) = true := by decide +kernel
  unfold imageWhole
  simp only [h1, h2, h3, h4, hk, hv]
  rw [h5, h6]
  simp
/-- The module with that image at the companion's address 0, and this anti-rollback floor. -/
def imaged (floor : Nat) : State := having { up [ringed] with otp := { (up [ringed]).otp with floor := floor } } 0 imageOne
theorem imaged_bytes (floor : Nat) (h : (up [ringed]).mem.wf = true) : ((imaged floor).took 0 letter).rdComp 0 3381 = imageOne :=
  reads_back _ 0 imageOne 0 letter 3381 (by decide +kernel) h
    (show 0 + imageOne.length ≤ ((up [ringed]).pd 0).ring.base + 0x8040 by decide +kernel)

/-- A product of 65 terms: its tile has two events. -/
def kMm65 : KernelRec := { kMm1 with k := 65 }
/-- What a rank holds that predicts the sums of these accumulators. -/
def rankOf (vals : List (Option Accum)) : Rank := { Rank.empty with p1 := sumAccs (fun _ => 1) vals, p2 := sumAccs (· + 1) vals }
def accOf (a : Int) : Option Accum := some (.exact (.fin a))
/-- A stable whose only rank holds a sum that its prediction does not have. -/
def stableOff : Stable := { stableOne [] with accs := [.exact (.fin 1)] }

/-- A compaction or an expansion about to move the last of its 16 items, whose mask is the top bit of this byte. -/
def moving (k : KernelRec) (mask : Byte) : State :=
  { working k { Stable.reset with active := 4, pos := ⟨0, 0, 0, 15, 0, false⟩ } with mem := memWrite [] (penBase 0 + 1) [mask] }
def kExpandOne (fill : Bool) : KernelRec := { kMove with kop := 6, mode := if fill then 64 else 0 }

/-- What lets a record on sheds start. -/
abbrev shedsReady (s : State) (p c i : Nat) (x : Ctx) (chs : List Nat) : Prop :=
  s.preempts p c = false ∧ s.canStart p x.offMcl i chs.length = true ∧ x.offMcl.shedsBusy chs = false ∧ (∀ f ∈ x.flights, f.ordinal ≠ i) ∧
    ∀ ch ∈ chs, ch < s.sheds.length ∧ (s.shed ch).lanes = []
abbrev piecesReady (s : State) (p c i k : Nat) (x : Ctx) : Prop :=
  s.preempts p c = false ∧ s.canStart p x.offMcl i 8 = true ∧ x.offMcl.shedsBusy (span (8 * k) 8) = false ∧
    (∀ f ∈ x.flights, f.ordinal ≠ i) ∧ ∀ ch ∈ span (8 * k) 8, (s.shed ch).lanes = []

/-! ### Well-formedness: a term that each check refuses -/

theorem test_wf_letter : wellFormed (.stepRun 0 letter 7 5 0xFFFFFFFF) = true := by decide
theorem test_wf_paddock : wellFormed (.cancel 16 letter) = false := by decide
theorem test_wf_context : wellFormed (.commit 0 8) = false := by decide
theorem test_wf_stable : wellFormed (.gAdd 71) = true ∧ wellFormed (.gAdd 72) = false := by decide
theorem test_wf_die : wellFormed (.idcode 2) = false := by decide
theorem test_wf_port : wellFormed (.holdTimeout 32) = false := by decide
theorem test_wf_channel : wellFormed (.scrubPeriodEnd 192) = false := by decide
theorem test_wf_engine : wellFormed (.move 2) = false := by decide
theorem test_wf_rail : wellFormed (.railRecovered 9) = false := by decide
theorem test_wf_pen : wellFormed (.yardScrub 96 0 .clean) = false := by decide
theorem test_wf_ostler : wellFormed (.heartbeatMiss 20) = false := by decide
theorem test_wf_seat : wellFormed (.release 256 false) = false := by decide
theorem test_wf_rtag : wellFormed (.ack mcHead 0) = true ∧ wellFormed (.cmp mcHead 4096 0) = false := by decide
theorem test_wf_lane : wellFormed (.laneLockLoss (.port 3) 5) = false ∧ wellFormed (.laneLockLoss .mcl 18) = false ∧
    wellFormed (.laneLockLoss (.bridge 1) 68) = false ∧ wellFormed (.laneLockLoss (.bridge 1) 67) = true := by decide
theorem test_wf_fits : wellFormed (.powerCap 0 letter 65536) = false := by decide
theorem test_wf_head : wellFormed (.cancel 0 ⟨256, 1, 0, 5, 0, none⟩) = false := by decide
theorem test_wf_bulk : wellFormed (.remountMap 0 letter ⟨0, 2 ^ 32⟩) = false := by decide
theorem test_wf_units : wellFormed (.paddockOpen 0 letter ⟨1, 2 ^ 24, 1, 1, 1⟩ 0 0 true) = false := by decide
theorem test_wf_admit : wellFormed (.admitLetter 0 letter request) = false ∧
    wellFormed (.admitLetter 0 letter { request with stop := [0, 0, 0, 0] }) = true := by decide
theorem test_wf_frame : wellFormed (.epoch 0 ⟨0, 7, 0, 17, true⟩ default) = false := by decide
theorem test_wf_grad : wellFormed (.grad 0 frame ⟨0, 0, 128, 0, 0, 0⟩ [zeros]) = false ∧
    wellFormed (.grad 0 frame ⟨0, 0, 127, 0, 0, 0⟩ [zeros]) = true := by decide
theorem test_wf_block : wellFormed (.grad 0 frame ⟨0, 0, 0, 0, 0, 0⟩ [{ zeros with q := [2 ^ 39] }]) = false := by decide
theorem test_wf_seal : wellFormed (.sealFrame 0 frame default) = false := by decide
theorem test_wf_close : wellFormed (.close 0 frame ⟨0, 0, 0, 0, 2, 4⟩) = false := by decide
theorem test_wf_epoch : wellFormed (.epoch 0 frame ⟨0, [], 0, false⟩) = false := by decide
theorem test_wf_param : wellFormed (.param 0 frame ⟨0, 2, 0, 0⟩ [0]) = false := by decide
theorem test_wf_payload : wellFormed (.xfer 0 frame 1 0 5 0 []) = false := by decide
theorem test_wf_link : wellFormed (.link 0 frame ⟨none, none, [(2 ^ 24, 0)], 0, 0⟩) = false := by decide
theorem test_wf_granules : wellFormed (.cmpD mcHead 0 0 [0]) = false := by decide
theorem test_wf_sampled : wellFormed (.servingCommitPoint 0 0 [⟨0, [], []⟩]) = false := by decide
theorem test_wf_temp : wellFormed (.wck2dqTrack 0 true true 32768) = false := by decide
theorem test_wf_symbols : wellFormed (.linkUncorrectableCodeword 0 [(544, 1)]) = false ∧
    wellFormed (.linkUncorrectableCodeword 0 [(543, 1023)]) = true := by decide
theorem test_wf_upset : wellFormed (.feedEvent 0 true (.stall 4 0 1)) = false ∧ wellFormed (.feedEvent 0 true (.cell 0 512)) = false := by decide
theorem test_wf_ranks : wellFormed (.rampUp 0 5) = false ∧ wellFormed (.rampDown 0 4) = false := by decide
theorem test_wf_shed : wellFormed (.sMv 0 0 0 0 [⟨0, 0, some 8, false⟩]) = false := by decide

/-! ### Worked examples and published vectors of the spec -/

/-- A row of exact terms (05_numerics.md, V1): E4M3 bytes of A and B, the FP32 bits and the flags. -/
def dotE4M3 (a b : List Nat) : Fp.Coded :=
  let r := dotOf (a.map (elemValue 0x03)) (b.map (elemValue 0x03))
  ⟨(Long.drainTo fmtFP32 r.acc 0).bits, flagOr r.flags (Long.drainTo fmtFP32 r.acc 0).flags⟩
theorem test_vector_V1 : dotE4M3 [0x7E, 0x01, 0xFE, 0x01] [0x7E, 0x01, 0x7E, 0x01] = ⟨0x37000000, 0⟩ := by decide +kernel

/-- V2: 32 over-range terms drain as the largest finite FP32 and set SAT. -/
def dotV2 : Fp.Coded :=
  let r := dotOf (List.replicate 32 (scaledValue 0x9F (elemValue 0x12 0x7B))) (List.replicate 32 (scaledValue 0x7F (elemValue 0x12 0x3C)))
  ⟨(Long.drainTo fmtFP32 r.acc 0).bits, flagOr r.flags (Long.drainTo fmtFP32 r.acc 0).flags⟩
theorem test_vector_V2 : dotV2 = ⟨0x7F7FFFFF, 0x10⟩ := by decide +kernel

/-- V3 and its table: 1,234,567.25 (0x4996B43A) rounds by the random word. -/
theorem test_vector_V3 : (wireOf (Fp.val32 0x4996B43A) 0 0x2F1C0A93).1 = 1234568 ∧
    (wireOf (Fp.val32 0x4996B43A) 0 0x9D047731).1 = 1234567 := by decide +kernel
theorem test_wire_negative : (wireOf (Fp.val32 0xC996B43A) 0 0x2F1C0A93).1 = -1234568 ∧
    (wireOf (Fp.val32 0xC996B43A) 0 0x9D047731).1 = -1234567 := by decide +kernel

/-- V4 and the two rows after it: the kept remainder of 1 + 2^-9 + 3·2^-20, of that less 2^-10, and of 1 + 5·2^-10 + 3·2^-20. -/
theorem test_vector_V4 : keptWrite (Fp.val32 0x3F804018) = ⟨0x3F80, 16408, 0⟩ := by decide +kernel
theorem test_kept_after_updates : keptWrite (Extn.ofDy ⟨2 ^ 20 + 2 ^ 10 + 3, -20⟩) = ⟨0x3F80, 8216, 0⟩ ∧
    keptWrite (Extn.ofDy ⟨2 ^ 20 + 5 * 2 ^ 10 + 3, -20⟩) = ⟨0x3F81, -24552, 0⟩ := by decide +kernel

/-- 06_memory_and_sheds.md, one address: package 5, channel 3, rank 1, bank 9, row 0xB0F5. -/
theorem test_address : 0x5AC3D71B40 / packageSize = 5 ∧ channelOf 5 (0x5AC3D71B40 % packageSize) = 43 ∧
    rowCode (0x5AC3D71B40 % packageSize) = 1 * 2 ^ 21 + 9 * 2 ^ 17 + 0xB0F5 := by decide +kernel

/-- 05_numerics.md, a class through one step: 13.7 gives 4, 20.1 gives 3. -/
theorem test_scale_exponent : ScaleRec.exponent { (default : ScaleRec) with target := 3 } 0x415B3333 0 = 4 ∧
    ScaleRec.exponent { (default : ScaleRec) with target := 3 } 0x41A0CCCD 0 = 3 := by decide +kernel
/-- The same as MXFP8: scale 0x7A, largest element 448. -/
theorem test_mx_block : (mxConvert 0x11 .rne [.num (Fxn.ofDy (Extn.dy (Fp.val32 0x415B3333)))]).scale = 0x7A ∧
    (mxConvert 0x11 .rne [.num (Fxn.ofDy (Extn.dy (Fp.val32 0x415B3333)))]).elems = [0x7E] := by decide +kernel

/-- 09_update_unit.md, one element of a factored layer: s1n, hi and r. -/
def updateOne : ElemOut :=
  let k : ClassCoef := { (default : ClassCoef) with a1 := 0x3F600000, b1 := 0x3E000000, a2 := 0x3F780000, b2 := 0x3D000000, c1 := 0x3F800000, eps := 0x2B800000, e := 0x3F000000, factored := true }
  let c : StepCoef := { (default : StepCoef) with lr := 0x3C000000, gscale := 0x3F800000 }
  (UpK.of k c 0x3F800000 0 0 0).elem (Wide.ofDy ⟨1, -6⟩) 0x3F80 0 (Wide.ofDy ⟨1, -8⟩) Wide.zero (some (Wide.ofDy ⟨35, -16⟩))
theorem test_update_element : updateOne.s1 = 0x3BB00000 ∧ updateOne.kept.hi = 0x3F80 ∧ updateOne.kept.r = -15232 := by decide +kernel

/-- 01_device_organisation.md, a balance settles: 0.77 counts, 0.74 and 0.52 do not. -/
theorem test_occupancy : occupancyClass 77 100 = some 2 ∧ occupancyClass 74 100 = some 1 ∧ occupancyClass 52 100 = some 1 := by decide

/-- FIPS 180-4's own example, "abc": its first word. -/
theorem test_sha256_abc : (sha256 [0x61, 0x62, 0x63]).take 4 = [0xBA, 0x78, 0x16, 0xBF] := by decide +kernel

/-! ### Witnesses -/

/-- States and operands that meet the hypotheses of LettersNotAcceptedAreAnsweredOrWait, clause by clause. -/
theorem witness_LettersNotAcceptedAreAnsweredOrWait :
    (((letterOf (.hello 0 letter 1 0) = some (0, 1, 4, letter)) ∧
      0 < 16 ∧
      State.reset.takesLetters 0 = false) ∧
      ((letterOf (.hello 0 ({ letter with length := 9 } : LetterHead) 1 0) = some (0, 1, 4, ({ letter with length := 9 } : LetterHead))) ∧
      0 < 16 ∧
      (up [ringed]).takesLetters 0 = true ∧
      (({ letter with length := 9 } : LetterHead).length = 0 ∨ 8 < ({ letter with length := 9 } : LetterHead).length)) ∧
      ((letterOf (.hello 0 ({ letter with length := 0 } : LetterHead) 1 0) = some (0, 1, 4, ({ letter with length := 0 } : LetterHead))) ∧
      0 < 16 ∧
      (up [ringed]).takesLetters 0 = true ∧
      (({ letter with length := 0 } : LetterHead).length = 0 ∨ 8 < ({ letter with length := 0 } : LetterHead).length)) ∧
      ((letterOf (.hello 0 ({ letter with sequence := 0xFFFFFFFF } : LetterHead) 1 0) = some (0, 1, 4, ({ letter with sequence := 0xFFFFFFFF } : LetterHead))) ∧
      0 < 16 ∧
      (up [ringed]).takesLetters 0 = true ∧
      1 ≤ ({ letter with sequence := 0xFFFFFFFF } : LetterHead).length ∧
      ({ letter with sequence := 0xFFFFFFFF } : LetterHead).length ≤ 8 ∧
      ({ letter with sequence := 0xFFFFFFFF } : LetterHead).sequence % 2 ^ 32 ≠ ((up [ringed]).pd 0).ring.expected) ∧
      ((letterOf (.hello 0 ({ letter with unlisted := some 0xFFFF } : LetterHead) 1 0) = some (0, 1, 4, ({ letter with unlisted := some 0xFFFF } : LetterHead))) ∧
      0 < 16 ∧
      (up [ringed]).takesLetters 0 = true ∧
      1 ≤ ({ letter with unlisted := some 0xFFFF } : LetterHead).length ∧
      ({ letter with unlisted := some 0xFFFF } : LetterHead).length ≤ 8 ∧
      ({ letter with unlisted := some 0xFFFF } : LetterHead).sequence % 2 ^ 32 = ((up [ringed]).pd 0).ring.expected ∧
      ({ letter with unlisted := some 0xFFFF } : LetterHead).unlisted.isSome = true) ∧
      ((letterOf (.attest 0 ({ letter with flags := 2 } : LetterHead) [] ⟨0, 0⟩ 0) = some (0, 0x18, 44, ({ letter with flags := 2 } : LetterHead))) ∧
      0 < 16 ∧
      (up [ringed]).takesLetters 0 = true ∧
      1 ≤ ({ letter with flags := 2 } : LetterHead).length ∧
      ({ letter with flags := 2 } : LetterHead).length ≤ 8 ∧
      ({ letter with flags := 2 } : LetterHead).sequence % 2 ^ 32 = ((up [ringed]).pd 0).ring.expected ∧
      ({ letter with flags := 2 } : LetterHead).unlisted = none ∧
      (64 * ({ letter with flags := 2 } : LetterHead).length < 16 + 44 ∨ 2 ≤ ({ letter with flags := 2 } : LetterHead).flags ∨ ({ letter with flags := 2 } : LetterHead).reserved ≠ 0)) ∧
      ((letterOf (.admitLetter 0 letter default) = some (0, 0x60, 63, letter)) ∧
      0 < 16 ∧
      (up [ringed]).takesLetters 0 = true ∧
      1 ≤ letter.length ∧
      letter.length ≤ 8 ∧
      letter.sequence % 2 ^ 32 = ((up [ringed]).pd 0).ring.expected ∧
      letter.unlisted = none ∧
      (64 * letter.length < 16 + 63 ∨ 2 ≤ letter.flags ∨ letter.reserved ≠ 0)) ∧
      ((letterOf (.scrubSet 0 letter 1) = some (0, 4, 1, letter)) ∧
      0 < 16 ∧
      ({ up [ringed] with start := { (up [ringed]).start with hello := false } } : State).takesLetters 0 = true ∧
      ({ up [ringed] with start := { (up [ringed]).start with hello := false } } : State).inForm 0 1 letter ∧
      ({ up [ringed] with start := { (up [ringed]).start with hello := false } } : State).start.hello = false ∧
      4 ≠ 0x0001) ∧
      ((letterOf (.scrubSet 0 letter 1) = some (0, 4, 1, letter)) ∧
      0 < 16 ∧
      ({ up [ringed] with start := { (up [ringed]).start with phase := 4 } } : State).takesLetters 0 = true ∧
      ({ up [ringed] with start := { (up [ringed]).start with phase := 4 } } : State).inForm 0 1 letter ∧
      (({ up [ringed] with start := { (up [ringed]).start with phase := 4 } } : State).start.hello = true ∨ 4 = 0x0001) ∧
      ({ up [ringed] with start := { (up [ringed]).start with phase := 4 } } : State).start.phase ≠ 7 ∧
      beforePhase7 4 = false) ∧
      ((letterOf (.paddockOpen 0 letter oneUnit 1 0 true) = some (0, 0x20, 20, letter)) ∧
      0 < 16 ∧
      (up [openPd]).takesLetters 0 = true ∧
      (up [openPd]).inForm 0 20 letter ∧
      (up [openPd]).start.hello = true ∧
      (up [openPd]).start.phase = 7 ∧
      0x20 = 0x0020 ∧
      ((up [openPd]).pd 0).state ≠ .closed) ∧
      ((letterOf (.paddockClose 0 letter) = some (0, 0x21, 0, letter)) ∧
      0 < 16 ∧
      (up [ringed]).takesLetters 0 = true ∧
      (up [ringed]).inForm 0 0 letter ∧
      (up [ringed]).start.hello = true ∧
      (up [ringed]).start.phase = 7 ∧
      0x0020 < 0x21 ∧
      ((up [ringed]).pd 0).state ≠ .opened)) :=
  by and_intros <;> decide +kernel

/-- States and operands that meet the hypotheses of LettersCarryRisingSequences, clause by clause. -/
theorem witness_LettersCarryRisingSequences :
    ((15 < 16 ∧
      15 < (up []).pads.length ∧
      (up []).mcNext mcHead 1 1 0 ∧
      ((up []).pd 15).state = .closed) ∧
      ((letterOf (.hello 0 ({ letter with sequence := 0xFFFFFFFF } : LetterHead) 1 0) = some (0, 1, 4, ({ letter with sequence := 0xFFFFFFFF } : LetterHead))) ∧
      0 < 16 ∧
      0 < (up [ringed]).pads.length ∧
      (up [ringed]).takesLetters 0 = true ∧
      1 ≤ ({ letter with sequence := 0xFFFFFFFF } : LetterHead).length ∧
      ({ letter with sequence := 0xFFFFFFFF } : LetterHead).length ≤ 8 ∧
      ({ letter with sequence := 0xFFFFFFFF } : LetterHead).sequence % 2 ^ 32 ≠ ((up [ringed]).pd 0).ring.expected) ∧
      ((letterOf (.hello 0 ({ letter with sequence := 1, length := 8 } : LetterHead) 1 0) = some (0, 1, 4, ({ letter with sequence := 1, length := 8 } : LetterHead))) ∧
      0 < 16 ∧
      0 < (up [ringed]).pads.length ∧
      (up [ringed]).takesLetters 0 = true ∧
      1 ≤ ({ letter with sequence := 1, length := 8 } : LetterHead).length ∧
      ({ letter with sequence := 1, length := 8 } : LetterHead).length ≤ 8 ∧
      ({ letter with sequence := 1, length := 8 } : LetterHead).sequence % 2 ^ 32 ≠ ((up [ringed]).pd 0).ring.expected) ∧
      15 < (up [ringed]).pads.length ∧
      (0 < 16 ∧
      (up [ringed]).takesLetters 0 = true ∧
      1 ≤ ({ letter with length := 8 } : LetterHead).length ∧
      ({ letter with length := 8 } : LetterHead).length ≤ 8)) :=
  by and_intros <;> decide +kernel

/-- States and operands that meet the hypotheses of TakenLetterMovesTheConsumer, clause by clause. -/
theorem witness_TakenLetterMovesTheConsumer :
    (((up [ringed]).mem.wf = true ∧
      0 < (up [ringed]).pads.length ∧
      ((up [ringed]).pd 0).ring.en = true ∧
      1 ≤ letter.length ∧
      letter.length ≤ 8) ∧
      ((up [ringed]).mem.wf = true ∧
      0 < 16 ∧
      (up [ringed]).takesLetters 0 = true ∧
      1 ≤ ({ letter with length := 8 } : LetterHead).length ∧
      ({ letter with length := 8 } : LetterHead).length ≤ 8)) :=
  by and_intros <;> decide +kernel

/-- States and operands that meet the hypotheses of OutboundLettersAreQueuedAndPosted, clause by clause. -/
theorem witness_OutboundLettersAreQueuedAndPosted :
    (((up [{ ringed with ring := { ringOn with producer := 255, consumer := 3 } }]).mem.wf = true ∧
      0 < (up [{ ringed with ring := { ringOn with producer := 255, consumer := 3 } }]).pads.length ∧
      ((up [{ ringed with ring := { ringOn with producer := 255, consumer := 3 } }]).pd 0).ring.en = true ∧
      ((up [{ ringed with ring := { ringOn with producer := 255, consumer := 3 } }]).pd 0).ring.waiting = [] ∧
      ((up [{ ringed with ring := { ringOn with producer := 255, consumer := 3 } }]).pd 0).ring.events = [] ∧
      ((up [{ ringed with ring := { ringOn with producer := 255, consumer := 3 } }]).pd 0).ring.dropped = 0 ∧
      ((up [{ ringed with ring := { ringOn with producer := 255, consumer := 3 } }]).pd 0).ring.producer % 256 + (⟨0x8001, 5, []⟩ : OutLetter).slots ≤ 256 ∧
      (up [{ ringed with ring := { ringOn with producer := 255, consumer := 3 } }]).fits 0 (⟨0x8001, 5, []⟩ : OutLetter) = true) ∧
      (0 < (up [{ ringed with ring := { ringOn with producer := 256 } }]).pads.length ∧
      ((up [{ ringed with ring := { ringOn with producer := 256 } }]).pd 0).ring.en = true ∧
      ((up [{ ringed with ring := { ringOn with producer := 256 } }]).pd 0).ring.waiting = [] ∧
      (up [{ ringed with ring := { ringOn with producer := 256 } }]).fits 0 (⟨0x8001, 5, []⟩ : OutLetter) = false) ∧
      ringOn.events.length < 4096 ∧
      { ringOn with events := List.replicate 4096 ⟨0x4001, 0, []⟩ }.events.length = 4096 ∧
      ((({ up [ringed] with freeze := { Freeze.none with halter := true } } : State).pd 0).ring.en = true ∧
      ({ up [ringed] with freeze := { Freeze.none with halter := true } } : State).frozen = true)) :=
  by and_intros <;> decide +kernel

/-- States and operands that meet the hypotheses of DeviceSettingsTakeEffect, clause by clause. -/
theorem witness_DeviceSettingsTakeEffect :
    ((up [ringed]).accepts 0 0x0001 4 letter = true ∧
      ((up [ringed]).accepts 0 0x0002 32 letter = true ∧
      (up [ringed]).allClosed = true) ∧
      ((up [ringed]).accepts 0 0x0004 1 letter = true ∧
      1 ≤ 1 ∧
      1 ≤ 168) ∧
      ((up [ringed]).accepts 0 0x0004 1 letter = true ∧
      1 ≤ 168 ∧
      168 ≤ 168) ∧
      ((up [ringed]).accepts 0 0x001B 2 letter = true ∧
      4095 ≤ 4095) ∧
      ((up [ringed]).accepts 0 0x001A 1 letter = true ∧
      5 ≤ (up [ringed]).image.svn) ∧
      ((up [ringed]).accepts 0 0x0004 1 letter = true ∧
      (0 < 1 ∨ 168 < 0)) ∧
      ((up [ringed]).accepts 0 0x0004 1 letter = true ∧
      (169 < 1 ∨ 168 < 169)) ∧
      ((up [ringed]).accepts 0 0x001B 2 letter = true ∧
      4095 < 4096) ∧
      ((up [openPd]).accepts 0 0x00A1 1 letter = true ∧
      19 < 20) ∧
      ((up [openPd]).accepts 0 0x0002 32 letter = true ∧
      (up [openPd]).allClosed = false) ∧
      ((up [ringed]).accepts 0 0x001A 1 letter = true ∧
      (up [ringed]).image.svn < 6)) :=
  by and_intros <;> decide +kernel

/-- States and operands that meet the hypotheses of PowerCapsAreSetByLetter, clause by clause. -/
theorem witness_PowerCapsAreSetByLetter :
    (((up [ringed]).accepts 0 0x0003 2 letter = true ∧
      800 ≤ 800 ∧
      800 ≤ 2400) ∧
      ((up [ringed]).accepts 0 0x0003 2 letter = true ∧
      800 ≤ 2400 ∧
      2400 ≤ 2400) ∧
      ((up [ringed]).accepts 0 0x0003 2 letter = true ∧
      (799 < 800 ∨ 2400 < 799)) ∧
      ((up [ringed]).accepts 0 0x0003 2 letter = true ∧
      (2401 < 800 ∨ 2400 < 2401)) ∧
      ((up [openPd]).accepts 0 0x0025 2 letter = true ∧
      50 ≤ 50 ∧
      50 ≤ 2400) ∧
      ((up [openPd]).accepts 0 0x0025 2 letter = true ∧
      50 ≤ 2400 ∧
      2400 ≤ 2400) ∧
      (up [openPd]).accepts 0 0x0025 2 letter = true ∧
      ((up [openPd]).accepts 0 0x0025 2 letter = true ∧
      ((49 ≠ 0 ∧ 49 < 50) ∨ 2400 < 49)) ∧
      ((up [openPd]).accepts 0 0x0025 2 letter = true ∧
      ((2401 ≠ 0 ∧ 2401 < 50) ∨ 2400 < 2401))) :=
  by and_intros <;> decide +kernel

/-- States and operands that meet the hypotheses of DeviceReadsAnswer, clause by clause. -/
theorem witness_DeviceReadsAnswer :
    (mapped.accepts 0 0x0005 12 letter = true ∧
      bulkHolds (⟨64, 16⟩ : Bulk) mapped.remount.bytes.length = true) ∧
    (bulkHolds (⟨64, 49152⟩ : Bulk) ((List.range 192).map (up [ringed]).trainingRecord).flatten.length = true ∧
      (up [ringed]).accepts 0 0x0012 12 letter = true) ∧
    (((up [ringed]).accepts 0 0x0013 12 letter = true ∧
      bulkHolds (⟨64, 256⟩ : Bulk) (up [ringed]).flash.config.length = true) ∧
      ((up [ringed]).accepts 0 0x001C 12 letter = true ∧
      (up [ringed]).start.certOk = some true ∧
      bulkHolds (⟨64, 3204⟩ : Bulk) 3204 = true) ∧
      (({ up [openPd] with freeze := { Freeze.none with record := some (default : FreezeRec) } } : State).accepts 0 0x00A2 12 letter = true ∧
      ({ up [openPd] with freeze := { Freeze.none with record := some (default : FreezeRec) } } : State).freeze.record = some (default : FreezeRec) ∧
      bulkHolds (⟨64, 4096⟩ : Bulk) (default : FreezeRec).bytes.length = true) ∧
      ((up [openPd]).accepts 0 0x00A0 15 letter = true ∧
      71 < 72 ∧
      bulkHolds (⟨64, 36⟩ : Bulk) (((up [openPd]).stable 71).diag.map (leBytes 6)).flatten.length = true) ∧
      ((up [openPd]).accepts 0 0x00A1 1 letter = true ∧
      19 ≤ 19) ∧
      ((up [ringed]).accepts 0 0x0013 12 letter = true ∧
      (⟨64, 255⟩ : Bulk).addr % 64 = 0 ∧
      inWindow (⟨64, 255⟩ : Bulk).addr (⟨64, 255⟩ : Bulk).len = true ∧
      (⟨64, 255⟩ : Bulk).len < (up [ringed]).flash.config.length) ∧
      ((up [ringed]).accepts 0 0x0013 12 letter = true ∧
      ((⟨32, 256⟩ : Bulk).addr % 64 ≠ 0 ∨ inWindow (⟨32, 256⟩ : Bulk).addr (⟨32, 256⟩ : Bulk).len = false)) ∧
      ((up [ringed]).accepts 0 0x0013 12 letter = true ∧
      ((⟨windowSize - 64, 65⟩ : Bulk).addr % 64 ≠ 0 ∨ inWindow (⟨windowSize - 64, 65⟩ : Bulk).addr (⟨windowSize - 64, 65⟩ : Bulk).len = false)) ∧
      (mapped.accepts 0 0x0005 12 letter = true ∧
      (⟨64, 15⟩ : Bulk).addr % 64 = 0 ∧
      inWindow (⟨64, 15⟩ : Bulk).addr (⟨64, 15⟩ : Bulk).len = true ∧
      (⟨64, 15⟩ : Bulk).len < mapped.remount.bytes.length) ∧
      (mapped.accepts 0 0x0005 12 letter = true ∧
      ((⟨32, 256⟩ : Bulk).addr % 64 ≠ 0 ∨ inWindow (⟨32, 256⟩ : Bulk).addr (⟨32, 256⟩ : Bulk).len = false))) :=
  ⟨by decide +kernel,
    ⟨by rw [trainingRecords_length]; decide, by decide +kernel⟩,
    by and_intros <;> decide +kernel⟩

/-- States and operands that meet the hypotheses of TrustLettersAct, clause by clause. -/
theorem witness_TrustLettersAct :
    ((({ up [ringed] with start := { (up [ringed]).start with indexNext := 2 ^ 25 - 8 } } : State).accepts 0 0x0018 44 letter = true ∧
      ({ up [ringed] with start := { (up [ringed]).start with indexNext := 2 ^ 25 - 8 } } : State).start.certOk = some true ∧
      ({ up [ringed] with start := { (up [ringed]).start with indexNext := 2 ^ 25 - 8 } } : State).start.indexRefused = false ∧
      7 < 8 ∧
      ({ up [ringed] with start := { (up [ringed]).start with indexNext := 2 ^ 25 - 8 } } : State).start.indexNext + 7 < indexCount ∧
      (⟨64, 6452⟩ : Bulk).addr % 64 = 0 ∧
      inWindow (⟨64, 6452⟩ : Bulk).addr (⟨64, 6452⟩ : Bulk).len = true ∧
      6452 ≤ (⟨64, 6452⟩ : Bulk).len) ∧
      (({ up [ringed] with start := { (up [ringed]).start with certOk := some false } } : State).accepts 0 0x0018 44 letter = true ∧
      ({ up [ringed] with start := { (up [ringed]).start with certOk := some false } } : State).start.certOk = some false) ∧
      (({ up [ringed] with start := { (up [ringed]).start with indexNext := 2 ^ 25 } } : State).accepts 0 0x0018 44 letter = true ∧
      ({ up [ringed] with start := { (up [ringed]).start with indexNext := 2 ^ 25 } } : State).start.certOk = some true ∧
      indexCount ≤ ({ up [ringed] with start := { (up [ringed]).start with indexNext := 2 ^ 25 } } : State).start.indexNext) ∧
      ((up [ringed]).accepts 0 0x0018 44 letter = true ∧
      (up [ringed]).start.certOk = some true ∧
      (⟨64, 6452⟩ : Bulk).addr % 64 = 0 ∧
      inWindow (⟨64, 6452⟩ : Bulk).addr (⟨64, 6452⟩ : Bulk).len = true ∧
      6452 ≤ (⟨64, 6452⟩ : Bulk).len ∧
      8 ≤ 8)) ∧
    ((∀ (_ : sha256 imageKey = Config.fwKeyHash) (_ : Config.fwVerify imageKey imageHead (List.replicate 3124 0) = true), imageWhole (((imaged 0).took 0 letter).rdComp 0 3381) = true) ∧
      (imaged 0).otp.floor ≤ fieldAt (((imaged 0).took 0 letter).rdComp 0 3381) 6 1 ∧
      ((imaged 0).accepts 0 0x0019 12 letter = true ∧
      (imaged 0).start.fwWrite = none ∧
      3381 ≤ 0x800000 ∧
      inWindow 0 3381 = true)) ∧
    ((up [ringed]).accepts 0 0x0019 12 letter = true ∧
      (up [ringed]).start.fwWrite = none ∧
      64 ≤ 0x800000 ∧
      inWindow 0 64 = true ∧
      imageWhole (((up [ringed]).took 0 letter).rdComp 0 64) = false) ∧
    ((∀ (_ : sha256 imageKey = Config.fwKeyHash) (_ : Config.fwVerify imageKey imageHead (List.replicate 3124 0) = true), imageWhole (((imaged 1).took 0 letter).rdComp 0 3381) = true) ∧
      fieldAt (((imaged 1).took 0 letter).rdComp 0 3381) 6 1 < (imaged 1).otp.floor ∧
      ((imaged 1).accepts 0 0x0019 12 letter = true ∧
      (imaged 1).start.fwWrite = none ∧
      3381 ≤ 0x800000 ∧
      inWindow 0 3381 = true)) ∧
    (({ up [ringed] with start := { (up [ringed]).start with fwWrite := some (⟨false, []⟩, 0, 5, false) } } : State).accepts 0 0x0019 12 letter = true ∧
      ({ up [ringed] with start := { (up [ringed]).start with fwWrite := some (⟨false, []⟩, 0, 5, false) } } : State).start.fwWrite.isSome = true) :=
  ⟨by and_intros <;> decide +kernel,
    ⟨by intro hk hv; rw [imaged_bytes _ (by decide +kernel)]; exact image_whole hk hv, by rw [imaged_bytes _ (by decide +kernel)]; decide +kernel, by and_intros <;> decide +kernel⟩,
    by decide +kernel,
    ⟨by intro hk hv; rw [imaged_bytes _ (by decide +kernel)]; exact image_whole hk hv, by rw [imaged_bytes _ (by decide +kernel)]; decide +kernel, by and_intros <;> decide +kernel⟩,
    by decide +kernel⟩

/-- States and operands that meet the hypotheses of WarmAndConfigLettersTakeEffect, clause by clause. -/
theorem witness_WarmAndConfigLettersTakeEffect :
    (((up [ringed]).accepts 0 0x0010 2 letter = true ∧
      (up [ringed]).canPrepare 0 = true) ∧
      ((up [openPd]).accepts 0 0x0010 2 letter = true ∧
      (up [openPd]).canPrepare 1 = true)) ∧
    (warming.mapOk 1024 (mapEntries (1024 / 16) ((warming.took 0 letter).rdComp 0 1024)) = true ∧
      (warming.accepts 0 0x0011 21 letter = true ∧
      warming.start.phase = 4 ∧
      max 1 warming.start.failCount < 2 ∧
      inWindow 0 1024 = true ∧
      inWindow 0x100000 49152 = true)) ∧
    (configOk (((having (up [ringed]) 0 configRecord).took 0 letter).rdComp 0 256) = true ∧
      ((having (up [ringed]) 0 configRecord).accepts 0 0x0014 8 letter = true ∧
      (having (up [ringed]) 0 configRecord).allClosed = true ∧
      inWindow 0 256 = true)) :=
  ⟨by and_intros <;> decide +kernel,
    ⟨by rw [warming, reads_back _ 0 mapBytes 0 letter 1024 (by decide +kernel) rfl (by decide +kernel)]; decide +kernel, by and_intros <;> decide +kernel⟩,
    ⟨by rw [reads_back _ 0 configRecord 0 letter 256 (by decide +kernel) rfl (by decide +kernel)]; decide +kernel, by and_intros <;> decide +kernel⟩⟩

/-- States and operands that meet the hypotheses of PaddocksAreOpened, clause by clause. -/
theorem witness_PaddocksAreOpened :
    (((up [ringed]).accepts 0 0x0020 20 letter = true ∧
      0 ≠ 1 ∧
      (up [ringed]).retainedCopy 0 = none ∧
      (up [ringed]).openCheck 0 oneUnit = none) ∧
      (({ up [ringed] with start := { (up [ringed]).start with retained := [⟨0, [], false, 1⟩] } } : State).accepts 0 0x0020 20 letter = true ∧
      ({ up [ringed] with start := { (up [ringed]).start with retained := [⟨0, [], false, 1⟩] } } : State).retainedCopy 0 = some (⟨0, [], false, 1⟩ : WarmPaddock) ∧
      (⟨0, [], false, 1⟩ : WarmPaddock).packages = oneUnit.packages ∧
      ({ up [ringed] with start := { (up [ringed]).start with retained := [⟨0, [], false, 1⟩] } } : State).openCheck 0 oneUnit = none) ∧
      (0 < 16 ∧
      (up [{ openPd with state := .opening, opening := some (⟨5, false⟩, [0]) }]).frozen = false ∧
      ((up [{ openPd with state := .opening, opening := some (⟨5, false⟩, [0]) }]).pd 0).state = .opening ∧
      ((up [{ openPd with state := .opening, opening := some (⟨5, false⟩, [0]) }]).pd 0).opening = some ((⟨5, false⟩ : Owed), [0]) ∧
      (up [{ openPd with state := .opening, opening := some (⟨5, false⟩, [0]) }]).unitsZero ((up [{ openPd with state := .opening, opening := some (⟨5, false⟩, [0]) }]).pd 0).owned = true) ∧
      (0 < 16 ∧
      ({ up [{ openPd with state := .opening }] with mem := [(penBase 0, 7)] } : State).unitsZero (({ up [{ openPd with state := .opening }] with mem := [(penBase 0, 7)] } : State).pd 0).owned = false) ∧
      ((up [ringed]).accepts 0 0x0020 20 letter = true ∧
      0 ≠ 1 ∧
      (noUnits.groups = 0 ∨ noUnits.packages = 0 ∨ noUnits.pens = 0 ∨ 64 < noUnits.slotBlocks ∨ noUnits.entries = 0 ∨ 64 < noUnits.entries)) ∧
      ((up [ringed]).accepts 0 0x0020 20 letter = true ∧
      0 ≠ 1 ∧
      (({ oneUnit with slotBlocks := 65 } : Units).groups = 0 ∨ ({ oneUnit with slotBlocks := 65 } : Units).packages = 0 ∨ ({ oneUnit with slotBlocks := 65 } : Units).pens = 0 ∨ 64 < ({ oneUnit with slotBlocks := 65 } : Units).slotBlocks ∨ ({ oneUnit with slotBlocks := 65 } : Units).entries = 0 ∨ 64 < ({ oneUnit with slotBlocks := 65 } : Units).entries)) ∧
      ((up [ringed, openPd]).accepts 0 0x0020 20 letter = true ∧
      0 ≠ 1 ∧
      ({ oneUnit with slotBlocks := 64, entries := 64 } : Units).groups ≠ 0 ∧
      ({ oneUnit with slotBlocks := 64, entries := 64 } : Units).packages ≠ 0 ∧
      ({ oneUnit with slotBlocks := 64, entries := 64 } : Units).pens ≠ 0 ∧
      ({ oneUnit with slotBlocks := 64, entries := 64 } : Units).slotBlocks ≤ 64 ∧
      ({ oneUnit with slotBlocks := 64, entries := 64 } : Units).entries ≠ 0 ∧
      ({ oneUnit with slotBlocks := 64, entries := 64 } : Units).entries ≤ 64 ∧
      (bitOf ({ oneUnit with slotBlocks := 64, entries := 64 } : Units).groups 0 = true ∧ 1 < (up [ringed, openPd]).pads.length ∧ bitOf ((up [ringed, openPd]).pd 1).owned.groups 0 = true) ∧
      (bitOf ({ oneUnit with slotBlocks := 64, entries := 64 } : Units).pens 0 = true ∧ bitOf ((up [ringed, openPd]).pd 1).owned.pens 0 = true))) :=
  by and_intros <;> decide +kernel

/-- States and operands that meet the hypotheses of PaddocksAreClosedAndResized, clause by clause. -/
theorem witness_PaddocksAreClosedAndResized :
    ((up [openPd]).accepts 0 0x0021 0 letter = true ∧
      ((up [withCtx ctx0]).accepts 0 0x0021 0 letter = true ∧
      (up [withCtx ctx0]).ctx 0 0 = some ctx0 ∧
      ctx0.spanCode = none) ∧
      ((up [withCtx (inPhase 0 5 [])]).accepts 0 0x0021 0 letter = true ∧
      (up [withCtx (inPhase 0 5 [])]).ctx 0 0 = some (inPhase 0 5 []) ∧
      (inPhase 0 5 []).spanCode.isSome = true) ∧
      ((up [{ openPd with state := .closing, closing := some ⟨5, false⟩ }]).mem.wf = true ∧
      0 < 16 ∧
      0 < (up [{ openPd with state := .closing, closing := some ⟨5, false⟩ }]).pads.length ∧
      (up [{ openPd with state := .closing, closing := some ⟨5, false⟩ }]).frozen = false ∧
      ((up [{ openPd with state := .closing, closing := some ⟨5, false⟩ }]).pd 0).closing = some (⟨5, false⟩ : Owed) ∧
      ((up [{ openPd with state := .closing, closing := some ⟨5, false⟩ }]).pd 0).allHalted = true) ∧
      ((up [{ openPd with owned := ⟨1, 1, 3, [0], 1⟩ }]).accepts 0 0x0022 38 letter = true ∧
      ((up [{ openPd with owned := ⟨1, 1, 3, [0], 1⟩ }]).pd 0).inMotion = false ∧
      (up [{ openPd with owned := ⟨1, 1, 3, [0], 1⟩ }]).resizeCheck 0 (⟨2, 2, 4, 1, 1⟩ : Units) (⟨1, 1, 2, 1, 1⟩ : Units) = none) ∧
      ((up [{ openPd with resizing := some ⟨⟨5, false⟩, Owned.none, Owned.none⟩ }]).accepts 0 0x0022 38 letter = true ∧
      ((up [{ openPd with resizing := some ⟨⟨5, false⟩, Owned.none, Owned.none⟩ }]).pd 0).inMotion = true) ∧
      ((up [openPd]).accepts 0 0x0022 38 letter = true ∧
      ((up [openPd]).pd 0).inMotion = false ∧
      (up [openPd]).resizeCheck 0 ({ noUnits with entries := 65 } : Units) noUnits = some 0x0803)) ∧
    ((∀ c x, (up [{ openPd with resizing := some (⟨⟨5, false⟩, ⟨0, 0, 2, [], 0⟩, ⟨0, 0, 4, [], 0⟩⟩ : Resizing) }]).ctx 0 c = some x → x.rebuild = none) ∧
      ((up [{ openPd with resizing := some (⟨⟨5, false⟩, ⟨0, 0, 2, [], 0⟩, ⟨0, 0, 4, [], 0⟩⟩ : Resizing) }]).mem.wf = true ∧
      0 < 16 ∧
      0 < (up [{ openPd with resizing := some (⟨⟨5, false⟩, ⟨0, 0, 2, [], 0⟩, ⟨0, 0, 4, [], 0⟩⟩ : Resizing) }]).pads.length ∧
      (up [{ openPd with resizing := some (⟨⟨5, false⟩, ⟨0, 0, 2, [], 0⟩, ⟨0, 0, 4, [], 0⟩⟩ : Resizing) }]).frozen = false ∧
      ((up [{ openPd with resizing := some (⟨⟨5, false⟩, ⟨0, 0, 2, [], 0⟩, ⟨0, 0, 4, [], 0⟩⟩ : Resizing) }]).pd 0).resizing = some (⟨⟨5, false⟩, ⟨0, 0, 2, [], 0⟩, ⟨0, 0, 4, [], 0⟩⟩ : Resizing) ∧
      ((up [{ openPd with resizing := some (⟨⟨5, false⟩, ⟨0, 0, 2, [], 0⟩, ⟨0, 0, 4, [], 0⟩⟩ : Resizing) }]).pd 0).swappingIn = none)) :=
  ⟨by and_intros <;> decide +kernel,
    ⟨no_ctx _ rfl, by and_intros <;> decide +kernel⟩⟩

/-- States and operands that meet the hypotheses of PaddockSettingsTakeEffect, clause by clause. -/
theorem witness_PaddockSettingsTakeEffect :
    (((up [openPd]).accepts 0 0x0024 10 letter = true ∧
      (0 = 0 ∨ 100000 ≤ 0) ∧
      (1000 = 0 ∨ 1000 ≤ 1000)) ∧
      ((up [openPd]).accepts 0 0x0024 10 letter = true ∧
      (100000 = 0 ∨ 100000 ≤ 100000) ∧
      (0 = 0 ∨ 1000 ≤ 0)) ∧
      ((up [openPd]).accepts 0 0x0026 1 letter = true ∧
      4 ≤ 4 ∧
      4 ≤ 64) ∧
      ((up [openPd]).accepts 0 0x0026 1 letter = true ∧
      4 ≤ 64 ∧
      64 ≤ 64) ∧
      ((up [openPd]).accepts 0 0x0024 10 letter = true ∧
      ((99999 ≠ 0 ∧ 99999 < 100000) ∨ (0 ≠ 0 ∧ 0 < 1000))) ∧
      ((up [openPd]).accepts 0 0x0024 10 letter = true ∧
      ((0 ≠ 0 ∧ 0 < 100000) ∨ (999 ≠ 0 ∧ 999 < 1000))) ∧
      ((up [openPd]).accepts 0 0x0026 1 letter = true ∧
      (3 < 4 ∨ 64 < 3)) ∧
      ((up [openPd]).accepts 0 0x0026 1 letter = true ∧
      (65 < 4 ∨ 64 < 65)) ∧
      ((having (up [withCtx ctx0]) 0 rangeEntry).accepts 0 0x0023 13 letter = true ∧
      (having (up [withCtx ctx0]) 0 rangeEntry).ctx 0 0 = some ctx0 ∧
      ctx0.rebuild = none ∧
      ctx0.merged = none ∧
      inWindow 0 (32 * 1) = true ∧
      (let adds := (chunksOf 32 1 (((having (up [withCtx ctx0]) 0 rangeEntry).took 0 letter).rdComp 0 (32 * 1))).map rangeOf
      ((having (up [withCtx ctx0]) 0 rangeEntry).modCtx 0 0 fun x => { x with resident := true }).mapCheck 0 ctx0.table adds = none ∧
        ∀ e ∈ adds, ((having (up [withCtx ctx0]) 0 rangeEntry).pd 0).meetsOthers 0 e.1 = false) ∧
      ctx0.table.length + 1 ≤ 4096) ∧
      (0 < 16 ∧
      0 < 8 ∧
      (up [withCtx ({ ctx0 with rebuild := some ⟨[], false⟩ } : Ctx)]).runs 0 = true ∧
      (up [withCtx ({ ctx0 with rebuild := some ⟨[], false⟩ } : Ctx)]).ctx 0 0 = some ({ ctx0 with rebuild := some ⟨[], false⟩ } : Ctx) ∧
      ({ ctx0 with rebuild := some ⟨[], false⟩ } : Ctx).rebuild = some (⟨[], false⟩ : Rebuild) ∧
      (⟨[], false⟩ : Rebuild).raised = false ∧
      (up [withCtx ({ ctx0 with rebuild := some ⟨[], false⟩ } : Ctx)]).preempts 0 0 = false) ∧
      (0 < 16 ∧
      7 < 8 ∧
      (up [{ openPd with ctxs := List.replicate 7 none ++ [some ({ ctx0 with rebuild := some ⟨[], true⟩ } : Ctx)] }]).runs 0 = true ∧
      (up [{ openPd with ctxs := List.replicate 7 none ++ [some ({ ctx0 with rebuild := some ⟨[], true⟩ } : Ctx)] }]).ctx 0 7 = some ({ ctx0 with rebuild := some ⟨[], true⟩ } : Ctx) ∧
      ({ ctx0 with rebuild := some ⟨[], true⟩ } : Ctx).rebuild = some (⟨[], true⟩ : Rebuild) ∧
      (⟨[], true⟩ : Rebuild).raised = true ∧
      ({ ctx0 with rebuild := some ⟨[], true⟩ } : Ctx).haltAfter = none)) :=
  by and_intros <;> decide +kernel

/-- States and operands that meet the hypotheses of ParcelsAreLoadedAndUnloaded, clause by clause. -/
theorem witness_ParcelsAreLoadedAndUnloaded :
    ((loaded.took 0 letter).parcelChecks 0 256 ((loaded.took 0 letter).rdComp 0 256) = [] ∧
      ((loaded.pd 0).setCtx 0 (some (loaded.freshCtx 0 (parcelOf ((loaded.took 0 letter).rdComp 0 256)) 256 3 0))).penReserve + (loaded.freshCtx 0 (parcelOf ((loaded.took 0 letter).rdComp 0 256)) 256 3 0).parcel.yardBytes ≤ ((loaded.pd 0).setCtx 0 (some (loaded.freshCtx 0 (parcelOf ((loaded.took 0 letter).rdComp 0 256)) 256 3 0))).penBytes ∧
      loaded.lacksRoom ((loaded.pd 0).setCtx 0 (some (loaded.freshCtx 0 (parcelOf ((loaded.took 0 letter).rdComp 0 256)) 256 3 0))) = false ∧
      (loaded.accepts 0 0x0040 21 letter = true ∧
      3 ≤ 3 ∧
      inWindow 0 256 = true ∧
      (loaded.pd 0).freeCtx = some 0)) ∧
    (((up [withCtx ctx0]).accepts 0 0x0041 1 letter = true ∧
      (up [withCtx ctx0]).ctx 0 0 = some ctx0 ∧
      (ctx0.state = .idle ∨ ctx0.state = .halted) ∧
      ctx0.tr.proposal = none) ∧
      ((up [withCtx ({ ctx0 with state := .halted } : Ctx)]).accepts 0 0x0041 1 letter = true ∧
      (up [withCtx ({ ctx0 with state := .halted } : Ctx)]).ctx 0 0 = some ({ ctx0 with state := .halted } : Ctx) ∧
      (({ ctx0 with state := .halted } : Ctx).state = .idle ∨ ({ ctx0 with state := .halted } : Ctx).state = .halted) ∧
      ({ ctx0 with state := .halted } : Ctx).tr.proposal = none) ∧
      ((up [openPd]).accepts 0 0x0041 1 letter = true ∧
      (up [openPd]).ctx 0 0 = none) ∧
      ((up [openPd]).accepts 0 0x0040 21 letter = true ∧
      3 < 4) ∧
      ((up [openPd]).accepts 0 0x0040 21 letter = true ∧
      3 ≤ 3 ∧
      inWindow windowSize 1 = false) ∧
      ((up [openPd]).accepts 0 0x0040 21 letter = true ∧
      3 ≤ 3 ∧
      inWindow 0 128 = true ∧
      headerOk (((up [openPd]).took 0 letter).rdComp 0 128) 128 = false)) ∧
    ((full.took 0 letter).parcelChecks 0 256 ((full.took 0 letter).rdComp 0 256) = [] ∧
      (∀ c, c < 8 → (full.ctx 0 c).isSome = true) ∧
      (full.accepts 0 0x0040 21 letter = true ∧
      3 ≤ 3 ∧
      inWindow 0 256 = true)) :=
  ⟨⟨by rw [loaded_bytes]; decide +kernel, by rw [loaded_bytes]; decide +kernel, by rw [loaded_bytes]; decide +kernel, by and_intros <;> decide +kernel⟩,
    by and_intros <;> decide +kernel,
    ⟨by rw [full_bytes]; decide +kernel, forall_lt (by decide +kernel), by and_intros <;> decide +kernel⟩⟩

/-- States and operands that meet the hypotheses of StepRunStartsAndStopsSteps, clause by clause. -/
theorem witness_StepRunStartsAndStopsSteps :
    (((up [withCtx (ctxOf 0 [])]).accepts 0 0x0042 13 letter = true ∧
      (up [withCtx (ctxOf 0 [])]).ctx 0 0 = some (ctxOf 0 []) ∧
      (ctxOf 0 []).parcel.kind ≠ 1 ∧
      (ctxOf 0 []).state = .idle ∧
      1 ≠ 0 ∧
      (ctxOf 0 []).inStep = false) ∧
      ((up [withCtx ({ ctxOf 0 [] with inStep := true, state := .running } : Ctx)]).accepts 0 0x0042 13 letter = true ∧
      (up [withCtx ({ ctxOf 0 [] with inStep := true, state := .running } : Ctx)]).ctx 0 0 = some ({ ctxOf 0 [] with inStep := true, state := .running } : Ctx) ∧
      ({ ctxOf 0 [] with inStep := true, state := .running } : Ctx).parcel.kind ≠ 1 ∧
      ({ ctxOf 0 [] with inStep := true, state := .running } : Ctx).state ≠ .halted ∧
      ({ ctxOf 0 [] with inStep := true, state := .running } : Ctx).inStep = true) ∧
      ((up [withCtx (ctxOf 2 [])]).accepts 0 0x0042 13 letter = true ∧
      (up [withCtx (ctxOf 2 [])]).ctx 0 0 = some (ctxOf 2 []) ∧
      (ctxOf 2 []).parcel.kind ≠ 1 ∧
      (ctxOf 2 []).state ≠ .halted ∧
      (ctxOf 2 []).inStep = false ∧
      (ctxOf 2 []).tr.gen = 0) ∧
      ((up [withCtx (ctxOf 0 [])]).accepts 0 0x0042 13 letter = true ∧
      (up [withCtx (ctxOf 0 [])]).ctx 0 0 = some (ctxOf 0 []) ∧
      (ctxOf 0 []).parcel.kind ≠ 1 ∧
      (ctxOf 0 []).state ≠ .halted ∧
      1 ≠ (ctxOf 0 []).counter) ∧
      ((up [withCtx ctx0]).accepts 0 0x0042 13 letter = true ∧
      (match (up [withCtx ctx0]).ctx 0 1 with | none => true | some x => x.parcel.kind == 1 || x.state == .halted) = true) ∧
      ((up [withCtx ctxServing]).accepts 0 0x0042 13 letter = true ∧
      (match (up [withCtx ctxServing]).ctx 0 0 with | none => true | some x => x.parcel.kind == 1 || x.state == .halted) = true)) :=
  by and_intros <;> decide +kernel

/-- States and operands that meet the hypotheses of StateIsSavedRestoredAndRead, clause by clause. -/
theorem witness_StateIsSavedRestoredAndRead :
    (((pointed ctxPlain 16).took 0 letter).letterDesc 0 = .ok (descFor 16) ∧
      ((pointed ctxPlain 16).took 0 letter).readParts ctxPlain ctxPlain.parts = .ok ([] : List Byte) ∧
      ((pointed ctxPlain 16).took 0 letter).putDesc ctxPlain.plain (descFor 16) 0 (maskBytes 0 ((pointed ctxPlain 16).ckHead 0 ctxPlain ++ ([] : List Byte))) = .ok (okOf (((pointed ctxPlain 16).took 0 letter).putDesc ctxPlain.plain (descFor 16) 0 (maskBytes 0 ((pointed ctxPlain 16).ckHead 0 ctxPlain ++ ([] : List Byte)))) State.reset) ∧
      ((pointed ctxPlain 16).accepts 0 0x0043 9 letter = true ∧
      (pointed ctxPlain 16).ctx 0 0 = some ctxPlain ∧
      (ctxPlain.state = .idle ∨ ctxPlain.state = .halted) ∧
      ((pointed ctxPlain 16).ckHead 0 ctxPlain ++ ([] : List Byte)).length ≤ (descFor 16).count)) ∧
    (((restorable ctxPlain).took 0 letter).letterDesc 0 = .ok (descFor 16) ∧
      ((restorable ctxPlain).took 0 letter).restoreFrom 0 0 ctxPlain (descFor 16) = .ok (((okOf (((restorable ctxPlain).took 0 letter).restoreFrom 0 0 ctxPlain (descFor 16)) (State.reset, 0)).1), ((okOf (((restorable ctxPlain).took 0 letter).restoreFrom 0 0 ctxPlain (descFor 16)) (State.reset, 0)).2)) ∧
      ((restorable ctxPlain).accepts 0 0x0044 9 letter = true ∧
      (restorable ctxPlain).ctx 0 0 = some ctxPlain ∧
      (ctxPlain.state = .idle ∨ ctxPlain.state = .halted))) ∧
    (((pointed (ctxOf 0 [.layer layerOne]) 1).took 0 letter).letterDesc 0 = .ok (descFor 1) ∧
      (ctxOf 0 [.layer layerOne]).parcel.initPart layerOne 0 = some (1, 2, atHi) ∧
      ((pointed (ctxOf 0 [.layer layerOne]) 1).took 0 letter).initValues (ctxOf 0 [.layer layerOne]) (descFor 1) 2 1 = .ok [[0, 0]] ∧
      ((pointed (ctxOf 0 [.layer layerOne]) 1).took 0 letter).putPieces (ctxOf 0 [.layer layerOne]) ([[0, 0]].zipIdx.map fun e => (atHi e.2, e.1)) = .ok (okOf (((pointed (ctxOf 0 [.layer layerOne]) 1).took 0 letter).putPieces (ctxOf 0 [.layer layerOne]) ([[0, 0]].zipIdx.map fun e => (atHi e.2, e.1))) State.reset) ∧
      ((pointed (ctxOf 0 [.layer layerOne]) 1).accepts 0 0x0045 12 letter = true ∧
      (pointed (ctxOf 0 [.layer layerOne]) 1).ctx 0 0 = some (ctxOf 0 [.layer layerOne]) ∧
      ((ctxOf 0 [.layer layerOne]).state = .idle ∨ (ctxOf 0 [.layer layerOne]).state = .halted) ∧
      (ctxOf 0 [.layer layerOne]).parcel.layer? 0 = some layerOne ∧
      0 ≠ 5 ∧
      1 ≤ (descFor 1).count)) ∧
    (((match (up [withCtx ({ ctx0 with state := .running } : Ctx)]).ctx 0 0 with | none => true | some x => x.state != .idle && x.state != .halted) = true ∧
      (up [withCtx ({ ctx0 with state := .running } : Ctx)]).accepts 0 0x0043 9 letter = true ∧
      (up [withCtx ({ ctx0 with state := .running } : Ctx)]).accepts 0 0x0044 9 letter = true ∧
      (up [withCtx ({ ctx0 with state := .running } : Ctx)]).accepts 0 0x0045 12 letter = true) ∧
      ((up [withCtx ctx0]).accepts 0 0x0027 22 letter = true ∧
      (up [withCtx ctx0]).ctx 0 0 = some ctx0 ∧
      bulkHolds (⟨64, 16⟩ : Bulk) 16 = true) ∧
      ((up [withCtx ctx0]).accepts 0 0x0027 22 letter = true ∧
      (up [withCtx ctx0]).ctx 0 0 = some ctx0 ∧
      511 < 512 * ((up [withCtx ctx0]).pd 0).owned.blocks.length ∧
      (((up [withCtx ctx0]).pd 0).slotBytes 511).length = 256 ∧
      bulkHolds (⟨64, 256⟩ : Bulk) 256 = true) ∧
      ((up [withCtx ctx0]).accepts 0 0x0027 22 letter = true ∧
      (up [withCtx ctx0]).ctx 0 0 = some ctx0 ∧
      bulkHolds (⟨64, 16⟩ : Bulk) 16 = true) ∧
      ((up [withCtx ctx0]).accepts 0 0x0027 22 letter = true ∧
      (up [withCtx ctx0]).ctx 0 0 = some ctx0 ∧
      (7 = 0 ∨ 6 < 7))) :=
  ⟨⟨ok_of (by decide +kernel), ok_of (by decide +kernel), okOf_eq (by decide +kernel), by and_intros <;> decide +kernel⟩,
    ⟨ok_of (by decide +kernel), okOf_eq restores, by and_intros <;> decide +kernel⟩,
    ⟨ok_of (by decide +kernel), rfl, ok_of (by decide +kernel), okOf_eq (by decide +kernel), by and_intros <;> decide +kernel⟩,
    by and_intros <;> decide +kernel⟩

/-- States and operands that meet the hypotheses of RequestsAreAdmittedCancelledAndRead, clause by clause. -/
theorem witness_RequestsAreAdmittedCancelledAndRead :
    ((up [withCtx ctxServing]).admitCheck 0 letter2.tag request = .ok (0, ctxServing, servingOne) ∧
      (up [withCtx ctxServing]).shortOf 0 ctxServing servingOne (streamOf request letter2.tag ((up [withCtx ctxServing]).pd 0).nextSeq (servingOne.need request)) = .ok 0 ∧
      ((up [withCtx ctxServing]).accepts 0 0x0060 63 letter2 = true ∧
      request.deadline = noLimit ∧
      ctxServing.state ≠ .halted ∧
      ((up [withCtx ctxServing]).pd 0).liveStreams = [])) ∧
    ((up [withCtx away]).admitCheck 0 letter2.tag request = .ok (0, away, { servingOne with swap := true }) ∧
      (up [withCtx away]).shortOf 0 away { servingOne with swap := true } (streamOf request letter2.tag ((up [withCtx away]).pd 0).nextSeq (servingOne.need request)) = .error 0x0708 ∧
      ((up [withCtx away]).accepts 0 0x0060 63 letter2 = true ∧
      request.deadline = noLimit ∧
      request.queue ≠ 0 ∧
      ((up [withCtx away]).pd 0).queued.length < servingOne.queueLimit)) ∧
    ((up [withCtx ctxServing]).admitCheck 0 letter2.tag ({ request with model := 4 } : AdmitFields) = .error 0x0703 ∧
      (up [withCtx ctxServing]).accepts 0 0x0060 63 letter2 = true) ∧
    (((up [withCtx ctxLive]).accepts 0 0x0061 0 letter = true ∧
      ((up [withCtx ctxLive]).pd 0).request? letter.tag = some (0, stream, false)) ∧
      ((up [withCtx ctxQueued]).accepts 0 0x0061 0 letter = true ∧
      ((up [withCtx ctxQueued]).pd 0).request? letter.tag = some (0, stream, true)) ∧
      ((up [withCtx ctxServing]).accepts 0 0x0061 0 letter = true ∧
      ((up [withCtx ctxServing]).pd 0).request? letter.tag = none) ∧
      ((up [withCtx ctxLive]).accepts 0 0x0062 0 letter = true ∧
      ((up [withCtx ctxLive]).pd 0).request? letter.tag = some (0, stream, false)) ∧
      ((up [withCtx ctxQueued]).accepts 0 0x0062 0 letter = true ∧
      ((up [withCtx ctxQueued]).pd 0).request? letter.tag = some (0, stream, true)) ∧
      ((up [withCtx ctxServing]).accepts 0 0x0062 0 letter = true ∧
      ((up [withCtx ctxServing]).pd 0).request? letter.tag = none) ∧
      (0 < 16 ∧
      ({ up [withCtx ctxLive] with expiries := [(⟨0, 0, .deadline 5, 0⟩ : Expiry)] } : State).runs 0 = true ∧
      (({ up [withCtx ctxLive] with expiries := [(⟨0, 0, .deadline 5, 0⟩ : Expiry)] } : State).pd 0).request? 5 = some (0, stream, false) ∧
      (⟨0, 0, .deadline 5, 0⟩ : Expiry) ∈ ({ up [withCtx ctxLive] with expiries := [(⟨0, 0, .deadline 5, 0⟩ : Expiry)] } : State).expiries ∧
      (⟨0, 0, .deadline 5, 0⟩ : Expiry).paddock = 0 ∧
      (⟨0, 0, .deadline 5, 0⟩ : Expiry).ctx = 0 ∧
      (⟨0, 0, .deadline 5, 0⟩ : Expiry).kind = .deadline 5 ∧
      (⟨0, 0, .deadline 5, 0⟩ : Expiry).endAt ≤ ({ up [withCtx ctxLive] with expiries := [(⟨0, 0, .deadline 5, 0⟩ : Expiry)] } : State).now 0)) :=
  ⟨⟨ok_of (by decide +kernel), ok_of (by decide +kernel), by and_intros <;> decide +kernel⟩,
    ⟨ok_of (by decide +kernel), error_of (by decide +kernel), by and_intros <;> decide +kernel⟩,
    ⟨error_of (by decide +kernel), by decide +kernel⟩,
    by and_intros <;> decide +kernel⟩

/-- States and operands that meet the hypotheses of MembershipIsProposed, clause by clause. -/
theorem witness_MembershipIsProposed :
    (((withRoles 9).took 0 letter).letterDesc 0 = .ok (descFor 16) ∧
      ((withRoles 9).took 0 letter).letterDesc 0 = .ok (descFor 16) ∧
      ((withRoles 9).took 0 letter).rolesAt ctxJob (descFor 16) = .ok ([⟨0, 0, 9⟩] : List Role) ∧
      ((withRoles 9).accepts 0 0x0080 36 letter = true ∧
      (withRoles 9).ctx 0 0 = some ctxJob ∧
      (ctxJob.state = .idle ∨ ctxJob.state = .halted) ∧
      ctxJob.parcel.collection = some (⟨7, 1, 0, 0, 0xFFFF⟩ : CollectionRec) ∧
      (match ctxJob.parcel.tree? 0 with | none => true | some t => t.downPorts.any fun q => !(ctxJob.tr.epochIn.any (·.1 == q))) = true ∧
      (((withRoles 9).pd 0).jobCtxs (⟨7, 1, 0, 0, 0xFFFF⟩ : CollectionRec).tag).all (fun e => e.2.quiet) = true ∧
      (descFor 16).count % 16 = 0 ∧
      ([⟨0, 0, 9⟩] : List Role) ≠ [] ∧
      rolesSorted (([⟨0, 0, 9⟩] : List Role).map (·.role)) = true ∧
      ctxJob.parcel.covers ([⟨0, 0, 9⟩] : List Role) && acceptEpoch (bitOf (withRoles 9).grant 15) (((withRoles 9).pd 0).jobEpoch (⟨7, 1, 0, 0, 0xFFFF⟩ : CollectionRec).tag ctxJob).1 ((((withRoles 9).pd 0).jobCtxs (⟨7, 1, 0, 0, 0xFFFF⟩ : CollectionRec).tag).flatMap fun e => e.2.tr.accepted) (((withRoles 9).pd 0).jobEpoch (⟨7, 1, 0, 0, 0xFFFF⟩ : CollectionRec).tag ctxJob).2 5 ([⟨0, 0, 9⟩] : List Role) = true)) ∧
    (((withRoles 8).took 0 letter).letterDesc 0 = .ok (descFor 16) ∧
      ((withRoles 8).took 0 letter).letterDesc 0 = .ok (descFor 16) ∧
      ((withRoles 8).took 0 letter).rolesAt ctxJob (descFor 16) = .ok ([⟨0, 0, 8⟩] : List Role) ∧
      ((withRoles 8).accepts 0 0x0080 36 letter = true ∧
      (withRoles 8).ctx 0 0 = some ctxJob ∧
      (ctxJob.state = .idle ∨ ctxJob.state = .halted) ∧
      ctxJob.parcel.collection = some (⟨7, 1, 0, 0, 0xFFFF⟩ : CollectionRec) ∧
      (match ctxJob.parcel.tree? 0 with | none => true | some t => t.downPorts.any fun q => !(ctxJob.tr.epochIn.any (·.1 == q))) = true ∧
      (((withRoles 8).pd 0).jobCtxs (⟨7, 1, 0, 0, 0xFFFF⟩ : CollectionRec).tag).all (fun e => e.2.quiet) = true ∧
      (descFor 16).count % 16 = 0 ∧
      ([⟨0, 0, 8⟩] : List Role) ≠ [] ∧
      rolesSorted (([⟨0, 0, 8⟩] : List Role).map (·.role)) = true ∧
      ctxJob.parcel.covers ([⟨0, 0, 8⟩] : List Role) && acceptEpoch (bitOf (withRoles 8).grant 15) (((withRoles 8).pd 0).jobEpoch (⟨7, 1, 0, 0, 0xFFFF⟩ : CollectionRec).tag ctxJob).1 ((((withRoles 8).pd 0).jobCtxs (⟨7, 1, 0, 0, 0xFFFF⟩ : CollectionRec).tag).flatMap fun e => e.2.tr.accepted) (((withRoles 8).pd 0).jobEpoch (⟨7, 1, 0, 0, 0xFFFF⟩ : CollectionRec).tag ctxJob).2 5 ([⟨0, 0, 8⟩] : List Role) = false)) ∧
    (0 < 16 ∧
      0 < 8 ∧
      ({ up [withCtx ({ ctxJob with tr := { ctxJob.tr with proposal := some (default : Proposal) } } : Ctx)] with expiries := [(⟨0, 0, .agree, 0⟩ : Expiry)] } : State).runs 0 = true ∧
      ({ up [withCtx ({ ctxJob with tr := { ctxJob.tr with proposal := some (default : Proposal) } } : Ctx)] with expiries := [(⟨0, 0, .agree, 0⟩ : Expiry)] } : State).ctx 0 0 = some ({ ctxJob with tr := { ctxJob.tr with proposal := some (default : Proposal) } } : Ctx) ∧
      ({ ctxJob with tr := { ctxJob.tr with proposal := some (default : Proposal) } } : Ctx).tr.proposal = some (default : Proposal) ∧
      (⟨0, 0, .agree, 0⟩ : Expiry) ∈ ({ up [withCtx ({ ctxJob with tr := { ctxJob.tr with proposal := some (default : Proposal) } } : Ctx)] with expiries := [(⟨0, 0, .agree, 0⟩ : Expiry)] } : State).expiries ∧
      (⟨0, 0, .agree, 0⟩ : Expiry).paddock = 0 ∧
      (⟨0, 0, .agree, 0⟩ : Expiry).ctx = 0 ∧
      (⟨0, 0, .agree, 0⟩ : Expiry).kind = .agree ∧
      (⟨0, 0, .agree, 0⟩ : Expiry).endAt ≤ ({ up [withCtx ({ ctxJob with tr := { ctxJob.tr with proposal := some (default : Proposal) } } : Ctx)] with expiries := [(⟨0, 0, .agree, 0⟩ : Expiry)] } : State).now 0) :=
  ⟨⟨ok_of (by decide +kernel), ok_of (by decide +kernel), ok_of (by decide +kernel), by and_intros <;> decide +kernel⟩,
    ⟨ok_of (by decide +kernel), ok_of (by decide +kernel), ok_of (by decide +kernel), by and_intros <;> decide +kernel⟩,
    by decide +kernel⟩

/-- States and operands that meet the hypotheses of ReplayStartsFromItsCheckpoint, clause by clause. -/
theorem witness_ReplayStartsFromItsCheckpoint :
    ((replayable.took 0 letter).letterDesc 0 = .ok (descFor 16) ∧
      (replayable.took 0 letter).letterDesc 0 = .ok (descFor 16) ∧
      (replayable.took 0 letter).restoreFrom 0 0 ctxJob (descFor 16) = .ok (((okOf ((replayable.took 0 letter).restoreFrom 0 0 ctxJob (descFor 16)) (State.reset, 1)).1), 0) ∧
      (replayable.accepts 0 0x0081 31 letter = true ∧
      bitOf replayable.grant 9 = true ∧
      1 ≤ 1 ∧
      replayable.ctx 0 0 = some ctxJob ∧
      (ctxJob.state = .idle ∨ ctxJob.state = .halted) ∧
      ctxJob.parcel.stepBegin = some (default : StepBeginRec) ∧
      (default : StepBeginRec).tHi < (replayable.stablesOf 0).length ∧
      (ctxJob.parcel.coefAt 0).isSome = true ∧
      (ctxJob.parcel.setAt 0).isSome = true)) ∧
    ((({ up [openPd] with grant := 0xFDFF } : State).accepts 0 0x0081 31 letter = true ∧
      bitOf ({ up [openPd] with grant := 0xFDFF } : State).grant 9 = false) ∧
      ((up [openPd]).accepts 0 0x0081 31 letter = true ∧
      bitOf (up [openPd]).grant 9 = true ∧
      1 < 2)) :=
  ⟨⟨ok_of (by decide +kernel), ok_of (by decide +kernel), replay_step, by and_intros <;> decide +kernel⟩,
    by and_intros <;> decide +kernel⟩

/-- States and operands that meet the hypotheses of RingsAndConfigurationSpace, clause by clause. -/
theorem witness_RingsAndConfigurationSpace :
    (((up []).mem.wf = true ∧
      15 < 16 ∧
      15 < (up []).pads.length ∧
      (up []).mcNext mcHead 1 1 0 ∧
      ((up []).pd 15).state = .closed) ∧
      (0 < 16 ∧
      (up [ringed]).mcNext mcHead 1 1 0 ∧
      ((up [ringed]).pd 0).state = .closed ∧
      ((up [ringed]).pd 0).ring.en = true) ∧
      (0 < 16 ∧
      (up [openPd]).mcNext mcHead 1 1 0 ∧
      ((up [openPd]).pd 0).state ≠ .closed)) ∧
    (15 < 16 ∧
      (up []).mcNext mcHead 1 1 0 ∧
      ((up []).mcNext mcHead 1 1 0 ∧
      0x1078 ≠ 0x1100 ∧
      ¬ (0x1080 ≤ 0x1078 ∧ 0x1078 ≤ 0x10F8 ∧ 0x1078 % 8 = 0)) ∧
      ((up []).mcNext mcHead 1 1 0 ∧
      0x1081 ≠ 0x1100 ∧
      ¬ (0x1080 ≤ 0x1081 ∧ 0x1081 ≤ 0x10F8 ∧ 0x1081 % 8 = 0)) ∧
      (up []).mcNext mcHead 1 0 0 ∧
      ((up []).mcNext mcHead 1 0 0 ∧
      0 % 64 = 0 ∧
      31 ≤ 31 ∧
      0 / 4096 = (0 + 64 * 31) / 4096) ∧
      ((up []).mcNext mcHead 1 0 0 ∧
      (32 % 64 ≠ 0 ∨ 31 < 0 ∨ 32 / 4096 ≠ (32 + 64 * 0) / 4096)) ∧
      ((up []).mcNext mcHead 1 0 0 ∧
      (0 % 64 ≠ 0 ∨ 31 < 32 ∨ 0 / 4096 ≠ (0 + 64 * 32) / 4096)) ∧
      ((up []).mcNext mcHead 1 0 0 ∧
      (4032 % 64 ≠ 0 ∨ 31 < 1 ∨ 4032 / 4096 ≠ (4032 + 64 * 1) / 4096))) :=
  by and_intros <;> decide +kernel

/-- States and operands that meet the hypotheses of CompanionMessagesAreTaken, clause by clause. -/
theorem witness_CompanionMessagesAreTaken :
    ((mcOf (.ack mcHead 0) = some (mcHead, 0, 0, 0) ∧
      State.reset.hearsMcl = false) ∧
      (mcOf (.pbxbaseEnable ⟨1, true, true⟩ 0 15 0) = some (⟨1, true, true⟩, 1, 1, 0) ∧
      (up []).hearsMcl = true ∧
      ((⟨1, true, true⟩ : McHead).cseq ≠ (up []).mcl.cseqIn ∨ (up []).mcl.allows 1 1 0 = false)) ∧
      (mcOf (.apRd mcHead 0 0 0) = some (mcHead, 1, 0, 0) ∧
      spentCredit.hearsMcl = true ∧
      (mcHead.cseq ≠ spentCredit.mcl.cseqIn ∨ spentCredit.mcl.allows 1 0 0 = false)) ∧
      (mcOf (.inv ⟨0, true, false⟩ 1 0 []) = some (⟨0, true, false⟩, 0, 0, 1) ∧
      (up []).hearsMcl = true ∧
      (⟨0, true, false⟩ : McHead).cseq = (up []).mcl.cseqIn ∧
      (up []).mcl.allows 0 0 1 = true ∧
      (⟨0, true, false⟩ : McHead).sound = false)) ∧
    (((up []).mem.wf = true ∧
      (up []).mcNext mcHead 0 0 1 ∧
      (windowSize - 64) % 64 = 0 ∧
      inWindow (windowSize - 64) 64 = true ∧
      (up []).mcl.watched.contains (windowSize - 64) = false ∧
      (List.replicate 64 1).length = 64) ∧
      (({ up [] with mcl := { (up []).mcl with watched := [64] } } : State).mcNext mcHead 0 0 1 ∧
      64 % 64 = 0 ∧
      inWindow 64 64 = true ∧
      ({ up [] with mcl := { (up []).mcl with watched := [64] } } : State).mcl.watched.contains 64 = true) ∧
      ((up []).mcNext mcHead 0 0 1 ∧
      (63 % 64 ≠ 0 ∨ inWindow 63 64 = false)) ∧
      ((up []).mcNext mcHead 0 0 1 ∧
      (windowSize % 64 ≠ 0 ∨ inWindow windowSize 64 = false))) ∧
    ((∀ q, ((asking [] [ask 4095 (.postbox 0) 0]).pd q).ring.stalled = false) ∧
      ((asking [] [ask 4095 (.postbox 0) 0]).mcNext mcHead 0 0 0 ∧
      ((asking [] [ask 4095 (.postbox 0) 0]).mcl.requests.find? fun q => q.rtag == 4095) = some (ask 4095 (.postbox 0) 0))) ∧
    ((∀ q, ((asking [] [ask 1 .watch 64]).pd q).ring.en = false) ∧
      ((asking [] [ask 1 .watch 64]).mem.wf = true ∧
      (asking [] [ask 1 .watch 64]).mcNext mcHead 0 0 0 ∧
      ((asking [] [ask 1 .watch 64]).mcl.requests.find? fun q => q.rtag == 1) = some (ask 1 .watch 64) ∧
      (ask 1 .watch 64).kind = .watch ∧
      (asking [] [ask 1 .watch 64]).mcl.watched.length < 64 ∧
      (List.replicate 64 1).length = (ask 1 .watch 64).bytes)) ∧
    ((∀ q, ((asking [] [ask 1 (.job 0 0 2) 64]).pd q).ring.en = false) ∧
      (∃ p c n, (ask 1 (.job 0 0 2) 64).kind = .job p c n) ∧
      ((asking [] [ask 1 (.job 0 0 2) 64]).mem.wf = true ∧
      (asking [] [ask 1 (.job 0 0 2) 64]).mcNext mcHead 0 0 0 ∧
      ((asking [] [ask 1 (.job 0 0 2) 64]).mcl.requests.find? fun q => q.rtag == 1) = some (ask 1 (.job 0 0 2) 64) ∧
      (asking [] [ask 1 (.job 0 0 2) 64]).mcl.watched.length < 64 ∧
      (List.replicate 64 1).length = (ask 1 (.job 0 0 2) 64).bytes)) ∧
    ((∀ p c n, (ask 1 .watch 64).kind ≠ .job p c n) ∧
      ((asking [] [ask 1 .watch 64]).mcNext mcHead 0 0 0 ∧
      1 ≤ 1 ∧
      1 ≤ 3 ∧
      ((asking [] [ask 1 .watch 64]).mcl.requests.find? fun q => q.rtag == 1) = some (ask 1 .watch 64) ∧
      (ask 1 .watch 64).kind ≠ .buffer ∧
      (ask 1 .watch 64).kind ≠ .gone)) ∧
    ((∀ p c n, (ask 1 (.postbox 0) 64).kind ≠ .job p c n) ∧
      ((asking [] [ask 1 (.postbox 0) 64]).mcNext mcHead 0 0 0 ∧
      1 ≤ 3 ∧
      3 ≤ 3 ∧
      ((asking [] [ask 1 (.postbox 0) 64]).mcl.requests.find? fun q => q.rtag == 1) = some (ask 1 (.postbox 0) 64) ∧
      (ask 1 (.postbox 0) 64).kind ≠ .buffer ∧
      (ask 1 (.postbox 0) 64).kind ≠ .gone)) ∧
    (((asking [] [ask 1 .buffer 64]).mcNext mcHead 0 0 0 ∧
      1 ≤ 2 ∧
      2 ≤ 3 ∧
      ((asking [] [ask 1 .buffer 64]).mcl.requests.find? fun q => q.rtag == 1) = some (ask 1 .buffer 64) ∧
      ((ask 1 .buffer 64).kind = .buffer ∨ (ask 1 .buffer 64).kind = .gone)) ∧
      ((asking [withCtx ctxPlain] [ask 1 (.job 0 0 0) 64]).mcNext mcHead 0 0 0 ∧
      1 ≤ 3 ∧
      3 ≤ 3 ∧
      ((asking [withCtx ctxPlain] [ask 1 (.job 0 0 0) 64]).mcl.requests.find? fun q => q.rtag == 1) = some (ask 1 (.job 0 0 0) 64) ∧
      (ask 1 (.job 0 0 0) 64).kind = .job 0 0 0 ∧
      (asking [withCtx ctxPlain] [ask 1 (.job 0 0 0) 64]).ctx 0 0 = some ctxPlain ∧
      ctxPlain.state ≠ .halted ∧
      ctxPlain.phaseCode ≠ 7) ∧
      ((up []).mcNext mcHead 0 0 0 ∧
      3 < 4)) :=
  ⟨by and_intros <;> decide +kernel, by and_intros <;> decide +kernel,
    ⟨no_pd (fun d => d.ring.stalled = false) rfl rfl, by and_intros <;> decide +kernel⟩,
    ⟨no_pd (fun d => d.ring.en = false) rfl rfl, by and_intros <;> decide +kernel⟩,
    ⟨no_pd (fun d => d.ring.en = false) rfl rfl, ⟨0, 0, 2, rfl⟩, by and_intros <;> decide +kernel⟩,
    ⟨by nofun, by and_intros <;> decide +kernel⟩,
    ⟨by nofun, by and_intros <;> decide +kernel⟩,
    by and_intros <;> decide +kernel⟩

/-- States and operands that meet the hypotheses of McLinkKeepsItsCodewords, clause by clause. -/
theorem witness_McLinkKeepsItsCodewords :
    ((mcHead.last = true ∧
      (up []).mcl.trained = true ∧
      (up []).mcl.unsent = [] ∧
      (up []).mcl.held.length < 128 ∧
      1 ≤ 1 ∧
      0 ≤ 1 ∧
      (up []).mcl.allows 1 1 1 = true) ∧
      ((up []).mcNext mcHead 0 0 0 ∧
      (∀ q ∈ (up []).mcl.requests, q.sent = true)) ∧
      (waitsForSlot.mcNext mcHead 0 0 0 ∧
      waitsForSlot.mcl.nextOf [] waitsForSlot.mcl.requests = some unsentAsk ∧
      waitsForSlot.mcl.tagFrom noTag waitsForSlot.mcl.nextTag = some 0 ∧
      1 ≤ waitsForSlot.mcl.reqCredit + 1 ∧
      unsentAsk.data.length ≤ waitsForSlot.mcl.dataCredit + 0) ∧
      ((up []).mcNext mcHead 0 0 0 ∧
      (up []).mcl.held.length ≤ 128 ∧
      (∀ w ∈ ((up []).mcTook mcHead 0 0 0).held, w.cseq ≠ 9)) ∧
      (heldWords.mcNext mcHead 0 0 0 ∧
      heldWords.mcl.held.length ≤ 128 ∧
      (heldWords.mcTook mcHead 0 0 0).held =
        ([⟨2, []⟩] : List McWord) ++ (⟨3, []⟩ : McWord) :: ((heldWords.mcTook mcHead 0 0 0).held.drop 2) ∧
      (⟨3, []⟩ : McWord).cseq = 3 ∧
      (∀ v ∈ ([⟨2, []⟩] : List McWord), v.cseq ≠ 3)) ∧
      (wordsHeld [⟨2, []⟩]).mcNext mcHead 0 0 0) ∧
    (((up []).hearsMcl = true ∧
      corrects oneError = true ∧
      (up []).mcl.active.Nodup ∧
      (∀ l ∈ (up []).mcl.active, (countOf (up []).mcl.counts l).corrected + laneErrors (up []).mcl.active oneError l ≤ 8388608)) ∧
      ((counted [⟨0, 6, 0, 0⟩]).hearsMcl = true ∧
      corrects manyErrors = false ∧
      mostLane (counted [⟨0, 6, 0, 0⟩]).mcl.active manyErrors = some 0 ∧
      (countOf (counted [⟨0, 6, 0, 0⟩]).mcl.counts 0).uncorrectable < 7) ∧
      ((counted [⟨0, 7, 0, 0⟩]).hearsMcl = true ∧
      corrects manyErrors = false ∧
      mostLane (counted [⟨0, 7, 0, 0⟩]).mcl.active manyErrors = some 0 ∧
      7 ≤ (countOf (counted [⟨0, 7, 0, 0⟩]).mcl.counts 0).uncorrectable ∧
      (counted [⟨0, 7, 0, 0⟩]).mcl.retired.contains 0 = false) ∧
      (({ up [] with mcl := Mcl.reset } : State).mcl.trained = false ∧
      ({ up [] with mcl := Mcl.reset } : State).railLow 4 = false ∧
      3 ≤ ({ up [] with mcl := Mcl.reset } : State).start.phase ∧
      8 ≤ (({ up [] with mcl := Mcl.reset } : State).mcl.pick 0xFF).length ∧
      (∀ r ∈ ({ up [] with mcl := Mcl.reset } : State).mcl.requests, r.sent = true)) ∧
      (untrainedHolding.mcl.trained = false ∧
      untrainedHolding.railLow 4 = false ∧
      3 ≤ untrainedHolding.start.phase ∧
      8 ≤ (untrainedHolding.mcl.pick 0xFF).length ∧
      untrainedHolding.mcl.held = ([⟨2, []⟩] : List McWord) ++ (⟨3, []⟩ : McWord) :: [⟨4, []⟩] ∧
      (⟨3, []⟩ : McWord).cseq = 3 ∧
      (∀ u ∈ ([⟨2, []⟩] : List McWord), u.cseq ≠ 3)) ∧
      ((State.reset.mcl.pick 0x7F).length < 8 ∨ State.reset.railLow 4 = true)) ∧
    (((asking [] [waitingAsk]).mcl.requests = ([] : List McReq) ++ waitingAsk :: ([] : List McReq) ∧
      waitingAsk.rtag = 1 ∧
      waitingAsk.waits = true ∧
      waitingAsk.again ≤ (asking [] [waitingAsk]).now16 ∧
      (∀ q ∈ ([] : List McReq) ++ ([] : List McReq), q.rtag ≠ 1 ∧ q.sent = true) ∧
      ({ (asking [] [waitingAsk]).mcl with requests := [] ++ { waitingAsk with rtag := noTag, waits := false, sent := false } :: [] } : Mcl).fits
        { waitingAsk with rtag := noTag, waits := false, sent := false } = true ∧
      ({ (asking [] [waitingAsk]).mcl with requests := [] ++ { waitingAsk with rtag := noTag, waits := false, sent := false } :: [] } : Mcl).tagFrom
        noTag (asking [] [waitingAsk]).mcl.nextTag = some 0 ∧
      (asking [] [waitingAsk]).mcl.trained = true ∧
      1 ≤ (asking [] [waitingAsk]).mcl.reqCredit ∧
      waitingAsk.data.length ≤ (asking [] [waitingAsk]).mcl.dataCredit) ∧
      (∀ r ∈ (asking [] [{ waitingAsk with again := 1 }]).mcl.requests, r.rtag = 1 → r.waits = false ∨ (asking [] [{ waitingAsk with again := 1 }]).now16 < r.again) ∧
      (0 < 16 ∧
      0 < 8 ∧
      lateAsk.running = true ∧
      lateAsk.ctx 0 0 = some ctxPlain ∧
      ctxPlain.parcel.mclTimeout ≠ noLimit ∧
      (∃ r ∈ lateAsk.mcl.requests, r.kind.ofJob 0 0 = true ∧ r.since + ctxPlain.parcel.mclTimeout ≤ lateAsk.now16) ∧
      ctxPlain.state ≠ .halted ∧
      ctxPlain.phaseCode ≠ 7) ∧
      (0 < 16 ∧
      0 < 8 ∧
      (up [withCtx ({ ctxPlain with parcel := { ctxPlain.parcel with mclTimeout := noLimit } } : Ctx)]).ctx 0 0 = some ({ ctxPlain with parcel := { ctxPlain.parcel with mclTimeout := noLimit } } : Ctx) ∧
      ({ ctxPlain with parcel := { ctxPlain.parcel with mclTimeout := noLimit } } : Ctx).parcel.mclTimeout = noLimit) ∧
      (15 < 16 ∧
      ({ asking [] [ask 1 (.token 15) 64] with ostlers := List.replicate 20 { Ostler.reset with count := 1000001 } } : State).postboxWaits 15 = true) ∧
      (15 < 16 ∧
      (up []).postboxWaits 15 = false)) :=
  by and_intros <;> decide +kernel

/-- States and operands that meet the hypotheses of LinksTrainAcknowledgeAndRetireLanes, clause by clause. -/
theorem witness_LinksTrainAcknowledgeAndRetireLanes :
    (31 < 32 ∧
      (0 < (linked State.reset portUp).ports.length ∧
      (((linked State.reset portUp).port 0).state = .up ∨ ((linked State.reset portUp).port 0).state = .spared)) ∧
      (0 < (linked State.reset portSpared).ports.length ∧
      (((linked State.reset portSpared).port 0).state = .up ∨ ((linked State.reset portSpared).port 0).state = .spared)) ∧
      ((State.reset.port 31).state ≠ .up ∧
      (State.reset.port 31).state ≠ .spared) ∧
      (31 < 32 ∧
      31 < State.reset.ports.length ∧
      ((State.reset.port 31).state ≠ .down ∨ State.reset.now16 < (State.reset.port 31).since + 100000)) ∧
      (31 < (atCount 100000 State.reset).ports.length ∧
      ((atCount 100000 State.reset).port 31).state = .down ∧
      ((atCount 100000 State.reset).port 31).since + 100000 ≤ (atCount 100000 State.reset).now16 ∧
      (atCount 100000 State.reset).railLow 4 = false) ∧
      (0 < 32 ∧
      0 < (linked State.reset { portSpared with state := .training }).ports.length ∧
      ((linked State.reset { portSpared with state := .training }).port 0).state = .training ∧
      (linked State.reset { portSpared with state := .training }).railLow 4 = false) ∧
      (({ portSpared with state := .training } : Port).queue = [] ∧
      ({ portSpared with state := .training } : Port).waiting = []) ∧
      (({ portSpared with owes := true, named := 77 } : Port).owes = true ∧
      ({ portSpared with owes := true, named := 77 } : Port).carries = true)) ∧
    ((0 < 32 ∧
      0 < (linked State.reset portSpared).ports.length ∧
      ((linked State.reset portSpared).port 0).carries = true ∧
      frame.crcOk = true ∧
      ({ (default : LinkInfo) with acked := some 0, credits := [(1, 5)] } : LinkInfo).resend = none ∧
      ((linked State.reset portSpared).port 0).queue = [] ∧
      ((linked State.reset portSpared).port 0).waiting = [] ∧
      (∀ c ∈ ({ (default : LinkInfo) with acked := some 0, credits := [(1, 5)] } : LinkInfo).credits, c.1 < 2 ^ 96)) ∧
      (0 < 32 ∧
      0 < (linked State.reset portWaiting).ports.length ∧
      ((linked State.reset portWaiting).port 0).carries = true ∧
      frame.crcOk = true ∧
      ({ (default : LinkInfo) with credits := [(0, 2)] } : LinkInfo).resend = none ∧
      ({ (default : LinkInfo) with credits := [(0, 2)] } : LinkInfo).acked = none ∧
      ((linked State.reset portWaiting).port 0).replay = [] ∧
      ((linked State.reset portWaiting).port 0).queue = [waitsForCredit] ∧
      ((linked State.reset portWaiting).port 0).waiting = [] ∧
      waitsForCredit.stage < 2 ^ 96 ∧
      ({ (default : LinkInfo) with credits := [(0, 2)] } : LinkInfo).credits = [(waitsForCredit.stage, 2)] ∧
      (min 16 waitsForCredit.cells : Int) ≤ ((linked State.reset portWaiting).port 0).creditFor waitsForCredit.stage + 2) ∧
      (0 < 32 ∧
      (forwarding.port 0).carries = true ∧
      frame.crcOk = true ∧
      ({ (default : LinkInfo) with credits := [(xferStage 7 1 5, 4)] } : LinkInfo).credits = [(xferStage 7 1 5, 4)] ∧
      7 < 2 ^ 32 ∧
      1 < 2 ^ 32 ∧
      5 < 2 ^ 32 ∧
      forwarding.jobOf 7 = some (0, 0, ctxSends) ∧
      ctxSends.parcel.role ≠ 1 ∧
      ctxSends.parcel.routeTo 1 = some 1 ∧
      1 ≠ 0 ∧
      1 < forwarding.ports.length) ∧
      (0 < 32 ∧
      ((linked State.reset portUp).port 0).carries = true ∧
      ({ frame with crcOk := false } : FrameHead).crcOk = false) ∧
      (0 < 32 ∧
      0 < (linked State.reset portSpared).ports.length ∧
      ((linked State.reset portSpared).port 0).carries = true ∧
      frame.crcOk = true ∧
      ({ (default : LinkInfo) with resend := some 1 } : LinkInfo).acked = none ∧
      ({ (default : LinkInfo) with resend := some 1 } : LinkInfo).resend = some 1 ∧
      (∀ c ∈ ({ (default : LinkInfo) with resend := some 1 } : LinkInfo).credits, c.1 < 2 ^ 96) ∧
      ((linked State.reset portSpared).port 0).resent = (1, 7)) ∧
      (31 < 32 ∧
      (State.reset.port 31).carries = false)) ∧
    ((0 < 32 ∧
      4 < 5 ∧
      0 < (linked State.reset { portUp with counts := [⟨4, 0, 1, 0⟩] }).ports.length ∧
      (countOf ((linked State.reset { portUp with counts := [⟨4, 0, 1, 0⟩] }).port 0).counts 4).locks < 2) ∧
      (0 < 32 ∧
      3 < 4 ∧
      0 < (linked State.reset { portUp with counts := [⟨3, 0, 2, 0⟩] }).ports.length ∧
      ((linked State.reset { portUp with counts := [⟨3, 0, 2, 0⟩] }).port 0).state ≠ .out ∧
      ((linked State.reset { portUp with counts := [⟨3, 0, 2, 0⟩] }).port 0).retired = none ∧
      2 ≤ (countOf ((linked State.reset { portUp with counts := [⟨3, 0, 2, 0⟩] }).port 0).counts 3).locks) ∧
      (0 < 32 ∧
      0 < (linked State.reset { portUp with counts := [⟨0, 6, 0, 0⟩] }).ports.length ∧
      ((linked State.reset { portUp with counts := [⟨0, 6, 0, 0⟩] }).port 0).carries = true ∧
      corrects manyErrors = false ∧
      mostLane ((linked State.reset { portUp with counts := [⟨0, 6, 0, 0⟩] }).port 0).active manyErrors = some 0 ∧
      (countOf ((linked State.reset { portUp with counts := [⟨0, 6, 0, 0⟩] }).port 0).counts 0).uncorrectable < 7) ∧
      (0 < 32 ∧
      0 < (linked State.reset portSpared).ports.length ∧
      ((linked State.reset portSpared).port 0).carries = true ∧
      corrects oneError = true ∧
      ((linked State.reset portSpared).port 0).active.Nodup ∧
      (∀ l ∈ ((linked State.reset portSpared).port 0).active,
        (countOf ((linked State.reset portSpared).port 0).counts l).corrected + laneErrors ((linked State.reset portSpared).port 0).active oneError l ≤ 16777216)) ∧
      (0 < 32 ∧
      (∀ c ∈ ([(16777216, 7), (5, 0)] : List (Nat × Nat)).zipIdx,
        c.1.1 + (countOf ((linked State.reset { portUp with counts := [⟨1, 0, 0, 7⟩] }).port 0).counts c.2).corrected ≤ 16777216 ∧
        c.1.2 + (countOf ((linked State.reset { portUp with counts := [⟨1, 0, 0, 7⟩] }).port 0).counts c.2).uncorrectable < 8))) :=
  by and_intros <;> decide +kernel

/-- States and operands that meet the hypotheses of FramesAreTakenInOrderOnce, clause by clause. -/
theorem witness_FramesAreTakenInOrderOnce :
    ((frameOf (.grad 0 frame default [zeros]) = some (0, frame) ∧
      0 < 32 ∧
      (frameHeld (.grad 0 frame default [zeros]) State.reset = true ∨ State.reset.running = false ∨ (State.reset.port 0).carries = false)) ∧
      (frameOf (.sealFrame 0 ({ frame with crcOk := false } : FrameHead) default) = some (0, ({ frame with crcOk := false } : FrameHead)) ∧
      0 < 32 ∧
      frameHeld (.sealFrame 0 ({ frame with crcOk := false } : FrameHead) default) (member treeRoot) = false ∧
      (member treeRoot).running = true ∧
      ((member treeRoot).port 0).carries = true ∧
      (({ frame with crcOk := false } : FrameHead).crcOk = false ∨ seqAfter ((member treeRoot).port 0).lseqIn ({ frame with crcOk := false } : FrameHead).lseq = true)) ∧
      (frameOf (.close 0 ({ frame with lseq := 4 } : FrameHead) default) = some (0, ({ frame with lseq := 4 } : FrameHead)) ∧
      0 < 32 ∧
      frameHeld (.close 0 ({ frame with lseq := 4 } : FrameHead) default) (member treeRoot) = false ∧
      (member treeRoot).running = true ∧
      ((member treeRoot).port 0).carries = true ∧
      (({ frame with lseq := 4 } : FrameHead).crcOk = false ∨ seqAfter ((member treeRoot).port 0).lseqIn ({ frame with lseq := 4 } : FrameHead).lseq = true)) ∧
      (frameOf (.param 0 ({ frame with lseq := 2 } : FrameHead) default []) = some (0, ({ frame with lseq := 2 } : FrameHead)) ∧
      0 < 32 ∧
      frameHeld (.param 0 ({ frame with lseq := 2 } : FrameHead) default []) (member treeRoot) = false ∧
      (member treeRoot).running = true ∧
      ((member treeRoot).port 0).carries = true ∧
      ({ frame with lseq := 2 } : FrameHead).crcOk = true ∧
      seqAfter ((member treeRoot).port 0).lseqIn ({ frame with lseq := 2 } : FrameHead).lseq = false ∧
      seqFrom ((member treeRoot).port 0).lseqIn ({ frame with lseq := 2 } : FrameHead).lseq ≠ 0) ∧
      (frameOf (.xfer 0 ({ frame with tag := 8 } : FrameHead) 0 1 5 0 []) = some (0, ({ frame with tag := 8 } : FrameHead)) ∧
      0 < 32 ∧
      frameHeld (.xfer 0 ({ frame with tag := 8 } : FrameHead) 0 1 5 0 []) (member treeRoot) = false ∧
      (member treeRoot).frameNext 0 ({ frame with tag := 8 } : FrameHead) ∧
      (member treeRoot).jobOf ({ frame with tag := 8 } : FrameHead).tag = none) ∧
      (frameOf (.epoch 0 ({ frame with tag := 8 } : FrameHead) default) = some (0, ({ frame with tag := 8 } : FrameHead)) ∧
      0 < 32 ∧
      frameHeld (.epoch 0 ({ frame with tag := 8 } : FrameHead) default) (member treeRoot) = false ∧
      (member treeRoot).frameNext 0 ({ frame with tag := 8 } : FrameHead) ∧
      (member treeRoot).jobOf ({ frame with tag := 8 } : FrameHead).tag = none)) :=
  by and_intros <;> decide +kernel

/-- States and operands that meet the hypotheses of SealsAndBlocksAreSummed, clause by clause. -/
theorem witness_SealsAndBlocksAreSummed :
    ([2 ^ 39 - 1].length = [-(2 ^ 39)].length ∧
      (zeros.q.length = zeros.q.length ∧
      blockWrong zeros default default = false ∧
      blockWrong zeros default default = false)) ∧
    ((∀ k, ((member treeRoot).port k).inputs = []) ∧
      ((member treeRoot).frameFor 0 frame 0 0 (ctxMember treeRoot) ∧
      (ctxMember treeRoot).state ≠ .halted ∧
      (ctxMember treeRoot).parcel.tree? frame.tree = some treeRoot ∧
      (ctxMember treeRoot).parcel.bucket? (default : GradHead).bucket = some (default : BucketRec) ∧
      (ctxMember treeRoot).staleGrad (default : GradHead) = false ∧
      (default : BucketRec).tree = frame.tree ∧
      0 ∈ treeRoot.downPorts ∧
      treeRoot.adderPort < (member treeRoot).ports.length ∧
      (ctxMember treeRoot).tr.coll.owed = [] ∧
      ((member treeRoot).port treeRoot.adderPort).adder = [] ∧
      blockWrong zeros (default : GradHead) (default : GradHead) = false ∧
      zeros.bad = false ∧
      zeros.members < treeRoot.below)) ∧
    ((0 < (linked State.reset { portUp with adder := [(⟨0, 7, default, zeros⟩ : OpenBlock)] }).ports.length ∧
      ((linked State.reset { portUp with adder := [(⟨0, 7, default, zeros⟩ : OpenBlock)] }).port 0).adder = [(⟨0, 7, default, zeros⟩ : OpenBlock)] ∧
      (⟨0, 7, default, zeros⟩ : OpenBlock).is (⟨0, 2, 0, 7, default, zeros⟩ : WaitIn) = true ∧
      (ctxMember treeInner).parcel.tree? (⟨0, 2, 0, 7, default, zeros⟩ : WaitIn).tree = some treeInner ∧
      blockWrong (⟨0, 2, 0, 7, default, zeros⟩ : WaitIn).blk (⟨0, 2, 0, 7, default, zeros⟩ : WaitIn).head (⟨0, 7, default, zeros⟩ : OpenBlock).head = false ∧
      (⟨0, 2, 0, 7, default, zeros⟩ : WaitIn).blk.bad = false ∧
      (⟨0, 7, default, zeros⟩ : OpenBlock).sum.members + (⟨0, 2, 0, 7, default, zeros⟩ : WaitIn).blk.members < treeInner.below) ∧
      (0 < (linked State.reset { portUp with adder := [(⟨0, 7, default, { zeros with members := 2 }⟩ : OpenBlock)] }).ports.length ∧
      ((linked State.reset { portUp with adder := [(⟨0, 7, default, { zeros with members := 2 }⟩ : OpenBlock)] }).port 0).adder = [(⟨0, 7, default, { zeros with members := 2 }⟩ : OpenBlock)] ∧
      (⟨0, 7, default, { zeros with members := 2 }⟩ : OpenBlock).is (⟨0, 2, 0, 7, default, zeros⟩ : WaitIn) = true ∧
      (ctxMember treeInner).parcel.tree? (⟨0, 2, 0, 7, default, zeros⟩ : WaitIn).tree = some treeInner ∧
      blockWrong (⟨0, 2, 0, 7, default, zeros⟩ : WaitIn).blk (⟨0, 2, 0, 7, default, zeros⟩ : WaitIn).head (⟨0, 7, default, { zeros with members := 2 }⟩ : OpenBlock).head = false ∧
      (⟨0, 2, 0, 7, default, zeros⟩ : WaitIn).blk.bad = false ∧
      (⟨0, 7, default, { zeros with members := 2 }⟩ : OpenBlock).sum.members + (⟨0, 2, 0, 7, default, zeros⟩ : WaitIn).blk.members = treeInner.below ∧
      treeInner.isRoot = false) ∧
      ((∀ g ∈ ({ portUp with credit := [(0, 2)] } : Port).waiting, g.pad ≠ waitsForCredit.pad) ∧
      ({ portUp with credit := [(0, 2)] } : Port).carries = true ∧
      ({ portUp with credit := [(0, 2)] } : Port).keeps waitsForCredit = true ∧
      (∀ g ∈ ({ portUp with credit := [(0, 2)] } : Port).queue, g.stage ≠ waitsForCredit.stage) ∧
      (min 16 waitsForCredit.cells : Int) ≤ ({ portUp with credit := [(0, 2)] } : Port).creditFor waitsForCredit.stage) ∧
      ((∀ g ∈ portWaiting.waiting, g.pad ≠ waitsForCredit.pad) ∧
      (portWaiting.carries = false ∨ portWaiting.creditFor waitsForCredit.stage < (min 16 waitsForCredit.cells : Int)))) :=
  ⟨by and_intros <;> decide +kernel,
    ⟨linked_port (fun q => q.inputs = []) rfl rfl, by and_intros <;> decide +kernel⟩,
    by and_intros <;> decide +kernel⟩

/-- States and operands that meet the hypotheses of RecordsJoinTheirRound, clause by clause. -/
theorem witness_RecordsJoinTheirRound :
    (((member treeRoot).frameFor 0 frame 0 0 (ctxMember treeRoot) ∧
      (ctxMember treeRoot).state ≠ .halted ∧
      (ctxMember treeRoot).parcel.tree? 0 = some treeRoot ∧
      frame.tree = 0 ∧
      (ctxMember treeRoot).tr.phase ≠ 9 ∧
      (default : SealRec).attempt = (ctxMember treeRoot).tr.attempt % 256 ∧
      0 ∈ treeRoot.downPorts ∧
      0 ∉ (ctxMember treeRoot).tr.coll.sealFrom ∧
      ((ctxMember treeRoot).parcel.roundFrom.all (0 :: (ctxMember treeRoot).tr.coll.sealFrom).contains) = false) ∧
      ((member treeRoot).frameFor 0 frame 0 0 (ctxMember treeRoot) ∧
      (ctxMember treeRoot).state ≠ .halted ∧
      (ctxMember treeRoot).parcel.tree? 0 = some treeRoot ∧
      frame.tree = 0 ∧
      (ctxMember treeRoot).tr.phase ≠ 9 ∧
      (default : CloseRec).attempt = (ctxMember treeRoot).tr.attempt % 256 ∧
      0 ∈ treeRoot.downPorts ∧
      0 ∉ (ctxMember treeRoot).tr.coll.closeFrom ∧
      ((ctxMember treeRoot).parcel.roundFrom.all (0 :: (ctxMember treeRoot).tr.coll.closeFrom).contains) = false) ∧
      ((member treeRoot).frameFor 0 frame 0 0 (ctxMember treeRoot) ∧
      (ctxMember treeRoot).parcel.tree? 0 = some treeRoot ∧
      frame.tree = 0 ∧
      0 ∈ treeRoot.downPorts ∧
      ((ctxMember treeRoot).tr.epochIn.all fun e => e.1 != 0) = true ∧
      (ctxMember treeRoot).tr.proposal = none) ∧
      (7 < 8 ∧
      (bitOf ({ (default : SealRec) with votes := 128 } : SealRec).votes 7 = true ∨ bitOf (default : SealRec).votes 7 = true)) ∧
      (bitOf (default : SealRec).votes 4 = false ∧
      bitOf ({ (default : SealRec) with step := 1 } : SealRec).votes 4 = false) ∧
      (bitOf (default : SealRec).votes 5 = false ∧
      bitOf ({ (default : SealRec) with nclass := 1 } : SealRec).votes 5 = false) ∧
      (0 < 8 ∧
      (bitOf (default : CloseRec).votes 0 = true ∨ bitOf ({ (default : CloseRec) with votes := 1 } : CloseRec).votes 0 = true))) :=
  by and_intros <;> decide +kernel

/-- States and operands that meet the hypotheses of ParamAndXferFramesMove, clause by clause. -/
theorem witness_ParamAndXferFramesMove :
    (((member treeLeaf).frameFor 0 frame 0 0 (ctxMember treeLeaf) ∧
      (ctxMember treeLeaf).state ≠ .halted ∧
      (ctxMember treeLeaf).parcel.tree? frame.tree = some treeLeaf ∧
      (ctxMember treeLeaf).parcel.bucket? ({ (default : ParamHead) with kind := 1 } : ParamHead).bucket = some (default : BucketRec) ∧
      ({ (default : ParamHead) with kind := 1 } : ParamHead).step = (ctxMember treeLeaf).stepNow % 2 ^ 32 ∧
      treeLeaf.upPort = 0 ∧
      (ctxMember treeLeaf).parcel.layer? (default : BucketRec).layer = some ({ layerOne with frozen := false } : LayerRec) ∧
      (ctxMember treeLeaf).layerSt (default : BucketRec).layer = some (default : LayerSt) ∧
      (ctxMember treeLeaf).tr.phase ≠ 9 ∧
      ({ layerOne with frozen := false } : LayerRec).frozen = false ∧
      ({ (default : ParamHead) with kind := 1 } : ParamHead).kind = 1 ∧
      ({ (default : ParamHead) with kind := 1 } : ParamHead).offset + [0, 0, 128, 63].length < 4 * ({ layerOne with frozen := false } : LayerRec).cols + 4) ∧
      ((member treeRoot).frameFor 0 frame 0 0 (ctxMember treeRoot) ∧
      (ctxMember treeRoot).state ≠ .halted ∧
      1 ≠ (ctxMember treeRoot).parcel.role ∧
      (ctxMember treeRoot).parcel.routeTo 1 = some 1 ∧
      1 ≠ 0 ∧
      1 < (member treeRoot).ports.length)) ∧
    (((member treeRoot).modPort 0 (·.taken (member treeRoot).now16 1 (xferStage frame.tag 1 5) frame.cells)).putXfer (ctxMember treeRoot) ((ctxMember treeRoot).parcel.desc 0) (⟨0, 1, 5, 0⟩ : XferRx).got (List.replicate 99 7) = .ok (okOf (((member treeRoot).modPort 0 (·.taken (member treeRoot).now16 1 (xferStage frame.tag 1 5) frame.cells)).putXfer (ctxMember treeRoot) ((ctxMember treeRoot).parcel.desc 0) (⟨0, 1, 5, 0⟩ : XferRx).got (List.replicate 99 7)) State.reset) ∧
      ((member treeRoot).frameFor 0 frame 0 0 (ctxMember treeRoot) ∧
      (ctxMember treeRoot).state ≠ .halted ∧
      ((ctxMember treeRoot).tr.xfers.find? fun y => y.role == 1 && y.number == 5) = some (⟨0, 1, 5, 0⟩ : XferRx) ∧
      ((ctxMember treeRoot).parcel.recs[(⟨0, 1, 5, 0⟩ : XferRx).ordinal]?).map Rec.body = some (.xferRecv 1 5 0 100) ∧
      (⟨0, 1, 5, 0⟩ : XferRx).got + (List.replicate 99 7).length < (ctxMember treeRoot).parcel.xferBytes 0 ∧
      (member treeRoot).xferWaits frame.tag (ctxMember treeRoot).parcel.role 1 5 = false ∧
      (ctxMember treeRoot).state ≠ .blocked)) :=
  ⟨by and_intros <;> decide +kernel,
    ⟨okOf_eq (by decide +kernel), by and_intros <;> decide +kernel⟩⟩

/-- States and operands that meet the hypotheses of CollectionPhasesEnd, clause by clause. -/
theorem witness_CollectionPhasesEnd :
    ((0 < 16 ∧
      0 < 8 ∧
      (member treeRoot).runs 0 = true ∧
      (member treeRoot).ctx 0 0 = some (ctxMember treeRoot) ∧
      (ctxMember treeRoot).tr.phase = 5 ∧
      (ctxMember treeRoot).state ≠ .halted ∧
      (ctxMember treeRoot).tr.coll.owed = [] ∧
      (ctxMember treeRoot).ownedDone = true ∧
      32 ∉ (ctxMember treeRoot).tr.coll.sealFrom ∧
      ((ctxMember treeRoot).parcel.roundFrom.all (32 :: (ctxMember treeRoot).tr.coll.sealFrom).contains) = false) ∧
      (0 < 16 ∧
      0 < 8 ∧
      (waits (⟨0, 0, .collect, 0⟩ : Expiry) (ctxMember treeRoot)).runs 0 = true ∧
      (waits (⟨0, 0, .collect, 0⟩ : Expiry) (ctxMember treeRoot)).ctx 0 0 = some (ctxMember treeRoot) ∧
      (⟨0, 0, .collect, 0⟩ : Expiry) ∈ (waits (⟨0, 0, .collect, 0⟩ : Expiry) (ctxMember treeRoot)).expiries ∧
      (⟨0, 0, .collect, 0⟩ : Expiry).paddock = 0 ∧
      (⟨0, 0, .collect, 0⟩ : Expiry).ctx = 0 ∧
      (⟨0, 0, .collect, 0⟩ : Expiry).kind = .collect ∧
      (⟨0, 0, .collect, 0⟩ : Expiry).endAt ≤ (waits (⟨0, 0, .collect, 0⟩ : Expiry) (ctxMember treeRoot)).now 0 ∧
      32 ∉ (ctxMember treeRoot).tr.coll.sealFrom ∧
      ((ctxMember treeRoot).parcel.roundFrom.all (32 :: (ctxMember treeRoot).tr.coll.sealFrom).contains) = false)) ∧
    ((∀ col, (ctxMember treeRoot).parcel.collection = some col → col.sealLog = 0xFFFF) ∧
      (0 < 16 ∧
      0 < 8 ∧
      (waits (⟨0, 0, .sealing, 0⟩ : Expiry) (ctxMember treeRoot)).runs 0 = true ∧
      (waits (⟨0, 0, .sealing, 0⟩ : Expiry) (ctxMember treeRoot)).ctx 0 0 = some (ctxMember treeRoot) ∧
      (⟨0, 0, .sealing, 0⟩ : Expiry) ∈ (waits (⟨0, 0, .sealing, 0⟩ : Expiry) (ctxMember treeRoot)).expiries ∧
      (⟨0, 0, .sealing, 0⟩ : Expiry).paddock = 0 ∧
      (⟨0, 0, .sealing, 0⟩ : Expiry).ctx = 0 ∧
      (⟨0, 0, .sealing, 0⟩ : Expiry).kind = .sealing ∧
      (⟨0, 0, .sealing, 0⟩ : Expiry).endAt ≤ (waits (⟨0, 0, .sealing, 0⟩ : Expiry) (ctxMember treeRoot)).now 0 ∧
      (ctxMember treeRoot).state ≠ .halted ∧
      (ctxMember treeRoot).haltAfter = none)) ∧
    (0 < 16 ∧
      0 < 8 ∧
      (waits (⟨0, 0, .broadcast, 0⟩ : Expiry) (ctxMember treeRoot)).runs 0 = true ∧
      (waits (⟨0, 0, .broadcast, 0⟩ : Expiry) (ctxMember treeRoot)).ctx 0 0 = some (ctxMember treeRoot) ∧
      (⟨0, 0, .broadcast, 0⟩ : Expiry) ∈ (waits (⟨0, 0, .broadcast, 0⟩ : Expiry) (ctxMember treeRoot)).expiries ∧
      (⟨0, 0, .broadcast, 0⟩ : Expiry).paddock = 0 ∧
      (⟨0, 0, .broadcast, 0⟩ : Expiry).ctx = 0 ∧
      (⟨0, 0, .broadcast, 0⟩ : Expiry).kind = .broadcast ∧
      (⟨0, 0, .broadcast, 0⟩ : Expiry).endAt ≤ (waits (⟨0, 0, .broadcast, 0⟩ : Expiry) (ctxMember treeRoot)).now 0 ∧
      (ctxMember treeRoot).state ≠ .halted) ∧
    ((((({ ctxMember treeRoot with tr := { (ctxMember treeRoot).tr with phase := 6, coll := { Coll.none with recompute := true } } } : Ctx).tr.coll.buckets.filter (·.updated)).filterMap fun r => ({ ctxMember treeRoot with tr := { (ctxMember treeRoot).tr with phase := 6, coll := { Coll.none with recompute := true } } } : Ctx).parcel.bucket? r.bucket).foldl (fun (y : State) b => y.bucketBoundary ({ ctxMember treeRoot with tr := { (ctxMember treeRoot).tr with phase := 6, coll := { Coll.none with recompute := true } } } : Ctx) b) (up [withCtx ({ ctxMember treeRoot with tr := { (ctxMember treeRoot).tr with phase := 6, coll := { Coll.none with recompute := true } } } : Ctx)])).recomputeAll 0 0 ({ ctxMember treeRoot with tr := { (ctxMember treeRoot).tr with phase := 6, coll := { Coll.none with recompute := true } } } : Ctx).tr.c ((({ ctxMember treeRoot with tr := { (ctxMember treeRoot).tr with phase := 6, coll := { Coll.none with recompute := true } } } : Ctx).tr.coll.buckets.filter (·.updated)).filterMap fun r => ({ ctxMember treeRoot with tr := { (ctxMember treeRoot).tr with phase := 6, coll := { Coll.none with recompute := true } } } : Ctx).parcel.bucket? r.bucket) = .ok (up [withCtx ({ ctxMember treeRoot with tr := { (ctxMember treeRoot).tr with phase := 6, coll := { Coll.none with recompute := true } } } : Ctx)]) ∧
      (0 < 16 ∧
      0 < 8 ∧
      (up [withCtx ({ ctxMember treeRoot with tr := { (ctxMember treeRoot).tr with phase := 6, coll := { Coll.none with recompute := true } } } : Ctx)]).runs 0 = true ∧
      (up [withCtx ({ ctxMember treeRoot with tr := { (ctxMember treeRoot).tr with phase := 6, coll := { Coll.none with recompute := true } } } : Ctx)]).ctx 0 0 = some ({ ctxMember treeRoot with tr := { (ctxMember treeRoot).tr with phase := 6, coll := { Coll.none with recompute := true } } } : Ctx) ∧
      ({ ctxMember treeRoot with tr := { (ctxMember treeRoot).tr with phase := 6, coll := { Coll.none with recompute := true } } } : Ctx).tr.phase = 6 ∧
      ({ ctxMember treeRoot with tr := { (ctxMember treeRoot).tr with phase := 6, coll := { Coll.none with recompute := true } } } : Ctx).tr.coll.recompute = true ∧
      ({ ctxMember treeRoot with tr := { (ctxMember treeRoot).tr with phase := 6, coll := { Coll.none with recompute := true } } } : Ctx).state ≠ .halted ∧
      ({ ctxMember treeRoot with tr := { (ctxMember treeRoot).tr with phase := 6, coll := { Coll.none with recompute := true } } } : Ctx).updateWaits = false ∧
      (up [withCtx ({ ctxMember treeRoot with tr := { (ctxMember treeRoot).tr with phase := 6, coll := { Coll.none with recompute := true } } } : Ctx)]).ctx 0 0 = some ({ ctxMember treeRoot with tr := { (ctxMember treeRoot).tr with phase := 6, coll := { Coll.none with recompute := true } } } : Ctx))) :=
  ⟨by and_intros <;> decide +kernel,
    ⟨by intro col h; cases h; rfl, by and_intros <;> decide +kernel⟩,
    by decide +kernel,
    ⟨by rfl, by and_intros <;> decide +kernel⟩⟩

/-- States and operands that meet the hypotheses of ResetPinAndRailsAct, clause by clause. -/
theorem witness_ResetPinAndRailsAct :
    ((up []).power.mreset = true ∧
      State.reset.power.mreset = false ∧
      (State.reset.power.mreset = false ∧
      State.reset.power.railsUp = true ∧
      State.reset.power.thermtrip = false) ∧
      ((up []).power.mreset = true ∨ (up []).power.railsUp = false ∨ (up []).power.thermtrip = true) ∧
      (({ State.reset with power := { Power.reset with thermtrip := true } } : State).power.mreset = true ∨ ({ State.reset with power := { Power.reset with thermtrip := true } } : State).power.railsUp = false ∨ ({ State.reset with power := { Power.reset with thermtrip := true } } : State).power.thermtrip = true) ∧
      (2 < 9 ∧
      2 < (up []).power.rails.length ∧
      (up []).start.phase ≠ 0 ∧
      739 < warnLevel 2 ∧
      resetLevel 2 ≤ 739) ∧
      (2 < 9 ∧
      2 < (up []).power.rails.length ∧
      (up []).start.phase ≠ 0 ∧
      700 < warnLevel 2 ∧
      resetLevel 2 ≤ 700) ∧
      (8 < 9 ∧
      warnLevel 8 ≤ 1700) ∧
      (8 < 9 ∧
      (atCount 100 (dipped 8)).power.rails[8]? = some (⟨true, 1000, 3, 0⟩ : Rail) ∧
      (⟨true, 1000, 3, 0⟩ : Rail).dipped = true ∧
      (⟨true, 1000, 3, 0⟩ : Rail).last + 100 ≤ (atCount 100 (dipped 8)).now16 ∧
      8 ≠ 4) ∧
      ((atCount 100 (dipped 4)).power.rails[4]? = some (⟨true, 1000, 3, 0⟩ : Rail) ∧
      (⟨true, 1000, 3, 0⟩ : Rail).dipped = true ∧
      (⟨true, 1000, 3, 0⟩ : Rail).last + 100 ≤ (atCount 100 (dipped 4)).now16) ∧
      (8 < 9 ∧
      (dipped 8).power.rails[8]? = some (⟨true, 1000, 3, 0⟩ : Rail) ∧
      (dipped 8).now16 < (⟨true, 1000, 3, 0⟩ : Rail).last + 100) ∧
      (8 < 9 ∧
      8 ≠ 4 ∧
      (up []).power.mreset = true) ∧
      ((supplyDie false).otp.supplyT = true ∧
      (supplyDie false).power.railsUp = false ∧
      (supplyDie false).power.mreset = true) ∧
      ((supplyDie true).otp.supplyT = true ∧
      (supplyDie true).power.railsUp = true)) :=
  by and_intros <;> decide +kernel

/-- States and operands that meet the hypotheses of StartPhasesGoOn, clause by clause. -/
theorem witness_StartPhasesGoOn :
    (((phaseIs 1).start.phase = 1 ∧
      (phaseIs 1).start.fault = false ∧
      (((⟨true, false⟩ : SlotCheck).aOk = true ∧ (phaseIs 1).flash.slotA.whole = true) ∧ (phaseIs 1).otp.floor ≤ (phaseIs 1).flash.slotA.svn)) ∧
      ((phaseIs 1).start.phase = 1 ∧
      (phaseIs 1).start.fault = false ∧
      (¬ (((⟨false, true⟩ : SlotCheck).aOk = true ∧ (phaseIs 1).flash.slotA.whole = true) ∧ (phaseIs 1).otp.floor ≤ (phaseIs 1).flash.slotA.svn)) ∧
      (¬ (((⟨false, true⟩ : SlotCheck).bOk = true ∧ (phaseIs 1).flash.slotB.whole = true) ∧ (phaseIs 1).otp.floor ≤ (phaseIs 1).flash.slotB.svn))) ∧
      ((phaseIs 2).start.phase = 2 ∧
      (phaseIs 2).start.fault = false ∧
      (phaseIs 2).start.warm = false) ∧
      ((phaseIs 3).start.phase = 3 ∧
      (phaseIs 3).start.fault = false ∧
      (phaseIs 3).start.warm = false ∧
      8 ≤ (bitsSet 18 0xFF).length) ∧
      ((phaseIs 3).start.phase = 3 ∧
      (phaseIs 3).start.fault = false ∧
      (bitsSet 18 0x7F).length < 8) ∧
      ((phaseIs 5).start.phase = 5 ∧
      (phaseIs 5).start.fault = false ∧
      (phaseIs 5).start.warm = false ∧
      (phaseIs 5).channels.length = 192) ∧
      ((phaseIs 6).mem.wf = true ∧
      (phaseIs 6).start.phase = 6 ∧
      (phaseIs 6).start.fault = false ∧
      (phaseIs 6).freeze.pinLow = false) ∧
      (({ phaseIs 4 with ostlers := List.replicate 20 { Ostler.reset with count := 3000000000 } } : State).start.phase = 4 ∧
      ({ phaseIs 4 with ostlers := List.replicate 20 { Ostler.reset with count := 3000000000 } } : State).start.phaseAt + 3000000000 ≤ ({ phaseIs 4 with ostlers := List.replicate 20 { Ostler.reset with count := 3000000000 } } : State).now16) ∧
      ((up []).start.phase ≠ 4 ∨ (up []).now16 < (up []).start.phaseAt + 3000000000) ∧
      (({ phaseIs 4 with ostlers := List.replicate 20 { Ostler.reset with count := 2999999999 } } : State).start.phase ≠ 4 ∨ ({ phaseIs 4 with ostlers := List.replicate 20 { Ostler.reset with count := 2999999999 } } : State).now16 < ({ phaseIs 4 with ostlers := List.replicate 20 { Ostler.reset with count := 2999999999 } } : State).start.phaseAt + 3000000000)) :=
  by and_intros <;> decide +kernel

/-- States and operands that meet the hypotheses of HalterFreezesAndThaws, clause by clause. -/
theorem witness_HalterFreezesAndThaws :
    (((up []).start.phase = 7 ∧
      (up []).power.mreset = true ∧
      (up []).freeze.halter = false) ∧
      (State.reset.start.phase ≠ 7 ∨ State.reset.power.mreset = false) ∧
      ((phaseIs 6).start.phase ≠ 7 ∨ (phaseIs 6).power.mreset = false) ∧
      ((halted false).freeze.halter = true ∧
      (halted false).freeze.acked = false) ∧
      ((halted true).freeze.halter = true ∧
      (halted true).freeze.thermal = false) ∧
      (up []).freeze.halter = false) :=
  by and_intros <;> decide +kernel

/-- States and operands that meet the hypotheses of PowerAndTemperatureAreGoverned, clause by clause. -/
theorem witness_PowerAndTemperatureAreGoverned :
    ((1 < 2 ∧
      (up []).dies.length = 2 ∧
      (up []).start.phase ≠ 0 ∧
      (up []).frozen = false ∧
      (up []).power.thermtrip = false ∧
      (up []).dieServed 1 = true) ∧
      (0 < 2 ∧
      (State.reset.start.phase = 0 ∨ State.reset.frozen = true ∨ State.reset.power.thermtrip = true)) ∧
      (0 < 2 ∧
      (({ up [] with freeze := { Freeze.none with thermal := true } } : State).start.phase = 0 ∨ ({ up [] with freeze := { Freeze.none with thermal := true } } : State).frozen = true ∨ ({ up [] with freeze := { Freeze.none with thermal := true } } : State).power.thermtrip = true)) ∧
      (0 < 2 ∧
      (up []).dies.length = 2 ∧
      (up []).start.phase ≠ 0 ∧
      (up []).power.thermtrip = false ∧
      (up []).freeze.thermal = false ∧
      420 ≤ 420 ∧
      420 < 440) ∧
      (1 < 2 ∧
      (up []).dies.length = 2 ∧
      (up []).start.phase ≠ 0 ∧
      (up []).power.thermtrip = false ∧
      (up []).freeze.thermal = false ∧
      420 ≤ 439 ∧
      439 < 440) ∧
      (0 < 2 ∧
      (up []).dies.length = 2 ∧
      (up []).start.phase ≠ 0 ∧
      (up []).power.thermtrip = false ∧
      (up []).freeze.thermal = false ∧
      399 < 400) ∧
      (0 < 2 ∧
      (up []).dies.length = 2 ∧
      (up []).start.phase = 7 ∧
      (up []).power.thermtrip = false ∧
      (up []).freeze.thermal = false ∧
      440 ≤ 440 ∧
      440 < 480) ∧
      (0 < 2 ∧
      (up []).dies.length = 2 ∧
      (up []).start.phase = 7 ∧
      (up []).power.thermtrip = false ∧
      (up []).freeze.thermal = false ∧
      440 ≤ 479 ∧
      479 < 480) ∧
      (0 < 2 ∧
      ({ up [] with freeze := { Freeze.none with thermal := true } } : State).dies.length = 2 ∧
      ({ up [] with freeze := { Freeze.none with thermal := true } } : State).start.phase ≠ 0 ∧
      ({ up [] with freeze := { Freeze.none with thermal := true } } : State).power.thermtrip = false ∧
      ({ up [] with freeze := { Freeze.none with thermal := true } } : State).freeze.thermal = true ∧
      ({ up [] with freeze := { Freeze.none with thermal := true } } : State).freeze.halter = false ∧
      379 < 380 ∧
      (({ up [] with freeze := { Freeze.none with thermal := true } } : State).die (1 - 0)).tj < 380) ∧
      (0 < 2 ∧
      (up []).start.phase ≠ 0 ∧
      (up []).power.thermtrip = false ∧
      (up []).otp.supplyT = false ∧
      480 ≤ 480) ∧
      ((up []).start.phase ≠ 0 ∧
      (up []).power.thermtrip = false ∧
      (up []).otp.supplyT = false) ∧
      ((supplyDie true).start.phase ≠ 0 ∧
      (supplyDie true).power.thermtrip = false ∧
      (supplyDie true).otp.supplyT = true)) :=
  by and_intros <;> decide +kernel

/-- States and operands that meet the hypotheses of SetPointAndCoolantAreReported, clause by clause. -/
theorem witness_SetPointAndCoolantAreReported :
    ((1 < 2 ∧
      (up []).start.phase ≠ 0 ∧
      (up []).power.thermtrip = false ∧
      (up []).otp.supplyT = false ∧
      (up []).frozen = false) ∧
      (0 < 2 ∧
      ((supplyDie true).otp.supplyT = true ∨ (supplyDie true).frozen = true)) ∧
      (0 < 2 ∧
      (({ up [] with freeze := { Freeze.none with thermal := true } } : State).otp.supplyT = true ∨ ({ up [] with freeze := { Freeze.none with thermal := true } } : State).frozen = true)) ∧
      (550 ≤ 550 ∧
      550 ≤ 850) ∧
      (550 ≤ 850 ∧
      850 ≤ 850) ∧
      ((up []).start.phase ≠ 0 ∧
      (up []).power.thermtrip = false)) :=
  by and_intros <;> decide +kernel

/-- States and operands that meet the hypotheses of WatchdogWarnsAndHalts, clause by clause. -/
theorem witness_WatchdogWarnsAndHalts :
    ((3 < 72 ∧
      3 < (watched 0).stables.length ∧
      3 < 4 ∧
      (watched 0).watchedJob 3 = some (0, 0, (ctxWatched 0)) ∧
      (watched 0).remount.logical 3 = some 5 ∧
      (ctxWatched 0).parcel.warnAt ≤ ((watched 0).stable 3).watch ∧
      ((watched 0).stable 3).warned = false) ∧
      (3 < 72 ∧
      (watched 20000).watchedJob 3 = some (0, 0, (ctxWatched 20000)) ∧
      (ctxWatched 20000).parcel.watchHalt ≠ 0 ∧
      (ctxWatched 20000).parcel.watchHalt ≤ ((watched 20000).stable 3).watch ∧
      (watched 20000).ctx 0 0 = some (ctxWatched 20000) ∧
      (ctxWatched 20000).state ≠ .halted ∧
      (ctxWatched 20000).phaseCode ≠ 7) ∧
      (71 < 72 ∧
      (watched 0).watchedJob 71 = none) ∧
      (3 < 72 ∧
      (watched 0).watchedJob 3 = some (0, 0, (ctxWatched 0)) ∧
      ((ctxWatched 0).parcel.watchHalt = 0 ∨ ((watched 0).stable 3).watch < (ctxWatched 0).parcel.watchHalt)) ∧
      (3 < 72 ∧
      (watched 1000001).watchedJob 3 = some (0, 0, (ctxWatched 1000001)) ∧
      ((ctxWatched 1000001).parcel.watchHalt = 0 ∨ ((watched 1000001).stable 3).watch < (ctxWatched 1000001).parcel.watchHalt)) ∧
      (3 < 72 ∧
      0 < 4 ∧
      ((watched 0).modStable 3 fun y => { y with warned := true }).watchedJob 3 = some (0, 0, (ctxWatched 0)) ∧
      ((((watched 0).modStable 3 fun y => { y with warned := true }).stable 3).watch < (ctxWatched 0).parcel.warnAt ∨ (((watched 0).modStable 3 fun y => { y with warned := true }).stable 3).warned = true))) :=
  by and_intros <;> decide +kernel

/-- States and operands that meet the hypotheses of MemoryIsKeptUp, clause by clause. -/
theorem witness_MemoryIsKeptUp :
    ((191 < 192 ∧
      (0x1F0000000 - 64) < 0x1F0000000 ∧
      (upkeep 1).scrubs 191 = true ∧
      (upkeep 1).spoilt (unitOf (deviceOf 191 (0x1F0000000 - 64))) = false ∧
      (upkeep 1).flipsOf (unitOf (deviceOf 191 (0x1F0000000 - 64))) = []) ∧
      (191 < 192 ∧
      0x1F0000000 ≤ (0x1FF800000 - 64) ∧
      (0x1FF800000 - 64) < 0x1FF800000 ∧
      (upkeep 1).scrubs 191 = true) ∧
      (0 < 192 ∧
      0x1FF800000 ≤ 0x1FF800000 ∧
      0x1FF800000 < 2 ^ 33) ∧
      (0 < 192 ∧
      0 < (upkeep 1).channels.length ∧
      0 < 0x1F0000000 ∧
      (upkeep 1).scrubs 0 = true ∧
      (upkeep 1).spoilt (unitOf (deviceOf 0 0)) = false ∧
      (upkeep 1).remount.hasRow 0 (rowAt 0) = false ∧
      3 ≤ burstsOf (countCorrected ((upkeep 1).channel 0).rows (rowAt 0) (0 / 64)) (rowAt 0) ∧
      ((upkeep 1).channel 0).canRepair (rowAt 0) = true) ∧
      (0 < 192 ∧
      0 < (upkeep 0).channels.length ∧
      0 < 0x1F0000000 ∧
      (upkeep 0).scrubs 0 = true ∧
      (upkeep 0).spoilt (unitOf (deviceOf 0 0)) = false ∧
      (upkeep 0).remount.hasRow 0 (rowAt 0) = false ∧
      3 ≤ burstsOf (countCorrected ((upkeep 0).channel 0).rows (rowAt 0) (0 / 64)) (rowAt 0) ∧
      ((upkeep 0).channel 0).canRepair (rowAt 0) = false) ∧
      (3 < 192 ∧
      3 < (upkeep 1).channels.length ∧
      (0x1F0000000 - 64) < 0x1F0000000 ∧
      (upkeep 1).scrubs 3 = true ∧
      (upkeep 1).spoilt (unitOf (deviceOf 3 (0x1F0000000 - 64))) = false ∧
      burstsOf (countCorrected ((upkeep 1).channel 3).rows (rowAt (0x1F0000000 - 64)) ((0x1F0000000 - 64) / 64)) (rowAt (0x1F0000000 - 64)) < 3)) ∧
    ((∃ r ∈ ((upkeep 1).channel 1).uncorrectableRows, r ≠ rowAt 0) ∧
      (1 < 192 ∧
      1 < (upkeep 1).channels.length ∧
      0 < 0x1F0000000 ∧
      (upkeep 1).scrubs 1 = true ∧
      rowAt 0 ∉ ((upkeep 1).channel 1).uncorrectableRows)) ∧
    ((191 < 192 ∧
      (upkeep 1).running = true) ∧
      (0 < 192 ∧
      0 < 2 ^ 33 ∧
      (State.reset.running = false ∨ (State.reset.channel 0).retired = true ∨ (State.reset.shed 0).ok = false ∨
      bitOf State.reset.cfg.ecc (0 / 8) = false)) ∧
      (95 < 96 ∧
      (penSize - 1) < penSize ∧
      (upkeep 1).running = true ∧
      (upkeep 1).spoilt (unitOf (penBase 95 + (penSize - 1))) = false) ∧
      (2 < 192 ∧
      ((upkeep 1).channel 2).up = true ∧
      (upkeep 1).memoryLow = false) ∧
      (2 < (upkeep 1).channels.length ∧
      2 < (upkeep 1).sheds.length ∧
      ((upkeep 1).channel 2).retired = false) ∧
      (2 < 192 ∧
      2 < (upkeep 1).channels.length ∧
      ((upkeep 1).channel 2).up = true ∧
      (upkeep 1).memoryLow = false) ∧
      (2 < 192 ∧
      1 < 2 ∧
      15 < 16 ∧
      ((upkeep 1).channel 2).up = true) ∧
      (3 < 192 ∧
      1 < 2 ∧
      0 < 16 ∧
      (State.reset.channel 3).up = false) ∧
      (191 < 192 ∧
      (dipped 5).memoryLow = true)) :=
  ⟨by and_intros <;> decide +kernel,
    ⟨by exact ⟨1, by decide +kernel, by decide +kernel⟩, by and_intros <;> decide +kernel⟩,
    by and_intros <;> decide +kernel⟩

/-- States and operands that meet the hypotheses of PostBusSeatsAndAnswers, clause by clause. -/
theorem witness_PostBusSeatsAndAnswers :
    ((unseated.busServed = true ∧
      unseated.bus.seat = none ∧
      unseated.frozen = false) ∧
      (unseated.busServed = true ∧
      unseated.frozen = false ∧
      unseated.bus.seat = none ∧
      63 ≤ 63) ∧
      ((seated 0).busServed = true ∧
      (seated 0).frozen = false ∧
      (seated 0).bus.seat = some 63) ∧
      (unseated.busServed = true ∧
      unseated.frozen = false ∧
      unseated.bus.seat = none ∧
      63 < 64) ∧
      0 ≠ (up []).otp.serial ∧
      (seated 0).hears 63 false = true ∧
      State.reset.busServed = false ∧
      (({ unseated with bus := { unseated.bus with calling := true } } : State).bus.calling = true ∧
      ({ unseated with bus := { unseated.bus with calling := true } } : State).busServed = true ∧
      ({ unseated with bus := { unseated.bus with calling := true } } : State).frozen = false ∧
      (List.replicate 65 true).length = 65) ∧
      (({ up [] with bus := { Bus.reset with calling := true }, freeze := { Freeze.none with halter := true } } : State).bus.calling = true ∧
      (({ up [] with bus := { Bus.reset with calling := true }, freeze := { Freeze.none with halter := true } } : State).busServed = false ∨
      ({ up [] with bus := { Bus.reset with calling := true }, freeze := { Freeze.none with halter := true } } : State).frozen = true)) ∧
      (up []).bus.calling = false ∧
      ((seated 0).hears 63 true = true ∧
      1 ≤ 7 ∧
      7 ≤ 7 ∧
      0x1000 % 8 = 0 ∧
      0x1000 ≤ 0x1000 ∧
      0x1000 ≤ 0x10FF) ∧
      ((seated 0).hears 63 true = true ∧
      1 ≤ 1 ∧
      1 ≤ 7 ∧
      0x10F8 % 8 = 0 ∧
      0x1000 ≤ 0x10F8 ∧
      0x10F8 ≤ 0x10FF) ∧
      ((seated 0).hears 63 true = true ∧
      (1 = 0 ∨ 7 < 1 ∨ 0x1100 % 8 ≠ 0 ∨ 0x1100 < 0x1000 ∨ 0x10FF < 0x1100)) ∧
      ((seated 0).hears 63 true = true ∧
      (8 = 0 ∨ 7 < 8 ∨ 0x1000 % 8 ≠ 0 ∨ 0x1000 < 0x1000 ∨ 0x10FF < 0x1000)) ∧
      (seated 0).hears 63 true = true ∧
      (seated 0).hears 63 false = true ∧
      ((seated 0).hears 63 false = true ∧
      (7 = 0 ∨ 6 < 7)) ∧
      ((seated 1).hears 63 true = true ∧
      (seated 1).bus.abandoned < 2) ∧
      ((seated 2).hears 63 false = true ∧
      (seated 2).bus.abandoned = 2)) :=
  by and_intros <;> decide +kernel

/-- States and operands that meet the hypotheses of IdentityAndTapRead, clause by clause. -/
theorem witness_IdentityAndTapRead :
    (((up []).bus.seat = none ∨ (up []).bus.segment = none) ∧
      (({ seated 0 with bus := { (seated 0).bus with segment := some 4095 } } : State).bus.seat = some 63 ∧
      ({ seated 0 with bus := { (seated 0).bus with segment := some 4095 } } : State).bus.segment = some 4095) ∧
      (up []).start.phase < 8 ∧
      15 < 16 ∧
      ((up []).tap.ir.length = 2 ∧
      (up []).tap.data.length = 2) ∧
      1 < 2 ∧
      (1 < 2 ∧
      1 < (up []).tap.sampled.length ∧
      1 < (up []).tap.preload.length) ∧
      (1 < 2 ∧
      State.reset.power.mreset = false) ∧
      (0 < 2 ∧
      (up []).power.mreset = true) ∧
      (2 ^ 48 - 1) < 2 ^ 48) :=
  by and_intros <;> decide +kernel

/-- States and operands that meet the hypotheses of GroomIssuesInProgramOrder, clause by clause. -/
theorem witness_GroomIssuesInProgramOrder :
    ((grooming (0x11 * 2 ^ 56 + 0x0)).groomAt 3 oGroom (0x11 * 2 ^ 56 + 0x0) ∧
      (groomOp (.gAdd 3) = some (3, 0x10) ∧
      GW.op (0x11 * 2 ^ 56 + 0x0) ≠ 0x10)) ∧
    ((groomOp (.gMov 71) = some (71, 0x04) ∧
      71 < 72 ∧
      State.reset.running = false) ∧
      (groomOp (.gMov 71) = some (71, 0x04) ∧
      71 < 72 ∧
      (up []).kop? 71 = none) ∧
      (groomOp (.gMov 3) = some (3, 0x04) ∧
      3 < 72 ∧
      ({ grooming 0 with stables := stable3 { Stable.reset with queue := [shareOf 0 0], stopped := true } } : State).kop? 3 = some oGroom ∧
      oGroom.run.begun = true ∧
      oGroom.canIssue (({ grooming 0 with stables := stable3 { Stable.reset with queue := [shareOf 0 0], stopped := true } } : State).stable 3) = false) ∧
      (groomOp (.gMov 72) = some (72, 0x04) ∧
      72 ≤ 72)) ∧
    ((grooming (0x03 * 2 ^ 56 + 0x3F800000)).groomAt 3 oGroom (0x03 * 2 ^ 56 + 0x3F800000) ∧
      (GW.op (0x03 * 2 ^ 56 + 0x3F800000) = 0x03 ∧
      (grooming (0x03 * 2 ^ 56 + 0x3F800000)).groomGoesOn 3 oGroom ∧
      ((grooming (0x03 * 2 ^ 56 + 0x3F800000)).groom 3).tiles.length = 8)) ∧
    ((grooming (0x08 * 2 ^ 56 + 0x7)).groomAt 3 oGroom (0x08 * 2 ^ 56 + 0x7) ∧
      (GW.op (0x08 * 2 ^ 56 + 0x7) = 0x08 ∧
      (grooming (0x08 * 2 ^ 56 + 0x7)).groomGoesOn 3 oGroom ∧
      ((grooming (0x08 * 2 ^ 56 + 0x7)).groom 3).tiles.length = 8)) ∧
    ((grooming (0x3D * 2 ^ 56 + 0x30000)).groomAt 3 oGroom (0x3D * 2 ^ 56 + 0x30000) ∧
      (GW.op (0x3D * 2 ^ 56 + 0x30000) = 0x3D ∧
      (grooming (0x3D * 2 ^ 56 + 0x30000)).groomGoesOn 3 oGroom ∧
      GW.sreg (0x3D * 2 ^ 56 + 0x30000) < ((grooming (0x3D * 2 ^ 56 + 0x30000)).groom 3).sums.length)) ∧
    ((grooming (0x3C * 2 ^ 56 + 0x0)).groomAt 3 oGroom (0x3C * 2 ^ 56 + 0x0) ∧
      (GW.op (0x3C * 2 ^ 56 + 0x0) = 0x3C ∧
      ((grooming (0x3C * 2 ^ 56 + 0x0)).groom 3).pc + 1 < oGroom.k.progLen)) :=
  ⟨⟨groom_at (by decide +kernel), by and_intros <;> decide +kernel⟩,
    by and_intros <;> decide +kernel,
    ⟨groom_at (by decide +kernel), by and_intros <;> decide +kernel⟩,
    ⟨groom_at (by decide +kernel), by and_intros <;> decide +kernel⟩,
    ⟨groom_at (by decide +kernel), by and_intros <;> decide +kernel⟩,
    ⟨groom_at (by decide +kernel), by and_intros <;> decide +kernel⟩⟩

/-- States and operands that meet the hypotheses of GroomInstructionsWriteTheirResults, clause by clause. -/
theorem witness_GroomInstructionsWriteTheirResults :
    (elementOp (.gAdd 3) = some (3, (fun y => bin (El.add (addMode y))), GW.rnd) ∧
      (grooming (0x10 * 2 ^ 56 + 0xFFF80000000000)).groomAt 3 oGroom (0x10 * 2 ^ 56 + 0xFFF80000000000) ∧
      (groomOp (.gAdd 3) = some (3, 0x10) ∧
      GW.op (0x10 * 2 ^ 56 + 0xFFF80000000000) = 0x10 ∧
      (grooming (0x10 * 2 ^ 56 + 0xFFF80000000000)).groomGoesOn 3 oGroom ∧
      ((grooming (0x10 * 2 ^ 56 + 0xFFF80000000000)).groom 3).tiles.length = 8)) ∧
    (elementOp (.gErf 3) = some (3, (fun _ => un El.erf), (fun _ => Rnd.rne)) ∧
      (grooming (0x2C * 2 ^ 56 + 0x0)).groomAt 3 oGroom (0x2C * 2 ^ 56 + 0x0) ∧
      (groomOp (.gErf 3) = some (3, 0x2C) ∧
      GW.op (0x2C * 2 ^ 56 + 0x0) = 0x2C ∧
      (grooming (0x2C * 2 ^ 56 + 0x0)).groomGoesOn 3 oGroom ∧
      ((grooming (0x2C * 2 ^ 56 + 0x0)).groom 3).tiles.length = 8)) ∧
    (reductionOp (.gRsum 3) = some (3, true, true, El.add) ∧
      (grooming (0x30 * 2 ^ 56 + 0x7F00000000000)).groomAt 3 oGroom (0x30 * 2 ^ 56 + 0x7F00000000000) ∧
      (groomOp (.gRsum 3) = some (3, 0x30) ∧
      GW.op (0x30 * 2 ^ 56 + 0x7F00000000000) = 0x30 ∧
      (grooming (0x30 * 2 ^ 56 + 0x7F00000000000)).groomGoesOn 3 oGroom ∧
      ((grooming (0x30 * 2 ^ 56 + 0x7F00000000000)).groom 3).tiles.length = 8)) ∧
    (reductionOp (.gCmin 3) = some (3, false, false, (fun _ => El.min)) ∧
      (grooming (0x35 * 2 ^ 56 + 0x0)).groomAt 3 oGroom (0x35 * 2 ^ 56 + 0x0) ∧
      (groomOp (.gCmin 3) = some (3, 0x35) ∧
      GW.op (0x35 * 2 ^ 56 + 0x0) = 0x35 ∧
      (grooming (0x35 * 2 ^ 56 + 0x0)).groomGoesOn 3 oGroom ∧
      ((grooming (0x35 * 2 ^ 56 + 0x0)).groom 3).tiles.length = 8)) :=
  ⟨⟨rfl, groom_at (by decide +kernel), by and_intros <;> decide +kernel⟩,
    ⟨rfl, groom_at (by decide +kernel), by and_intros <;> decide +kernel⟩,
    ⟨rfl, groom_at (by decide +kernel), by and_intros <;> decide +kernel⟩,
    ⟨rfl, groom_at (by decide +kernel), by and_intros <;> decide +kernel⟩⟩

/-- States and operands that meet the hypotheses of GroomLoadsAndStores, clause by clause. -/
theorem witness_GroomLoadsAndStores_1 :
    ((grooming (0x01 * 2 ^ 56 + 0x8800)).groomAt 3 oGroom (0x01 * 2 ^ 56 + 0x8800) ∧
      (let d := oGroom.groomDesc (GW.desc (0x01 * 2 ^ 56 + 0x8800))
      let at_ := fun k => ((grooming (0x01 * 2 ^ 56 + 0x8800)).groom 3).posOf (GW.desc (0x01 * 2 ^ 56 + 0x8800)) + k
      (∀ k, k < GW.cnt (0x01 * 2 ^ 56 + 0x8800) → match d.place (GW.fmt (0x01 * 2 ^ 56 + 0x8800)) (at_ k) with
      | none => (fun _ => elemValue 0x22 0x3F800000) k = Ext.zero false
      | some a => portAt a.1 = none ∧ (grooming (0x01 * 2 ^ 56 + 0x8800)).loadVal oGroom.x (GW.fmt (0x01 * 2 ^ 56 + 0x8800)) d (at_ k) = .ok ((fun _ => elemValue 0x22 0x3F800000) k))) ∧
      (GW.op (0x01 * 2 ^ 56 + 0x8800) = 0x01 ∧
      (grooming (0x01 * 2 ^ 56 + 0x8800)).groomGoesOn 3 oGroom ∧
      ((grooming (0x01 * 2 ^ 56 + 0x8800)).groom 3).tiles.length = 8 ∧
      ((grooming (0x01 * 2 ^ 56 + 0x8800)).groom 3).elem = 0 ∧
      ((grooming (0x01 * 2 ^ 56 + 0x8800)).groom 3).partFlags = 0 ∧
      GW.follow (0x01 * 2 ^ 56 + 0x8800) = false ∧
      GW.wd (0x01 * 2 ^ 56 + 0x8800) = false ∧
      GW.fmt (0x01 * 2 ^ 56 + 0x8800) ≠ 0x20)) ∧
    ((grooming (0x05 * 2 ^ 56 + 0x8800)).groomAt 3 oGroom (0x05 * 2 ^ 56 + 0x8800) ∧
      (grooming (0x05 * 2 ^ 56 + 0x8800)).loadBits oGroom.x (GW.fmt (0x05 * 2 ^ 56 + 0x8800)) (oGroom.groomDesc (GW.desc (0x05 * 2 ^ 56 + 0x8800))) (((grooming (0x05 * 2 ^ 56 + 0x8800)).groom 3).posOf (GW.desc (0x05 * 2 ^ 56 + 0x8800)) + 0) = .ok (some 0x3F800000) ∧
      (grooming (0x05 * 2 ^ 56 + 0x8800)).loadVal oGroom.x (GW.fmt (0x05 * 2 ^ 56 + 0x8800)) (oGroom.groomDesc (GW.desc (0x05 * 2 ^ 56 + 0x8800))) (((grooming (0x05 * 2 ^ 56 + 0x8800)).groom 3).posOf (GW.desc (0x05 * 2 ^ 56 + 0x8800)) + 0) = .ok (elemValue 0x22 0x3F800000) ∧
      (GW.op (0x05 * 2 ^ 56 + 0x8800) = 0x05 ∧
      (grooming (0x05 * 2 ^ 56 + 0x8800)).groomGoesOn 3 oGroom ∧
      ((grooming (0x05 * 2 ^ 56 + 0x8800)).groom 3).tiles.length = 8 ∧
      ((grooming (0x05 * 2 ^ 56 + 0x8800)).groom 3).elem = 0 ∧
      ((grooming (0x05 * 2 ^ 56 + 0x8800)).groom 3).partFlags = 0 ∧
      GW.wd (0x05 * 2 ^ 56 + 0x8800) = false ∧
      GW.cnt (0x05 * 2 ^ 56 + 0x8800) = 1 ∧
      GW.fmt (0x05 * 2 ^ 56 + 0x8800) ≠ 0x20 ∧
      indexOf (((grooming (0x05 * 2 ^ 56 + 0x8800)).groom 3).src1 (0x05 * 2 ^ 56 + 0x8800) 0) (oGroom.groomDesc (GW.desc (0x05 * 2 ^ 56 + 0x8800))).first = some 0)) ∧
    ((grooming (0x02 * 2 ^ 56 + 0x100000008800)).groomAt 3 oGroom (0x02 * 2 ^ 56 + 0x100000008800) ∧
      (∀ k, k < GW.cnt (0x02 * 2 ^ 56 + 0x100000008800) → ∀ a, (oGroom.groomDesc (GW.desc (0x02 * 2 ^ 56 + 0x100000008800))).place (GW.fmt (0x02 * 2 ^ 56 + 0x100000008800)) (((grooming (0x02 * 2 ^ 56 + 0x100000008800)).groom 3).posOf (GW.desc (0x02 * 2 ^ 56 + 0x100000008800)) + k) = some a → portAt a.1 = none) ∧
      (List.range (GW.cnt (0x02 * 2 ^ 56 + 0x100000008800))).foldlM (fun u k => State.storeBits u oGroom.x (GW.fmt (0x02 * 2 ^ 56 + 0x100000008800)) (oGroom.groomDesc (GW.desc (0x02 * 2 ^ 56 + 0x100000008800))) (((grooming (0x02 * 2 ^ 56 + 0x100000008800)).groom 3).posOf (GW.desc (0x02 * 2 ^ 56 + 0x100000008800)) + k) (storedCode (GW.fmt (0x02 * 2 ^ 56 + 0x100000008800)) (GW.memRnd (0x02 * 2 ^ 56 + 0x100000008800)) (2 ^ 20) (((grooming (0x02 * 2 ^ 56 + 0x100000008800)).groom 3).src1 (0x02 * 2 ^ 56 + 0x100000008800) k)).bits) (grooming (0x02 * 2 ^ 56 + 0x100000008800)) = .ok (okOf ((List.range (GW.cnt (0x02 * 2 ^ 56 + 0x100000008800))).foldlM (fun u k => State.storeBits u oGroom.x (GW.fmt (0x02 * 2 ^ 56 + 0x100000008800)) (oGroom.groomDesc (GW.desc (0x02 * 2 ^ 56 + 0x100000008800))) (((grooming (0x02 * 2 ^ 56 + 0x100000008800)).groom 3).posOf (GW.desc (0x02 * 2 ^ 56 + 0x100000008800)) + k) (storedCode (GW.fmt (0x02 * 2 ^ 56 + 0x100000008800)) (GW.memRnd (0x02 * 2 ^ 56 + 0x100000008800)) (2 ^ 20) (((grooming (0x02 * 2 ^ 56 + 0x100000008800)).groom 3).src1 (0x02 * 2 ^ 56 + 0x100000008800) k)).bits) (grooming (0x02 * 2 ^ 56 + 0x100000008800))) State.reset) ∧
      (GW.op (0x02 * 2 ^ 56 + 0x100000008800) = 0x02 ∧
      (grooming (0x02 * 2 ^ 56 + 0x100000008800)).groomGoesOn 3 oGroom ∧
      ((grooming (0x02 * 2 ^ 56 + 0x100000008800)).groom 3).elem = 0 ∧
      ((grooming (0x02 * 2 ^ 56 + 0x100000008800)).groom 3).partFlags = 0 ∧
      isMx (GW.fmt (0x02 * 2 ^ 56 + 0x100000008800)) = false ∧
      (¬ (GW.fmt (0x02 * 2 ^ 56 + 0x100000008800) = 0x01 ∧ GW.w1 (0x02 * 2 ^ 56 + 0x100000008800) = true)) ∧
      oGroom.run.probing = false ∧
      (okOf ((List.range (GW.cnt (0x02 * 2 ^ 56 + 0x100000008800))).foldlM (fun u k => State.storeBits u oGroom.x (GW.fmt (0x02 * 2 ^ 56 + 0x100000008800)) (oGroom.groomDesc (GW.desc (0x02 * 2 ^ 56 + 0x100000008800))) (((grooming (0x02 * 2 ^ 56 + 0x100000008800)).groom 3).posOf (GW.desc (0x02 * 2 ^ 56 + 0x100000008800)) + k) (storedCode (GW.fmt (0x02 * 2 ^ 56 + 0x100000008800)) (GW.memRnd (0x02 * 2 ^ 56 + 0x100000008800)) (2 ^ 20) (((grooming (0x02 * 2 ^ 56 + 0x100000008800)).groom 3).src1 (0x02 * 2 ^ 56 + 0x100000008800) k)).bits) (grooming (0x02 * 2 ^ 56 + 0x100000008800))) State.reset).pads = (grooming (0x02 * 2 ^ 56 + 0x100000008800)).pads)) ∧
    ((grooming (0x06 * 2 ^ 56 + 0x8800)).groomAt 3 oGroom (0x06 * 2 ^ 56 + 0x8800) ∧
      (grooming (0x06 * 2 ^ 56 + 0x8800)).storeBits oGroom.x (GW.fmt (0x06 * 2 ^ 56 + 0x8800)) (oGroom.groomDesc (GW.desc (0x06 * 2 ^ 56 + 0x8800))) (((grooming (0x06 * 2 ^ 56 + 0x8800)).groom 3).posOf (GW.desc (0x06 * 2 ^ 56 + 0x8800)) + 0) (storedCode (GW.fmt (0x06 * 2 ^ 56 + 0x8800)) .rne (2 ^ 20) (((grooming (0x06 * 2 ^ 56 + 0x8800)).groom 3).src1 (0x06 * 2 ^ 56 + 0x8800) 0)).bits = .ok (okOf ((grooming (0x06 * 2 ^ 56 + 0x8800)).storeBits oGroom.x (GW.fmt (0x06 * 2 ^ 56 + 0x8800)) (oGroom.groomDesc (GW.desc (0x06 * 2 ^ 56 + 0x8800))) (((grooming (0x06 * 2 ^ 56 + 0x8800)).groom 3).posOf (GW.desc (0x06 * 2 ^ 56 + 0x8800)) + 0) (storedCode (GW.fmt (0x06 * 2 ^ 56 + 0x8800)) .rne (2 ^ 20) (((grooming (0x06 * 2 ^ 56 + 0x8800)).groom 3).src1 (0x06 * 2 ^ 56 + 0x8800) 0)).bits) State.reset) ∧
      (GW.op (0x06 * 2 ^ 56 + 0x8800) = 0x06 ∧
      (grooming (0x06 * 2 ^ 56 + 0x8800)).groomGoesOn 3 oGroom ∧
      ((grooming (0x06 * 2 ^ 56 + 0x8800)).groom 3).elem = 0 ∧
      ((grooming (0x06 * 2 ^ 56 + 0x8800)).groom 3).partFlags = 0 ∧
      isMx (GW.fmt (0x06 * 2 ^ 56 + 0x8800)) = false ∧
      oGroom.run.probing = false ∧
      GW.cnt (0x06 * 2 ^ 56 + 0x8800) = 1 ∧
      indexOf (((grooming (0x06 * 2 ^ 56 + 0x8800)).groom 3).src2 (0x06 * 2 ^ 56 + 0x8800) 0) (oGroom.groomDesc (GW.desc (0x06 * 2 ^ 56 + 0x8800))).first = some 0 ∧
      (oGroom.groomDesc (GW.desc (0x06 * 2 ^ 56 + 0x8800))).place (GW.fmt (0x06 * 2 ^ 56 + 0x8800)) (((grooming (0x06 * 2 ^ 56 + 0x8800)).groom 3).posOf (GW.desc (0x06 * 2 ^ 56 + 0x8800)) + 0) = some (0, 0) ∧
      (okOf ((grooming (0x06 * 2 ^ 56 + 0x8800)).storeBits oGroom.x (GW.fmt (0x06 * 2 ^ 56 + 0x8800)) (oGroom.groomDesc (GW.desc (0x06 * 2 ^ 56 + 0x8800))) (((grooming (0x06 * 2 ^ 56 + 0x8800)).groom 3).posOf (GW.desc (0x06 * 2 ^ 56 + 0x8800)) + 0) (storedCode (GW.fmt (0x06 * 2 ^ 56 + 0x8800)) .rne (2 ^ 20) (((grooming (0x06 * 2 ^ 56 + 0x8800)).groom 3).src1 (0x06 * 2 ^ 56 + 0x8800) 0)).bits) State.reset).pads = (grooming (0x06 * 2 ^ 56 + 0x8800)).pads)) ∧
    ((groomingNan (0x05 * 2 ^ 56 + 0x8800)).groomAt 3 oGroom (0x05 * 2 ^ 56 + 0x8800) ∧
      (∀ k, k < GW.cnt (0x05 * 2 ^ 56 + 0x8800) → indexOf (((groomingNan (0x05 * 2 ^ 56 + 0x8800)).groom 3).src1 (0x05 * 2 ^ 56 + 0x8800) k) (oGroom.groomDesc (GW.desc (0x05 * 2 ^ 56 + 0x8800))).first = none) ∧
      (GW.op (0x05 * 2 ^ 56 + 0x8800) = 0x05 ∧
      (groomingNan (0x05 * 2 ^ 56 + 0x8800)).groomGoesOn 3 oGroom ∧
      ((groomingNan (0x05 * 2 ^ 56 + 0x8800)).groom 3).tiles.length = 8 ∧
      ((groomingNan (0x05 * 2 ^ 56 + 0x8800)).groom 3).elem = 0 ∧
      ((groomingNan (0x05 * 2 ^ 56 + 0x8800)).groom 3).partFlags = 0 ∧
      GW.wd (0x05 * 2 ^ 56 + 0x8800) = false)) ∧
    ((groomingNan (0x06 * 2 ^ 56 + 0x8800)).groomAt 3 oGroom (0x06 * 2 ^ 56 + 0x8800) ∧
      (∀ k, k < GW.cnt (0x06 * 2 ^ 56 + 0x8800) → indexOf (((groomingNan (0x06 * 2 ^ 56 + 0x8800)).groom 3).src2 (0x06 * 2 ^ 56 + 0x8800) k) (oGroom.groomDesc (GW.desc (0x06 * 2 ^ 56 + 0x8800))).first = none) ∧
      (GW.op (0x06 * 2 ^ 56 + 0x8800) = 0x06 ∧
      (groomingNan (0x06 * 2 ^ 56 + 0x8800)).groomGoesOn 3 oGroom ∧
      ((groomingNan (0x06 * 2 ^ 56 + 0x8800)).groom 3).elem = 0 ∧
      ((groomingNan (0x06 * 2 ^ 56 + 0x8800)).groom 3).partFlags = 0)) :=
  ⟨⟨groom_at (by decide +kernel), by exact one_only (by decide) ⟨by decide +kernel, ok_of (by decide +kernel)⟩, by and_intros <;> decide +kernel⟩,
    ⟨groom_at (by decide +kernel), ok_of (by decide +kernel), ok_of (by decide +kernel), by and_intros <;> decide +kernel⟩,
    ⟨groom_at (by decide +kernel), by exact forall_lt (by decide +kernel), okOf_eq (by decide +kernel), by and_intros <;> decide +kernel⟩,
    ⟨groom_at (by decide +kernel), okOf_eq (by decide +kernel), by and_intros <;> decide +kernel⟩,
    ⟨groom_at (by decide +kernel), by exact forall_lt (by decide +kernel), by and_intros <;> decide +kernel⟩,
    ⟨groom_at (by decide +kernel), by exact forall_lt (by decide +kernel), by and_intros <;> decide +kernel⟩⟩

/-- States and operands that meet further clauses of GroomLoadsAndStores. -/
theorem witness_GroomLoadsAndStores_2 :
    ((grooming (0x02 * 2 ^ 56 + 0x40000000400)).groomAt 3 oGroom (0x02 * 2 ^ 56 + 0x40000000400) ∧
      (grooming (0x02 * 2 ^ 56 + 0x40000000400)).store oGroom.x (0, 0).1 (leBytes 4 (Fp.canon32 (((grooming (0x02 * 2 ^ 56 + 0x40000000400)).groom 3).pairAt true (GW.s1 (0x02 * 2 ^ 56 + 0x40000000400)) 0).hi).toNat ++ leBytes 4 (Fp.canon32 (((grooming (0x02 * 2 ^ 56 + 0x40000000400)).groom 3).pairAt true (GW.s1 (0x02 * 2 ^ 56 + 0x40000000400)) 0).lo).toNat) = .ok (okOf ((grooming (0x02 * 2 ^ 56 + 0x40000000400)).store oGroom.x (0, 0).1 (leBytes 4 (Fp.canon32 (((grooming (0x02 * 2 ^ 56 + 0x40000000400)).groom 3).pairAt true (GW.s1 (0x02 * 2 ^ 56 + 0x40000000400)) 0).hi).toNat ++ leBytes 4 (Fp.canon32 (((grooming (0x02 * 2 ^ 56 + 0x40000000400)).groom 3).pairAt true (GW.s1 (0x02 * 2 ^ 56 + 0x40000000400)) 0).lo).toNat)) State.reset) ∧
      (GW.op (0x02 * 2 ^ 56 + 0x40000000400) = 0x02 ∧
      (grooming (0x02 * 2 ^ 56 + 0x40000000400)).groomGoesOn 3 oGroom ∧
      ((grooming (0x02 * 2 ^ 56 + 0x40000000400)).groom 3).elem = 0 ∧
      ((grooming (0x02 * 2 ^ 56 + 0x40000000400)).groom 3).partFlags = 0 ∧
      GW.fmt (0x02 * 2 ^ 56 + 0x40000000400) = 0x01 ∧
      GW.w1 (0x02 * 2 ^ 56 + 0x40000000400) = true ∧
      oGroom.run.probing = false ∧
      GW.cnt (0x02 * 2 ^ 56 + 0x40000000400) = 1 ∧
      (oGroom.groomDesc (GW.desc (0x02 * 2 ^ 56 + 0x40000000400))).place 0x01 (((grooming (0x02 * 2 ^ 56 + 0x40000000400)).groom 3).posOf (GW.desc (0x02 * 2 ^ 56 + 0x40000000400))) = some (0, 0) ∧
      portAt (0, 0).1 = none ∧
      (okOf ((grooming (0x02 * 2 ^ 56 + 0x40000000400)).store oGroom.x (0, 0).1 (leBytes 4 (Fp.canon32 (((grooming (0x02 * 2 ^ 56 + 0x40000000400)).groom 3).pairAt true (GW.s1 (0x02 * 2 ^ 56 + 0x40000000400)) 0).hi).toNat ++ leBytes 4 (Fp.canon32 (((grooming (0x02 * 2 ^ 56 + 0x40000000400)).groom 3).pairAt true (GW.s1 (0x02 * 2 ^ 56 + 0x40000000400)) 0).lo).toNat)) State.reset).pads = (grooming (0x02 * 2 ^ 56 + 0x40000000400)).pads)) :=
  ⟨groom_at (by decide +kernel), okOf_eq (by decide +kernel), by and_intros <;> decide +kernel⟩

/-- States and operands that meet the hypotheses of ElementOperationsObeyTheirRules, clause by clause. -/
theorem witness_ElementOperationsObeyTheirRules :
    ((Ext.nan = .nan ∨ (Ext.zero false) = .nan) ∧
      ((Ext.zero true) ≠ .nan ∧
      (Ext.zero false) ≠ .nan) ∧
      ((Ext.zero true) ≠ .nan ∧
      (Ext.zero false) ≠ .nan) ∧
      ((Ext.zero true) = .nan ∨ Ext.nan = .nan) ∧
      ((Ext.zero true) ≠ .nan ∧
      (Ext.zero false) ≠ .nan)) :=
  by and_intros <;> decide +kernel

/-- States and operands that meet the hypotheses of ContextsAreSwitchedAndSwapped, clause by clause. -/
theorem witness_ContextsAreSwitchedAndSwapped_1 :
    ((∀ k z, (atCount 2000000 (up [twoCtx runningLow (some readyCtx)])).ctx 0 k = some z → z.state = .ready → z.resident = true → k ≠ 1 → readyCtx.priority < z.priority) ∧
      (0 < 16 ∧
      0 < 8 ∧
      1 < 8 ∧
      (atCount 2000000 (up [twoCtx runningLow (some readyCtx)])).runs 0 = true ∧
      ((atCount 2000000 (up [twoCtx runningLow (some readyCtx)])).pd 0).slice ≠ noLimit ∧
      ((atCount 2000000 (up [twoCtx runningLow (some readyCtx)])).pd 0).switching = none ∧
      ((atCount 2000000 (up [twoCtx runningLow (some readyCtx)])).pd 0).running = some 0 ∧
      (atCount 2000000 (up [twoCtx runningLow (some readyCtx)])).ctx 0 0 = some runningLow ∧
      runningLow.state = .running ∧
      runningLow.spanCode = none ∧
      (atCount 2000000 (up [twoCtx runningLow (some readyCtx)])).ctx 0 1 = some readyCtx ∧
      readyCtx.state = .ready ∧
      readyCtx.resident = true ∧
      readyCtx.priority ≤ runningLow.priority ∧
      ((atCount 2000000 (up [twoCtx runningLow (some readyCtx)])).pd 0).ranSince + ((atCount 2000000 (up [twoCtx runningLow (some readyCtx)])).pd 0).slice ≤ (atCount 2000000 (up [twoCtx runningLow (some readyCtx)])).now 0)) ∧
    ((∀ k z, (atCount 2000000 (up [twoCtx (running []) none])).ctx 0 k = some z → z.state = .ready → z.resident = false) ∧
      (0 < 16 ∧
      (atCount 2000000 (up [twoCtx (running []) none])).runs 0 = true ∧
      ((atCount 2000000 (up [twoCtx (running []) none])).pd 0).slice ≠ noLimit ∧
      ((atCount 2000000 (up [twoCtx (running []) none])).pd 0).running = some 0 ∧
      ((atCount 2000000 (up [twoCtx (running []) none])).pd 0).ranSince + ((atCount 2000000 (up [twoCtx (running []) none])).pd 0).slice ≤ (atCount 2000000 (up [twoCtx (running []) none])).now 0)) ∧
    ((0 < 16 ∧
      (((up [{ openPd with slice := noLimit }]).pd 0).slice = noLimit ∨ (up [{ openPd with slice := noLimit }]).now 0 < ((up [{ openPd with slice := noLimit }]).pd 0).ranSince + ((up [{ openPd with slice := noLimit }]).pd 0).slice)) ∧
      (0 < 16 ∧
      (((atCount 1999999 (up [openPd])).pd 0).slice = noLimit ∨ (atCount 1999999 (up [openPd])).now 0 < ((atCount 1999999 (up [openPd])).pd 0).ranSince + ((atCount 1999999 (up [openPd])).pd 0).slice))) ∧
    ((∀ k z, (up [{ twoCtx ({ running [.xferRecv 1 5 0 9] with flights := [⟨0, [], [], [], false, 0, 0, []⟩] } : Ctx) none with waited := 50000 }]).ctx 0 k = some z → z.state = .ready → z.resident = false) ∧
      (0 < 16 ∧
      (up [{ twoCtx ({ running [.xferRecv 1 5 0 9] with flights := [⟨0, [], [], [], false, 0, 0, []⟩] } : Ctx) none with waited := 50000 }]).runs 0 = true ∧
      ((up [{ twoCtx ({ running [.xferRecv 1 5 0 9] with flights := [⟨0, [], [], [], false, 0, 0, []⟩] } : Ctx) none with waited := 50000 }]).pd 0).running = some 0 ∧
      (up [{ twoCtx ({ running [.xferRecv 1 5 0 9] with flights := [⟨0, [], [], [], false, 0, 0, []⟩] } : Ctx) none with waited := 50000 }]).ctx 0 0 = some ({ running [.xferRecv 1 5 0 9] with flights := [⟨0, [], [], [], false, 0, 0, []⟩] } : Ctx) ∧
      ({ running [.xferRecv 1 5 0 9] with flights := [⟨0, [], [], [], false, 0, 0, []⟩] } : Ctx).state = .running ∧
      (up [{ twoCtx ({ running [.xferRecv 1 5 0 9] with flights := [⟨0, [], [], [], false, 0, 0, []⟩] } : Ctx) none with waited := 50000 }]).onlyOutside 0 ({ running [.xferRecv 1 5 0 9] with flights := [⟨0, [], [], [], false, 0, 0, []⟩] } : Ctx) = true ∧
      ((up [{ twoCtx ({ running [.xferRecv 1 5 0 9] with flights := [⟨0, [], [], [], false, 0, 0, []⟩] } : Ctx) none with waited := 50000 }]).pd 0).blockAfter ≤ ((up [{ twoCtx ({ running [.xferRecv 1 5 0 9] with flights := [⟨0, [], [], [], false, 0, 0, []⟩] } : Ctx) none with waited := 50000 }]).pd 0).waited)) ∧
    ((0 < 16 ∧
      (up [{ twoCtx (running []) none with waited := 50000 }]).runs 0 = true ∧
      ((up [{ twoCtx (running []) none with waited := 50000 }]).pd 0).running = some 0 ∧
      (up [{ twoCtx (running []) none with waited := 50000 }]).ctx 0 0 = some (running []) ∧
      ((up [{ twoCtx (running []) none with waited := 50000 }]).onlyOutside 0 (running []) = false ∨ ((up [{ twoCtx (running []) none with waited := 50000 }]).pd 0).waited < ((up [{ twoCtx (running []) none with waited := 50000 }]).pd 0).blockAfter)) ∧
      (0 < 16 ∧
      (up [{ twoCtx ({ running [.xferRecv 1 5 0 9] with flights := [⟨0, [], [], [], false, 0, 0, []⟩] } : Ctx) none with waited := 49999 }]).runs 0 = true ∧
      ((up [{ twoCtx ({ running [.xferRecv 1 5 0 9] with flights := [⟨0, [], [], [], false, 0, 0, []⟩] } : Ctx) none with waited := 49999 }]).pd 0).running = some 0 ∧
      (up [{ twoCtx ({ running [.xferRecv 1 5 0 9] with flights := [⟨0, [], [], [], false, 0, 0, []⟩] } : Ctx) none with waited := 49999 }]).ctx 0 0 = some ({ running [.xferRecv 1 5 0 9] with flights := [⟨0, [], [], [], false, 0, 0, []⟩] } : Ctx) ∧
      ((up [{ twoCtx ({ running [.xferRecv 1 5 0 9] with flights := [⟨0, [], [], [], false, 0, 0, []⟩] } : Ctx) none with waited := 49999 }]).onlyOutside 0 ({ running [.xferRecv 1 5 0 9] with flights := [⟨0, [], [], [], false, 0, 0, []⟩] } : Ctx) = false ∨ ((up [{ twoCtx ({ running [.xferRecv 1 5 0 9] with flights := [⟨0, [], [], [], false, 0, 0, []⟩] } : Ctx) none with waited := 49999 }]).pd 0).waited < ((up [{ twoCtx ({ running [.xferRecv 1 5 0 9] with flights := [⟨0, [], [], [], false, 0, 0, []⟩] } : Ctx) none with waited := 49999 }]).pd 0).blockAfter)) ∧
      (0 < 16 ∧
      (up [{ twoCtx (running []) none with switching := some ⟨some 0, 1, .requested⟩ }]).runs 0 = true ∧
      ((up [{ twoCtx (running []) none with switching := some ⟨some 0, 1, .requested⟩ }]).pd 0).switching = some ⟨some 0, 1, .requested⟩ ∧
      (up [{ twoCtx (running []) none with switching := some ⟨some 0, 1, .requested⟩ }]).ctx 0 0 = some (running []) ∧
      (running []).spanCode = none ∧
      (up [{ twoCtx (running []) none with switching := some ⟨some 0, 1, .requested⟩ }]).unitsAtPoints 0 = true ∧
      (up [{ twoCtx (running []) none with switching := some ⟨some 0, 1, .requested⟩ }]).rowJob 0 0 (running []) = false) ∧
      (0 < 16 ∧
      (rowMoving.pd 0).switching = some ⟨some 0, 1, .requested⟩ ∧
      rowMoving.ctx 0 0 = some ctxRowMove ∧
      rowMoving.rowJob 0 0 ctxRowMove = true) ∧
      (0 < 16 ∧
      ((up [{ twoCtx (inPhase 0 5 []) none with switching := some ⟨some 0, 1, .requested⟩ }]).pd 0).switching = some ⟨some 0, 1, .requested⟩ ∧
      (up [{ twoCtx (inPhase 0 5 []) none with switching := some ⟨some 0, 1, .requested⟩ }]).ctx 0 0 = some (inPhase 0 5 []) ∧
      ((inPhase 0 5 []).spanCode.isSome = true ∨ (up [{ twoCtx (inPhase 0 5 []) none with switching := some ⟨some 0, 1, .requested⟩ }]).unitsAtPoints 0 = false ∨
        (up [{ twoCtx (inPhase 0 5 []) none with switching := some ⟨some 0, 1, .requested⟩ }]).rowJob 0 0 (inPhase 0 5 []) = true) ∧
      (inPhase 0 5 []).spanCode.isSome = true) ∧
      (0 < 16 ∧
      ((onStable (up [{ twoCtx (ctxWorking kMm1) none with switching := some ⟨some 0, 1, .requested⟩ }]) { stableOne [some (stageOne false none)] with queue := [shareOf 0 0] }).pd 0).switching = some ⟨some 0, 1, .requested⟩ ∧
      (onStable (up [{ twoCtx (ctxWorking kMm1) none with switching := some ⟨some 0, 1, .requested⟩ }]) { stableOne [some (stageOne false none)] with queue := [shareOf 0 0] }).ctx 0 0 = some (ctxWorking kMm1) ∧
      ((ctxWorking kMm1).spanCode.isSome = true ∨ (onStable (up [{ twoCtx (ctxWorking kMm1) none with switching := some ⟨some 0, 1, .requested⟩ }]) { stableOne [some (stageOne false none)] with queue := [shareOf 0 0] }).unitsAtPoints 0 = false ∨
        (onStable (up [{ twoCtx (ctxWorking kMm1) none with switching := some ⟨some 0, 1, .requested⟩ }]) { stableOne [some (stageOne false none)] with queue := [shareOf 0 0] }).rowJob 0 0 (ctxWorking kMm1) = true) ∧
      (onStable (up [{ twoCtx (ctxWorking kMm1) none with switching := some ⟨some 0, 1, .requested⟩ }]) { stableOne [some (stageOne false none)] with queue := [shareOf 0 0] }).unitsAtPoints 0 = false) ∧
      (0 < 16 ∧
      (up [{ openPd with switching := some (⟨some 0, 1, .saving⟩ : Switching) }]).runs 0 = true ∧
      ((up [{ openPd with switching := some (⟨some 0, 1, .saving⟩ : Switching) }]).pd 0).switching = some (⟨some 0, 1, .saving⟩ : Switching) ∧
      (⟨some 0, 1, .saving⟩ : Switching).stage = .saving) ∧
      (0 < 16 ∧
      1 < 8 ∧
      (onStable (up [{ twoCtx (running []) (some ({ readyCtx with image := some (⟨[(0, Stable.reset)], [], [], [(0, Shed.reset)]⟩ : Image) } : Ctx)) with switching := some (⟨some 0, 1, .resuming⟩ : Switching) }]) Stable.reset).runs 0 = true ∧
      ((onStable (up [{ twoCtx (running []) (some ({ readyCtx with image := some (⟨[(0, Stable.reset)], [], [], [(0, Shed.reset)]⟩ : Image) } : Ctx)) with switching := some (⟨some 0, 1, .resuming⟩ : Switching) }]) Stable.reset).pd 0).switching = some (⟨some 0, 1, .resuming⟩ : Switching) ∧
      (⟨some 0, 1, .resuming⟩ : Switching).stage = .resuming ∧
      (⟨some 0, 1, .resuming⟩ : Switching).chosen = 1 ∧
      (onStable (up [{ twoCtx (running []) (some ({ readyCtx with image := some (⟨[(0, Stable.reset)], [], [], [(0, Shed.reset)]⟩ : Image) } : Ctx)) with switching := some (⟨some 0, 1, .resuming⟩ : Switching) }]) Stable.reset).ctx 0 1 = some ({ readyCtx with image := some (⟨[(0, Stable.reset)], [], [], [(0, Shed.reset)]⟩ : Image) } : Ctx) ∧
      ({ readyCtx with image := some (⟨[(0, Stable.reset)], [], [], [(0, Shed.reset)]⟩ : Image) } : Ctx).rebuild = none ∧
      ({ readyCtx with image := some (⟨[(0, Stable.reset)], [], [], [(0, Shed.reset)]⟩ : Image) } : Ctx).state = .ready ∧
      ({ readyCtx with image := some (⟨[(0, Stable.reset)], [], [], [(0, Shed.reset)]⟩ : Image) } : Ctx).image = some (⟨[(0, Stable.reset)], [], [], [(0, Shed.reset)]⟩ : Image) ∧
      (((onStable (up [{ twoCtx (running []) (some ({ readyCtx with image := some (⟨[(0, Stable.reset)], [], [], [(0, Shed.reset)]⟩ : Image) } : Ctx)) with switching := some (⟨some 0, 1, .resuming⟩ : Switching) }]) Stable.reset).stablesOf 0).map (·.2)).Nodup)) :=
  ⟨⟨two_ctx (fun k z => z.state = .ready → z.resident = true → k ≠ 1 → readyCtx.priority < z.priority) rfl (fun h => absurd h (by decide)) (fun _ _ _ _ hk => absurd rfl hk), by and_intros <;> decide +kernel⟩,
    ⟨two_ctx (fun _ z => z.state = .ready → z.resident = false) rfl (fun h => absurd h (by decide)) (fun _ h => absurd h (by simp)), by and_intros <;> decide +kernel⟩,
    by and_intros <;> decide +kernel,
    ⟨two_ctx (fun _ z => z.state = .ready → z.resident = false) rfl (fun h => absurd h (by decide)) (fun _ h => absurd h (by simp)), by and_intros <;> decide +kernel⟩,
    by and_intros <;> decide +kernel⟩

/-- States and operands that meet further clauses of ContextsAreSwitchedAndSwapped. -/
theorem witness_ContextsAreSwitchedAndSwapped_2 :
    ((∀ k z, (up [twoCtx (running []) (some ({ readyCtx with resident := false, pens := [0] } : Ctx))]).ctx 0 k = some z → z.state = .ready → k = 1) ∧
      (0 < 16 ∧
      1 < 8 ∧
      (up [twoCtx (running []) (some ({ readyCtx with resident := false, pens := [0] } : Ctx))]).runs 0 = true ∧
      ((up [twoCtx (running []) (some ({ readyCtx with resident := false, pens := [0] } : Ctx))]).pd 0).swappingIn = none ∧
      (up [twoCtx (running []) (some ({ readyCtx with resident := false, pens := [0] } : Ctx))]).ctx 0 1 = some ({ readyCtx with resident := false, pens := [0] } : Ctx) ∧
      ({ readyCtx with resident := false, pens := [0] } : Ctx).state = .ready ∧
      ({ readyCtx with resident := false, pens := [0] } : Ctx).resident = false ∧
      (((up [twoCtx (running []) (some ({ readyCtx with resident := false, pens := [0] } : Ctx))]).pd 0).place 1 ({ readyCtx with resident := false, pens := [0] } : Ctx)).isSome = true)) ∧
    ((∃ k z, k < 8 ∧ (up [twoCtx (running []) (some readyCtx)]).ctx 0 k = some z ∧ z.state = .ready ∧ z.resident = true) ∧
      0 < 16) ∧
    (((up [withCtx ({ ctxPlain with pens := [0] } : Ctx)]).mem.wf = true ∧
      (up [withCtx ({ ctxPlain with pens := [0] } : Ctx)]).ctx 0 0 = some ({ ctxPlain with pens := [0] } : Ctx)) ∧
      ((up [{ twoCtx (running []) (some ({ readyCtx with resident := false, pens := [0], swapImage := [(penBase 0, 7)], swapBad := [penBase 0] } : Ctx)) with swappingIn := some 1 }]).mem.wf = true ∧
      0 < 16 ∧
      1 < 8 ∧
      (up [{ twoCtx (running []) (some ({ readyCtx with resident := false, pens := [0], swapImage := [(penBase 0, 7)], swapBad := [penBase 0] } : Ctx)) with swappingIn := some 1 }]).runs 0 = true ∧
      ((up [{ twoCtx (running []) (some ({ readyCtx with resident := false, pens := [0], swapImage := [(penBase 0, 7)], swapBad := [penBase 0] } : Ctx)) with swappingIn := some 1 }]).pd 0).swappingIn = some 1 ∧
      (up [{ twoCtx (running []) (some ({ readyCtx with resident := false, pens := [0], swapImage := [(penBase 0, 7)], swapBad := [penBase 0] } : Ctx)) with swappingIn := some 1 }]).swapMoves 0 = false ∧
      (up [{ twoCtx (running []) (some ({ readyCtx with resident := false, pens := [0], swapImage := [(penBase 0, 7)], swapBad := [penBase 0] } : Ctx)) with swappingIn := some 1 }]).ctx 0 1 = some ({ readyCtx with resident := false, pens := [0], swapImage := [(penBase 0, 7)], swapBad := [penBase 0] } : Ctx) ∧
      ((up [{ twoCtx (running []) (some ({ readyCtx with resident := false, pens := [0], swapImage := [(penBase 0, 7)], swapBad := [penBase 0] } : Ctx)) with swappingIn := some 1 }]).pd 0).place 1 ({ readyCtx with resident := false, pens := [0], swapImage := [(penBase 0, 7)], swapBad := [penBase 0] } : Ctx) = some 0 ∧
      (({ readyCtx with resident := false, pens := [0], swapImage := [(penBase 0, 7)], swapBad := [penBase 0] } : Ctx).swapImage.map (·.1)).Nodup)) :=
  ⟨⟨two_ctx (fun k z => z.state = .ready → k = 1) rfl (fun h => absurd h (by decide)) (fun _ _ _ => rfl), by and_intros <;> decide +kernel⟩,
    ⟨by exact ⟨1, readyCtx, by decide, rfl, rfl, rfl⟩, by decide +kernel⟩,
    by and_intros <;> decide +kernel⟩

/-- States that meet the clauses of ContextsAreSwitchedAndSwapped about sheds in and out of service. -/
theorem witness_ContextsAreSwitchedAndSwapped_3 :
    (∀ ch ∈ ((up [openPd]).pd 0).channels, ((up [openPd]).shed ch).ok = true) ∧
    (0 ∈ ((up [openPd]).pd 0).channels ∧
      ({ up [openPd] with sheds := { Shed.reset with ok := false } :: List.replicate 191 Shed.reset } : State).shed 0 = { Shed.reset with ok := false } ∧
      dieOfChannel 0 < (up [openPd]).turnout.length) := by
  and_intros <;> decide +kernel

/-- States and operands that meet the hypotheses of OstlersFailAndStandIn, clause by clause. -/
theorem witness_OstlersFailAndStandIn :
    ((15 < 16 ∧
      ((up []).ostler 15).ok = true ∧
      (up []).start.phase ≠ 0 ∧
      (up []).start.fault = false ∧
      ((up []).standIn 15).isSome = true ∧
      ((up []).ostler 18).standsFor ≠ some 15 ∧
      ((up []).ostler 19).standsFor ≠ some 15) ∧
      (15 < 16 ∧
      15 < (ostlers (fun y => y < 18)).ostlers.length ∧
      ((ostlers (fun y => y < 18)).ostler 15).ok = true ∧
      (ostlers (fun y => y < 18)).start.phase ≠ 0 ∧
      (ostlers (fun y => y < 18)).start.fault = false ∧
      (ostlers (fun y => y < 18)).standIn 15 = none)) ∧
    ((∀ k, k = 18 ∨ k = 19 → ((ostlers (fun y => y < 17)).ostler k).ok = false ∧ ((ostlers (fun y => y < 17)).ostler k).standsFor = none) ∧
      ((16 = 16 ∨ 16 = 17) ∧
      (ostlers (fun y => y < 17)).ostlers.length = 20 ∧
      (ostlers (fun y => y < 17)).dies.length = 2 ∧
      ((ostlers (fun y => y < 17)).ostler 16).ok = true ∧
      (ostlers (fun y => y < 17)).start.phase ≠ 0 ∧
      (ostlers (fun y => y < 17)).start.fault = false ∧
      ((ostlers (fun y => y < 17)).ostler (33 - 16)).ok = false)) ∧
    ((∀ k, k = 18 ∨ k = 19 → ((ostlers (fun y => y ≠ 16 ∧ y < 18)).ostler k).ok = false ∧ ((ostlers (fun y => y ≠ 16 ∧ y < 18)).ostler k).standsFor = none) ∧
      ((17 = 16 ∨ 17 = 17) ∧
      (ostlers (fun y => y ≠ 16 ∧ y < 18)).ostlers.length = 20 ∧
      (ostlers (fun y => y ≠ 16 ∧ y < 18)).dies.length = 2 ∧
      ((ostlers (fun y => y ≠ 16 ∧ y < 18)).ostler 17).ok = true ∧
      (ostlers (fun y => y ≠ 16 ∧ y < 18)).start.phase ≠ 0 ∧
      (ostlers (fun y => y ≠ 16 ∧ y < 18)).start.fault = false ∧
      ((ostlers (fun y => y ≠ 16 ∧ y < 18)).ostler (33 - 17)).ok = false)) ∧
    (19 < 20 ∧
      ((State.reset.ostler 19).ok = false ∨ State.reset.start.phase = 0 ∨ State.reset.start.fault = true)) ∧
    ((∀ c, ({ up [] with ostlers := List.replicate 15 Ostler.reset ++ [⟨false, none, true, 0⟩] ++ List.replicate 4 Ostler.reset } : State).ctx 15 c = none) ∧
      (15 < 16 ∧
      ({ up [] with ostlers := List.replicate 15 Ostler.reset ++ [⟨false, none, true, 0⟩] ++ List.replicate 4 Ostler.reset } : State).ostlers.length = 20 ∧
      (({ up [] with ostlers := List.replicate 15 Ostler.reset ++ [⟨false, none, true, 0⟩] ++ List.replicate 4 Ostler.reset } : State).ostler 15).waits = true ∧
      ({ up [] with ostlers := List.replicate 15 Ostler.reset ++ [⟨false, none, true, 0⟩] ++ List.replicate 4 Ostler.reset } : State).start.fault = false ∧
      ({ up [] with ostlers := List.replicate 15 Ostler.reset ++ [⟨false, none, true, 0⟩] ++ List.replicate 4 Ostler.reset } : State).standIn 15 = some 19)) ∧
    ((∀ k, k ≠ 0 → ({ up [twoCtx (ctxMember treeRoot) none] with ostlers := ⟨false, none, true, 0⟩ :: List.replicate 19 Ostler.reset } : State).ctx 0 k = none) ∧
      (0 < 16 ∧
      0 < 8 ∧
      ({ up [twoCtx (ctxMember treeRoot) none] with ostlers := ⟨false, none, true, 0⟩ :: List.replicate 19 Ostler.reset } : State).ostlers.length = 20 ∧
      (({ up [twoCtx (ctxMember treeRoot) none] with ostlers := ⟨false, none, true, 0⟩ :: List.replicate 19 Ostler.reset } : State).ostler 0).waits = true ∧
      ({ up [twoCtx (ctxMember treeRoot) none] with ostlers := ⟨false, none, true, 0⟩ :: List.replicate 19 Ostler.reset } : State).start.fault = false ∧
      ({ up [twoCtx (ctxMember treeRoot) none] with ostlers := ⟨false, none, true, 0⟩ :: List.replicate 19 Ostler.reset } : State).standIn 0 = some 18 ∧
      ({ up [twoCtx (ctxMember treeRoot) none] with ostlers := ⟨false, none, true, 0⟩ :: List.replicate 19 Ostler.reset } : State).ctx 0 0 = some (ctxMember treeRoot) ∧
      (ctxMember treeRoot).state ≠ .halted ∧
      (ctxMember treeRoot).parcel.kind ≠ 1 ∧
      ((ctxMember treeRoot).tr.phase = 5 ∨ (ctxMember treeRoot).tr.phase = 6) ∧
      (ctxMember treeRoot).parcel.members ≠ 1)) ∧
    (19 < 20 ∧
      (3 < 72 ∧
      3 < (onStable (up []) Stable.reset).stables.length ∧
      (onStable (up []) Stable.reset).running = true ∧
      3 ∈ (onStable (up []) Stable.reset).remount.good) ∧
      (71 < 72 ∧
      ((up []).running = false ∨ 71 ∉ (up []).remount.good))) :=
  ⟨by and_intros <;> decide +kernel,
    ⟨by rintro k (rfl | rfl) <;> decide +kernel, by and_intros <;> decide +kernel⟩,
    ⟨by rintro k (rfl | rfl) <;> decide +kernel, by and_intros <;> decide +kernel⟩,
    by decide +kernel,
    ⟨bare rfl, by and_intros <;> decide +kernel⟩,
    ⟨one_ctx rfl, by and_intros <;> decide +kernel⟩,
    by and_intros <;> decide +kernel⟩

/-- States and operands that meet the hypotheses of KernelRecordsRun, clause by clause. -/
theorem witness_KernelRecordsRun :
    ((onStable (up [twoCtx (running [.kernel kMm1]) none]) { Stable.reset with queue := [shareOf 0 1] }).shares 0 (running [.kernel kMm1]) (⟨0, 0, false, 0, 1, 0⟩ : RecHead) kMm1 = .ok [(3, 0, 1)] ∧
      (∀ u ∈ [(3, 0, 1)], u.1 < (onStable (up [twoCtx (running [.kernel kMm1]) none]) { Stable.reset with queue := [shareOf 0 1] }).stables.length ∧ ((onStable (up [twoCtx (running [.kernel kMm1]) none]) { Stable.reset with queue := [shareOf 0 1] }).stable u.1).busy) ∧
      ((onStable (up [twoCtx (running [.kernel kMm1]) none]) { Stable.reset with queue := [shareOf 0 1] }).runsCtx 0 0 (running [.kernel kMm1]) ∧
      (running [.kernel kMm1]).next? = some (0, ⟨(⟨0, 0, false, 0, 1, 0⟩ : RecHead), .kernel kMm1⟩) ∧
      (onStable (up [twoCtx (running [.kernel kMm1]) none]) { Stable.reset with queue := [shareOf 0 1] }).preempts 0 0 = false ∧
      (running [.kernel kMm1]).rowHazard kMm1 ([(3, 0, 1)].map (·.1)) = false ∧
      (onStable (up [twoCtx (running [.kernel kMm1]) none]) { Stable.reset with queue := [shareOf 0 1] }).canStart 0 (running [.kernel kMm1]) 0 [(3, 0, 1)].length = true ∧
      ([(3, 0, 1)].map (·.1)).Nodup)) ∧
    ((onStable (up [twoCtx (running [.kernel kMm1]) none]) Stable.reset).shares 0 (running [.kernel kMm1]) (⟨0, 0, false, 0, 1, 0⟩ : RecHead) kMm1 = .ok [(3, 0, 1)] ∧
      ((onStable (up [twoCtx (running [.kernel kMm1]) none]) Stable.reset).runsCtx 0 0 (running [.kernel kMm1]) ∧
      (running [.kernel kMm1]).next? = some (0, ⟨(⟨0, 0, false, 0, 1, 0⟩ : RecHead), .kernel kMm1⟩) ∧
      (onStable (up [twoCtx (running [.kernel kMm1]) none]) Stable.reset).preempts 0 0 = false ∧
      (running [.kernel kMm1]).rowHazard kMm1 [3] = false ∧
      (onStable (up [twoCtx (running [.kernel kMm1]) none]) Stable.reset).canStart 0 (running [.kernel kMm1]) 0 1 = true ∧
      3 < (onStable (up [twoCtx (running [.kernel kMm1]) none]) Stable.reset).stables.length ∧
      ((onStable (up [twoCtx (running [.kernel kMm1]) none]) Stable.reset).stable 3).queue = [] ∧
      ((onStable (up [twoCtx (running [.kernel kMm1]) none]) Stable.reset).stable 3).stopped = false ∧
      ((onStable (up [twoCtx (running [.kernel kMm1]) none]) Stable.reset).stable 3).copying = none ∧
      ((onStable (up [twoCtx (running [.kernel kMm1]) none]) Stable.reset).stable 3).suspects = [] ∧
      kMm1.kop ≠ 0 ∧
      kMm1.progBlob = 0xFFFFFFFF)) ∧
    ((up [twoCtx (running [.kernel kMm1]) none]).shares 0 (running [.kernel kMm1]) (⟨0, 0, false, 0, 1, 0⟩ : RecHead) kMm1 = .error 0x0202 ∧
      ((up [twoCtx (running [.kernel kMm1]) none]).runsCtx 0 0 (running [.kernel kMm1]) ∧
      (running [.kernel kMm1]).next? = some (0, ⟨(⟨0, 0, false, 0, 1, 0⟩ : RecHead), .kernel kMm1⟩) ∧
      (up [twoCtx (running [.kernel kMm1]) none]).preempts 0 0 = false ∧
      0x0202 < 0xFFFF ∧
      (running [.kernel kMm1]).phaseCode ≠ 7)) ∧
    ((onStable (up [twoCtx ctxOnRow none]) Stable.reset).shares 0 ctxOnRow (⟨0, 0, false, 0, 1, 0⟩ : RecHead) { kMm1 with kop := 5 } = .ok [(3, 0, 1)] ∧
      ((onStable (up [twoCtx ctxOnRow none]) Stable.reset).runsCtx 0 0 ctxOnRow ∧
      ctxOnRow.next? = some (0, ⟨(⟨0, 0, false, 0, 1, 0⟩ : RecHead), .kernel { kMm1 with kop := 5 }⟩) ∧
      (onStable (up [twoCtx ctxOnRow none]) Stable.reset).preempts 0 0 = false ∧
      ctxOnRow.rowHazard { kMm1 with kop := 5 } ([(3, 0, 1)].map (·.1)) = true ∧
      ctxOnRow.phaseCode ≠ 7)) ∧
    (0 < 16 ∧
      0 < 8 ∧
      (up [{ twoCtx (running [.kernel kMm1]) none with switching := some ⟨some 0, 1, .requested⟩ }]).preempts 0 0 = true) ∧
    ((onStable (up [openPd]) Stable.reset).shares 0 (running []) (⟨0, 0, false, 5, 4, 0⟩ : RecHead) kMm1 = .ok [(3, 0, 5)] ∧
      ((⟨0, 0, false, 5, 4, 0⟩ : RecHead).rows ≠ 0 ∧
      (⟨0, 0, false, 5, 4, 0⟩ : RecHead).grain ≠ 0)) ∧
    (((up [twoCtx ({ running [.kernel kMm1] with flights := [(⟨0, [.engine 0], [.engine 0], [], true, 0, 0, []⟩ : Flight)] } : Ctx) none]).runsCtx 0 0 ({ running [.kernel kMm1] with flights := [(⟨0, [.engine 0], [.engine 0], [], true, 0, 0, []⟩ : Flight)] } : Ctx) ∧
      (({ running [.kernel kMm1] with flights := [(⟨0, [.engine 0], [.engine 0], [], true, 0, 0, []⟩ : Flight)] } : Ctx).flights.find? fun g => g.ordinal == 0) = some (⟨0, [.engine 0], [.engine 0], [], true, 0, 0, []⟩ : Flight) ∧
      ({ running [.kernel kMm1] with flights := [(⟨0, [.engine 0], [.engine 0], [], true, 0, 0, []⟩ : Flight)] } : Ctx).flightOver (⟨0, [.engine 0], [.engine 0], [], true, 0, 0, []⟩ : Flight) = true) ∧
      ((up [twoCtx ({ running [.kernel kMm1] with flights := [(⟨0, [.engine 0], [], [], true, 0, 0, []⟩ : Flight)] } : Ctx) none]).runsCtx 0 0 ({ running [.kernel kMm1] with flights := [(⟨0, [.engine 0], [], [], true, 0, 0, []⟩ : Flight)] } : Ctx) ∧
      (({ running [.kernel kMm1] with flights := [(⟨0, [.engine 0], [], [], true, 0, 0, []⟩ : Flight)] } : Ctx).flights.find? fun g => g.ordinal == 0) = some (⟨0, [.engine 0], [], [], true, 0, 0, []⟩ : Flight) ∧
      ({ running [.kernel kMm1] with flights := [(⟨0, [.engine 0], [], [], true, 0, 0, []⟩ : Flight)] } : Ctx).flightOver (⟨0, [.engine 0], [], [], true, 0, 0, []⟩ : Flight) = false) ∧
      ((up [twoCtx (ctxBranch (⟨0, 0, 0, true, 0, 2, 0xFFFFFFFF, 1⟩ : BranchRec)) none]).runsCtx 0 0 (ctxBranch (⟨0, 0, 0, true, 0, 2, 0xFFFFFFFF, 1⟩ : BranchRec)) ∧
      (ctxBranch (⟨0, 0, 0, true, 0, 2, 0xFFFFFFFF, 1⟩ : BranchRec)).next? = some (1, ⟨(⟨0, 0, false, 0, 1, 0⟩ : RecHead), .branch (⟨0, 0, 0, true, 0, 2, 0xFFFFFFFF, 1⟩ : BranchRec)⟩) ∧
      1 ≠ 0)) ∧
    ((∀ f ∈ (ctxBranch (⟨0, 0, 0, true, 0, 2, 0xFFFFFFFF, 1⟩ : BranchRec)).flights, f.ordinal ≠ 0) ∧
      ((up [twoCtx (ctxBranch (⟨0, 0, 0, true, 0, 2, 0xFFFFFFFF, 1⟩ : BranchRec)) none]).runsCtx 0 0 (ctxBranch (⟨0, 0, 0, true, 0, 2, 0xFFFFFFFF, 1⟩ : BranchRec)) ∧
      (ctxBranch (⟨0, 0, 0, true, 0, 2, 0xFFFFFFFF, 1⟩ : BranchRec)).next? = some (1, ⟨(⟨0, 0, false, 0, 1, 0⟩ : RecHead), .branch (⟨0, 0, 0, true, 0, 2, 0xFFFFFFFF, 1⟩ : BranchRec)⟩) ∧
      (ctxBranch (⟨0, 0, 0, true, 0, 2, 0xFFFFFFFF, 1⟩ : BranchRec)).parcel.kernelBefore 1 = some 0 ∧
      (¬ (2 ≤ 1 ∧ (⟨0, 0, 0, true, 0, 2, 0xFFFFFFFF, 1⟩ : BranchRec).limit ≤ (ctxBranch (⟨0, 0, 0, true, 0, 2, 0xFFFFFFFF, 1⟩ : BranchRec)).jumpsOf 1)) ∧
      ({ ctxBranch (⟨0, 0, 0, true, 0, 2, 0xFFFFFFFF, 1⟩ : BranchRec) with tr := { (ctxBranch (⟨0, 0, 0, true, 0, 2, 0xFFFFFFFF, 1⟩ : BranchRec)).tr with cur := 2 } } : Ctx) = { (ctxBranch (⟨0, 0, 0, true, 0, 2, 0xFFFFFFFF, 1⟩ : BranchRec)).setCursor 2 with jumps := (ctxBranch (⟨0, 0, 0, true, 0, 2, 0xFFFFFFFF, 1⟩ : BranchRec)).jumps })) ∧
    ((∀ f ∈ (ctxBranch (⟨0, 0, 0, true, 0, 0, 0xFFFFFFFF, 0⟩ : BranchRec)).flights, f.ordinal ≠ 0) ∧
      ((up [twoCtx (ctxBranch (⟨0, 0, 0, true, 0, 0, 0xFFFFFFFF, 0⟩ : BranchRec)) none]).runsCtx 0 0 (ctxBranch (⟨0, 0, 0, true, 0, 0, 0xFFFFFFFF, 0⟩ : BranchRec)) ∧
      (ctxBranch (⟨0, 0, 0, true, 0, 0, 0xFFFFFFFF, 0⟩ : BranchRec)).next? = some (1, ⟨(⟨0, 0, false, 0, 1, 0⟩ : RecHead), .branch (⟨0, 0, 0, true, 0, 0, 0xFFFFFFFF, 0⟩ : BranchRec)⟩) ∧
      (ctxBranch (⟨0, 0, 0, true, 0, 0, 0xFFFFFFFF, 0⟩ : BranchRec)).parcel.kernelBefore 1 = some 0 ∧
      (⟨0, 0, 0, true, 0, 0, 0xFFFFFFFF, 0⟩ : BranchRec).holds [] = true ∧
      (⟨0, 0, 0, true, 0, 0, 0xFFFFFFFF, 0⟩ : BranchRec).target ≤ 1 ∧
      (⟨0, 0, 0, true, 0, 0, 0xFFFFFFFF, 0⟩ : BranchRec).limit ≤ (ctxBranch (⟨0, 0, 0, true, 0, 0, 0xFFFFFFFF, 0⟩ : BranchRec)).jumpsOf 1 ∧
      (ctxBranch (⟨0, 0, 0, true, 0, 0, 0xFFFFFFFF, 0⟩ : BranchRec)).phaseCode ≠ 7)) :=
  ⟨⟨ok_of (by decide +kernel), busy_one ⟨rfl, by decide +kernel⟩, by and_intros <;> decide +kernel⟩,
    ⟨ok_of (by decide +kernel), by and_intros <;> decide +kernel⟩,
    ⟨error_of (by decide +kernel), by and_intros <;> decide +kernel⟩,
    ⟨ok_of (by decide +kernel), by and_intros <;> decide +kernel⟩,
    by decide +kernel,
    ⟨ok_of (by decide +kernel), by and_intros <;> decide +kernel⟩,
    by and_intros <;> decide +kernel,
    ⟨by rintro f ⟨⟩, by and_intros <;> decide +kernel⟩,
    ⟨by rintro f ⟨⟩, by and_intros <;> decide +kernel⟩⟩

/-- States and operands that meet the hypotheses of FeedEventsAccumulate, clause by clause. -/
theorem witness_FeedEventsAccumulate :
    ((working kMm1 { Stable.reset with active := 4 }).kopAt 3 (oWorking kMm1) ∧
      ((working kMm1 Stable.reset).kop? 3 = some (oWorking kMm1) ∧
      (oWorking kMm1).run.begun = true ∧
      3 < 72 ∧
      (working kMm1 Stable.reset).running = true ∧
      ((working kMm1 Stable.reset).stable 3).active ≠ 4) ∧
      ((working kMm1 (stableOne [none, none, some (stageOne false none), none, none, none, none])).kopAt 3 (oWorking kMm1) ∧
      1 ≤ (oWorking kMm1).k.kop ∧
      (oWorking kMm1).k.kop ≤ 3 ∧
      ((working kMm1 (stableOne [none, none, some (stageOne false none), none, none, none, none])).stable 3).pos.done = true ∧
      ((working kMm1 (stableOne [none, none, some (stageOne false none), none, none, none, none])).stable 3).pipe.getD 2 none = some (stageOne false none) ∧
      (stageOne false none).first = false ∧
      ((working kMm1 (stableOne [none, none, some (stageOne false none), none, none, none, none])).stable 3).pipe.getD 3 none = none ∧
      ((working kMm1 (stableOne [none, none, some (stageOne false none), none, none, none, none])).stable 3).pipe.getD 5 none = none)) ∧
    ((working kMm65 { stableOne [] with pos := ⟨0, 0, 0, 0, 1, false⟩ }).feedOperand (oWorking kMm65) ((working kMm65 { stableOne [] with pos := ⟨0, 0, 0, 0, 1, false⟩ }).stable 3).pos = .ok (okOf ((working kMm65 { stableOne [] with pos := ⟨0, 0, 0, 0, 1, false⟩ }).feedOperand (oWorking kMm65) ((working kMm65 { stableOne [] with pos := ⟨0, 0, 0, 0, 1, false⟩ }).stable 3).pos) []) ∧
      ((working kMm65 { stableOne [] with pos := ⟨0, 0, 0, 0, 1, false⟩ }).kopAt 3 (oWorking kMm65) ∧
      1 ≤ (oWorking kMm65).k.kop ∧
      (oWorking kMm65).k.kop ≤ 3 ∧
      ((working kMm65 { stableOne [] with pos := ⟨0, 0, 0, 0, 1, false⟩ }).stable 3).pos.done = false ∧
      0 < ((working kMm65 { stableOne [] with pos := ⟨0, 0, 0, 0, 1, false⟩ }).stable 3).pos.event ∧
      ((working kMm65 { stableOne [] with pos := ⟨0, 0, 0, 0, 1, false⟩ }).stable 3).pipe = [] ∧
      ((working kMm65 { stableOne [] with pos := ⟨0, 0, 0, 0, 1, false⟩ }).stable 3).ranks.length = 4 ∧
      (oWorking kMm65).slice ((working kMm65 { stableOne [] with pos := ⟨0, 0, 0, 0, 1, false⟩ }).stable 3).pos = some (⟨0, 64, 64, 1⟩ : Slice))) ∧
    ((71 < 72 ∧
      (up []).running = true ∧
      1 ≤ 1 ∧
      1 ≤ 4) ∧
      (71 < 72 ∧
      (up []).running = true ∧
      1 ≤ 4 ∧
      4 ≤ 4) ∧
      (71 < 72 ∧
      (up []).running = true ∧
      0 < 4) ∧
      (71 < 72 ∧
      (up []).running = true ∧
      3 < 4) ∧
      (71 < 72 ∧
      State.reset.running = false ∧
      1 ≤ 1 ∧
      1 < 4) ∧
      (1 < 128 ∧
      [none, accOf 5][1]? = some (some (.exact (.fin 5))) ∧
      (-5 : Int) ≠ 0 ∧
      (rankOf [none, accOf 5]).p1 = sumAccs (fun _ => 1) [none, accOf 5] ∧
      (rankOf [none, accOf 5]).p2 = sumAccs (· + 1) [none, accOf 5]) ∧
      (some (.exact .nan : Accum) ∈ [none, some (.exact .nan)] ∧
      (.exact .nan : Accum).isState = true) ∧
      ((oWorking kMm1).k.checksummed = true ∧
      stableOff.ranks[0]? = some rankOne ∧
      ((oWorking kMm1).verdict rankOne (ofRank (stableOff.tileVals (oWorking kMm1).exact (stageOne true none)) 0) ≠ .pass ∧ (oWorking kMm1).verdict rankOne (ofRank (stableOff.tileVals (oWorking kMm1).exact (stageOne true none)) 0) ≠ .skip)) ∧
      ((UnitRun.moves [] 0) ≠ (UnitRun.moves [] 1) ∧
      (UnitRun.moves [] 0) ≠ (UnitRun.moves [] 2) ∧
      (UnitRun.moves [] 1) ≠ (UnitRun.moves [] 2))) ∧
    ((working kMm1 (stableOne [none, none, none, none, none, some (stageOne true (some [accOf 0])), none])).storeBits ((oWorking kMm1).feedReach) (oWorking kMm1).k.fmtC (oWorking kMm1).c (0 * (oWorking kMm1).c.pitch (oWorking kMm1).k.n (oWorking kMm1).k.rowsC + (oWorking kMm1).column (stageOne true (some [accOf 0])).pos) ((oWorking kMm1).drainOne (Accum.exact Long.zero)).bits = .ok (okOf ((working kMm1 (stableOne [none, none, none, none, none, some (stageOne true (some [accOf 0])), none])).storeBits ((oWorking kMm1).feedReach) (oWorking kMm1).k.fmtC (oWorking kMm1).c (0 * (oWorking kMm1).c.pitch (oWorking kMm1).k.n (oWorking kMm1).k.rowsC + (oWorking kMm1).column (stageOne true (some [accOf 0])).pos) ((oWorking kMm1).drainOne (Accum.exact Long.zero)).bits) State.reset) ∧
      (kOp (.kMm 3) = some (3, 1) ∧
      1 ≤ 3 ∧
      (working kMm1 (stableOne [none, none, none, none, none, some (stageOne true (some [accOf 0])), none])).kopAt 3 (oWorking kMm1) ∧
      (oWorking kMm1).k.kop = 1 ∧
      (oWorking kMm1).run.gdone = false ∧
      (oWorking kMm1).run.probing = false ∧
      ((working kMm1 (stableOne [none, none, none, none, none, some (stageOne true (some [accOf 0])), none])).stable 3).pos.done = true ∧
      ((working kMm1 (stableOne [none, none, none, none, none, some (stageOne true (some [accOf 0])), none])).stable 3).pipe = [none, none, none, none, none, some (stageOne true (some [accOf 0])), none] ∧
      (stageOne true (some [accOf 0])).moved = some [accOf 0] ∧
      (oWorking kMm1).spills (stageOne true (some [accOf 0])).pos = false ∧
      (oWorking kMm1).k.select = 0 ∧
      (oWorking kMm1).k.accumulates = false ∧
      isMx (oWorking kMm1).k.fmtC = false ∧
      (oWorking kMm1).drainClass = 0 ∧
      (oWorking kMm1).column (stageOne true (some [accOf 0])).pos + 1 = (oWorking kMm1).k.n ∧
      ((working kMm1 (stableOne [none, none, none, none, none, some (stageOne true (some [accOf 0])), none])).stable 3).drains = [] ∧
      (oWorking kMm1).drained (stageOne true (some [accOf 0])).pos [accOf 0] = [⟨0, (oWorking kMm1).column (stageOne true (some [accOf 0])).pos, (Accum.exact Long.zero)⟩])) :=
  ⟨by and_intros <;> decide +kernel,
    ⟨okOf_eq (by decide +kernel), by and_intros <;> decide +kernel⟩,
    by and_intros <;> decide +kernel,
    ⟨okOf_eq (by decide +kernel), by and_intros <;> decide +kernel⟩⟩

/-- States and operands that meet the hypotheses of AccumulatorIsDecidedByItsTerms, clause by clause. -/
theorem witness_AccumulatorIsDecidedByItsTerms :
    ([Ext.zero true, Ext.nan].Perm [Ext.nan, Ext.zero true] ∧
      (-(2 ^ 127 - 6) ≤ (-(2 ^ 127 - 6) : Int) ∧
      (-(2 ^ 127 - 6) : Int) < 2 ^ 127) ∧
      (-(2 ^ 127 - 6) ≤ (2 ^ 127 - 1 : Int) ∧
      (2 ^ 127 - 1 : Int) < 2 ^ 127)) :=
  by and_intros <;> decide +kernel

/-- States and operands that meet the hypotheses of SelectionsAndMovesWriteTheirItems, clause by clause. -/
theorem witness_SelectionsAndMovesWriteTheirItems :
    (((oWorking kTop).topWrites ((working kTop { Stable.reset with active := 4, topk := [topOne] }).stable 3).topk).foldlM (fun (y : State) (e : Nat × Nat × Nat) => match (oWorking kTop).c.place 0x01 e.1 with | none => Except.ok y | some a => y.store ((oWorking kTop).feedReach) a.1 (leBytes 4 e.2.1 ++ leBytes 4 e.2.2)) (working kTop { Stable.reset with active := 4, topk := [topOne] }) = .ok (okOf (((oWorking kTop).topWrites ((working kTop { Stable.reset with active := 4, topk := [topOne] }).stable 3).topk).foldlM (fun (y : State) (e : Nat × Nat × Nat) => match (oWorking kTop).c.place 0x01 e.1 with | none => Except.ok y | some a => y.store ((oWorking kTop).feedReach) a.1 (leBytes 4 e.2.1 ++ leBytes 4 e.2.2)) (working kTop { Stable.reset with active := 4, topk := [topOne] })) State.reset) ∧
      ((working kTop { Stable.reset with active := 4, topk := [topOne] }).kopAt 3 (oWorking kTop) ∧
      (oWorking kTop).k.kop = 4 ∧
      (oWorking kTop).run.gdone = false ∧
      ((working kTop { Stable.reset with active := 4, topk := [topOne] }).stable 3).pos.event = 0 ∧
      ((working kTop { Stable.reset with active := 4, topk := [topOne] }).stable 3).topk ≠ [] ∧
      topDone ((working kTop { Stable.reset with active := 4, topk := [topOne] }).stable 3).topk = true ∧
      (oWorking kTop).run.count ≤ 4 * (((working kTop { Stable.reset with active := 4, topk := [topOne] }).stable 3).pos.block + 1) ∧
      ((oWorking kTop).topWrites ((working kTop { Stable.reset with active := 4, topk := [topOne] }).stable 3).topk).length ≤ 64)) ∧
    ([((0 : W32), 3), (1, 0)].Pairwise (fun a b => topBetter true b a = false) ∧
      topOne.best.length ≤ 2) ∧
    ((moving (kMove) 128).loadBits ((oWorking (kMove)).feedReach) 0x23 (oWorking (kMove)).b 15 = .ok (some 1) ∧
      (moving (kMove) 128).loadBits ((oWorking (kMove)).feedReach) (oWorking (kMove)).moveFmt (oWorking (kMove)).a 15 = .ok (some 0) ∧
      (moving (kMove) 128).storeBits ((oWorking (kMove)).feedReach) (oWorking (kMove)).moveFmt (oWorking (kMove)).c 0 0 = .ok (okOf ((moving (kMove) 128).storeBits ((oWorking (kMove)).feedReach) (oWorking (kMove)).moveFmt (oWorking (kMove)).c 0 0) State.reset) ∧
      (okOf ((moving (kMove) 128).storeBits ((oWorking (kMove)).feedReach) (oWorking (kMove)).moveFmt (oWorking (kMove)).c 0 0) State.reset).writeDevs (span (rowStoreBase 3 + (oWorking (kMove)).k.partialOff) 4) (leBytes 4 1) = .ok (okOf ((okOf ((moving (kMove) 128).storeBits ((oWorking (kMove)).feedReach) (oWorking (kMove)).moveFmt (oWorking (kMove)).c 0 0) State.reset).writeDevs (span (rowStoreBase 3 + (oWorking (kMove)).k.partialOff) 4) (leBytes 4 1)) State.reset) ∧
      ((moving (kMove) 128).kopAt 3 (oWorking (kMove)) ∧
      (oWorking (kMove)).k.check = false ∧
      (oWorking (kMove)).run.gdone = false ∧
      (oWorking (kMove)).run.probing = false ∧
      (oWorking (kMove)).itemLen = 1 ∧
      ((moving (kMove) 128).stable 3).held = [] ∧
      ((moving (kMove) 128).stable 3).pos.col + 1 = (oWorking (kMove)).items.2 ∧
      (oWorking (kMove)).k.kop = 5 ∧
      1 ≠ 0)) ∧
    ((moving (kMove) 0).loadBits ((oWorking (kMove)).feedReach) 0x23 (oWorking (kMove)).b 15 = .ok (some 0) ∧
      (moving (kMove) 0).writeDevs (span (rowStoreBase 3 + (oWorking (kMove)).k.partialOff) 4) (leBytes 4 0) = .ok (okOf ((moving (kMove) 0).writeDevs (span (rowStoreBase 3 + (oWorking (kMove)).k.partialOff) 4) (leBytes 4 0)) State.reset) ∧
      ((moving (kMove) 0).kopAt 3 (oWorking (kMove)) ∧
      (oWorking (kMove)).k.check = false ∧
      (oWorking (kMove)).run.gdone = false ∧
      (oWorking (kMove)).run.probing = false ∧
      (oWorking (kMove)).itemLen = 1 ∧
      ((moving (kMove) 0).stable 3).held = [] ∧
      ((moving (kMove) 0).stable 3).pos.col + 1 = (oWorking (kMove)).items.2 ∧
      (oWorking (kMove)).k.kop = 5)) ∧
    ((moving (kExpandOne false) 128).loadBits ((oWorking (kExpandOne false)).feedReach) 0x23 (oWorking (kExpandOne false)).b 15 = .ok (some 1) ∧
      (moving (kExpandOne false) 128).loadBits ((oWorking (kExpandOne false)).feedReach) (oWorking (kExpandOne false)).moveFmt (oWorking (kExpandOne false)).a 0 = .ok (some 0x8000) ∧
      (moving (kExpandOne false) 128).storeBits ((oWorking (kExpandOne false)).feedReach) (oWorking (kExpandOne false)).moveFmt (oWorking (kExpandOne false)).c 15 0x8000 = .ok (okOf ((moving (kExpandOne false) 128).storeBits ((oWorking (kExpandOne false)).feedReach) (oWorking (kExpandOne false)).moveFmt (oWorking (kExpandOne false)).c 15 0x8000) State.reset) ∧
      ((moving (kExpandOne false) 128).kopAt 3 (oWorking (kExpandOne false)) ∧
      (oWorking (kExpandOne false)).k.check = false ∧
      (oWorking (kExpandOne false)).run.gdone = false ∧
      (oWorking (kExpandOne false)).run.probing = false ∧
      (oWorking (kExpandOne false)).itemLen = 1 ∧
      ((moving (kExpandOne false) 128).stable 3).held = [] ∧
      ((moving (kExpandOne false) 128).stable 3).pos.col + 1 = (oWorking (kExpandOne false)).items.2 ∧
      (oWorking (kExpandOne false)).k.kop = 6 ∧
      1 ≠ 0)) ∧
    ((moving (kExpandOne true) 0).loadBits ((oWorking (kExpandOne true)).feedReach) 0x23 (oWorking (kExpandOne true)).b 15 = .ok (some 0) ∧
      (if (oWorking (kExpandOne true)).k.zeroFill then (moving (kExpandOne true) 0).storeBits ((oWorking (kExpandOne true)).feedReach) (oWorking (kExpandOne true)).moveFmt (oWorking (kExpandOne true)).c 15 0 else .ok (moving (kExpandOne true) 0)) = .ok (okOf ((moving (kExpandOne true) 0).storeBits ((oWorking (kExpandOne true)).feedReach) (oWorking (kExpandOne true)).moveFmt (oWorking (kExpandOne true)).c 15 0) State.reset) ∧
      ((moving (kExpandOne true) 0).kopAt 3 (oWorking (kExpandOne true)) ∧
      (oWorking (kExpandOne true)).k.check = false ∧
      (oWorking (kExpandOne true)).run.gdone = false ∧
      (oWorking (kExpandOne true)).run.probing = false ∧
      (oWorking (kExpandOne true)).itemLen = 1 ∧
      ((moving (kExpandOne true) 0).stable 3).held = [] ∧
      ((moving (kExpandOne true) 0).stable 3).pos.col + 1 = (oWorking (kExpandOne true)).items.2 ∧
      (oWorking (kExpandOne true)).k.kop = 6)) :=
  ⟨⟨okOf_eq (by decide +kernel), by and_intros <;> decide +kernel⟩,
    by and_intros <;> decide +kernel,
    ⟨ok_of (by decide +kernel), ok_of (by decide +kernel), okOf_eq (by decide +kernel), okOf_eq (by decide +kernel), by and_intros <;> decide +kernel⟩,
    ⟨ok_of (by decide +kernel), okOf_eq (by decide +kernel), by and_intros <;> decide +kernel⟩,
    ⟨ok_of (by decide +kernel), ok_of (by decide +kernel), okOf_eq (by decide +kernel), by and_intros <;> decide +kernel⟩,
    ⟨ok_of (by decide +kernel), okOf_eq (by decide +kernel), by and_intros <;> decide +kernel⟩⟩

/-- States and operands that meet the hypotheses of StablesAreReplaced, clause by clause. -/
theorem witness_StablesAreReplaced :
    ((3 < 72 ∧
      (onStable (up [openPd]) { Stable.reset with stopped := true }).stables.length = 72 ∧
      4 < 72 ∧
      (onStable (up [openPd]) { Stable.reset with stopped := true }).running = true ∧
      ((onStable (up [openPd]) { Stable.reset with stopped := true }).stable 3).stopped = true ∧
      (onStable (up [openPd]) { Stable.reset with stopped := true }).remount.logical 3 = some 0 ∧
      (onStable (up [openPd]) { Stable.reset with stopped := true }).ownerOfGroup (0 / 4) = some 0 ∧
      ((onStable (up [openPd]) { Stable.reset with stopped := true }).pd 0).collecting = false ∧
      (onStable (up [openPd]) { Stable.reset with stopped := true }).pool (dieOfStable 3) = 4 :: ([] : List Nat)) ∧
      (3 < 72 ∧
      ({ onStable (up [openPd]) { Stable.reset with stopped := true } with remount := { (onStable (up []) Stable.reset).remount with good := [3] } } : State).running = true ∧
      (({ onStable (up [openPd]) { Stable.reset with stopped := true } with remount := { (onStable (up []) Stable.reset).remount with good := [3] } } : State).stable 3).stopped = true ∧
      ({ onStable (up [openPd]) { Stable.reset with stopped := true } with remount := { (onStable (up []) Stable.reset).remount with good := [3] } } : State).remount.logical 3 = some 0 ∧
      ({ onStable (up [openPd]) { Stable.reset with stopped := true } with remount := { (onStable (up []) Stable.reset).remount with good := [3] } } : State).ownerOfGroup (0 / 4) = some 0 ∧
      (({ onStable (up [openPd]) { Stable.reset with stopped := true } with remount := { (onStable (up []) Stable.reset).remount with good := [3] } } : State).pd 0).collecting = false ∧
      ({ onStable (up [openPd]) { Stable.reset with stopped := true } with remount := { (onStable (up []) Stable.reset).remount with good := [3] } } : State).pool (dieOfStable 3) = []) ∧
      (3 < 72 ∧
      (onStable (up [withCtx { ctxPlain with tr := { Train.start with phase := 5 } }]) { Stable.reset with stopped := true }).running = true ∧
      ((onStable (up [withCtx { ctxPlain with tr := { Train.start with phase := 5 } }]) { Stable.reset with stopped := true }).stable 3).stopped = true ∧
      (onStable (up [withCtx { ctxPlain with tr := { Train.start with phase := 5 } }]) { Stable.reset with stopped := true }).remount.logical 3 = some 0 ∧
      (onStable (up [withCtx { ctxPlain with tr := { Train.start with phase := 5 } }]) { Stable.reset with stopped := true }).ownerOfGroup (0 / 4) = some 0 ∧
      ((onStable (up [withCtx { ctxPlain with tr := { Train.start with phase := 5 } }]) { Stable.reset with stopped := true }).pd 0).collecting = true) ∧
      (3 < 72 ∧
      4 < 72 ∧
      3 ≠ 4 ∧
      3 < (onStable (up []) { Stable.reset with copying := some 4 }).stables.length ∧
      (onStable (up []) { Stable.reset with copying := some 4 }).mem.wf = true ∧
      (onStable (up []) { Stable.reset with copying := some 4 }).running = true ∧
      ((onStable (up []) { Stable.reset with copying := some 4 }).stable 3).copying = some 4 ∧
      ((onStable (up []) { Stable.reset with copying := some 4 }).stable 3).queue = [] ∧
      (onStable (up []) { Stable.reset with copying := some 4 }).tablesFollow 3 = true ∧
      (onStable (up []) { Stable.reset with copying := some 4 }).rowSpoilt 4 = []) ∧
      (3 < 72 ∧
      ((onStable (up [withCtx { ctxPlain with table := [⟨0, 0, 0x1000, 2, 3, 0, 4, []⟩] }]) { Stable.reset with copying := some 4 }).stable 3).copying = some 4 ∧
      (onStable (up [withCtx { ctxPlain with table := [⟨0, 0, 0x1000, 2, 3, 0, 4, []⟩] }]) { Stable.reset with copying := some 4 }).tablesFollow 3 = false) ∧
      (3 < 72 ∧
      (onStable (up []) { Stable.reset with suspects := [(3, 127)] }).running = true ∧
      ((onStable (up []) { Stable.reset with suspects := [(3, 127)] }).stable 3).queue = [] ∧
      ((onStable (up []) { Stable.reset with suspects := [(3, 127)] }).stable 3).suspects = [(3, 127)] ∧
      3 < 4 ∧
      (onStable (up []) { Stable.reset with suspects := [(3, 127)] }).remount.freeStalls 3 3 = 128 :: (List.range' 129 7)) ∧
      (3 < 72 ∧
      ((onStable (up []) { Stable.reset with queue := [shareOf 0 0] }).stable 3).queue = (shareOf 0 0) :: ([] : List Run) ∧
      (shareOf 0 0).begun = true)) ∧
    ((working kMm1 Stable.reset).placeProgram (oWorking kMm1) = .ok (working kMm1 Stable.reset) ∧
      (3 < 72 ∧
      3 < (working kMm1 Stable.reset).stables.length ∧
      (working kMm1 Stable.reset).running = true ∧
      (working kMm1 Stable.reset).kop? 3 = some (oWorking kMm1) ∧
      (oWorking kMm1).run.begun = true ∧
      (oWorking kMm1).run.parity = 0 ∧
      ((working kMm1 Stable.reset).stable 3).stopped = false ∧
      ((working kMm1 Stable.reset).stable 3).copying = none ∧
      (working kMm1 Stable.reset).preempts (oWorking kMm1).run.paddock (oWorking kMm1).run.ctx = false)) ∧
    (3 < 72 ∧
      3 < (onStable (up [twoCtx (ctxWorking kMm1) none]) { Stable.reset with queue := [{ shareOf 0 0 with parity := 1 }] }).stables.length ∧
      (onStable (up [twoCtx (ctxWorking kMm1) none]) { Stable.reset with queue := [{ shareOf 0 0 with parity := 1 }] }).running = true ∧
      (onStable (up [twoCtx (ctxWorking kMm1) none]) { Stable.reset with queue := [{ shareOf 0 0 with parity := 1 }] }).kop? 3 = some ({ oWorking kMm1 with run := { shareOf 0 0 with parity := 1 } } : Kop) ∧
      ({ oWorking kMm1 with run := { shareOf 0 0 with parity := 1 } } : Kop).run.begun = true ∧
      ({ oWorking kMm1 with run := { shareOf 0 0 with parity := 1 } } : Kop).run.parity ≠ 0) :=
  ⟨by and_intros <;> decide +kernel,
    ⟨if_pos rfl, by and_intros <;> decide +kernel⟩,
    by decide +kernel⟩

/-- States and operands that meet the hypotheses of ShedRecordsCompute, clause by clause. -/
theorem witness_ShedRecordsCompute_1 :
    ((shedding (.mv mvOne)).mvPackage (ctxShed (.mv mvOne)).offMcl mvOne = .ok 0 ∧
      (∀ ch ∈ span (8 * 0) 8, ((shedding (.mv mvOne)).shed ch).ok = true) ∧
      (shedding (.mv mvOne)).weightRow (ctxShed (.mv mvOne)).offMcl mvOne 0 = .ok (okOf ((shedding (.mv mvOne)).weightRow (ctxShed (.mv mvOne)).offMcl mvOne 0) []) ∧
      (shedding (.mv mvOne)).loadVectors (ctxShed (.mv mvOne)).offMcl mvOne.fmtV ((ctxShed (.mv mvOne)).parcel.desc mvOne.vDesc) mvOne.nv mvOne.k = .ok (okOf ((shedding (.mv mvOne)).loadVectors (ctxShed (.mv mvOne)).offMcl mvOne.fmtV ((ctxShed (.mv mvOne)).parcel.desc mvOne.vDesc) mvOne.nv mvOne.k) []) ∧
      (List.range mvOne.nv).foldlM (fun (y : State) j => y.storeBits (ctxShed (.mv mvOne)).offMcl mvOne.fmtC ((ctxShed (.mv mvOne)).parcel.desc mvOne.cDesc) j (mvOne.drain ((dotOf (okOf ((shedding (.mv mvOne)).weightRow (ctxShed (.mv mvOne)).offMcl mvOne 0) []) (Reg.vals mvOne.fmtV ((okOf ((shedding (.mv mvOne)).loadVectors (ctxShed (.mv mvOne)).offMcl mvOne.fmtV ((ctxShed (.mv mvOne)).parcel.desc mvOne.vDesc) mvOne.nv mvOne.k) []).getD j Reg.empty)))).acc).bits) (shedding (.mv mvOne)) = .ok (okOf ((List.range mvOne.nv).foldlM (fun (y : State) j => y.storeBits (ctxShed (.mv mvOne)).offMcl mvOne.fmtC ((ctxShed (.mv mvOne)).parcel.desc mvOne.cDesc) j (mvOne.drain ((dotOf (okOf ((shedding (.mv mvOne)).weightRow (ctxShed (.mv mvOne)).offMcl mvOne 0) []) (Reg.vals mvOne.fmtV ((okOf ((shedding (.mv mvOne)).loadVectors (ctxShed (.mv mvOne)).offMcl mvOne.fmtV ((ctxShed (.mv mvOne)).parcel.desc mvOne.vDesc) mvOne.nv mvOne.k) []).getD j Reg.empty)))).acc).bits) (shedding (.mv mvOne))) State.reset) ∧
      ((shedding (.mv mvOne)).runsCtx 0 0 (ctxShed (.mv mvOne)) ∧
      (ctxShed (.mv mvOne)).next? = some (0, ⟨(⟨0, 0, false, 0, 1, 0⟩ : RecHead), .mv mvOne⟩) ∧
      shedsReady (shedding (.mv mvOne)) 0 0 0 (ctxShed (.mv mvOne)) (span (8 * 0) 8) ∧
      mvOne.n = 1 ∧
      1 ≤ 2)) ∧
    ((shedding (.mv mvOne)).mvPackage (ctxShed (.mv mvOne)).offMcl mvOne = .ok 0 ∧
      (∀ ch ∈ span (8 * 0) 8, ((shedding (.mv mvOne)).shed ch).ok = true) ∧
      (shedding (.mv mvOne)).loadVectors (ctxShed (.mv mvOne)).offMcl mvOne.fmtV ((ctxShed (.mv mvOne)).parcel.desc mvOne.vDesc) mvOne.nv mvOne.k = .ok (okOf ((shedding (.mv mvOne)).loadVectors (ctxShed (.mv mvOne)).offMcl mvOne.fmtV ((ctxShed (.mv mvOne)).parcel.desc mvOne.vDesc) mvOne.nv mvOne.k) []) ∧
      ((shedding (.mv mvOne)).runsCtx 0 0 (ctxShed (.mv mvOne)) ∧
      (ctxShed (.mv mvOne)).next? = some (0, ⟨(⟨0, 0, false, 0, 1, 0⟩ : RecHead), .mv mvOne⟩) ∧
      shedsReady (shedding (.mv mvOne)) 0 0 0 (ctxShed (.mv mvOne)) (span (8 * 0) 8) ∧
      mvOne.n ≠ 0)) ∧
    (({ shedding (.mv mvOne) with sheds := { Shed.reset with ok := false } :: List.replicate 191 Shed.reset } : State).mvPackage (ctxShed (.mv mvOne)).offMcl mvOne = .ok 0 ∧
      (({ shedding (.mv mvOne) with sheds := { Shed.reset with ok := false } :: List.replicate 191 Shed.reset } : State).runsCtx 0 0 (ctxShed (.mv mvOne)) ∧
      (ctxShed (.mv mvOne)).next? = some (0, ⟨(⟨0, 0, false, 0, 1, 0⟩ : RecHead), .mv mvOne⟩) ∧
      shedsReady ({ shedding (.mv mvOne) with sheds := { Shed.reset with ok := false } :: List.replicate 191 Shed.reset } : State) 0 0 0 (ctxShed (.mv mvOne)) (span (8 * 0) 8) ∧
      mvOne.n ≠ 0 ∧
      (({ shedding (.mv mvOne) with sheds := { Shed.reset with ok := false } :: List.replicate 191 Shed.reset } : State).shed (8 * 0)).ok = false ∧
      (ctxShed (.mv mvOne)).phaseCode ≠ 7)) ∧
    ((up [{ twoCtx (ctxShed (.mv mvOne)) none with switching := some ⟨some 0, 1, .requested⟩ }]).mvPackage (ctxShed (.mv mvOne)).offMcl mvOne = .ok 0 ∧
      ((up [{ twoCtx (ctxShed (.mv mvOne)) none with switching := some ⟨some 0, 1, .requested⟩ }]).runsCtx 0 0 (ctxShed (.mv mvOne)) ∧
      (ctxShed (.mv mvOne)).next? = some (0, ⟨(⟨0, 0, false, 0, 1, 0⟩ : RecHead), .mv mvOne⟩) ∧
      (up [{ twoCtx (ctxShed (.mv mvOne)) none with switching := some ⟨some 0, 1, .requested⟩ }]).preempts 0 0 = true ∧
      (∀ f ∈ (ctxShed (.mv mvOne)).flights, f.ordinal ≠ 0))) :=
  ⟨⟨ok_of (by decide +kernel), fun z _ => all_sheds rfl z, okOf_eq (by decide +kernel), okOf_eq (by decide +kernel), okOf_eq (by decide +kernel), by and_intros <;> decide +kernel⟩,
    ⟨ok_of (by decide +kernel), fun z _ => all_sheds rfl z, okOf_eq (by decide +kernel), by and_intros <;> decide +kernel⟩,
    ⟨ok_of (by decide +kernel), by and_intros <;> decide +kernel⟩,
    ⟨ok_of (by decide +kernel), by and_intros <;> decide +kernel⟩⟩

/-- States and operands that meet further clauses of ShedRecordsCompute. -/
theorem witness_ShedRecordsCompute_2 :
    ((shedding (.attn (attnOne false))).kvAddr (ctxShed (.attn (attnOne false))).offMcl (attnOne false) 0 = .ok 0 ∧
      (shedding (.attn (attnOne false))).blockChannel (ctxShed (.attn (attnOne false))).offMcl (attnOne false) 0 = .ok (okOf ((shedding (.attn (attnOne false))).blockChannel (ctxShed (.attn (attnOne false))).offMcl (attnOne false) 0) 0) ∧
      (shedding (.attn (attnOne false))).loadKv (ctxShed (.attn (attnOne false))).offMcl (attnOne false) 0 false (attnOne false).valid = .ok (okOf ((shedding (.attn (attnOne false))).loadKv (ctxShed (.attn (attnOne false))).offMcl (attnOne false) 0 false (attnOne false).valid) default) ∧
      (shedding (.attn (attnOne false))).loadKv (ctxShed (.attn (attnOne false))).offMcl (attnOne false) 0 true (attnOne false).valid = .ok (okOf ((shedding (.attn (attnOne false))).loadKv (ctxShed (.attn (attnOne false))).offMcl (attnOne false) 0 true (attnOne false).valid) default) ∧
      (shedding (.attn (attnOne false))).loadVectors (ctxShed (.attn (attnOne false))).offMcl (attnOne false).fmtQ ((ctxShed (.attn (attnOne false))).parcel.desc (attnOne false).qDesc) 1 (attnOne false).d = .ok [(okOf (((shedding (.attn (attnOne false))).loadVectors (ctxShed (.attn (attnOne false))).offMcl (attnOne false).fmtQ ((ctxShed (.attn (attnOne false))).parcel.desc (attnOne false).qDesc) 1 (attnOne false).d).map fun l => l.headD Reg.empty) Reg.empty)] ∧
      (shedding (.attn (attnOne false))).putRun (ctxShed (.attn (attnOne false))).offMcl 0x01 ((ctxShed (.attn (attnOne false))).parcel.desc (attnOne false).outDesc) 0 (attnPart (maxScore (((attnOne false).scores (Reg.vals (attnOne false).fmtQ (okOf (((shedding (.attn (attnOne false))).loadVectors (ctxShed (.attn (attnOne false))).offMcl (attnOne false).fmtQ ((ctxShed (.attn (attnOne false))).parcel.desc (attnOne false).qDesc) 1 (attnOne false).d).map fun l => l.headD Reg.empty) Reg.empty)) (okOf ((shedding (.attn (attnOne false))).loadKv (ctxShed (.attn (attnOne false))).offMcl (attnOne false) 0 false (attnOne false).valid) default) (attnOne false).valid).map (·.1.v))).v ((attnOne false).accumulate (okOf ((shedding (.attn (attnOne false))).loadKv (ctxShed (.attn (attnOne false))).offMcl (attnOne false) 0 true (attnOne false).valid) default) (attnOne false).valid (((attnOne false).scores (Reg.vals (attnOne false).fmtQ (okOf (((shedding (.attn (attnOne false))).loadVectors (ctxShed (.attn (attnOne false))).offMcl (attnOne false).fmtQ ((ctxShed (.attn (attnOne false))).parcel.desc (attnOne false).qDesc) 1 (attnOne false).d).map fun l => l.headD Reg.empty) Reg.empty)) (okOf ((shedding (.attn (attnOne false))).loadKv (ctxShed (.attn (attnOne false))).offMcl (attnOne false) 0 false (attnOne false).valid) default) (attnOne false).valid).map (·.1.v)) (maxScore (((attnOne false).scores (Reg.vals (attnOne false).fmtQ (okOf (((shedding (.attn (attnOne false))).loadVectors (ctxShed (.attn (attnOne false))).offMcl (attnOne false).fmtQ ((ctxShed (.attn (attnOne false))).parcel.desc (attnOne false).qDesc) 1 (attnOne false).d).map fun l => l.headD Reg.empty) Reg.empty)) (okOf ((shedding (.attn (attnOne false))).loadKv (ctxShed (.attn (attnOne false))).offMcl (attnOne false) 0 false (attnOne false).valid) default) (attnOne false).valid).map (·.1.v))).v ⟨Wide.ofPair ⟨0, 0⟩, (List.replicate (attnOne false).d Long.zero).map fun z => ⟨z, 0⟩⟩).lsum.p (((attnOne false).accumulate (okOf ((shedding (.attn (attnOne false))).loadKv (ctxShed (.attn (attnOne false))).offMcl (attnOne false) 0 true (attnOne false).valid) default) (attnOne false).valid (((attnOne false).scores (Reg.vals (attnOne false).fmtQ (okOf (((shedding (.attn (attnOne false))).loadVectors (ctxShed (.attn (attnOne false))).offMcl (attnOne false).fmtQ ((ctxShed (.attn (attnOne false))).parcel.desc (attnOne false).qDesc) 1 (attnOne false).d).map fun l => l.headD Reg.empty) Reg.empty)) (okOf ((shedding (.attn (attnOne false))).loadKv (ctxShed (.attn (attnOne false))).offMcl (attnOne false) 0 false (attnOne false).valid) default) (attnOne false).valid).map (·.1.v)) (maxScore (((attnOne false).scores (Reg.vals (attnOne false).fmtQ (okOf (((shedding (.attn (attnOne false))).loadVectors (ctxShed (.attn (attnOne false))).offMcl (attnOne false).fmtQ ((ctxShed (.attn (attnOne false))).parcel.desc (attnOne false).qDesc) 1 (attnOne false).d).map fun l => l.headD Reg.empty) Reg.empty)) (okOf ((shedding (.attn (attnOne false))).loadKv (ctxShed (.attn (attnOne false))).offMcl (attnOne false) 0 false (attnOne false).valid) default) (attnOne false).valid).map (·.1.v))).v ⟨Wide.ofPair ⟨0, 0⟩, (List.replicate (attnOne false).d Long.zero).map fun z => ⟨z, 0⟩⟩).o.map (·.acc))).words = .ok (okOf ((shedding (.attn (attnOne false))).putRun (ctxShed (.attn (attnOne false))).offMcl 0x01 ((ctxShed (.attn (attnOne false))).parcel.desc (attnOne false).outDesc) 0 (attnPart (maxScore (((attnOne false).scores (Reg.vals (attnOne false).fmtQ (okOf (((shedding (.attn (attnOne false))).loadVectors (ctxShed (.attn (attnOne false))).offMcl (attnOne false).fmtQ ((ctxShed (.attn (attnOne false))).parcel.desc (attnOne false).qDesc) 1 (attnOne false).d).map fun l => l.headD Reg.empty) Reg.empty)) (okOf ((shedding (.attn (attnOne false))).loadKv (ctxShed (.attn (attnOne false))).offMcl (attnOne false) 0 false (attnOne false).valid) default) (attnOne false).valid).map (·.1.v))).v ((attnOne false).accumulate (okOf ((shedding (.attn (attnOne false))).loadKv (ctxShed (.attn (attnOne false))).offMcl (attnOne false) 0 true (attnOne false).valid) default) (attnOne false).valid (((attnOne false).scores (Reg.vals (attnOne false).fmtQ (okOf (((shedding (.attn (attnOne false))).loadVectors (ctxShed (.attn (attnOne false))).offMcl (attnOne false).fmtQ ((ctxShed (.attn (attnOne false))).parcel.desc (attnOne false).qDesc) 1 (attnOne false).d).map fun l => l.headD Reg.empty) Reg.empty)) (okOf ((shedding (.attn (attnOne false))).loadKv (ctxShed (.attn (attnOne false))).offMcl (attnOne false) 0 false (attnOne false).valid) default) (attnOne false).valid).map (·.1.v)) (maxScore (((attnOne false).scores (Reg.vals (attnOne false).fmtQ (okOf (((shedding (.attn (attnOne false))).loadVectors (ctxShed (.attn (attnOne false))).offMcl (attnOne false).fmtQ ((ctxShed (.attn (attnOne false))).parcel.desc (attnOne false).qDesc) 1 (attnOne false).d).map fun l => l.headD Reg.empty) Reg.empty)) (okOf ((shedding (.attn (attnOne false))).loadKv (ctxShed (.attn (attnOne false))).offMcl (attnOne false) 0 false (attnOne false).valid) default) (attnOne false).valid).map (·.1.v))).v ⟨Wide.ofPair ⟨0, 0⟩, (List.replicate (attnOne false).d Long.zero).map fun z => ⟨z, 0⟩⟩).lsum.p (((attnOne false).accumulate (okOf ((shedding (.attn (attnOne false))).loadKv (ctxShed (.attn (attnOne false))).offMcl (attnOne false) 0 true (attnOne false).valid) default) (attnOne false).valid (((attnOne false).scores (Reg.vals (attnOne false).fmtQ (okOf (((shedding (.attn (attnOne false))).loadVectors (ctxShed (.attn (attnOne false))).offMcl (attnOne false).fmtQ ((ctxShed (.attn (attnOne false))).parcel.desc (attnOne false).qDesc) 1 (attnOne false).d).map fun l => l.headD Reg.empty) Reg.empty)) (okOf ((shedding (.attn (attnOne false))).loadKv (ctxShed (.attn (attnOne false))).offMcl (attnOne false) 0 false (attnOne false).valid) default) (attnOne false).valid).map (·.1.v)) (maxScore (((attnOne false).scores (Reg.vals (attnOne false).fmtQ (okOf (((shedding (.attn (attnOne false))).loadVectors (ctxShed (.attn (attnOne false))).offMcl (attnOne false).fmtQ ((ctxShed (.attn (attnOne false))).parcel.desc (attnOne false).qDesc) 1 (attnOne false).d).map fun l => l.headD Reg.empty) Reg.empty)) (okOf ((shedding (.attn (attnOne false))).loadKv (ctxShed (.attn (attnOne false))).offMcl (attnOne false) 0 false (attnOne false).valid) default) (attnOne false).valid).map (·.1.v))).v ⟨Wide.ofPair ⟨0, 0⟩, (List.replicate (attnOne false).d Long.zero).map fun z => ⟨z, 0⟩⟩).o.map (·.acc))).words) State.reset) ∧
      ((shedding (.attn (attnOne false))).runsCtx 0 0 (ctxShed (.attn (attnOne false))) ∧
      (ctxShed (.attn (attnOne false))).next? = some (0, ⟨(⟨0, 0, false, 0, 1, 0⟩ : RecHead), .attn (attnOne false)⟩) ∧
      (attnOne false).nblk = 1 ∧
      1 ≤ (attnOne false).seglen ∧
      (attnOne false).g = 1 ∧
      2 ≤ 2 ∧
      ((ctxShed (.attn (attnOne false))).parcel.writes (.attn (attnOne false))).meet ((shedding (.attn (attnOne false))).readsOf (ctxShed (.attn (attnOne false))).offMcl (.attn (attnOne false))) = false ∧
      shedsReady (shedding (.attn (attnOne false))) 0 0 0 (ctxShed (.attn (attnOne false))) [(okOf ((shedding (.attn (attnOne false))).blockChannel (ctxShed (.attn (attnOne false))).offMcl (attnOne false) 0) 0)] ∧
      ((shedding (.attn (attnOne false))).shed (okOf ((shedding (.attn (attnOne false))).blockChannel (ctxShed (.attn (attnOne false))).offMcl (attnOne false) 0) 0)).ok = true ∧
      (attnOne false).final = false)) :=
  ⟨ok_of (by decide +kernel), okOf_eq (by decide +kernel), okOf_eq (by decide +kernel), okOf_eq (by decide +kernel), ok_of (by decide +kernel), okOf_eq (by decide +kernel), by and_intros <;> decide +kernel⟩

/-- States and operands that meet further clauses of ShedRecordsCompute. -/
theorem witness_ShedRecordsCompute_3 :
    ((shedding (.attn (attnOne true))).kvAddr (ctxShed (.attn (attnOne true))).offMcl (attnOne true) 0 = .ok 0 ∧
      (shedding (.attn (attnOne true))).blockChannel (ctxShed (.attn (attnOne true))).offMcl (attnOne true) 0 = .ok (okOf ((shedding (.attn (attnOne true))).blockChannel (ctxShed (.attn (attnOne true))).offMcl (attnOne true) 0) 0) ∧
      (shedding (.attn (attnOne true))).loadKv (ctxShed (.attn (attnOne true))).offMcl (attnOne true) 0 false (attnOne true).valid = .ok (okOf ((shedding (.attn (attnOne true))).loadKv (ctxShed (.attn (attnOne true))).offMcl (attnOne true) 0 false (attnOne true).valid) default) ∧
      (shedding (.attn (attnOne true))).loadKv (ctxShed (.attn (attnOne true))).offMcl (attnOne true) 0 true (attnOne true).valid = .ok (okOf ((shedding (.attn (attnOne true))).loadKv (ctxShed (.attn (attnOne true))).offMcl (attnOne true) 0 true (attnOne true).valid) default) ∧
      (shedding (.attn (attnOne true))).loadVectors (ctxShed (.attn (attnOne true))).offMcl (attnOne true).fmtQ ((ctxShed (.attn (attnOne true))).parcel.desc (attnOne true).qDesc) 1 (attnOne true).d = .ok [(okOf (((shedding (.attn (attnOne true))).loadVectors (ctxShed (.attn (attnOne true))).offMcl (attnOne true).fmtQ ((ctxShed (.attn (attnOne true))).parcel.desc (attnOne true).qDesc) 1 (attnOne true).d).map fun l => l.headD Reg.empty) Reg.empty)] ∧
      (shedding (.attn (attnOne true))).putRun (ctxShed (.attn (attnOne true))).offMcl (attnOne true).fmtOut ((ctxShed (.attn (attnOne true))).parcel.desc (attnOne true).outDesc) 0 (((attnPart (maxScore (((attnOne true).scores (Reg.vals (attnOne true).fmtQ (okOf (((shedding (.attn (attnOne true))).loadVectors (ctxShed (.attn (attnOne true))).offMcl (attnOne true).fmtQ ((ctxShed (.attn (attnOne true))).parcel.desc (attnOne true).qDesc) 1 (attnOne true).d).map fun l => l.headD Reg.empty) Reg.empty)) (okOf ((shedding (.attn (attnOne true))).loadKv (ctxShed (.attn (attnOne true))).offMcl (attnOne true) 0 false (attnOne true).valid) default) (attnOne true).valid).map (·.1.v))).v ((attnOne true).accumulate (okOf ((shedding (.attn (attnOne true))).loadKv (ctxShed (.attn (attnOne true))).offMcl (attnOne true) 0 true (attnOne true).valid) default) (attnOne true).valid (((attnOne true).scores (Reg.vals (attnOne true).fmtQ (okOf (((shedding (.attn (attnOne true))).loadVectors (ctxShed (.attn (attnOne true))).offMcl (attnOne true).fmtQ ((ctxShed (.attn (attnOne true))).parcel.desc (attnOne true).qDesc) 1 (attnOne true).d).map fun l => l.headD Reg.empty) Reg.empty)) (okOf ((shedding (.attn (attnOne true))).loadKv (ctxShed (.attn (attnOne true))).offMcl (attnOne true) 0 false (attnOne true).valid) default) (attnOne true).valid).map (·.1.v)) (maxScore (((attnOne true).scores (Reg.vals (attnOne true).fmtQ (okOf (((shedding (.attn (attnOne true))).loadVectors (ctxShed (.attn (attnOne true))).offMcl (attnOne true).fmtQ ((ctxShed (.attn (attnOne true))).parcel.desc (attnOne true).qDesc) 1 (attnOne true).d).map fun l => l.headD Reg.empty) Reg.empty)) (okOf ((shedding (.attn (attnOne true))).loadKv (ctxShed (.attn (attnOne true))).offMcl (attnOne true) 0 false (attnOne true).valid) default) (attnOne true).valid).map (·.1.v))).v ⟨Wide.ofPair ⟨0, 0⟩, (List.replicate (attnOne true).d Long.zero).map fun z => ⟨z, 0⟩⟩).lsum.p (((attnOne true).accumulate (okOf ((shedding (.attn (attnOne true))).loadKv (ctxShed (.attn (attnOne true))).offMcl (attnOne true) 0 true (attnOne true).valid) default) (attnOne true).valid (((attnOne true).scores (Reg.vals (attnOne true).fmtQ (okOf (((shedding (.attn (attnOne true))).loadVectors (ctxShed (.attn (attnOne true))).offMcl (attnOne true).fmtQ ((ctxShed (.attn (attnOne true))).parcel.desc (attnOne true).qDesc) 1 (attnOne true).d).map fun l => l.headD Reg.empty) Reg.empty)) (okOf ((shedding (.attn (attnOne true))).loadKv (ctxShed (.attn (attnOne true))).offMcl (attnOne true) 0 false (attnOne true).valid) default) (attnOne true).valid).map (·.1.v)) (maxScore (((attnOne true).scores (Reg.vals (attnOne true).fmtQ (okOf (((shedding (.attn (attnOne true))).loadVectors (ctxShed (.attn (attnOne true))).offMcl (attnOne true).fmtQ ((ctxShed (.attn (attnOne true))).parcel.desc (attnOne true).qDesc) 1 (attnOne true).d).map fun l => l.headD Reg.empty) Reg.empty)) (okOf ((shedding (.attn (attnOne true))).loadKv (ctxShed (.attn (attnOne true))).offMcl (attnOne true) 0 false (attnOne true).valid) default) (attnOne true).valid).map (·.1.v))).v ⟨Wide.ofPair ⟨0, 0⟩, (List.replicate (attnOne true).d Long.zero).map fun z => ⟨z, 0⟩⟩).o.map (·.acc))).o.map fun o => quotient (attnOne true).fmtOut o (attnPart (maxScore (((attnOne true).scores (Reg.vals (attnOne true).fmtQ (okOf (((shedding (.attn (attnOne true))).loadVectors (ctxShed (.attn (attnOne true))).offMcl (attnOne true).fmtQ ((ctxShed (.attn (attnOne true))).parcel.desc (attnOne true).qDesc) 1 (attnOne true).d).map fun l => l.headD Reg.empty) Reg.empty)) (okOf ((shedding (.attn (attnOne true))).loadKv (ctxShed (.attn (attnOne true))).offMcl (attnOne true) 0 false (attnOne true).valid) default) (attnOne true).valid).map (·.1.v))).v ((attnOne true).accumulate (okOf ((shedding (.attn (attnOne true))).loadKv (ctxShed (.attn (attnOne true))).offMcl (attnOne true) 0 true (attnOne true).valid) default) (attnOne true).valid (((attnOne true).scores (Reg.vals (attnOne true).fmtQ (okOf (((shedding (.attn (attnOne true))).loadVectors (ctxShed (.attn (attnOne true))).offMcl (attnOne true).fmtQ ((ctxShed (.attn (attnOne true))).parcel.desc (attnOne true).qDesc) 1 (attnOne true).d).map fun l => l.headD Reg.empty) Reg.empty)) (okOf ((shedding (.attn (attnOne true))).loadKv (ctxShed (.attn (attnOne true))).offMcl (attnOne true) 0 false (attnOne true).valid) default) (attnOne true).valid).map (·.1.v)) (maxScore (((attnOne true).scores (Reg.vals (attnOne true).fmtQ (okOf (((shedding (.attn (attnOne true))).loadVectors (ctxShed (.attn (attnOne true))).offMcl (attnOne true).fmtQ ((ctxShed (.attn (attnOne true))).parcel.desc (attnOne true).qDesc) 1 (attnOne true).d).map fun l => l.headD Reg.empty) Reg.empty)) (okOf ((shedding (.attn (attnOne true))).loadKv (ctxShed (.attn (attnOne true))).offMcl (attnOne true) 0 false (attnOne true).valid) default) (attnOne true).valid).map (·.1.v))).v ⟨Wide.ofPair ⟨0, 0⟩, (List.replicate (attnOne true).d Long.zero).map fun z => ⟨z, 0⟩⟩).lsum.p (((attnOne true).accumulate (okOf ((shedding (.attn (attnOne true))).loadKv (ctxShed (.attn (attnOne true))).offMcl (attnOne true) 0 true (attnOne true).valid) default) (attnOne true).valid (((attnOne true).scores (Reg.vals (attnOne true).fmtQ (okOf (((shedding (.attn (attnOne true))).loadVectors (ctxShed (.attn (attnOne true))).offMcl (attnOne true).fmtQ ((ctxShed (.attn (attnOne true))).parcel.desc (attnOne true).qDesc) 1 (attnOne true).d).map fun l => l.headD Reg.empty) Reg.empty)) (okOf ((shedding (.attn (attnOne true))).loadKv (ctxShed (.attn (attnOne true))).offMcl (attnOne true) 0 false (attnOne true).valid) default) (attnOne true).valid).map (·.1.v)) (maxScore (((attnOne true).scores (Reg.vals (attnOne true).fmtQ (okOf (((shedding (.attn (attnOne true))).loadVectors (ctxShed (.attn (attnOne true))).offMcl (attnOne true).fmtQ ((ctxShed (.attn (attnOne true))).parcel.desc (attnOne true).qDesc) 1 (attnOne true).d).map fun l => l.headD Reg.empty) Reg.empty)) (okOf ((shedding (.attn (attnOne true))).loadKv (ctxShed (.attn (attnOne true))).offMcl (attnOne true) 0 false (attnOne true).valid) default) (attnOne true).valid).map (·.1.v))).v ⟨Wide.ofPair ⟨0, 0⟩, (List.replicate (attnOne true).d Long.zero).map fun z => ⟨z, 0⟩⟩).o.map (·.acc))).lsum).map (·.bits)) = .ok (okOf ((shedding (.attn (attnOne true))).putRun (ctxShed (.attn (attnOne true))).offMcl (attnOne true).fmtOut ((ctxShed (.attn (attnOne true))).parcel.desc (attnOne true).outDesc) 0 (((attnPart (maxScore (((attnOne true).scores (Reg.vals (attnOne true).fmtQ (okOf (((shedding (.attn (attnOne true))).loadVectors (ctxShed (.attn (attnOne true))).offMcl (attnOne true).fmtQ ((ctxShed (.attn (attnOne true))).parcel.desc (attnOne true).qDesc) 1 (attnOne true).d).map fun l => l.headD Reg.empty) Reg.empty)) (okOf ((shedding (.attn (attnOne true))).loadKv (ctxShed (.attn (attnOne true))).offMcl (attnOne true) 0 false (attnOne true).valid) default) (attnOne true).valid).map (·.1.v))).v ((attnOne true).accumulate (okOf ((shedding (.attn (attnOne true))).loadKv (ctxShed (.attn (attnOne true))).offMcl (attnOne true) 0 true (attnOne true).valid) default) (attnOne true).valid (((attnOne true).scores (Reg.vals (attnOne true).fmtQ (okOf (((shedding (.attn (attnOne true))).loadVectors (ctxShed (.attn (attnOne true))).offMcl (attnOne true).fmtQ ((ctxShed (.attn (attnOne true))).parcel.desc (attnOne true).qDesc) 1 (attnOne true).d).map fun l => l.headD Reg.empty) Reg.empty)) (okOf ((shedding (.attn (attnOne true))).loadKv (ctxShed (.attn (attnOne true))).offMcl (attnOne true) 0 false (attnOne true).valid) default) (attnOne true).valid).map (·.1.v)) (maxScore (((attnOne true).scores (Reg.vals (attnOne true).fmtQ (okOf (((shedding (.attn (attnOne true))).loadVectors (ctxShed (.attn (attnOne true))).offMcl (attnOne true).fmtQ ((ctxShed (.attn (attnOne true))).parcel.desc (attnOne true).qDesc) 1 (attnOne true).d).map fun l => l.headD Reg.empty) Reg.empty)) (okOf ((shedding (.attn (attnOne true))).loadKv (ctxShed (.attn (attnOne true))).offMcl (attnOne true) 0 false (attnOne true).valid) default) (attnOne true).valid).map (·.1.v))).v ⟨Wide.ofPair ⟨0, 0⟩, (List.replicate (attnOne true).d Long.zero).map fun z => ⟨z, 0⟩⟩).lsum.p (((attnOne true).accumulate (okOf ((shedding (.attn (attnOne true))).loadKv (ctxShed (.attn (attnOne true))).offMcl (attnOne true) 0 true (attnOne true).valid) default) (attnOne true).valid (((attnOne true).scores (Reg.vals (attnOne true).fmtQ (okOf (((shedding (.attn (attnOne true))).loadVectors (ctxShed (.attn (attnOne true))).offMcl (attnOne true).fmtQ ((ctxShed (.attn (attnOne true))).parcel.desc (attnOne true).qDesc) 1 (attnOne true).d).map fun l => l.headD Reg.empty) Reg.empty)) (okOf ((shedding (.attn (attnOne true))).loadKv (ctxShed (.attn (attnOne true))).offMcl (attnOne true) 0 false (attnOne true).valid) default) (attnOne true).valid).map (·.1.v)) (maxScore (((attnOne true).scores (Reg.vals (attnOne true).fmtQ (okOf (((shedding (.attn (attnOne true))).loadVectors (ctxShed (.attn (attnOne true))).offMcl (attnOne true).fmtQ ((ctxShed (.attn (attnOne true))).parcel.desc (attnOne true).qDesc) 1 (attnOne true).d).map fun l => l.headD Reg.empty) Reg.empty)) (okOf ((shedding (.attn (attnOne true))).loadKv (ctxShed (.attn (attnOne true))).offMcl (attnOne true) 0 false (attnOne true).valid) default) (attnOne true).valid).map (·.1.v))).v ⟨Wide.ofPair ⟨0, 0⟩, (List.replicate (attnOne true).d Long.zero).map fun z => ⟨z, 0⟩⟩).o.map (·.acc))).o.map fun o => quotient (attnOne true).fmtOut o (attnPart (maxScore (((attnOne true).scores (Reg.vals (attnOne true).fmtQ (okOf (((shedding (.attn (attnOne true))).loadVectors (ctxShed (.attn (attnOne true))).offMcl (attnOne true).fmtQ ((ctxShed (.attn (attnOne true))).parcel.desc (attnOne true).qDesc) 1 (attnOne true).d).map fun l => l.headD Reg.empty) Reg.empty)) (okOf ((shedding (.attn (attnOne true))).loadKv (ctxShed (.attn (attnOne true))).offMcl (attnOne true) 0 false (attnOne true).valid) default) (attnOne true).valid).map (·.1.v))).v ((attnOne true).accumulate (okOf ((shedding (.attn (attnOne true))).loadKv (ctxShed (.attn (attnOne true))).offMcl (attnOne true) 0 true (attnOne true).valid) default) (attnOne true).valid (((attnOne true).scores (Reg.vals (attnOne true).fmtQ (okOf (((shedding (.attn (attnOne true))).loadVectors (ctxShed (.attn (attnOne true))).offMcl (attnOne true).fmtQ ((ctxShed (.attn (attnOne true))).parcel.desc (attnOne true).qDesc) 1 (attnOne true).d).map fun l => l.headD Reg.empty) Reg.empty)) (okOf ((shedding (.attn (attnOne true))).loadKv (ctxShed (.attn (attnOne true))).offMcl (attnOne true) 0 false (attnOne true).valid) default) (attnOne true).valid).map (·.1.v)) (maxScore (((attnOne true).scores (Reg.vals (attnOne true).fmtQ (okOf (((shedding (.attn (attnOne true))).loadVectors (ctxShed (.attn (attnOne true))).offMcl (attnOne true).fmtQ ((ctxShed (.attn (attnOne true))).parcel.desc (attnOne true).qDesc) 1 (attnOne true).d).map fun l => l.headD Reg.empty) Reg.empty)) (okOf ((shedding (.attn (attnOne true))).loadKv (ctxShed (.attn (attnOne true))).offMcl (attnOne true) 0 false (attnOne true).valid) default) (attnOne true).valid).map (·.1.v))).v ⟨Wide.ofPair ⟨0, 0⟩, (List.replicate (attnOne true).d Long.zero).map fun z => ⟨z, 0⟩⟩).lsum.p (((attnOne true).accumulate (okOf ((shedding (.attn (attnOne true))).loadKv (ctxShed (.attn (attnOne true))).offMcl (attnOne true) 0 true (attnOne true).valid) default) (attnOne true).valid (((attnOne true).scores (Reg.vals (attnOne true).fmtQ (okOf (((shedding (.attn (attnOne true))).loadVectors (ctxShed (.attn (attnOne true))).offMcl (attnOne true).fmtQ ((ctxShed (.attn (attnOne true))).parcel.desc (attnOne true).qDesc) 1 (attnOne true).d).map fun l => l.headD Reg.empty) Reg.empty)) (okOf ((shedding (.attn (attnOne true))).loadKv (ctxShed (.attn (attnOne true))).offMcl (attnOne true) 0 false (attnOne true).valid) default) (attnOne true).valid).map (·.1.v)) (maxScore (((attnOne true).scores (Reg.vals (attnOne true).fmtQ (okOf (((shedding (.attn (attnOne true))).loadVectors (ctxShed (.attn (attnOne true))).offMcl (attnOne true).fmtQ ((ctxShed (.attn (attnOne true))).parcel.desc (attnOne true).qDesc) 1 (attnOne true).d).map fun l => l.headD Reg.empty) Reg.empty)) (okOf ((shedding (.attn (attnOne true))).loadKv (ctxShed (.attn (attnOne true))).offMcl (attnOne true) 0 false (attnOne true).valid) default) (attnOne true).valid).map (·.1.v))).v ⟨Wide.ofPair ⟨0, 0⟩, (List.replicate (attnOne true).d Long.zero).map fun z => ⟨z, 0⟩⟩).o.map (·.acc))).lsum).map (·.bits))) State.reset) ∧
      ((shedding (.attn (attnOne true))).runsCtx 0 0 (ctxShed (.attn (attnOne true))) ∧
      (ctxShed (.attn (attnOne true))).next? = some (0, ⟨(⟨0, 0, false, 0, 1, 0⟩ : RecHead), .attn (attnOne true)⟩) ∧
      (attnOne true).nblk = 1 ∧
      1 ≤ (attnOne true).seglen ∧
      (attnOne true).g = 1 ∧
      2 ≤ 2 ∧
      ((ctxShed (.attn (attnOne true))).parcel.writes (.attn (attnOne true))).meet ((shedding (.attn (attnOne true))).readsOf (ctxShed (.attn (attnOne true))).offMcl (.attn (attnOne true))) = false ∧
      shedsReady (shedding (.attn (attnOne true))) 0 0 0 (ctxShed (.attn (attnOne true))) [(okOf ((shedding (.attn (attnOne true))).blockChannel (ctxShed (.attn (attnOne true))).offMcl (attnOne true) 0) 0)] ∧
      ((shedding (.attn (attnOne true))).shed (okOf ((shedding (.attn (attnOne true))).blockChannel (ctxShed (.attn (attnOne true))).offMcl (attnOne true) 0) 0)).ok = true ∧
      (attnOne true).final = true)) :=
  ⟨ok_of (by decide +kernel), okOf_eq (by decide +kernel), okOf_eq (by decide +kernel), okOf_eq (by decide +kernel), ok_of (by decide +kernel), okOf_eq (by decide +kernel), by and_intros <;> decide +kernel⟩

/-- States and operands that meet further clauses of ShedRecordsCompute. -/
theorem witness_ShedRecordsCompute_4 :
    ((List.range acombOne.segments).mapM (fun seg => (shedding (.acomb acombOne)).loadPart (ctxShed (.acomb acombOne)).offMcl acombOne seg 0) = .ok (okOf ((List.range acombOne.segments).mapM (fun seg => (shedding (.acomb acombOne)).loadPart (ctxShed (.acomb acombOne)).offMcl acombOne seg 0)) []) ∧
      (shedding (.acomb acombOne)).putRun (ctxShed (.acomb acombOne)).offMcl acombOne.fmtOut ((ctxShed (.acomb acombOne)).parcel.desc acombOne.outDesc) 0 ((((okOf ((List.range acombOne.segments).mapM (fun seg => (shedding (.acomb acombOne)).loadPart (ctxShed (.acomb acombOne)).offMcl acombOne seg 0)) []).foldl CombSt.fold ⟨negInf32, Wide.zero, List.replicate acombOne.d Wide.zero⟩).out acombOne.fmtOut).map (·.bits)) = .ok (okOf ((shedding (.acomb acombOne)).putRun (ctxShed (.acomb acombOne)).offMcl acombOne.fmtOut ((ctxShed (.acomb acombOne)).parcel.desc acombOne.outDesc) 0 ((((okOf ((List.range acombOne.segments).mapM (fun seg => (shedding (.acomb acombOne)).loadPart (ctxShed (.acomb acombOne)).offMcl acombOne seg 0)) []).foldl CombSt.fold ⟨negInf32, Wide.zero, List.replicate acombOne.d Wide.zero⟩).out acombOne.fmtOut).map (·.bits))) State.reset) ∧
      ((shedding (.acomb acombOne)).runsCtx 0 0 (ctxShed (.acomb acombOne)) ∧
      (ctxShed (.acomb acombOne)).next? = some (0, ⟨(⟨0, 0, false, 0, 1, 0⟩ : RecHead), .acomb acombOne⟩) ∧
      acombOne.g = 1 ∧
      1 ≤ 2 ∧
      bitOf ((shedding (.acomb acombOne)).pd 0).owned.packages (acombOne.shed / 8) = true ∧
      shedsReady (shedding (.acomb acombOne)) 0 0 0 (ctxShed (.acomb acombOne)) [acombOne.shed] ∧
      ((shedding (.acomb acombOne)).shed acombOne.shed).ok = true)) ∧
    (((shedding (.acomb { acombOne with shed := 8 })).runsCtx 0 0 (ctxShed (.acomb { acombOne with shed := 8 })) ∧
      (ctxShed (.acomb { acombOne with shed := 8 })).next? = some (0, ⟨(⟨0, 0, false, 0, 1, 0⟩ : RecHead), .acomb { acombOne with shed := 8 }⟩) ∧
      (∀ f ∈ (ctxShed (.acomb { acombOne with shed := 8 })).flights, f.ordinal ≠ 0) ∧
      bitOf ((shedding (.acomb { acombOne with shed := 8 })).pd 0).owned.packages ({ acombOne with shed := 8 }.shed / 8) = false ∧
      (ctxShed (.acomb { acombOne with shed := 8 })).phaseCode ≠ 7) ∧
      Extn.isZero (Wide.val (⟨negInf32, Wide.zero, [Wide.zero]⟩ : CombSt).lsum) = true ∧
      (0 ≤ 63 ∧
      63 < 64)) :=
  ⟨⟨okOf_eq (by decide +kernel), okOf_eq (by decide +kernel), by and_intros <;> decide +kernel⟩,
    by and_intros <;> decide +kernel⟩

/-- States and operands that meet the hypotheses of ElementsAreCopiedFilledAndMoved, clause by clause. -/
theorem witness_ElementsAreCopiedFilledAndMoved :
    ((shedding (.copy (copyOne true))).packageOf (ctxShed (.copy (copyOne true))).offMcl (!(copyOne true).toPen) (copyOne true).base (copyOne true).length = .ok 0 ∧
      (∀ ch, ((shedding (.copy (copyOne true))).shed ch).ok = true) ∧
      ((List.range (ceilDiv (copyOne true).length 16384)).flatMap fun g => (copyOne true).bursts (pieceAt (copyOne true).length g).1 (pieceAt (copyOne true).length g).2).foldlM (fun (y : State) z => y.copyRun (ctxShed (.copy (copyOne true))).offMcl (copyOne true) z.1 z.2) (shedding (.copy (copyOne true))) = .ok (okOf (((List.range (ceilDiv (copyOne true).length 16384)).flatMap fun g => (copyOne true).bursts (pieceAt (copyOne true).length g).1 (pieceAt (copyOne true).length g).2).foldlM (fun (y : State) z => y.copyRun (ctxShed (.copy (copyOne true))).offMcl (copyOne true) z.1 z.2) (shedding (.copy (copyOne true)))) State.reset) ∧
      ((shedding (.copy (copyOne true))).runsCtx 0 0 (ctxShed (.copy (copyOne true))) ∧
      (ctxShed (.copy (copyOne true))).next? = some (0, ⟨(⟨0, 0, false, 0, 1, 0⟩ : RecHead), .copy (copyOne true)⟩) ∧
      piecesReady (shedding (.copy (copyOne true))) 0 0 0 0 (ctxShed (.copy (copyOne true))) ∧
      ceilDiv (copyOne true).length 16384 ≤ 2 ∧
      (copyOne true).toPen = true)) ∧
    ((shedding (.copy (copyOne false))).packageOf (ctxShed (.copy (copyOne false))).offMcl (!(copyOne false).toPen) (copyOne false).base (copyOne false).length = .ok 0 ∧
      (∀ ch, ((shedding (.copy (copyOne false))).shed ch).ok = true) ∧
      ((List.range (ceilDiv (copyOne false).length 16384)).flatMap fun g => (copyOne false).bursts (pieceAt (copyOne false).length g).1 (pieceAt (copyOne false).length g).2).foldlM (fun (y : State) z => y.copyRun (ctxShed (.copy (copyOne false))).offMcl (copyOne false) z.1 z.2) (shedding (.copy (copyOne false))) = .ok (okOf (((List.range (ceilDiv (copyOne false).length 16384)).flatMap fun g => (copyOne false).bursts (pieceAt (copyOne false).length g).1 (pieceAt (copyOne false).length g).2).foldlM (fun (y : State) z => y.copyRun (ctxShed (.copy (copyOne false))).offMcl (copyOne false) z.1 z.2) (shedding (.copy (copyOne false)))) State.reset) ∧
      ((shedding (.copy (copyOne false))).runsCtx 0 0 (ctxShed (.copy (copyOne false))) ∧
      (ctxShed (.copy (copyOne false))).next? = some (0, ⟨(⟨0, 0, false, 0, 1, 0⟩ : RecHead), .copy (copyOne false)⟩) ∧
      piecesReady (shedding (.copy (copyOne false))) 0 0 0 0 (ctxShed (.copy (copyOne false))) ∧
      ceilDiv (copyOne false).length 16384 ≤ 2 ∧
      (copyOne false).toPen = false)) ∧
    ((shedding (.fill fillOne)).packageOf (ctxShed (.fill fillOne)).offMcl true fillOne.base fillOne.length = .ok 0 ∧
      (List.range (ceilDiv fillOne.length 64)).foldlM (fun (y : State) z => do let d ← y.place (ctxShed (.fill fillOne)).offMcl true (fillOne.base + 64 * z); y.store (ctxShed (.fill fillOne)).offMcl (fillOne.base + 64 * z) (y.fillBurst 0 fillOne.keyed d)) (shedding (.fill fillOne)) = .ok (okOf ((List.range (ceilDiv fillOne.length 64)).foldlM (fun (y : State) z => do let d ← y.place (ctxShed (.fill fillOne)).offMcl true (fillOne.base + 64 * z); y.store (ctxShed (.fill fillOne)).offMcl (fillOne.base + 64 * z) (y.fillBurst 0 fillOne.keyed d)) (shedding (.fill fillOne))) State.reset) ∧
      ((shedding (.fill fillOne)).runsCtx 0 0 (ctxShed (.fill fillOne)) ∧
      (ctxShed (.fill fillOne)).next? = some (0, ⟨(⟨0, 0, false, 0, 1, 0⟩ : RecHead), .fill fillOne⟩) ∧
      piecesReady (shedding (.fill fillOne)) 0 0 0 0 (ctxShed (.fill fillOne)) ∧
      ceilDiv fillOne.length 16384 ≤ 2)) ∧
    (((up [openPd]).pd 0).crypt = false ∨ false = true) ∧
    ((List.range (ceilDiv ((ctxShed (.turnout (turnOne false))).parcel.desc (turnOne false).src).count (turnOne false).group)).foldlM (fun (y : State) g => y.moveGroup (ctxShed (.turnout (turnOne false))) (turnOne false) ((turnOne false).moveAt ((ctxShed (.turnout (turnOne false))).parcel.desc (turnOne false).src).count g)) (engine (.turnout (turnOne false)) false) = .ok (okOf ((List.range (ceilDiv ((ctxShed (.turnout (turnOne false))).parcel.desc (turnOne false).src).count (turnOne false).group)).foldlM (fun (y : State) g => y.moveGroup (ctxShed (.turnout (turnOne false))) (turnOne false) ((turnOne false).moveAt ((ctxShed (.turnout (turnOne false))).parcel.desc (turnOne false).src).count g)) (engine (.turnout (turnOne false)) false)) State.reset) ∧
      (1 < 2 ∧
      (engine (.turnout (turnOne false)) false).running = true ∧
      (engine (.turnout (turnOne false)) false).engineJob 1 = some (jobOne false) ∧
      (jobOne false).ofSwap = false ∧
      (engine (.turnout (turnOne false)) false).jobRec (jobOne false) = some ((ctxShed (.turnout (turnOne false))), .turnout (turnOne false)) ∧
      (jobOne false).copied = false ∧
      (engine (.turnout (turnOne false)) false).jobWaits (jobOne false) = false ∧
      (turnOne false).xpose = false ∧
      ((ctxShed (.turnout (turnOne false))).parcel.desc (turnOne false).src).mx = false)) ∧
    (turnOne false).esize ≤ 16 ∧
    ((List.range (ceilDiv (turnOne true).rows (turnOne true).tile * (turnOne true).tileCols)).foldlM (fun (y : State) z => y.moveGroup (ctxShed (.turnout (turnOne true))) (turnOne true) ((turnOne true).tileAt z)) (engine (.turnout (turnOne true)) false) = .ok (okOf ((List.range (ceilDiv (turnOne true).rows (turnOne true).tile * (turnOne true).tileCols)).foldlM (fun (y : State) z => y.moveGroup (ctxShed (.turnout (turnOne true))) (turnOne true) ((turnOne true).tileAt z)) (engine (.turnout (turnOne true)) false)) State.reset) ∧
      (1 < 2 ∧
      (engine (.turnout (turnOne true)) false).running = true ∧
      (engine (.turnout (turnOne true)) false).engineJob 1 = some (jobOne false) ∧
      (jobOne false).ofSwap = false ∧
      (engine (.turnout (turnOne true)) false).jobRec (jobOne false) = some ((ctxShed (.turnout (turnOne true))), .turnout (turnOne true)) ∧
      (jobOne false).copied = false ∧
      (engine (.turnout (turnOne true)) false).jobWaits (jobOne false) = false ∧
      (turnOne true).xpose = true)) ∧
    ((1 < 2 ∧
      (engine (.turnout (turnOne true)) false).running = true ∧
      (engine (.turnout (turnOne true)) false).engineJob 1 = some (jobOne false) ∧
      (jobOne false).ofSwap = false ∧
      (engine (.turnout (turnOne true)) false).jobRec (jobOne false) = some ((ctxShed (.turnout (turnOne true))), .turnout (turnOne true)) ∧
      (turnOne true).xpose = true) ∧
      (1 < 2 ∧
      (engine (.turnout (turnOne false)) false).running = true ∧
      (engine (.turnout (turnOne false)) false).engineJob 1 = some (jobOne false) ∧
      (jobOne false).ofSwap = false ∧
      (engine (.turnout (turnOne false)) false).jobRec (jobOne false) = some ((ctxShed (.turnout (turnOne false))), .turnout (turnOne false)) ∧
      (turnOne false).xpose = false) ∧
      (1 < 2 ∧
      (engine (.turnout (turnOne true)) true).running = true ∧
      (engine (.turnout (turnOne true)) true).engineJob 1 = some (jobOne true) ∧
      (jobOne true).ofSwap = false ∧
      (jobOne true).copied = true ∧
      (engine (.turnout (turnOne true)) true).jobWaits (jobOne true) = false ∧
      (engine (.turnout (turnOne true)) true).ctx (jobOne true).paddock (jobOne true).ctx = some (ctxShed (.turnout (turnOne true))) ∧
      (ctxShed (.turnout (turnOne true))).sv.loading = none ∧
      (∀ k ∈ (engine (.turnout (turnOne true)) true).turnout.getD 1 [], k.paddock = (jobOne true).paddock → k.arrived = true)) ∧
      (1 < 2 ∧
      ({ up [twoCtx ctxAway none] with turnout := [[], [jobOne true]] } : State).running = true ∧
      ({ up [twoCtx ctxAway none] with turnout := [[], [jobOne true]] } : State).engineJob 1 = some (jobOne true) ∧
      (jobOne true).ofSwap = false ∧
      (jobOne true).copied = true ∧
      ({ up [twoCtx ctxAway none] with turnout := [[], [jobOne true]] } : State).jobWaits (jobOne true) = false ∧
      ({ up [twoCtx ctxAway none] with turnout := [[], [jobOne true]] } : State).ctx (jobOne true).paddock (jobOne true).ctx = some ctxAway ∧
      ctxAway.sv.loading = none ∧
      (∀ k ∈ ({ up [twoCtx ctxAway none] with turnout := [[], [jobOne true]] } : State).turnout.getD 1 [], k.paddock = (jobOne true).paddock → k.arrived = true) ∧
      ctxAway.state = .blocked ∧
      ctxAway.externalRec (jobOne true).ordinal = true) ∧
      (1 < 2 ∧
      ({ up [openPd] with turnout := [[], [⟨0, 0, 0xFFFFFFFF, true, true, 0⟩]] } : State).running = true ∧
      ({ up [openPd] with turnout := [[], [⟨0, 0, 0xFFFFFFFF, true, true, 0⟩]] } : State).engineJob 1 = some ⟨0, 0, 0xFFFFFFFF, true, true, 0⟩ ∧
      (⟨0, 0, 0xFFFFFFFF, true, true, 0⟩ : TurnJob).ofSwap = true ∧
      (⟨0, 0, 0xFFFFFFFF, true, true, 0⟩ : TurnJob).copied = true ∧
      ({ up [openPd] with turnout := [[], [⟨0, 0, 0xFFFFFFFF, true, true, 0⟩]] } : State).jobWaits (⟨0, 0, 0xFFFFFFFF, true, true, 0⟩ : TurnJob) = false) ∧
      (1 < 2 ∧
      (engine (.turnout (turnOne true)) false).engineJob 1 = some (jobOne false) ∧
      ((jobOne false).copied = false ∨ (engine (.turnout (turnOne true)) false).jobWaits (jobOne false) = true))) :=
  ⟨⟨ok_of (by decide +kernel), all_sheds rfl, okOf_eq (by decide +kernel), by and_intros <;> decide +kernel⟩,
    ⟨ok_of (by decide +kernel), all_sheds rfl, okOf_eq (by decide +kernel), by and_intros <;> decide +kernel⟩,
    ⟨ok_of (by decide +kernel), okOf_eq (by decide +kernel), by and_intros <;> decide +kernel⟩,
    by decide +kernel,
    ⟨okOf_eq (by decide +kernel), by and_intros <;> decide +kernel⟩,
    by decide +kernel,
    ⟨okOf_eq (by decide +kernel), by and_intros <;> decide +kernel⟩,
    by and_intros <;> decide +kernel⟩

/-- States and operands that meet the hypotheses of TransfersAreSentReceivedAndExpire, clause by clause. -/
theorem witness_TransfersAreSentReceivedAndExpire :
    ((List.range (ctxSends.parcel.xferBytes 0)).mapM (fun n => (up [twoCtx ctxSends none]).loadBits ctxSends 0x08 (ctxSends.parcel.desc 0) n) = .ok (okOf ((List.range (ctxSends.parcel.xferBytes 0)).mapM (fun n => (up [twoCtx ctxSends none]).loadBits ctxSends 0x08 (ctxSends.parcel.desc 0) n)) []) ∧
      ((up [twoCtx ctxSends none]).runsCtx 0 0 ctxSends ∧
      ctxSends.next? = some (0, ⟨(⟨0, 0, false, 0, 1, 0⟩ : RecHead), .xferSend 1 5 0⟩) ∧
      (up [twoCtx ctxSends none]).canStart 0 ctxSends 0 0 = true ∧
      ctxSends.tr.replay = none ∧
      ctxSends.parcel.routeTo 1 = some 1 ∧
      ctxSends.parcel.collection = some (⟨7, 2, 0, 1, 0xFFFF⟩ : CollectionRec) ∧
      1 < (up [twoCtx ctxSends none]).ports.length ∧
      1 ≤ ctxSends.parcel.xferBytes 0 ∧
      ctxSends.parcel.xferBytes 0 ≤ 2016)) ∧
    (((up [twoCtx (running [.xferRecv 1 5 0 9]) none]).runsCtx 0 0 (running [.xferRecv 1 5 0 9]) ∧
      (running [.xferRecv 1 5 0 9]).next? = some (0, ⟨(⟨0, 0, false, 0, 1, 0⟩ : RecHead), .xferRecv 1 5 0 9⟩) ∧
      (up [twoCtx (running [.xferRecv 1 5 0 9]) none]).canStart 0 (running [.xferRecv 1 5 0 9]) 0 0 = true ∧
      (running [.xferRecv 1 5 0 9]).tr.replay = none) ∧
      (ctxRecv.parcel.routeTo 1 = some 2 ∧
      ctxRecv.parcel.collection = some (⟨7, 2, 0, 1, 0xFFFF⟩ : CollectionRec) ∧
      (up [twoCtx ctxRecv none]).runsCtx 0 0 ctxRecv ∧
      ctxRecv.next? = some (0, ⟨(⟨0, 0, false, 0, 1, 0⟩ : RecHead), .xferRecv 1 5 0 9⟩) ∧
      (up [twoCtx ctxRecv none]).canStart 0 ctxRecv 0 0 = true ∧
      ctxRecv.tr.replay = none ∧
      2 < (up [twoCtx ctxRecv none]).ports.length) ∧
      (0 < 16 ∧
      0 < 8 ∧
      ({ up [twoCtx (running []) none] with expiries := [(⟨0, 0, .xfer 5, 0⟩ : Expiry)] } : State).runs 0 = true ∧
      ({ up [twoCtx (running []) none] with expiries := [(⟨0, 0, .xfer 5, 0⟩ : Expiry)] } : State).ctx 0 0 = some (running []) ∧
      (running []).state ≠ .halted ∧
      (running []).phaseCode ≠ 7 ∧
      (⟨0, 0, .xfer 5, 0⟩ : Expiry) ∈ ({ up [twoCtx (running []) none] with expiries := [(⟨0, 0, .xfer 5, 0⟩ : Expiry)] } : State).expiries ∧
      (⟨0, 0, .xfer 5, 0⟩ : Expiry).paddock = 0 ∧
      (⟨0, 0, .xfer 5, 0⟩ : Expiry).ctx = 0 ∧
      (⟨0, 0, .xfer 5, 0⟩ : Expiry).kind = .xfer 5 ∧
      (⟨0, 0, .xfer 5, 0⟩ : Expiry).endAt ≤ ({ up [twoCtx (running []) none] with expiries := [(⟨0, 0, .xfer 5, 0⟩ : Expiry)] } : State).now 0)) :=
  ⟨⟨okOf_eq (by decide +kernel), by and_intros <;> decide +kernel⟩,
    by and_intros <;> decide +kernel⟩

/-- States and operands that meet the hypotheses of PigeonholeLettersFillAndGoFree, clause by clause. -/
theorem witness_PigeonholeLettersFillAndGoFree :
    (((⟨0, .filling, [(0, 1)], none⟩ : Letter).state = .filling ∧
      (0, 0) ∉ (⟨0, .filling, [(0, 1)], none⟩ : Letter).written ∧
      (⟨0, .filling, [(0, 1)], none⟩ : Letter).written.length + 1 = 2) ∧
      ((⟨0, .filling, [(0, 1)], none⟩ : Letter).state = .filling ∧
      (0, 0) ∉ (⟨0, .filling, [(0, 1)], none⟩ : Letter).written ∧
      (⟨0, .filling, [(0, 1)], none⟩ : Letter).written.length + 1 < 3) ∧
      ((0, 1) ∈ (⟨0, .filling, [(0, 1)], none⟩ : Letter).written ∧
      (⟨0, .filling, [(0, 1)], none⟩ : Letter).written.length < 2) ∧
      ((⟨3, .held, [], some 1⟩ : Letter) ∈ (⟨0, [⟨3, .held, [], some 1⟩, ⟨4, .held, [], some 2⟩], [], 0, 0⟩ : Pigeon).letters ∧
      (⟨4, .held, [], some 2⟩ : Letter) ∈ (⟨0, [⟨3, .held, [], some 1⟩, ⟨4, .held, [], some 2⟩], [], 0, 0⟩ : Pigeon).letters)) :=
  by and_intros <;> decide +kernel

/-- States and operands that meet the hypotheses of StepsBeginAndPassOn, clause by clause. -/
theorem witness_StepsBeginAndPassOn_1 :
    (((stepping (inPhase 2 0 ([.phase 0 0 0, .kernel kMm1]))).runsCtx 0 0 (inPhase 2 0 ([.phase 0 0 0, .kernel kMm1])) ∧
      (inPhase 2 0 ([.phase 0 0 0, .kernel kMm1])).parcel.kind = 2 ∧
      (inPhase 2 0 ([.phase 0 0 0, .kernel kMm1])).tr.phase = 0 ∧
      (inPhase 2 0 ([.phase 0 0 0, .kernel kMm1])).tr.gen = 0 ∧
      (inPhase 2 0 ([.phase 0 0 0, .kernel kMm1])).wantsStep = true ∧
      (inPhase 2 0 ([.phase 0 0 0, .kernel kMm1])).nextGen = some 1 ∧
      (stepping (inPhase 2 0 ([.phase 0 0 0, .kernel kMm1]))).preempts 0 0 = false) ∧
      ((stepping ({ inPhase 2 0 ([.phase 0 0 0, .kernel kMm1]) with tr := { (inPhase 2 0 ([.phase 0 0 0, .kernel kMm1])).tr with gen := 1 } })).runsCtx 0 0 ({ inPhase 2 0 ([.phase 0 0 0, .kernel kMm1]) with tr := { (inPhase 2 0 ([.phase 0 0 0, .kernel kMm1])).tr with gen := 1 } } : Ctx) ∧
      ({ inPhase 2 0 ([.phase 0 0 0, .kernel kMm1]) with tr := { (inPhase 2 0 ([.phase 0 0 0, .kernel kMm1])).tr with gen := 1 } } : Ctx).parcel.kind = 2 ∧
      ((({ inPhase 2 0 ([.phase 0 0 0, .kernel kMm1]) with tr := { (inPhase 2 0 ([.phase 0 0 0, .kernel kMm1])).tr with gen := 1 } } : Ctx).tr.gen ≠ 0 ∧ ({ inPhase 2 0 ([.phase 0 0 0, .kernel kMm1]) with tr := { (inPhase 2 0 ([.phase 0 0 0, .kernel kMm1])).tr with gen := 1 } } : Ctx).passOver = false) ∨ (stepping ({ inPhase 2 0 ([.phase 0 0 0, .kernel kMm1]) with tr := { (inPhase 2 0 ([.phase 0 0 0, .kernel kMm1])).tr with gen := 1 } })).preempts 0 0 = true)) ∧
      ((stepping (inPhase 0 0 (bodyOf beginOne))).runsCtx 0 0 (inPhase 0 0 (bodyOf beginOne)) ∧
      (stepping (inPhase 0 0 (bodyOf beginOne))).preempts 0 0 = false ∧
      (inPhase 0 0 (bodyOf beginOne)).digestWaits = false ∧
      (inPhase 0 0 (bodyOf beginOne)).tr.pre = [] ∧
      (inPhase 0 0 (bodyOf beginOne)).parcel.kind = 0 ∧
      (inPhase 0 0 (bodyOf beginOne)).parcel.stepBegin = some beginOne ∧
      (inPhase 0 0 (bodyOf beginOne)).tr.phase = 0 ∧
      (inPhase 0 0 (bodyOf beginOne)).flights = [] ∧
      (inPhase 0 0 (bodyOf beginOne)).wantsStep = true ∧
      (inPhase 0 0 (bodyOf beginOne)).tr.replay = none ∧
      ((stepping (inPhase 0 0 (bodyOf beginOne))).stablesOf 0).length ≤ beginOne.tHi) ∧
      ((stepping (inPhase 3 0 ([]))).runsCtx 0 0 (inPhase 3 0 ([])) ∧
      (stepping (inPhase 3 0 ([]))).preempts 0 0 = false ∧
      (inPhase 3 0 ([])).digestWaits = false ∧
      (inPhase 3 0 ([])).parcel.kind = 3 ∧
      (inPhase 3 0 ([])).wantsStep = true) ∧
      { beginOne with tHi := 2, balance := true }.tLo ≤ { beginOne with tHi := 2, balance := true }.tHi ∧
      ((stepping (inPhase 0 2 (bodyOf beginOne))).runsCtx 0 0 (inPhase 0 2 (bodyOf beginOne)) ∧
      (inPhase 0 2 (bodyOf beginOne)).tr.phase = 2 ∧
      (inPhase 0 2 (bodyOf beginOne)).passOver = true) ∧
      ((stepping (inPhase 0 3 (bodyOf beginTwo))).runsCtx 0 0 (inPhase 0 3 (bodyOf beginTwo)) ∧
      (stepping (inPhase 0 3 (bodyOf beginTwo))).preempts 0 0 = false ∧
      (inPhase 0 3 (bodyOf beginTwo)).updateWaits = false ∧
      (inPhase 0 3 (bodyOf beginTwo)).parcel.stepBegin = some beginTwo ∧
      (inPhase 0 3 (bodyOf beginTwo)).tr.phase = 3 ∧
      (inPhase 0 3 (bodyOf beginTwo)).passOver = true ∧
      (inPhase 0 3 (bodyOf beginTwo)).allFreed = true ∧
      Wide.nonfinite ((inPhase 0 3 (bodyOf beginTwo)).lossPair beginTwo) = false ∧
      (inPhase 0 3 (bodyOf beginTwo)).tr.micro + 1 < (inPhase 0 3 (bodyOf beginTwo)).parcel.micros) ∧
      ((stepping (inPhase 0 3 (bodyOf beginOne))).runsCtx 0 0 (inPhase 0 3 (bodyOf beginOne)) ∧
      (stepping (inPhase 0 3 (bodyOf beginOne))).preempts 0 0 = false ∧
      (inPhase 0 3 (bodyOf beginOne)).updateWaits = false ∧
      (inPhase 0 3 (bodyOf beginOne)).parcel.stepBegin = some beginOne ∧
      (inPhase 0 3 (bodyOf beginOne)).tr.phase = 3 ∧
      (inPhase 0 3 (bodyOf beginOne)).passOver = true ∧
      (inPhase 0 3 (bodyOf beginOne)).allFreed = true ∧
      Wide.nonfinite ((inPhase 0 3 (bodyOf beginOne)).lossPair beginOne) = false ∧
      (inPhase 0 3 (bodyOf beginOne)).parcel.micros ≤ (inPhase 0 3 (bodyOf beginOne)).tr.micro + 1) ∧
      ((stepping ({ inPhase 0 3 (.pigeonhole { (default : PhRec) with letters := 1 } :: bodyOf beginOne) with pigeons := [⟨0, [], [], 0, 0⟩] })).runsCtx 0 0 ({ inPhase 0 3 (.pigeonhole { (default : PhRec) with letters := 1 } :: bodyOf beginOne) with pigeons := [⟨0, [], [], 0, 0⟩] } : Ctx) ∧
      (stepping ({ inPhase 0 3 (.pigeonhole { (default : PhRec) with letters := 1 } :: bodyOf beginOne) with pigeons := [⟨0, [], [], 0, 0⟩] })).preempts 0 0 = false ∧
      ({ inPhase 0 3 (.pigeonhole { (default : PhRec) with letters := 1 } :: bodyOf beginOne) with pigeons := [⟨0, [], [], 0, 0⟩] } : Ctx).updateWaits = false ∧
      ({ inPhase 0 3 (.pigeonhole { (default : PhRec) with letters := 1 } :: bodyOf beginOne) with pigeons := [⟨0, [], [], 0, 0⟩] } : Ctx).parcel.stepBegin = some beginOne ∧
      ({ inPhase 0 3 (.pigeonhole { (default : PhRec) with letters := 1 } :: bodyOf beginOne) with pigeons := [⟨0, [], [], 0, 0⟩] } : Ctx).tr.phase = 3 ∧
      ({ inPhase 0 3 (.pigeonhole { (default : PhRec) with letters := 1 } :: bodyOf beginOne) with pigeons := [⟨0, [], [], 0, 0⟩] } : Ctx).passOver = true ∧
      ({ inPhase 0 3 (.pigeonhole { (default : PhRec) with letters := 1 } :: bodyOf beginOne) with pigeons := [⟨0, [], [], 0, 0⟩] } : Ctx).allFreed = false ∧
      ({ inPhase 0 3 (.pigeonhole { (default : PhRec) with letters := 1 } :: bodyOf beginOne) with pigeons := [⟨0, [], [], 0, 0⟩] } : Ctx).parcel.kind ≠ 1) ∧
      ((stepping (inPhase 0 4 (bodyOf beginTwo))).runsCtx 0 0 (inPhase 0 4 (bodyOf beginTwo)) ∧
      (stepping (inPhase 0 4 (bodyOf beginTwo))).preempts 0 0 = false ∧
      (inPhase 0 4 (bodyOf beginTwo)).updateWaits = false ∧
      (inPhase 0 4 (bodyOf beginTwo)).tr.phase = 4 ∧
      (inPhase 0 4 (bodyOf beginTwo)).passOver = true ∧
      (inPhase 0 4 (bodyOf beginTwo)).tr.micro + 1 < (inPhase 0 4 (bodyOf beginTwo)).parcel.micros) ∧
      ((stepping (inPhase 0 1 ([.stepBegin beginOne, .kernel kMm1, .stepEnd]))).runsCtx 0 0 (inPhase 0 1 ([.stepBegin beginOne, .kernel kMm1, .stepEnd])) ∧
      (inPhase 0 1 ([.stepBegin beginOne, .kernel kMm1, .stepEnd])).passOver = false) ∧
      (({ stepping (inPhase 2 0 ([.phase 0 0 0, .kernel kMm1])) with pads := (stepping (inPhase 2 0 ([.phase 0 0 0, .kernel kMm1]))).pads.modify 0 fun d => { d with switching := some ⟨some 0, 1, .requested⟩ } } : State).runsCtx 0 0 (inPhase 2 0 ([.phase 0 0 0, .kernel kMm1])) ∧
      (inPhase 2 0 ([.phase 0 0 0, .kernel kMm1])).parcel.kind = 2 ∧
      (((inPhase 2 0 ([.phase 0 0 0, .kernel kMm1])).tr.gen ≠ 0 ∧ (inPhase 2 0 ([.phase 0 0 0, .kernel kMm1])).passOver = false) ∨ ({ stepping (inPhase 2 0 ([.phase 0 0 0, .kernel kMm1])) with pads := (stepping (inPhase 2 0 ([.phase 0 0 0, .kernel kMm1]))).pads.modify 0 fun d => { d with switching := some ⟨some 0, 1, .requested⟩ } } : State).preempts 0 0 = true))) ∧
    ((bound (stepping (inPhase 0 0 (bodyOf beginOne)))).digest (inPhase 0 0 (bodyOf beginOne)) (inPhase 0 0 (bodyOf beginOne)).parcel.inputRanges = .ok ([] : List (List Byte)) ∧
      ((bound (stepping (inPhase 0 0 (bodyOf beginOne)))).runsCtx 0 0 (inPhase 0 0 (bodyOf beginOne)) ∧
      (bound (stepping (inPhase 0 0 (bodyOf beginOne)))).preempts 0 0 = false ∧
      (inPhase 0 0 (bodyOf beginOne)).digestWaits = false ∧
      (inPhase 0 0 (bodyOf beginOne)).tr.pre = [] ∧
      (inPhase 0 0 (bodyOf beginOne)).parcel.kind = 0 ∧
      (inPhase 0 0 (bodyOf beginOne)).parcel.stepBegin = some beginOne ∧
      (inPhase 0 0 (bodyOf beginOne)).tr.phase = 0 ∧
      (inPhase 0 0 (bodyOf beginOne)).flights = [] ∧
      (inPhase 0 0 (bodyOf beginOne)).wantsStep = true ∧
      (inPhase 0 0 (bodyOf beginOne)).tr.replay = none ∧
      ((inPhase 0 0 (bodyOf beginOne)).parcel.coefAt (inPhase 0 0 (bodyOf beginOne)).counter).isSome = true ∧
      ((inPhase 0 0 (bodyOf beginOne)).parcel.setAt (inPhase 0 0 (bodyOf beginOne)).counter).isSome = true ∧
      0 < beginOne.tLo ∧
      beginOne.tLo ≤ beginOne.tHi ∧
      beginOne.tHi < ((bound (stepping (inPhase 0 0 (bodyOf beginOne)))).stablesOf 0).length ∧
      ((bound (stepping (inPhase 0 0 (bodyOf beginOne)))).pd 0).cutHistories.emptyClasses (inPhase 0 0 (bodyOf beginOne)) = [] ∧
      (let z := ((inPhase 0 0 (bodyOf beginOne)).firstAttempt beginOne ((bound (stepping (inPhase 0 0 (bodyOf beginOne)))).now 0)).loadAttempt ((bound (stepping (inPhase 0 0 (bodyOf beginOne)))).now 0); z.placedOk = true ∧ z.sidesOk ((bound (stepping (inPhase 0 0 (bodyOf beginOne)))).stablesOf 0).length = true) ∧
      ((((inPhase 0 0 (bodyOf beginOne)).firstAttempt beginOne ((bound (stepping (inPhase 0 0 (bodyOf beginOne)))).now 0)).loadAttempt ((bound (stepping (inPhase 0 0 (bodyOf beginOne)))).now 0)).placedOk = true ∧ (((inPhase 0 0 (bodyOf beginOne)).firstAttempt beginOne ((bound (stepping (inPhase 0 0 (bodyOf beginOne)))).now 0)).loadAttempt ((bound (stepping (inPhase 0 0 (bodyOf beginOne)))).now 0)).sidesOk ((bound (stepping (inPhase 0 0 (bodyOf beginOne)))).stablesOf 0).length = true))) :=
  ⟨by and_intros <;> decide +kernel,
    ⟨ok_of (by decide +kernel), by and_intros <;> decide +kernel⟩⟩

/-- States and operands that meet further clauses of StepsBeginAndPassOn. -/
theorem witness_StepsBeginAndPassOn_2 :
    (({ stepping (inPhase 0 0 (bodyOf beginOne)) with pads := (stepping (inPhase 0 0 (bodyOf beginOne))).pads.modify 0 fun d => { d with switching := some ⟨some 0, 1, .requested⟩ } } : State).runsCtx 0 0 (inPhase 0 0 (bodyOf beginOne)) ∧
      (({ stepping (inPhase 0 0 (bodyOf beginOne)) with pads := (stepping (inPhase 0 0 (bodyOf beginOne))).pads.modify 0 fun d => { d with switching := some ⟨some 0, 1, .requested⟩ } } : State).preempts 0 0 = true ∨ (inPhase 0 0 (bodyOf beginOne)).digestWaits = true)) ∧
    ((∀ col, ({ inPhase 0 3 (bodyOf beginOne) with tr := { (inPhase 0 3 (bodyOf beginOne)).tr with summaries := [(0, [[0x7FC00000]])] } } : Ctx).parcel.collection = some col → col.sealLog = 0xFFFF) ∧
      ((stepping ({ inPhase 0 3 (bodyOf beginOne) with tr := { (inPhase 0 3 (bodyOf beginOne)).tr with summaries := [(0, [[0x7FC00000]])] } })).runsCtx 0 0 ({ inPhase 0 3 (bodyOf beginOne) with tr := { (inPhase 0 3 (bodyOf beginOne)).tr with summaries := [(0, [[0x7FC00000]])] } } : Ctx) ∧
      (stepping ({ inPhase 0 3 (bodyOf beginOne) with tr := { (inPhase 0 3 (bodyOf beginOne)).tr with summaries := [(0, [[0x7FC00000]])] } })).preempts 0 0 = false ∧
      ({ inPhase 0 3 (bodyOf beginOne) with tr := { (inPhase 0 3 (bodyOf beginOne)).tr with summaries := [(0, [[0x7FC00000]])] } } : Ctx).updateWaits = false ∧
      ({ inPhase 0 3 (bodyOf beginOne) with tr := { (inPhase 0 3 (bodyOf beginOne)).tr with summaries := [(0, [[0x7FC00000]])] } } : Ctx).parcel.stepBegin = some beginOne ∧
      ({ inPhase 0 3 (bodyOf beginOne) with tr := { (inPhase 0 3 (bodyOf beginOne)).tr with summaries := [(0, [[0x7FC00000]])] } } : Ctx).tr.phase = 3 ∧
      ({ inPhase 0 3 (bodyOf beginOne) with tr := { (inPhase 0 3 (bodyOf beginOne)).tr with summaries := [(0, [[0x7FC00000]])] } } : Ctx).passOver = true ∧
      ({ inPhase 0 3 (bodyOf beginOne) with tr := { (inPhase 0 3 (bodyOf beginOne)).tr with summaries := [(0, [[0x7FC00000]])] } } : Ctx).allFreed = true ∧
      Wide.nonfinite (({ inPhase 0 3 (bodyOf beginOne) with tr := { (inPhase 0 3 (bodyOf beginOne)).tr with summaries := [(0, [[0x7FC00000]])] } } : Ctx).lossPair beginOne) = true ∧
      ({ inPhase 0 3 (bodyOf beginOne) with tr := { (inPhase 0 3 (bodyOf beginOne)).tr with summaries := [(0, [[0x7FC00000]])] } } : Ctx).parcel.members = 1 ∧
      ({ inPhase 0 3 (bodyOf beginOne) with tr := { (inPhase 0 3 (bodyOf beginOne)).tr with summaries := [(0, [[0x7FC00000]])] } } : Ctx).tr.replay = none ∧
      ({ inPhase 0 3 (bodyOf beginOne) with tr := { (inPhase 0 3 (bodyOf beginOne)).tr with summaries := [(0, [[0x7FC00000]])] } } : Ctx).haltAfter = none)) ∧
    ((∀ k, ((stepping (inPhase 0 4 (bodyOf beginOne))).port k).inputs = []) ∧
      ((stepping (inPhase 0 4 (bodyOf beginOne))).runsCtx 0 0 (inPhase 0 4 (bodyOf beginOne)) ∧
      (stepping (inPhase 0 4 (bodyOf beginOne))).preempts 0 0 = false ∧
      (inPhase 0 4 (bodyOf beginOne)).updateWaits = false ∧
      (inPhase 0 4 (bodyOf beginOne)).tr.phase = 4 ∧
      (inPhase 0 4 (bodyOf beginOne)).passOver = true ∧
      (inPhase 0 4 (bodyOf beginOne)).parcel.micros ≤ (inPhase 0 4 (bodyOf beginOne)).tr.micro + 1 ∧
      (inPhase 0 4 (bodyOf beginOne)).tr.replay = none ∧
      (inPhase 0 4 (bodyOf beginOne)).parcel.touched (inPhase 0 4 (bodyOf beginOne)).counter = [])) ∧
    (({ stepping (inPhase 0 3 (bodyOf beginOne)) with pads := (stepping (inPhase 0 3 (bodyOf beginOne))).pads.modify 0 fun d => { d with switching := some ⟨some 0, 1, .requested⟩ } } : State).runsCtx 0 0 (inPhase 0 3 (bodyOf beginOne)) ∧
      (({ stepping (inPhase 0 3 (bodyOf beginOne)) with pads := (stepping (inPhase 0 3 (bodyOf beginOne))).pads.modify 0 fun d => { d with switching := some ⟨some 0, 1, .requested⟩ } } : State).preempts 0 0 = true ∨ (inPhase 0 3 (bodyOf beginOne)).updateWaits = true)) :=
  ⟨by decide +kernel,
    ⟨(fun _ h => nomatch h), by and_intros <;> decide +kernel⟩,
    ⟨linked_port (fun d => d.inputs = []) rfl rfl, by and_intros <;> decide +kernel⟩,
    by decide +kernel⟩

/-- States and operands that meet the hypotheses of StepsCommitOrRepeat, clause by clause. -/
theorem witness_StepsCommitOrRepeat :
    ((0 < 16 ∧
      0 < 8 ∧
      (stepping (inPhase 0 7 (bodyOf beginOne))).runs 0 = true ∧
      (stepping (inPhase 0 7 (bodyOf beginOne))).ctx 0 0 = some (inPhase 0 7 (bodyOf beginOne)) ∧
      (inPhase 0 7 (bodyOf beginOne)).tr.phase = 7 ∧
      (inPhase 0 7 (bodyOf beginOne)).state = .running ∧
      (inPhase 0 7 (bodyOf beginOne)).haltAfter = none ∧
      (inPhase 0 7 (bodyOf beginOne)).tr.coll.buckets = []) ∧
      (({ ctx0 with tr := { Train.start with layers := [{ (default : LayerSt) with layer := 3, cpend := true }] } } : Ctx).layerSt 3 = some { (default : LayerSt) with layer := 3, cpend := true } ∧
      { (default : LayerSt) with layer := 3, cpend := true }.cpend = true) ∧
      ((stepping (judged .commit)).runsCtx 0 0 (judged .commit) ∧
      (judged .commit).parcel.kind ≠ 3 ∧
      (judged .commit).tr.phase = 9 ∧
      (judged .commit).flights = [] ∧
      (judged .commit).tr.verdict = some .commit ∧
      (judged .commit).parcel.stepBegin = some beginOne ∧
      (stepping (judged .commit)).replacementsDue 0 = false) ∧
      ((stepping (judged .lossNf)).runsCtx 0 0 (judged .lossNf) ∧
      (stepping (judged .lossNf)).replacementsDue 0 = false ∧
      (judged .lossNf).parcel.kind ≠ 3 ∧
      (judged .lossNf).tr.phase = 9 ∧
      (judged .lossNf).flights = [] ∧
      ((judged .lossNf).tr.verdict = some .lossNf ∨ (judged .lossNf).tr.verdict = some .gradNf) ∧
      (judged .lossNf).tr.nfLeft ≠ 0) ∧
      ((stepping ({ judged .gradNf with tr := { (judged .gradNf).tr with nfLeft := 0 } })).runsCtx 0 0 ({ judged .gradNf with tr := { (judged .gradNf).tr with nfLeft := 0 } } : Ctx) ∧
      (stepping ({ judged .gradNf with tr := { (judged .gradNf).tr with nfLeft := 0 } })).replacementsDue 0 = false ∧
      ({ judged .gradNf with tr := { (judged .gradNf).tr with nfLeft := 0 } } : Ctx).parcel.kind ≠ 3 ∧
      ({ judged .gradNf with tr := { (judged .gradNf).tr with nfLeft := 0 } } : Ctx).tr.phase = 9 ∧
      ({ judged .gradNf with tr := { (judged .gradNf).tr with nfLeft := 0 } } : Ctx).flights = [] ∧
      (({ judged .gradNf with tr := { (judged .gradNf).tr with nfLeft := 0 } } : Ctx).tr.verdict = some .lossNf ∨ ({ judged .gradNf with tr := { (judged .gradNf).tr with nfLeft := 0 } } : Ctx).tr.verdict = some .gradNf) ∧
      ({ judged .gradNf with tr := { (judged .gradNf).tr with nfLeft := 0 } } : Ctx).tr.nfLeft = 0) ∧
      ((stepping ({ judged .late with tr := { (judged .late).tr with otherLeft := 1 } })).runsCtx 0 0 ({ judged .late with tr := { (judged .late).tr with otherLeft := 1 } } : Ctx) ∧
      (stepping ({ judged .late with tr := { (judged .late).tr with otherLeft := 1 } })).replacementsDue 0 = false ∧
      ({ judged .late with tr := { (judged .late).tr with otherLeft := 1 } } : Ctx).parcel.kind ≠ 3 ∧
      ({ judged .late with tr := { (judged .late).tr with otherLeft := 1 } } : Ctx).tr.phase = 9 ∧
      ({ judged .late with tr := { (judged .late).tr with otherLeft := 1 } } : Ctx).flights = [] ∧
      (({ judged .late with tr := { (judged .late).tr with otherLeft := 1 } } : Ctx).tr.verdict = some .late ∨ ({ judged .late with tr := { (judged .late).tr with otherLeft := 1 } } : Ctx).tr.verdict = some .mismatch) ∧
      ({ judged .late with tr := { (judged .late).tr with otherLeft := 1 } } : Ctx).tr.otherLeft ≠ 0) ∧
      ((stepping (judged .mismatch)).runsCtx 0 0 (judged .mismatch) ∧
      (stepping (judged .mismatch)).replacementsDue 0 = false ∧
      (judged .mismatch).parcel.kind ≠ 3 ∧
      (judged .mismatch).tr.phase = 9 ∧
      (judged .mismatch).flights = [] ∧
      ((judged .mismatch).tr.verdict = some .late ∨ (judged .mismatch).tr.verdict = some .mismatch) ∧
      (judged .mismatch).tr.otherLeft = 0) ∧
      ((stepping (judged (.failed 0x0601))).runsCtx 0 0 (judged (.failed 0x0601)) ∧
      (stepping (judged (.failed 0x0601))).replacementsDue 0 = false ∧
      (judged (.failed 0x0601)).parcel.kind ≠ 3 ∧
      (judged (.failed 0x0601)).tr.phase = 9 ∧
      (judged (.failed 0x0601)).flights = [] ∧
      (judged (.failed 0x0601)).tr.verdict = some (.failed 0x0601)) ∧
      ((onStable (stepping (judged .commit)) { Stable.reset with stopped := true }).runsCtx 0 0 (judged .commit) ∧
      (judged .commit).parcel.kind ≠ 3 ∧
      (onStable (stepping (judged .commit)) { Stable.reset with stopped := true }).replacementsDue 0 = true) ∧
      ((stepping (running [])).runsCtx 0 0 (running []) ∧
      (running []).parcel.kind = 3 ∧
      (running []).inStep = true ∧
      (running []).passOver = true)) :=
  by and_intros <;> decide +kernel

/-- States and operands that meet the hypotheses of ServingStepsRun, clause by clause. -/
theorem witness_ServingStepsRun :
    (((stepping (inServing 0)).runsCtx 0 0 (inServing 0) ∧
      (stepping (inServing 0)).preempts 0 0 = false ∧
      (inServing 0).parcel.kind = 1 ∧
      (inServing 0).parcel.servingRec = some servingOne ∧
      ((inServing 0).sv.phase = 0 ∨ (inServing 0).sv.phase = 16) ∧
      (inServing 0).sv.active = true ∧
      (inServing 0).sv.bound = false ∧
      (inServing 0).sv.live ≠ [] ∧
      (((stepping (inServing 0)).takeN 0 0 0).pd 0).emptyClasses (inServing 0) = []) ∧
      ((stepping (inServing 16)).runsCtx 0 0 (inServing 16) ∧
      (stepping (inServing 16)).preempts 0 0 = false ∧
      (inServing 16).parcel.kind = 1 ∧
      (inServing 16).parcel.servingRec = some servingOne ∧
      ((inServing 16).sv.phase = 0 ∨ (inServing 16).sv.phase = 16) ∧
      (inServing 16).sv.active = true ∧
      (inServing 16).sv.bound = false ∧
      (inServing 16).sv.live ≠ [] ∧
      (((stepping (inServing 16)).takeN 0 0 0).pd 0).emptyClasses (inServing 16) = []) ∧
      ((stepping bound16).runsCtx 0 0 bound16 ∧
      (stepping bound16).preempts 0 0 = false ∧
      bound16.parcel.kind = 1 ∧
      bound16.parcel.servingRec = some servingOne ∧
      bound16.sv.phase = 16 ∧
      bound16.sv.active = true ∧
      bound16.sv.bound = true ∧
      bound16.sv.live ≠ []) ∧
      (({ stepping (inServing 17) with pads := (stepping (inServing 17)).pads.modify 0 fun d => { d with switching := some ⟨some 0, 1, .requested⟩ } } : State).runsCtx 0 0 (inServing 17) ∧
      ({ stepping (inServing 17) with pads := (stepping (inServing 17)).pads.modify 0 fun d => { d with switching := some ⟨some 0, 1, .requested⟩ } } : State).preempts 0 0 = true) ∧
      ((stepping ({ inServing 17 with parcel := { (inServing 17).parcel with recs := [recOf (.serving servingOne)] } })).runsCtx 0 0 ({ inServing 17 with parcel := { (inServing 17).parcel with recs := [recOf (.serving servingOne)] } } : Ctx) ∧
      (stepping ({ inServing 17 with parcel := { (inServing 17).parcel with recs := [recOf (.serving servingOne)] } })).preempts 0 0 = false ∧
      ({ inServing 17 with parcel := { (inServing 17).parcel with recs := [recOf (.serving servingOne)] } } : Ctx).parcel.kind = 1 ∧
      ({ inServing 17 with parcel := { (inServing 17).parcel with recs := [recOf (.serving servingOne)] } } : Ctx).sv.phase = 17 ∧
      ({ inServing 17 with parcel := { (inServing 17).parcel with recs := [recOf (.serving servingOne)] } } : Ctx).passOver = true ∧
      ({ inServing 17 with parcel := { (inServing 17).parcel with recs := [recOf (.serving servingOne)] } } : Ctx).samplesOk [] = true) ∧
      { stream with cancel := true }.cancel = true ∧
      (stream.cancel = false ∧
      (none : Option (List (Nat × Bool))) = none) ∧
      ({ stream with maxNew := 2, stop := [9] }.cancel = false ∧
      (some [(9, false)]) = some [(9, false)] ∧
      { stream with maxNew := 2, stop := [9] }.delivered ≤ { stream with maxNew := 2, stop := [9] }.maxNew ∧
      { stream with maxNew := 2, stop := [9] }.ended = none ∧
      (∃ e ∈ ({ stream with maxNew := 2, stop := [9] }.decided (some [(9, false)])).fresh, e.1 ≠ 0xFFFFF ∧ { stream with maxNew := 2, stop := [9] }.stop.contains e.1 = true)) ∧
      ({ stream with maxNew := 1 }.decided (some [(9, false)])).delivered = { stream with maxNew := 1 }.maxNew ∧
      ({ stream with maxNew := 2 }.decided (some [(9, false)])).ended = none ∧
      ({ stream with maxNew := 2, late := true }.decided (some [(9, false)])).ended = some 0x0711 ∧
      (0 < 16 ∧
      0 < 8 ∧
      (stepping inCommit).runs 0 = true ∧
      (stepping inCommit).ctx 0 0 = some inCommit ∧
      inCommit.parcel.kind = 1 ∧
      inCommit.sv.phase = 18 ∧
      inCommit.state ≠ .halted ∧
      inCommit.haltAfter = none)) ∧
    ((∀ k y, (stepping (inServing 20)).ctx 0 k = some y → y.sv.queue = []) ∧
      ((stepping (inServing 20)).runsCtx 0 0 (inServing 20) ∧
      (inServing 20).parcel.kind = 1 ∧
      (inServing 20).sv.phase = 20 ∧
      (inServing 20).flights = [] ∧
      (inServing 20).sv.live ≠ [])) ∧
    ((∀ k y, (stepping ({ ctxServing with state := .running, sv := { Serve.start with phase := 20 } })).ctx 0 k = some y → y.sv.queue = []) ∧
      ((stepping ({ ctxServing with state := .running, sv := { Serve.start with phase := 20 } })).runsCtx 0 0 ({ ctxServing with state := .running, sv := { Serve.start with phase := 20 } } : Ctx) ∧
      ({ ctxServing with state := .running, sv := { Serve.start with phase := 20 } } : Ctx).parcel.kind = 1 ∧
      ({ ctxServing with state := .running, sv := { Serve.start with phase := 20 } } : Ctx).sv.phase = 20 ∧
      ({ ctxServing with state := .running, sv := { Serve.start with phase := 20 } } : Ctx).flights = [] ∧
      ({ ctxServing with state := .running, sv := { Serve.start with phase := 20 } } : Ctx).sv.live = [])) :=
  ⟨by and_intros <;> decide +kernel,
    ⟨nothing_queued rfl, by and_intros <;> decide +kernel⟩,
    ⟨nothing_queued rfl, by and_intros <;> decide +kernel⟩⟩

/-- States and operands that meet the hypotheses of VariantsAreSwapped, clause by clause. -/
theorem witness_VariantsAreSwapped :
    ((0 < 16 ∧
      (stepping (outside [.turnout (turnOne false)])).runs 0 = true ∧
      ((stepping (outside [.turnout (turnOne false)])).pd 0).swapDue = some (0, (outside [.turnout (turnOne false)])) ∧
      (outside [.turnout (turnOne false)]).parcel.loadRecs ≠ []) ∧
      (0 < 16 ∧
      (stepping (outside [])).runs 0 = true ∧
      ((stepping (outside [])).pd 0).swapDue = some (0, (outside [])) ∧
      (outside []).parcel.loadRecs = []) ∧
      (0 < 16 ∧
      (up [twoCtx (outside []) (some ctxServing)]).runs 0 = true ∧
      ((up [twoCtx (outside []) (some ctxServing)]).pd 0).swapDue = some (0, (outside [])) ∧
      (outside []).parcel.loadRecs = [] ∧
      1 < 8 ∧
      (up [twoCtx (outside []) (some ctxServing)]).ctx 0 1 = some ctxServing ∧
      ctxServing.parcel.kind = 1 ∧
      1 ≠ 0) ∧
      (0 < 16 ∧
      ((up [openPd]).runs 0 = false ∨ ((up [openPd]).pd 0).swapDue = none))) :=
  by and_intros <;> decide +kernel

/-- States and operands that meet the hypotheses of StepRunsFrontCommand, clause by clause. -/
theorem witness_StepRunsFrontCommand :
    ({ State.reset with pending := [.call] } : State).pending = (.call : Instr) :: ([] : List Instr) :=
  by decide +kernel

/-- States and operands that meet the hypotheses of IdleStepCountsRefclkEdge, clause by clause. -/
theorem witness_IdleStepCountsRefclkEdge :
    ((State.reset.pending = [] ∧
      State.reset.start.phase = 0) ∧
      ((phaseIs 3).pending = [] ∧
      (phaseIs 3).start.phase ≠ 0) ∧
      (({ up [ringed] with start := { (up [ringed]).start with fwWrite := some (⟨true, []⟩, 0, 5, false) } } : State).pending = [] ∧
      ({ up [ringed] with start := { (up [ringed]).start with fwWrite := some (⟨true, []⟩, 0, 5, false) } } : State).start.phase ≠ 0 ∧
      ({ up [ringed] with start := { (up [ringed]).start with fwWrite := some (⟨true, []⟩, 0, 5, false) } } : State).frozen = false ∧
      ({ up [ringed] with start := { (up [ringed]).start with fwWrite := some (⟨true, []⟩, 0, 5, false) } } : State).start.fwWrite = some ((⟨true, []⟩ : FwSlot), 0, 5, false)) ∧
      ((up []).pending = [] ∧
      (up []).start.fwWrite = none) ∧
      Port.down.carries = false ∧
      portUp.owes = false ∧
      ({ portUp with owes := true } : Port).carries = true ∧
      ({ portUp with owes := true } : Port).owes = true) :=
  by and_intros <;> decide +kernel

/-- States and operands that meet the hypotheses of StepKeepsInvariant, clause by clause. -/
theorem witness_StepKeepsInvariant :
    (step State.reset = .next State.reset ∧
      State.reset.Inv) :=
  ⟨rfl, by decide +kernel⟩

/-- States and operands that meet the hypotheses of StepKeepsWhatIsPermanent, clause by clause. -/
theorem witness_StepKeepsWhatIsPermanent :
    step State.reset = .next State.reset ∧
    exec (.call : Instr) State.reset = .next State.reset :=
  ⟨rfl,
    rfl⟩

end Sys2Proof.Tests
end

section
/-! PROOFS. Configuration space (R425, R555, R563, R569, R631, R632): what MCL keeps when it asks something of the companion, what a message of the companion does when it is next, and what a write of PBXBASE does to a ring. -/

namespace Sys2Proof.Machine

/-! ### What MCL keeps when it asks -/

/-- k is m after requests have been made and codewords sent: only tags, credit, the codewords on their way and the requests have changed, and every request that was there still stands in its place. -/
def Mcl.Asked (m k : Mcl) : Prop :=
  k = { m with
    cseqOut := k.cseqOut, held := k.held, unsent := k.unsent, granted := k.granted, reqCredit := k.reqCredit
    dataCredit := k.dataCredit, nextTag := k.nextTag, requests := k.requests } ∧
  m.requests.map (fun r => (r.kind, r.addr)) <+: k.requests.map fun r => (r.kind, r.addr)

theorem Mcl.Asked.refl (m : Mcl) : m.Asked m := ⟨rfl, List.prefix_rfl⟩

theorem Mcl.Asked.trans {m k l : Mcl} (h : m.Asked k) (h' : k.Asked l) : m.Asked l := by
  obtain ⟨hk, hr⟩ := h
  obtain ⟨hl, hr'⟩ := h'
  refine ⟨hl.trans ?_, hr.trans hr'⟩
  rw [hk]

theorem Mcl.Asked.watched {m k : Mcl} (h : m.Asked k) : k.watched = m.watched := by
  rw [h.1]
theorem Mcl.Asked.active {m k : Mcl} (h : m.Asked k) : k.active = m.active := by
  rw [h.1]
theorem Mcl.Asked.reply {m k : Mcl} (h : m.Asked k) : k.reply = m.reply := by
  rw [h.1]
theorem Mcl.Asked.replyStatus {m k : Mcl} (h : m.Asked k) : k.replyStatus = m.replyStatus := by
  rw [h.1]

/-- A request that stood before stands after, whatever its tag. -/
theorem Mcl.Asked.request {m k : Mcl} (h : m.Asked k) {r : McReq} (hr : r ∈ m.requests) :
    ∃ q ∈ k.requests, q.kind = r.kind ∧ q.addr = r.addr := by
  obtain ⟨q, hq, e⟩ := List.mem_map.1 (h.2.subset (List.mem_map_of_mem hr))
  exact ⟨q, hq, congrArg Prod.fst e, congrArg Prod.snd e⟩

theorem Mcl.sendWord_asked (m : Mcl) (us : List McUnit) : m.Asked (m.sendWord us) := by
  unfold Mcl.sendWord
  split
  · exact ⟨rfl, List.prefix_rfl⟩
  · exact ⟨rfl, List.prefix_rfl⟩

theorem Mcl.sendWords_asked (ws : List (List McUnit)) : ∀ m : Mcl, m.Asked (ws.foldl Mcl.sendWord m) := by
  induction ws with
  | nil => exact Mcl.Asked.refl
  | cons w ws ih => exact fun m => (m.sendWord_asked w).trans (ih _)

theorem Mcl.sendMessage_asked (m : Mcl) (msg : McMsg) (data : List (List Byte)) : m.Asked (m.sendMessage msg data) :=
  Mcl.sendWords_asked _ m

/-- Sending a request gives it its tag and changes nothing else of any. -/
theorem sendFirst_kind_addr (r : McReq) (t : Nat) (qs : List McReq) :
    (sendFirst r t qs).map (fun q => (q.kind, q.addr)) = qs.map fun q => (q.kind, q.addr) := by
  induction qs with
  | nil => rfl
  | cons q qs ih =>
    unfold sendFirst
    split
    · rfl
    · rw [List.map_cons, ih, List.map_cons]

theorem Mcl.sendRequest_asked (m : Mcl) (r : McReq) (t : Nat) : m.Asked (m.sendRequest r t) :=
  Mcl.Asked.trans ⟨rfl, (sendFirst_kind_addr r t m.requests).symm ▸ List.prefix_rfl⟩ (Mcl.sendMessage_asked _ _ _)

theorem Mcl.pump_asked (n : Nat) : ∀ m : Mcl, m.Asked (m.pump n) := by
  induction n with
  | zero => exact Mcl.Asked.refl
  | succ n ih =>
    intro m
    unfold Mcl.pump
    split
    · split
      · exact (m.sendRequest_asked _ _).trans (ih _)
      · exact .refl m
    · exact .refl m

theorem Mcl.flow_asked (m : Mcl) : m.Asked m.flow := m.pump_asked _

/-- Making a request adds it to those that stand. -/
theorem Mcl.request_asked (m : Mcl) (k : ReqKind) (op addr count aux : Nat) (data : List (List Byte)) (now : Nat) :
    m.Asked (m.request k op addr count aux data now) :=
  Mcl.Asked.trans ⟨rfl, List.map_append ▸ List.prefix_append _ _⟩ (Mcl.flow_asked _)

theorem Mcl.request_stands (m : Mcl) (k : ReqKind) (op addr count aux : Nat) (data : List (List Byte)) (now : Nat) :
    ∃ r ∈ (m.request k op addr count aux data now).requests, r.kind = k ∧ r.addr = addr := by
  have new := List.mem_append_right m.requests
    (List.mem_singleton_self (⟨noTag, k, addr, false, op, count, aux, data, now, false, 0⟩ : McReq))
  exact (Mcl.flow_asked { m with requests := _ }).request new

/-- A write into companion memory asks MCL for it. -/
theorem State.sendComp_asked (s : State) (k : ReqKind) (a : Nat) (bs : List Byte) : s.mcl.Asked (s.sendComp k a bs).mcl := by
  have granules : ∀ (f : Nat → Bool) (gs : List Nat) (u : State),
      u.mcl.Asked (gs.foldl (fun u g => u.writeGranule k f g) u).mcl := by
    intro f gs
    induction gs with
    | nil => exact fun u => .refl u.mcl
    | cons g gs ih => exact fun u => (u.mcl.request_asked _ _ _ _ _ _ _).trans (ih (u.writeGranule k f g))
  unfold State.sendComp
  split
  · exact .refl s.mcl
  · exact granules _ _ (s.wrComp a bs)

/-! ### A message of the companion that is next -/

theorem State.onMessage_next {s : State} {m : McHead} {requests dataUnits invs : Nat} (f : State → State)
    (hn : s.mcNext m requests dataUnits invs) :
    s.onMessage m true requests dataUnits invs f = f { s with mcl := s.mcTook m requests dataUnits invs } := by
  obtain ⟨hh, hc, hs, ha⟩ := hn
  exact State.onMessage_taken f hh hc ha (by rw [hs]; rfl)

/-- One that is not in form is a protocol error (R425). -/
theorem State.onMessage_bad {s : State} {m : McHead} {requests dataUnits invs : Nat} (f : State → State)
    (hn : s.mcNext m requests dataUnits invs) : s.onMessage m false requests dataUnits invs f = s.mcBad := by
  obtain ⟨hh, hc, -, ha⟩ := hn
  have hd : ¬(m.cseq ≠ s.hearsWord.mcl.cseqIn ∨ s.hearsWord.mcl.allows requests dataUnits invs = false) :=
    not_or.2 ⟨fun hne => hne hc, Bool.not_eq_false _ ▸ ha⟩
  unfold State.onMessage
  rw [hh, Bool.and_false]
  exact (if_neg Bool.false_ne_true).trans (if_neg hd)

/-- A CFG_WR that is next has its effect once it has been answered (R432). -/
theorem State.cfgMessage_next {s : State} {m : McHead} (tag : Nat) (f : State → State) (hn : s.mcNext m 1 1 0) :
    s.cfgMessage m tag f = f (s.mcWrote m tag) := State.onMessage_next _ hn

theorem execPbxbaseEnable_next {s : State} {m : McHead} {p : Nat} (tag v : Nat) (hp : p < 16) (hn : s.mcNext m 1 1 0) :
    exec (.pbxbaseEnable m tag p v) s = .next ((s.mcWrote m tag).enableRing p v) :=
  (if_pos (decide_eq_true hp)).trans (congrArg Host.Outcome.next (State.cfgMessage_next tag _ hn))

theorem execPbxbaseDisable_next {s : State} {m : McHead} {p : Nat} (tag v : Nat) (hp : p < 16) (hn : s.mcNext m 1 1 0) :
    exec (.pbxbaseDisable m tag p v) s = .next ((s.mcWrote m tag).disableRing p v) :=
  (if_pos (decide_eq_true hp)).trans (congrArg Host.Outcome.next (State.cfgMessage_next tag _ hn))

theorem execCfgWr_write_next {s : State} {m : McHead} (tag o v : Nat) (hn : s.mcNext m 1 1 0) :
    exec (.cfgWr m tag o (some v)) s = .next ((s.mcWrote m tag).configWrite o v) :=
  congrArg Host.Outcome.next (State.cfgMessage_next tag _ hn)

theorem Mcl.took_active (m : Mcl) (h : McHead) (requests dataUnits invs : Nat) :
    (m.took h requests dataUnits invs).active = m.active := by
  have sent : ∀ (t : Mcl) (c : Prop) [Decidable c] (us : List McUnit), (if c then t else t.sendWord us).active = t.active := by
    intro t c _ us
    split
    · rfl
    · exact (t.sendWord_asked us).active
  unfold Mcl.took
  dsimp only
  rw [sent]
  split
  · rfl
  · rfl

/-- Of MCL a register shows only whether it is narrow (R568), and taking a message leaves the lanes as they are. -/
theorem State.configReg_mcTook (s : State) (m : McHead) (requests dataUnits invs o : Nat) :
    State.configReg { s with mcl := s.mcTook m requests dataUnits invs } o = s.configReg o := by
  have hh : State.health { s with mcl := s.mcTook m requests dataUnits invs } = s.health := by
    unfold State.health Mcl.narrow State.mcTook
    rw [Mcl.took_active]
  unfold State.configReg
  rw [hh]
  rfl

/-- CFG_RD, the form without a value (R432, R563). -/
theorem execCfgWr_read_next {s : State} {m : McHead} (tag o : Nat) (hn : s.mcNext m 1 0 0) :
    exec (.cfgWr m tag o none) s = .next { s with
      mcl := (s.mcTook m 1 0 0).answer tag 0 (leBytes 8 (s.configReg o) ++ List.replicate 56 0) } := by
  have hr : exec (.cfgWr m tag o none) s = .next (configures m tag o none s) := rfl
  rw [hr]
  unfold configures
  dsimp only
  rw [State.onMessage_next _ hn, State.configReg_mcTook]
  rfl

/-! ### A ring that starts and stops (R20, R427, R555, R569) -/

theorem memGet_memWrite_zeros (m : Memory) (a n x : Nat) (hw : m.wf = true) :
    memGet (memWrite m a (List.replicate n 0)) x = if a ≤ x ∧ x < a + n then 0 else memGet m x := by
  split
  · next hx =>
    obtain ⟨i, rfl⟩ := Nat.exists_eq_add_of_le hx.1
    rw [memWrite_get_inside _ m a i (by rw [List.length_replicate]; omega) hw, List.getElem_replicate]
  · exact memWrite_get_outside _ m a x hw (by rw [List.length_replicate]; omega)

/-- Zeros written one run after the other are one run. -/
theorem memWrite_append_zeros (k n : Nat) : ∀ (m : Memory) (a : Nat),
    memWrite (memWrite m a (List.replicate k 0)) (a + k) (List.replicate n 0) = memWrite m a (List.replicate (k + n) 0) := by
  induction k with
  | zero => exact fun m a => by rw [Nat.zero_add]; rfl
  | succ k ih =>
    intro m a
    rw [Nat.add_right_comm k 1 n, List.replicate_succ, List.replicate_succ, memWrite, memWrite, ← ih, Nat.add_comm k 1, Nat.add_assoc]

theorem State.enableRing_notClosed {s : State} {p : Nat} (v : Nat) (hc : (s.pd p).state ≠ .closed) : s.enableRing p v = s :=
  if_pos hc

theorem State.disableRing_notClosed {s : State} {p : Nat} (v : Nat) (hc : (s.pd p).state ≠ .closed) : s.disableRing p v = s :=
  if_pos hc

/-- The two index lines of the module become zero (R555). -/
def State.zeroIndexLines (s : State) (p b : Nat) : State :=
  (s.sendComp (.postbox p) (b + 0x8040) (List.replicate 64 0)).sendComp (.postbox p) (b + 0x8080) (List.replicate 64 0)

theorem State.zeroIndexLines_rest (s : State) (p b : Nat) : ∃ k m, s.zeroIndexLines p b = { s with mem := k, mcl := m } := by
  unfold State.zeroIndexLines
  generalize List.replicate 64 (0 : Byte) = zeros
  obtain ⟨m, h⟩ := s.sendComp_rest (.postbox p) (b + 0x8040) zeros
  obtain ⟨m', h'⟩ := (s.sendComp (.postbox p) (b + 0x8040) zeros).sendComp_rest (.postbox p) (b + 0x8080) zeros
  exact ⟨_, m', h'.trans (by rw [h]; rfl)⟩

theorem State.zeroIndexLines_asked (s : State) (p b : Nat) : s.mcl.Asked (s.zeroIndexLines p b).mcl :=
  (s.sendComp_asked _ _ _).trans (State.sendComp_asked _ _ _ _)

theorem State.zeroIndexLines_mem (s : State) (p b x : Nat) (hw : s.mem.wf = true) :
    memGet (s.zeroIndexLines p b).mem x =
      if windowBase + b + 0x8040 ≤ x ∧ x < windowBase + b + 0x80C0 then 0 else memGet s.mem x := by
  have second : windowBase + (b + 0x8080) = windowBase + (b + 0x8040) + 64 := by
    rw [Nat.add_assoc windowBase, Nat.add_assoc b]
  have hm : (s.zeroIndexLines p b).mem = memWrite s.mem (windowBase + b + 0x8040) (List.replicate 128 0) := by
    unfold State.zeroIndexLines
    rw [State.sendComp_mem, State.sendComp_mem, second, memWrite_append_zeros, Nat.add_assoc windowBase b]
  rw [hm, memGet_memWrite_zeros _ _ _ _ hw, Nat.add_assoc (windowBase + b) 0x8040 128]

theorem State.enableRing_closed {s : State} {p : Nat} (v : Nat) (hc : (s.pd p).state = .closed) :
    s.enableRing p v = ((s.modRing p fun _ => { Ring.off with en := true, base := ringBase v }).zeroIndexLines p
      (ringBase v)).watch (ringBase v + 0x8000) :=
  if_neg fun hne => hne hc

/-- What EN 1 makes of a CLOSED paddock's ring, of memory and of MCL (R427, R555, R569). -/
theorem State.enableRing_spec {s : State} {p : Nat} (v : Nat) (hw : s.mem.wf = true) (hc : (s.pd p).state = .closed) :
    let b := ringBase v
    ∃ k m, s.enableRing p v = { s.modRing p fun _ => { Ring.off with en := true, base := b } with mem := k, mcl := m } ∧
      (∀ x, memGet k x = if windowBase + b + 0x8040 ≤ x ∧ x < windowBase + b + 0x80C0 then 0 else memGet s.mem x) ∧
      s.mcl.Asked m ∧ ∃ r ∈ m.requests, r.kind = .watch ∧ r.addr = b + 0x8000 := by
  intro b
  let u := s.modRing p fun _ => { Ring.off with en := true, base := b }
  have he : s.enableRing p v = (u.zeroIndexLines p b).watch (b + 0x8000) := State.enableRing_closed v hc
  have hm := fun x => u.zeroIndexLines_mem p b x hw
  have ha : s.mcl.Asked (u.zeroIndexLines p b).mcl := u.zeroIndexLines_asked p b
  obtain ⟨k, m, h⟩ := u.zeroIndexLines_rest p b
  rw [h] at he hm ha
  exact ⟨k, _, he, hm, ha.trans (Mcl.request_asked ..), Mcl.request_stands ..⟩

/-- MCL when the lines of a ring from `base` on are watched no more (R569). -/
def Mcl.forgets (m : Mcl) (base : Nat) : Mcl :=
  { m with watched := m.watched.filter fun a => !(decide (base ≤ a) && decide (a < base + 0x8100)) }

theorem Mcl.forgets_watched {m : Mcl} {base a : Nat} (ha : a ∈ (m.forgets base).watched) : ¬(base ≤ a ∧ a < base + 0x8100) := by
  have outside : (!(decide (base ≤ a) && decide (a < base + 0x8100))) = true := (List.mem_filter.1 ha).2
  rintro ⟨hlo, hhi⟩
  rw [decide_eq_true hlo, decide_eq_true hhi] at outside
  exact Bool.noConfusion outside

/-- UNWATCH changes MCL alone: the granule is watched no more and a request goes out. -/
theorem State.unwatch_rest (s : State) (a : Nat) :
    ∃ m, s.unwatch a = { s with mcl := m } ∧ Mcl.Asked { s.mcl with watched := s.mcl.watched.filter (· != a) } m :=
  ⟨_, rfl, Mcl.request_asked ..⟩

/-- What EN 0 makes of a CLOSED paddock's ring and of MCL (R20, R569). -/
theorem State.disableRing_spec {s : State} {p : Nat} (v : Nat) (hc : (s.pd p).state = .closed) :
    ∃ m, s.disableRing p v = { s.modRing p fun _ => { Ring.off with base := ringBase v } with mcl := m } ∧
      ((s.pd p).ring.en = true → ∀ a ∈ m.watched, ¬((s.pd p).ring.base ≤ a ∧ a < (s.pd p).ring.base + 0x8100)) ∧
      m.reply = s.mcl.reply ∧ m.replyStatus = s.mcl.replyStatus := by
  let u := s.modRing p fun _ => { Ring.off with base := ringBase v }
  have closed : s.disableRing p v = if !(s.pd p).ring.en then u
      else (u.modMcl (·.forgets (s.pd p).ring.base)).unwatch ((s.pd p).ring.base + 0x8000) := if_neg fun hne => hne hc
  by_cases hen : (s.pd p).ring.en = true
  · obtain ⟨m, hm, ha⟩ := (u.modMcl (·.forgets (s.pd p).ring.base)).unwatch_rest ((s.pd p).ring.base + 0x8000)
    rw [hen] at closed
    refine ⟨m, closed.trans hm, fun _ a h => ?_, ha.reply, ha.replyStatus⟩
    rw [ha.watched] at h
    exact Mcl.forgets_watched (List.mem_filter.1 h).1
  · exact ⟨s.mcl, closed.trans (if_pos (by rw [Bool.eq_false_iff.2 hen]; rfl)), fun h => absurd h hen, rfl, rfl⟩

/-! ### Writes to configuration space (R563, R569, R632) -/

/-- The offset of PBXBASE of a paddock names its ring. -/
theorem State.configWrite_pbxbase {p : Nat} (v : Nat) (hp : p < 16) (s : State) :
    s.configWrite (0x1080 + 8 * p) v = if bitOf v 63 then s.enableRing p v else s.disableRing p v := by
  have ho : 0x1080 ≤ 0x1080 + 8 * p ∧ 0x1080 + 8 * p ≤ 0x10F8 ∧ (0x1080 + 8 * p) % 8 = 0 := by omega
  have hq : (0x1080 + 8 * p - 0x1080) / 8 = p := by omega
  unfold State.configWrite
  rw [if_pos ho, hq]

theorem State.configWrite_winctl (v : Nat) (s : State) :
    s.configWrite 0x1100 v = { s with freeze := { s.freeze with raw := bitOf v 0 } } := rfl

theorem State.configWrite_other {o : Nat} (v : Nat) (s : State) (hw : o ≠ 0x1100)
    (hp : ¬(0x1080 ≤ o ∧ o ≤ 0x10F8 ∧ o % 8 = 0)) : s.configWrite o v = s :=
  (if_neg hp).trans (if_neg hw)

/-- CFG_WR at the offset of PBXBASE is the command of that register, whatever MCL makes of the message. -/
theorem execCfgWr_pbxbase (m : McHead) (tag v : Nat) {p : Nat} (s : State) (hp : p < 16) :
    exec (.cfgWr m tag (0x1080 + 8 * p) (some v)) s =
      exec (if bitOf v 63 then .pbxbaseEnable m tag p v else .pbxbaseDisable m tag p v) s := by
  have hf : State.configWrite (0x1080 + 8 * p) v = fun u => if bitOf v 63 then u.enableRing p v else u.disableRing p v :=
    funext fun u => u.configWrite_pbxbase v hp
  have hw : exec (.cfgWr m tag (0x1080 + 8 * p) (some v)) s =
      .next (s.cfgMessage m tag (State.configWrite (0x1080 + 8 * p) v)) := rfl
  rw [hw, hf]
  cases bitOf v 63
  · exact (if_pos (decide_eq_true hp)).symm
  · exact (if_pos (decide_eq_true hp)).symm

/-! ### The read-out aperture (R425, R631) -/

theorem execApRd_next {s : State} {m : McHead} (tag : Nat) {a n : Nat} (hn : s.mcNext m 1 0 0) (ha : a % 64 = 0) (hl : n ≤ 31)
    (hp : a / 4096 = (a + 64 * n) / 4096) :
    let gs := (List.range (n + 1)).map fun i => a + 64 * i
    let u := { s with mcl := s.mcTook m 1 0 0 }
    exec (.apRd m tag a n) s =
      .next { s with mcl := u.mcl.answer tag (bit (gs.any u.granuleBad)) (gs.map u.granule).flatten } := by
  have hr : exec (.apRd m tag a n) s = .next (apertureReads m tag a n s) := rfl
  rw [hr]
  unfold apertureReads
  rw [decide_eq_true ⟨ha, hl, hp⟩, State.onMessage_next _ hn]
  rfl

theorem execApRd_bad {s : State} {m : McHead} (tag : Nat) {a n : Nat} (hn : s.mcNext m 1 0 0)
    (hb : ¬(a % 64 = 0 ∧ n ≤ 31 ∧ a / 4096 = (a + 64 * n) / 4096)) : exec (.apRd m tag a n) s = .next s.mcBad := by
  have hr : exec (.apRd m tag a n) s = .next (apertureReads m tag a n s) := rfl
  rw [hr]
  unfold apertureReads
  rw [decide_eq_false hb, State.onMessage_bad _ hn]

/-- Settles O24: each command is its message's effect on the state in which the message has been taken and answered; the effect of a ring that starts or stops is that of the lemmas above. -/
theorem ringsAndConfigurationSpace : Obligations.RingsAndConfigurationSpace := by
  refine ⟨⟨?enable, ?disable, ?notClosed⟩, ?pbxbase, ?winctl, ?ignored, ?read, ?aperture, ?apertureBad⟩
  case enable =>
    intro m tag p v s hw hp _ hn hc
    obtain ⟨k, l, he, hk, hl, hr⟩ := State.enableRing_spec (s := s.mcWrote m tag) v hw hc
    refine ⟨_, execPbxbaseEnable_next tag v hp hn, ?_⟩
    rw [he]
    exact ⟨rfl, rfl, fun x h1 h2 => (hk x).trans (if_pos ⟨h1, h2⟩),
      fun x hx => (hk x).trans (if_neg fun hin => hx.elim (Nat.not_lt.2 hin.1) (Nat.not_le.2 hin.2)), hr, hl.reply, hl.replyStatus⟩
  case disable =>
    intro m tag p v s hp hn hc
    obtain ⟨l, he, hl, hr, hs⟩ := State.disableRing_spec (s := s.mcWrote m tag) v hc
    refine ⟨_, execPbxbaseDisable_next tag v hp hn, ?_⟩
    rw [he]
    exact ⟨rfl, rfl, hl, hr, hs⟩
  case notClosed =>
    intro m tag p v s hp hn hc
    have hc' : ((s.mcWrote m tag).pd p).state ≠ .closed := hc
    rw [execPbxbaseEnable_next tag v hp hn, execPbxbaseDisable_next tag v hp hn, State.enableRing_notClosed v hc',
      State.disableRing_notClosed v hc']
    exact ⟨rfl, rfl⟩
  case pbxbase => exact fun m tag p v s hp => execCfgWr_pbxbase m tag v s hp
  case winctl =>
    exact fun m tag v s hn => (execCfgWr_write_next tag 0x1100 v hn).trans
      (congrArg Host.Outcome.next (State.configWrite_winctl v (s.mcWrote m tag)))
  case ignored =>
    intro m tag o v s hn hw hp
    rw [execCfgWr_write_next tag o v hn, State.configWrite_other v _ hw hp]
  case read => exact fun m tag o s hn => execCfgWr_read_next tag o hn
  case aperture => exact fun m tag a n s hn ha hl hp => execApRd_next tag hn ha hl hp
  case apertureBad => exact fun m tag a n s hn hb => execApRd_bad tag hn (by omega)

end Sys2Proof.Machine
end

section
/-! PROOFS. The element operations of the groom (R159-R167, R175): exact sums and differences, the order of operands, what a NaN makes of each operation. -/

namespace Sys2Proof.Machine

/-! ### Exact sums and differences -/

theorem Dyn.shiftFloor_zero (i : Int) : Dyn.shiftFloor i 0 = i := Int.mul_one i

/-- A shift to the left is exact, so it commutes with the sign. -/
theorem Dyn.shiftFloor_neg (i : Int) {k : Int} (hk : 0 ≤ k) : Dyn.shiftFloor (-i) k = -Dyn.shiftFloor i k := by
  unfold Dyn.shiftFloor
  rw [if_pos hk, if_pos hk, Int.neg_mul]

theorem Dyn.add_zero_left {a : Dy} (b : Dy) (ha : a.m = 0) : Dyn.add a b = b := if_pos ha

theorem Dyn.add_zero_right {a b : Dy} (ha : a.m ≠ 0) (hb : b.m = 0) : Dyn.add a b = a := by
  simp [Dyn.add, ha, hb]

theorem Dyn.add_of_le {a b : Dy} (ha : a.m ≠ 0) (hb : b.m ≠ 0) (he : a.e ≤ b.e) :
    Dyn.add a b = ⟨a.m + Dyn.shiftFloor b.m (b.e - a.e), a.e⟩ := by
  simp [Dyn.add, ha, hb, he]

theorem Dyn.add_of_gt {a b : Dy} (ha : a.m ≠ 0) (hb : b.m ≠ 0) (he : b.e < a.e) :
    Dyn.add a b = ⟨Dyn.shiftFloor a.m (a.e - b.e) + b.m, b.e⟩ := by
  simp [Dyn.add, ha, hb, Int.not_le.2 he]

/-- The coarser of two exponents is shifted, whichever operand has it. -/
theorem Dyn.add_comm {a b : Dy} (ha : a.m ≠ 0) (hb : b.m ≠ 0) : Dyn.add a b = Dyn.add b a := by
  rcases Int.lt_trichotomy a.e b.e with he | he | he
  · rw [Dyn.add_of_le ha hb (Int.le_of_lt he), Dyn.add_of_gt hb ha he, Int.add_comm]
  · rw [Dyn.add_of_le ha hb (Int.le_of_eq he), Dyn.add_of_le hb ha (Int.le_of_eq he.symm), he, Int.sub_self, Dyn.shiftFloor_zero, Dyn.shiftFloor_zero,
      Int.add_comm]
  · rw [Dyn.add_of_gt ha hb he, Dyn.add_of_le hb ha (Int.le_of_lt he), Int.add_comm]

/-- a - b and b - a have opposite signs, or both are zero. -/
theorem Dyn.sub_m_swap (a b : Dy) : (Dyn.sub b a).m = -(Dyn.sub a b).m := by
  unfold Dyn.sub
  by_cases ha : a.m = 0
  · have hna : (Dyn.neg a).m = 0 := Int.neg_eq_zero.2 ha
    rw [Dyn.add_zero_left _ ha]
    by_cases hb : b.m = 0
    · simp [Dyn.add_zero_left _ hb, Dyn.neg, ha, hb]
    · rw [Dyn.add_zero_right hb hna]
      exact (Int.neg_neg b.m).symm
  · have hna : (Dyn.neg a).m ≠ 0 := Int.neg_ne_zero.2 ha
    by_cases hb : b.m = 0
    · have hnb : (Dyn.neg b).m = 0 := Int.neg_eq_zero.2 hb
      rw [Dyn.add_zero_left _ hb, Dyn.add_zero_right ha hnb]
      rfl
    · have hnb : (Dyn.neg b).m ≠ 0 := Int.neg_ne_zero.2 hb
      rcases Int.lt_trichotomy a.e b.e with he | he | he
      · rw [Dyn.add_of_le ha hnb (Int.le_of_lt he), Dyn.add_of_gt hb hna he]
        simp only [Dyn.neg, Dyn.shiftFloor_neg b.m (Int.sub_nonneg.2 (Int.le_of_lt he))]
        omega
      · rw [Dyn.add_of_le ha hnb (Int.le_of_eq he), Dyn.add_of_le hb hna (Int.le_of_eq he.symm)]
        simp only [Dyn.neg, he, Int.sub_self, Dyn.shiftFloor_zero]
        omega
      · rw [Dyn.add_of_gt ha hnb he, Dyn.add_of_le hb hna (Int.le_of_lt he)]
        simp only [Dyn.neg, Dyn.shiftFloor_neg a.m (Int.sub_nonneg.2 (Int.le_of_lt he))]
        omega

theorem Dyn.sub_self_m (a : Dy) : (Dyn.sub a a).m = 0 := by
  have h := Dyn.sub_m_swap a a
  omega

/-! ### The order of operands -/

/-- Exactly one of the three holds. -/
def ExactlyOne (p q r : Bool) : Prop :=
  (p = true ∧ q = false ∧ r = false) ∨ (p = false ∧ q = true ∧ r = false) ∨ (p = false ∧ q = false ∧ r = true)

theorem Dyn.exactlyOne (a b : Dy) : ExactlyOne (Dyn.lt a b) (Dyn.eq a b) (Dyn.lt b a) := by
  have hs := Dyn.sub_m_swap a b
  unfold Dyn.lt Dyn.eq ExactlyOne
  simp only [decide_eq_true_eq, decide_eq_false_iff_not]
  omega

theorem Extn.isNaN_eq_false {a : Ext} (ha : a ≠ .nan) : Extn.isNaN a = false := by
  cases a with
  | nan => exact absurd rfl ha
  | _ => rfl

/-- Infinities are ordered by their sign, and every finite value stands between them. -/
theorem Extn.exactlyOne {a b : Ext} (ha : a ≠ .nan) (hb : b ≠ .nan) : ExactlyOne (Extn.lt a b) (Extn.eqv a b) (Extn.lt b a) := by
  cases a with
  | nan => exact absurd rfl ha
  | inf s =>
    cases b with
    | nan => exact absurd rfl hb
    | inf t => cases s <;> cases t <;> simp [ExactlyOne, Extn.lt, Extn.eqv]
    | _ => cases s <;> simp [ExactlyOne, Extn.lt, Extn.eqv]
  | zero s =>
    cases b with
    | nan => exact absurd rfl hb
    | inf t => cases t <;> simp [ExactlyOne, Extn.lt, Extn.eqv]
    | _ => exact Dyn.exactlyOne _ _
  | fin x =>
    cases b with
    | nan => exact absurd rfl hb
    | inf t => cases t <;> simp [ExactlyOne, Extn.lt, Extn.eqv]
    | _ => exact Dyn.exactlyOne _ _

/-! ### Comparisons (R167) -/

theorem El.compares_eq {a b : Ext} (ha : a ≠ .nan) (hb : b ≠ .nan) : El.compares 0 a b = Extn.eqv a b := by
  simp [El.compares, Extn.isNaN_eq_false ha, Extn.isNaN_eq_false hb]

theorem El.compares_lt {a b : Ext} (ha : a ≠ .nan) (hb : b ≠ .nan) : El.compares 2 a b = Extn.lt a b := by
  simp [El.compares, Extn.isNaN_eq_false ha, Extn.isNaN_eq_false hb]

theorem El.compares_gt {a b : Ext} (ha : a ≠ .nan) (hb : b ≠ .nan) : El.compares 4 a b = Extn.lt b a := by
  simp [El.compares, Extn.isNaN_eq_false ha, Extn.isNaN_eq_false hb]

/-- NE, LE, GE and UNORD are what EQ, LT and GT make of them where no operand is NaN. -/
theorem El.compares_derived {a b : Ext} (ha : a ≠ .nan) (hb : b ≠ .nan) :
    El.compares 3 a b = (El.compares 2 a b || El.compares 0 a b) ∧
    El.compares 5 a b = (El.compares 4 a b || El.compares 0 a b) ∧
    El.compares 1 a b = !El.compares 0 a b ∧ El.compares 6 a b = false := by
  simp [El.compares, Extn.isNaN_eq_false ha, Extn.isNaN_eq_false hb]

theorem Extn.isNaN_or {a b : Ext} (h : a = .nan ∨ b = .nan) : (Extn.isNaN a || Extn.isNaN b) = true := by
  rcases h with rfl | rfl
  · rfl
  · exact Bool.or_true _

/-- Of the comparisons with a NaN, NE holds and UNORD, and UNORD is every code above GE. -/
theorem El.compares_nan {a b : Ext} (k : Nat) (h : a = .nan ∨ b = .nan) : El.compares k a b = true ↔ k = 1 ∨ 6 ≤ k := by
  have hn := Extn.isNaN_or h
  match k with
  | 0 | 1 | 2 | 3 | 4 | 5 => simp [El.compares, hn]
  | k + 6 => simp [El.compares, hn]

/-! ### Sums and products -/

/-- What El.add makes of two finite values that are not both zero. -/
def El.finSum (m : Rnd) (a b : Dy) : ERes :=
  if (Dyn.add a b).m = 0 then El.ok (El.cancelZero m) else El.ok (.num (Fxn.ofDy (Dyn.add a b)))

theorem El.add_fin_fin (m : Rnd) (a b : Dy) : El.add m (.fin a) (.fin b) = El.finSum m a b := rfl
theorem El.add_fin_zero (m : Rnd) (a : Dy) (t : Bool) : El.add m (.fin a) (.zero t) = El.finSum m a Dyn.zero := rfl
theorem El.add_zero_fin (m : Rnd) (s : Bool) (b : Dy) : El.add m (.zero s) (.fin b) = El.finSum m Dyn.zero b := rfl

/-- Two zeros may differ in their exponents, which the sum of a cancellation does not show. -/
theorem El.finSum_comm (m : Rnd) (a b : Dy) : El.finSum m a b = El.finSum m b a := by
  unfold El.finSum
  by_cases ha : a.m = 0
  · rw [Dyn.add_zero_left b ha]
    by_cases hb : b.m = 0
    · rw [Dyn.add_zero_left a hb, if_pos ha, if_pos hb]
    · rw [Dyn.add_zero_right hb ha]
  · by_cases hb : b.m = 0
    · rw [Dyn.add_zero_right ha hb, Dyn.add_zero_left a hb]
    · rw [Dyn.add_comm ha hb]

theorem El.add_comm (m : Rnd) (a b : Ext) : El.add m a b = El.add m b a := by
  cases a with
  | nan => cases b <;> rfl
  | inf s =>
    cases b with
    | inf t => cases s <;> cases t <;> rfl
    | _ => rfl
  | zero s =>
    cases b with
    | zero t => cases s <;> cases t <;> rfl
    | fin y => rw [El.add_zero_fin, El.add_fin_zero, El.finSum_comm]
    | _ => rfl
  | fin x =>
    cases b with
    | zero t => rw [El.add_zero_fin, El.add_fin_zero, El.finSum_comm]
    | fin y => rw [El.add_fin_fin, El.add_fin_fin, El.finSum_comm]
    | _ => rfl

theorem Dyn.mul_comm (a b : Dy) : Dyn.mul a b = Dyn.mul b a := by
  unfold Dyn.mul
  rw [Int.mul_comm, Int.add_comm]

theorem El.prod_comm (a b : Ext) : El.prod a b = El.prod b a := by
  cases a with
  | nan => cases b <;> rfl
  | inf s =>
    cases b with
    | inf t => cases s <;> cases t <;> rfl
    | _ => rfl
  | zero s =>
    cases b with
    | zero t => cases s <;> cases t <;> rfl
    | _ => rfl
  | fin x =>
    cases b with
    | fin y => exact congrArg Ext.fin (Dyn.mul_comm x y)
    | _ => rfl

theorem El.mul_comm (a b : Ext) : El.mul a b = El.mul b a := by
  unfold El.mul
  rw [El.prod_comm]

theorem El.prod_nan {a b : Ext} (h : a = .nan ∨ b = .nan) : El.prod a b = .nan := by
  rcases h with rfl | rfl
  · rfl
  · rw [El.prod_comm]
    rfl

theorem El.add_nan (m : Rnd) {a b : Ext} (h : a = .nan ∨ b = .nan) : El.add m a b = El.invalid := by
  rcases h with rfl | rfl
  · rfl
  · rw [El.add_comm]
    rfl

theorem El.sub_nan (m : Rnd) {a b : Ext} (h : a = .nan ∨ b = .nan) : El.sub m a b = El.invalid :=
  El.add_nan m (h.imp_right (congrArg Extn.neg))

theorem El.mul_nan {a b : Ext} (h : a = .nan ∨ b = .nan) : El.mul a b = El.invalid := by
  unfold El.mul
  rw [El.prod_nan h]

theorem El.div_nan {a b : Ext} (h : a = .nan ∨ b = .nan) : El.div a b = El.invalid := by
  rcases h with rfl | rfl
  · rfl
  · cases a <;> rfl

/-- The sign that G.FNMA gives its product does not make a number of a NaN. -/
theorem El.fma_nan (m : Rnd) (p q : Bool) {a b : Ext} (c : Ext) (h : a = .nan ∨ b = .nan) : El.fma m p q a b c = El.invalid := by
  unfold El.fma
  rw [El.prod_nan h]
  cases p <;> rfl

theorem El.sub_self (m : Rnd) (x : Dy) : El.sub m (.fin x) (.fin x) = El.ok (El.cancelZero m) :=
  if_pos (Dyn.sub_self_m x)

/-! ### Maximum and minimum (R165) -/

theorem El.copy_of_ne_nan {a : Ext} (ha : a ≠ .nan) : El.copy a = El.ofExt a := by
  cases a with
  | nan => exact absurd rfl ha
  | _ => rfl

/-- G.MAX and G.MIN alike: of two zeros one with the sign z, else b where c holds and a where it does not. -/
def El.pick (z c : Bool) (a b : Ext) : ERes :=
  if Extn.isNaN a || Extn.isNaN b then El.invalid
  else if Extn.isZero a && Extn.isZero b then El.ok (.zero z)
  else El.ofExt (if c then b else a)

theorem El.max_eq_pick (a b : Ext) : El.max a b = El.pick (Extn.isNeg a && Extn.isNeg b) (Extn.lt a b) a b := rfl
theorem El.min_eq_pick (a b : Ext) : El.min a b = El.pick (Extn.isNeg a || Extn.isNeg b) (Extn.lt b a) a b := rfl

theorem El.pick_nan (z c : Bool) {a b : Ext} (h : a = .nan ∨ b = .nan) : El.pick z c a b = El.invalid := if_pos (Extn.isNaN_or h)

theorem El.max_nan {a b : Ext} (h : a = .nan ∨ b = .nan) : El.max a b = El.invalid := (El.max_eq_pick a b).trans (El.pick_nan _ _ h)
theorem El.min_nan {a b : Ext} (h : a = .nan ∨ b = .nan) : El.min a b = El.invalid := (El.min_eq_pick a b).trans (El.pick_nan _ _ h)

theorem El.pick_mem {z : Bool} (c : Bool) {a b : Ext} (ha : a ≠ .nan) (hb : b ≠ .nan)
    (hz : z = Extn.isNeg a ∨ z = Extn.isNeg b) : El.pick z c a b = El.copy a ∨ El.pick z c a b = El.copy b := by
  rw [El.copy_of_ne_nan ha, El.copy_of_ne_nan hb]
  unfold El.pick
  rw [Extn.isNaN_eq_false ha, Extn.isNaN_eq_false hb, Bool.or_false, if_neg Bool.false_ne_true]
  by_cases hzero : (Extn.isZero a && Extn.isZero b) = true
  · rw [if_pos hzero]
    cases a with
    | zero s =>
      cases b with
      | zero t => exact hz.imp (congrArg fun z => El.ofExt (.zero z)) (congrArg fun z => El.ofExt (.zero z))
      | _ => cases hzero
    | _ => cases hzero
  · rw [if_neg hzero]
    cases c
    · exact .inl rfl
    · exact .inr rfl

theorem El.max_mem {a b : Ext} (ha : a ≠ .nan) (hb : b ≠ .nan) : El.max a b = El.copy a ∨ El.max a b = El.copy b := by
  rw [El.max_eq_pick]
  exact El.pick_mem _ ha hb (by cases Extn.isNeg a <;> simp)

theorem El.min_mem {a b : Ext} (ha : a ≠ .nan) (hb : b ≠ .nan) : El.min a b = El.copy a ∨ El.min a b = El.copy b := by
  rw [El.min_eq_pick]
  exact El.pick_mem _ ha hb (by cases Extn.isNeg a <;> simp)

/-- Settles O45: the order of operands is total where none is NaN, and each operation looks for a NaN first. -/
theorem elementOperationsObeyTheirRules : Obligations.ElementOperationsObeyTheirRules := by
  refine ⟨?nanOperand, ?nanAlone, ?comm, El.sub_self, ?order, fun _ _ => El.compares_derived, fun k _ _ => El.compares_nan k,
    fun _ _ ha hb => ⟨El.max_mem ha hb, El.min_mem ha hb⟩, rfl, rfl, fun _ => ⟨rfl, rfl, rfl⟩⟩
  case nanOperand =>
    exact fun m a b c p q h => ⟨El.add_nan m h, El.sub_nan m h, El.mul_nan h, El.div_nan h, El.max_nan h, El.min_nan h,
      El.fma_nan m p q c h⟩
  case nanAlone => exact ⟨rfl, rfl, rfl, rfl, rfl, rfl, rfl, rfl, rfl⟩
  case comm => exact fun m a b => ⟨El.add_comm m a b, El.mul_comm a b⟩
  case order =>
    intro a b ha hb
    rw [El.compares_lt ha hb, El.compares_eq ha hb, El.compares_gt ha hb]
    exact Extn.exactlyOne ha hb

end Sys2Proof.Machine
end

section
/-! PROOFS. A groom instruction issues (R150, R156-R166, R171-R178): what a tile register holds after its elements were written, which share a groom works on, what an issue leaves of the state. -/

namespace Sys2Proof.Machine

/-! ### Elements of tile registers (R147, R148, R158) -/

theorem getD_setElem_same (l : List W32) (i : Nat) (v : W32) : (setElem l i v).getD i 0 = v := by
  fun_induction setElem l i v with
  | case1 | case3 => rfl
  | case2 _ _ ih => exact ih
  | case4 _ _ _ _ ih => exact ih

theorem getD_setElem_other (l : List W32) {i j : Nat} (v : W32) (h : j ≠ i) : (setElem l i v).getD j 0 = l.getD j 0 := by
  fun_induction setElem l i v generalizing j with
  | case1 | case3 => cases j with
    | zero => exact absurd rfl h
    | succ j => rfl
  | case2 i v ih => cases j with
    | zero => rfl
    | succ j => exact ih (by omega)
  | case4 a l i v ih => cases j with
    | zero => rfl
    | succ j => exact ih (by omega)

@[simp] theorem Groom.putElem_length (g : Groom) (reg i : Nat) (v : W32) : (g.putElem reg i v).tiles.length = g.tiles.length :=
  List.length_modify ..

theorem Groom.elemAt_putElem_same {g : Groom} {reg : Nat} (i : Nat) (v : W32) (h : reg < g.tiles.length) :
    (g.putElem reg i v).elemAt reg i = v := by
  unfold Groom.elemAt Groom.putElem
  rw [getD_modify_same _ _ _ _ h, getD_setElem_same]

theorem Groom.elemAt_putElem_otherReg (g : Groom) {reg r : Nat} (i k : Nat) (v : W32) (h : r ≠ reg) :
    (g.putElem reg i v).elemAt r k = g.elemAt r k := by
  unfold Groom.elemAt Groom.putElem
  rw [getD_modify_other _ _ _ _ _ h.symm]

/-- A register that the groom does not have holds +0, before and after. -/
theorem Groom.elemAt_putElem_otherElem (g : Groom) (reg r : Nat) {i k : Nat} (v : W32) (h : k ≠ i) :
    (g.putElem reg i v).elemAt r k = g.elemAt r k := by
  by_cases hr : r = reg
  · subst hr
    by_cases hl : r < g.tiles.length
    · unfold Groom.elemAt Groom.putElem
      rw [getD_modify_same _ _ _ _ hl, getD_setElem_other _ _ h]
    · unfold Groom.elemAt Groom.putElem
      rw [List.modify_eq_self (Nat.le_of_not_lt hl)]
  · exact g.elemAt_putElem_otherReg i k v hr

/-! ### Pairs (R148) -/

/-- Register r is not written by an instruction with this destination. -/
def offDest (wide : Bool) (reg r : Nat) : Prop := r ≠ reg ∧ (wide = true → r ≠ reg + 1)

@[simp] theorem Groom.putPair_length (g : Groom) (wide : Bool) (reg i : Nat) (p : Fp.Pair) :
    (g.putPair wide reg i p).tiles.length = g.tiles.length := by
  cases wide <;> simp [Groom.putPair]

theorem Groom.putPair_rest (g : Groom) (wide : Bool) (reg i : Nat) (p : Fp.Pair) :
    g.putPair wide reg i p = { g with tiles := (g.putPair wide reg i p).tiles } := by
  cases wide <;> rfl

theorem Groom.elemAt_putPair_hi {g : Groom} (wide : Bool) {reg : Nat} (i : Nat) (p : Fp.Pair) (h : reg < g.tiles.length) :
    (g.putPair wide reg i p).elemAt reg i = p.hi := by
  cases wide with
  | false => exact Groom.elemAt_putElem_same i p.hi h
  | true => exact (Groom.elemAt_putElem_otherReg _ i i p.lo (by omega)).trans (Groom.elemAt_putElem_same i p.hi h)

theorem Groom.elemAt_putPair_lo {g : Groom} {reg : Nat} (i : Nat) (p : Fp.Pair) (h : reg + 1 < g.tiles.length) :
    (g.putPair true reg i p).elemAt (reg + 1) i = p.lo :=
  Groom.elemAt_putElem_same i p.lo (by rwa [Groom.putElem_length])

theorem Groom.elemAt_putPair_other (g : Groom) {wide : Bool} {reg r i k : Nat} (p : Fp.Pair)
    (h : offDest wide reg r ∨ k ≠ i) : (g.putPair wide reg i p).elemAt r k = g.elemAt r k := by
  have hhi : (g.putElem reg i p.hi).elemAt r k = g.elemAt r k := by
    rcases h with ⟨hr, _⟩ | hk
    · exact g.elemAt_putElem_otherReg i k p.hi hr
    · exact g.elemAt_putElem_otherElem reg r p.hi hk
  cases wide with
  | false => exact hhi
  | true =>
    refine Eq.trans ?_ hhi
    rcases h with ⟨_, hr⟩ | hk
    · exact Groom.elemAt_putElem_otherReg _ i k p.lo (hr rfl)
    · exact Groom.elemAt_putElem_otherElem _ (reg + 1) r p.lo hk

/-! ### The results of an instruction (R158, R161) -/

/-- A list grows at its end, as results are put down. -/
theorem listConcatInduction {α : Type} {P : List α → Prop} (nil : P []) (concat : ∀ vs v, P vs → P (vs ++ [v]))
    (vs : List α) : P vs := by
  have hrev : ∀ l : List α, P l.reverse := by
    intro l
    induction l with
    | nil => exact nil
    | cons v l ih =>
      rw [List.reverse_cons]
      exact concat _ _ ih
  rw [← vs.reverse_reverse]
  exact hrev vs.reverse

theorem Groom.putAll_concat (g : Groom) (wide : Bool) (reg : Nat) (vs : List Fp.Pair) (v : Fp.Pair) :
    g.putAll wide reg (vs ++ [v]) = (g.putAll wide reg vs).putPair wide reg vs.length v := by
  simp [Groom.putAll, List.zipIdx_append]

@[simp] theorem Groom.putAll_length (g : Groom) (wide : Bool) (reg : Nat) (vs : List Fp.Pair) :
    (g.putAll wide reg vs).tiles.length = g.tiles.length := by
  induction vs using listConcatInduction with
  | nil => rfl
  | concat vs v ih => rw [Groom.putAll_concat, Groom.putPair_length, ih]

theorem Groom.putAll_rest (g : Groom) (wide : Bool) (reg : Nat) (vs : List Fp.Pair) :
    g.putAll wide reg vs = { g with tiles := (g.putAll wide reg vs).tiles } := by
  induction vs using listConcatInduction with
  | nil => rfl
  | concat vs v ih =>
    rw [Groom.putAll_concat, Groom.putPair_rest]
    exact congrArg (fun h : Groom => { h with tiles := ((g.putAll wide reg vs).putPair wide reg vs.length v).tiles }) ih

@[simp] theorem Groom.putAll_pc (g : Groom) (wide : Bool) (reg : Nat) (vs : List Fp.Pair) : (g.putAll wide reg vs).pc = g.pc := by
  rw [Groom.putAll_rest]
@[simp] theorem Groom.putAll_loops (g : Groom) (wide : Bool) (reg : Nat) (vs : List Fp.Pair) : (g.putAll wide reg vs).loops = g.loops := by
  rw [Groom.putAll_rest]
@[simp] theorem Groom.putAll_flags (g : Groom) (wide : Bool) (reg : Nat) (vs : List Fp.Pair) : (g.putAll wide reg vs).flags = g.flags := by
  rw [Groom.putAll_rest]
@[simp] theorem Groom.putAll_sums (g : Groom) (wide : Bool) (reg : Nat) (vs : List Fp.Pair) : (g.putAll wide reg vs).sums = g.sums := by
  rw [Groom.putAll_rest]
@[simp] theorem Groom.putAll_pos (g : Groom) (wide : Bool) (reg : Nat) (vs : List Fp.Pair) : (g.putAll wide reg vs).pos = g.pos := by
  rw [Groom.putAll_rest]

theorem Groom.elemAt_putAll_other (g : Groom) {wide : Bool} {reg r k : Nat} {vs : List Fp.Pair}
    (h : offDest wide reg r ∨ vs.length ≤ k) : (g.putAll wide reg vs).elemAt r k = g.elemAt r k := by
  induction vs using listConcatInduction with
  | nil => rfl
  | concat vs v ih =>
    rw [List.length_append, List.length_singleton] at h
    rw [Groom.putAll_concat, Groom.elemAt_putPair_other _ _ (h.imp_right fun hk => by omega), ih (h.imp_right fun hk => by omega)]

/-- The k-th result stands as it was put down: the results after it go to other elements. -/
theorem Groom.elemAt_putAll_of_putPair {g : Groom} {wide : Bool} {reg r k : Nat} {vs : List Fp.Pair} {p : Fp.Pair} {x : W32}
    (hk : vs[k]? = some p)
    (hput : ∀ h : Groom, h.tiles.length = g.tiles.length → (h.putPair wide reg k p).elemAt r k = x) :
    (g.putAll wide reg vs).elemAt r k = x := by
  induction vs using listConcatInduction with
  | nil => cases hk
  | concat vs v ih =>
    rw [Groom.putAll_concat]
    by_cases hl : k = vs.length
    · subst hl
      rw [List.getElem?_concat_length] at hk
      rw [Option.some.inj hk]
      exact hput _ (g.putAll_length ..)
    · have hlt := (List.getElem?_eq_some_iff.1 hk).1
      rw [List.length_append, List.length_singleton] at hlt
      rw [Groom.elemAt_putPair_other _ _ (.inr hl)]
      exact ih ((List.getElem?_append_left (by omega)).symm.trans hk)

theorem GW.dst_lt (w : Nat) : GW.dst w < 8 := Nat.mod_lt _ (by decide)

/-- CNT results in a destination of the groom's eight registers: hi, lo, and what stays (R148, R158). -/
theorem Groom.elemAt_putAll_range {g : Groom} (wide : Bool) (w n : Nat) (f : Nat → Fp.Pair) (hg : g.tiles.length = 8) :
    let h := g.putAll wide (GW.dst w) ((List.range n).map f)
    (∀ k, k < n → h.elemAt (GW.dst w) k = (f k).hi) ∧
    (wide = true → GW.dst w ≠ 7 → ∀ k, k < n → h.elemAt (GW.dst w + 1) k = (f k).lo) ∧
    (∀ r k, offDest wide (GW.dst w) r ∨ n ≤ k → h.elemAt r k = g.elemAt r k) := by
  have hd := GW.dst_lt w
  have hget : ∀ k, k < n → ((List.range n).map f)[k]? = some (f k) := fun k hk => by simp [hk]
  refine ⟨fun k hk => ?_, ?_, fun r k h => ?_⟩
  · exact Groom.elemAt_putAll_of_putPair (hget k hk) fun h hl => Groom.elemAt_putPair_hi wide k _ (by omega)
  · rintro rfl hne k hk
    exact Groom.elemAt_putAll_of_putPair (hget k hk) fun h hl => Groom.elemAt_putPair_lo k _ (by omega)
  · exact g.elemAt_putAll_other (h.imp_right fun hk => by rwa [List.length_map, List.length_range])

/-! ### The share that a groom works on (R150, R523) -/

/-- The share of a stable stands at the head of its queue. -/
theorem State.queue_of_kop? {s : State} {n : Nat} {o : Kop} (h : s.kop? n = some o) :
    o.stable = n ∧ (s.stable n).queue = o.run :: (s.stable n).queue.tail := by
  unfold State.kop? at h
  split at h
  · cases h
  next r rs hq =>
    split at h
    · cases h
    · split at h
      · cases h
      · split at h
        · cases h
        · cases h
          exact ⟨rfl, by rw [hq]; rfl⟩

/-- Which share a stable works on is decided by its queue and by the paddocks. -/
theorem State.kop?_congr {s t : State} {n : Nat} (hq : (t.stable n).queue = (s.stable n).queue)
    (ht : t = { s with stables := t.stables }) : t.kop? n = s.kop? n := by
  have hc : ∀ p c, t.ctx p c = s.ctx p c := fun p c => by rw [ht]; rfl
  have hs : ∀ p, t.served p = s.served p := fun p => by rw [ht]; rfl
  unfold State.kop?
  rw [hq]
  simp only [hc, hs]

theorem State.startShare_noShare {s : State} {n : Nat} (h : s.kop? n = none) : s.startShare n = s := by
  unfold State.startShare
  rw [h]

theorem State.startShare_begun {s : State} {n : Nat} {o : Kop} (h : s.kop? n = some o) (hb : o.run.begun = true) :
    s.startShare n = s := by
  unfold State.startShare
  simp [h, hb]

theorem State.begun_of_canIssue {s : State} {o : Kop} (h : s.canIssue o = true) : o.run.begun = true ∧ o.run.gdone = false := by
  simp only [State.canIssue, Kop.canIssue, Bool.and_eq_true, Bool.not_eq_true'] at h
  obtain ⟨⟨⟨⟨⟨⟨hb, hg⟩, _⟩, _⟩, _⟩, _⟩, _⟩ := h
  exact ⟨hb, hg⟩

/-- A share of which the operation or the program goes on stays where it is (R151). -/
theorem State.shareEnds_goesOn {s : State} {n : Nat} {r : Run} {rs : List Run} (hq : (s.stable n).queue = r :: rs)
    (h : (r.kdone && r.gdone) = false) : s.shareEnds n = s := by
  have hr : (!(r.begun && r.kdone && r.gdone)) = true := by rw [Bool.and_assoc, h, Bool.and_false]; rfl
  unfold State.shareEnds
  simp only [hq]
  exact if_pos hr

/-! ### The mark that a program has ended (R174) -/

theorem State.groomEnds_rest (s : State) (o : Kop) : s.groomEnds o = { s with stables := (s.groomEnds o).stables } := by
  unfold State.groomEnds
  split <;> rfl

theorem State.stable_groomEnds_other {s : State} {o : Kop} {k : Nat} (h : k ≠ o.stable) :
    (s.groomEnds o).stable k = s.stable k := by
  unfold State.groomEnds
  split
  · exact State.stable_modStable_other _ _ _ _ h.symm
  · rfl

/-- A share of which the program had not ended is marked exactly when the program stands behind its last word. -/
theorem State.stable_groomEnds_same {s : State} {o : Kop} {r : Run} {rs : List Run} (hl : o.stable < s.stables.length)
    (hq : (s.stable o.stable).queue = r :: rs) (hr : r.gdone = false) :
    (s.groomEnds o).stable o.stable = { s.stable o.stable with
      queue := { r with gdone := decide (o.k.progLen ≤ (s.groom o.stable).pc) } :: rs } := by
  unfold State.groomEnds
  split
  next h =>
    refine (State.stable_modStable_same _ _ _ hl).trans ?_
    unfold Stable.modRun
    rw [hq, decide_eq_true h]
  next h => rw [decide_eq_false h, ← hr, ← hq]

/-! ### Which instruction issues (R150, R159, R173, R182) -/

theorem onUnit_exists {n k : Nat} (h : n < k) (s : State) : onUnit (n < k) s = .next s := if_pos (decide_eq_true h)
theorem onUnit_missing {n k : Nat} (h : k ≤ n) (s : State) : onUnit (n < k) s = .fault .noSuchUnit :=
  if_neg (by simpa using h)

section Issue
variable {op n w : Nat} {f : Kop → Nat → State → State} {s : State} {o : Kop}

theorem issueGroom_stopped (h : s.running = false) : issueGroom op f n s = s := by
  simp [issueGroom, h]

theorem issueGroom_noShare (h : s.kop? n = none) : issueGroom op f n s = s := by
  simp [issueGroom, State.startShare_noShare h, h]

theorem issueGroom_held (h : s.kop? n = some o) (hb : o.run.begun = true) (hi : s.canIssue o = false) :
    issueGroom op f n s = s := by
  simp [issueGroom, State.startShare_begun h hb, h, hi]

theorem issueGroom_otherOp (h : s.groomAt n o w) (hop : GW.op w ≠ op) : issueGroom op f n s = s := by
  obtain ⟨_, _, hrun, hk, hi, hw⟩ := h
  simp [issueGroom, State.startShare_begun hk (State.begun_of_canIssue hi).1, hrun, hk, hi, hw, hop]

/-- The instruction that stands next is carried out; the share is looked at again then. -/
theorem issueGroom_next (h : s.groomAt n o w) (hop : GW.op w = op) (hk : (f o w s).kop? n = some o) :
    issueGroom op f n s = ((f o w s).groomEnds o).shareEnds n := by
  obtain ⟨_, _, hrun, hk', hi, hw⟩ := h
  simp [issueGroom, State.startShare_begun hk' (State.begun_of_canIssue hi).1, hrun, hk', hi, hw, hop, hk]

end Issue

/-! ### An instruction of the groom alone -/

/-- The groom of the share's stable changes by a function of the share, the word and itself. -/
def onShare (f : Kop → Nat → Groom → Groom) (o : Kop) (w : Nat) (s : State) : State := s.modGroom o.stable (f o w)

theorem State.stable_modGroom_same {s : State} {n : Nat} (f : Groom → Groom) (h : n < s.stables.length) :
    (s.modGroom n f).stable n = { s.stable n with groom := f (s.groom n), watch := 0, warned := false } :=
  State.stable_modStable_same _ _ _ h

theorem State.kop?_modGroom {s : State} {n : Nat} (f : Groom → Groom) (h : n < s.stables.length) :
    (s.modGroom n f).kop? n = s.kop? n :=
  State.kop?_congr (by rw [State.stable_modGroom_same f h]) rfl

/-- What an issued instruction of the groom alone leaves: the groom that it made, the mark at the share, every other stable and the rest of the state as they were. -/
theorem issueGroom_onShare {op n w : Nat} {f : Kop → Nat → Groom → Groom} {s : State} {o : Kop} (hat : s.groomAt n o w)
    (hop : GW.op w = op) (hgo : o.run.kdone = false ∨ (f o w (s.groom n)).pc < o.k.progLen) :
    let t := issueGroom op (onShare f) n s
    t = { s with stables := t.stables } ∧ (∀ k, k ≠ n → t.stable k = s.stable k) ∧
      t.stable n = { s.stable n with
        groom := f o w (s.groom n), watch := 0, warned := false
        queue := { o.run with gdone := decide (o.k.progLen ≤ (f o w (s.groom n)).pc) } :: (s.stable n).queue.tail } := by
  obtain ⟨_, hl, _, hk, hi, _⟩ := id hat
  obtain ⟨rfl, hq⟩ := State.queue_of_kop? hk
  have hu := State.stable_modGroom_same (f o w) hl
  have hlu : o.stable < (s.modGroom o.stable (f o w)).stables.length := by
    simpa [State.modGroom] using hl
  have hqu : ((s.modGroom o.stable (f o w)).stable o.stable).queue = o.run :: (s.stable o.stable).queue.tail := by
    rw [hu]
    exact hq
  have hgu : (s.modGroom o.stable (f o w)).groom o.stable = f o w (s.groom o.stable) := congrArg Stable.groom hu
  have hm := State.stable_groomEnds_same hlu hqu (State.begun_of_canIssue hi).2
  rw [hgu] at hm
  have hstays : (o.run.kdone && decide (o.k.progLen ≤ (f o w (s.groom o.stable)).pc)) = false := by
    rcases hgo with h | h
    · rw [h, Bool.false_and]
    · rw [decide_eq_false (Nat.not_le.2 h), Bool.and_false]
  have ht : issueGroom op (onShare f) o.stable s = (s.modGroom o.stable (f o w)).groomEnds o :=
    (issueGroom_next hat hop ((State.kop?_modGroom _ hl).trans hk)).trans
      (State.shareEnds_goesOn (congrArg Stable.queue hm) hstays)
  rw [ht]
  refine ⟨State.groomEnds_rest _ _, fun k hk => ?_, ?_⟩
  · rw [State.stable_groomEnds_other hk]
    exact State.stable_modStable_other _ _ _ _ hk.symm
  · rw [hm, hu]

/-! ### An instruction that ends (R171, R176-R178) -/

@[simp] theorem Groom.ends_pc (g : Groom) (flags : Nat) : (g.ends flags).pc = (loopBack (g.pc + 1) g.loops).1 := rfl

/-- An instruction that ends with these flags, its own change of the groom having left position, loops and flag word alone, ends as groomEnded says. -/
theorem exec_groomEnded {i : Instr} {op n w flags : Nat} {f : Kop → Nat → Groom → Groom} {s : State} {o : Kop} {g : Groom}
    (hat : s.groomAt n o w) (hop : GW.op w = op) (hgo : s.groomGoesOn n o) (hf : f o w (s.groom n) = g.ends flags)
    (hpc : g.pc = (s.groom n).pc) (hloops : g.loops = (s.groom n).loops) (hflags : g.flags = (s.groom n).flags)
    (hx : exec i s = onUnit (n < 72) (issueGroom op (onShare f) n s)) :
    ∃ t, exec i s = .next t ∧ groomEnded s t n o flags ∧ t.groom n = g.ends flags := by
  have hends : (g.ends flags).pc = (loopBack ((s.groom n).pc + 1) (s.groom n).loops).1 := by rw [Groom.ends_pc, hpc, hloops]
  have hgo' : o.run.kdone = false ∨ (f o w (s.groom n)).pc < o.k.progLen := by rwa [hf, hends]
  obtain ⟨ht, hother, hn⟩ := issueGroom_onShare hat hop hgo'
  rw [hf] at hn
  have hgroom : (issueGroom op (onShare f) n s).groom n = g.ends flags := congrArg Stable.groom hn
  refine ⟨_, hx.trans (onUnit_exists hat.1 _), ⟨ht, hother, ?_, ?_, ?_, ?_, ?_, ?_, ?_⟩, hgroom⟩
  · rw [hn]
  · rw [hgroom, hends]
  · rw [hgroom]; rfl
  · rw [hgroom]; rfl
  · rw [hgroom, ← hflags]; rfl
  · rw [hn]; rfl
  · rw [hgroom, hn]; rfl

/-! ### The commands (R159) -/

/-- A groom command issues an instruction of its opcode on a stable that exists. -/
theorem exec_of_groomOp {i : Instr} {n op : Nat} (h : groomOp i = some (n, op)) :
    ∃ f, ∀ s, exec i s = onUnit (n < 72) (issueGroom op f n s) := by
  unfold groomOp at h
  split at h
  case h_38 => cases h
  all_goals
    obtain ⟨rfl, rfl⟩ := Prod.mk.inj (Option.some.inj h)
    exact ⟨_, fun _ => rfl⟩

theorem exec_of_elementOp {i : Instr} {n op : Nat} {f : Nat → Groom → Nat → Nat → ERes} {mode : Nat → Rnd}
    (h : elementOp i = some (n, f, mode)) (hop : groomOp i = some (n, op)) (s : State) :
    exec i s = onUnit (n < 72) (issueGroom op (onShare fun _ w => Groom.elementwise (f w) (mode w) w) n s) := by
  unfold elementOp at h
  split at h
  case h_24 => cases h
  all_goals
    cases h
    cases hop
    rfl

theorem exec_of_reductionOp {i : Instr} {n op : Nat} {rows isSum : Bool} {f : Rnd → Ext → Ext → ERes}
    (h : reductionOp i = some (n, rows, isSum, f)) (hop : groomOp i = some (n, op)) (s : State) :
    exec i s = onUnit (n < 72) (issueGroom op (onShare fun _ w => Groom.reduction rows isSum f w) n s) := by
  unfold reductionOp at h
  split at h
  case h_7 => cases h
  all_goals
    cases h
    cases hop
    rfl

/-! ### Results in a list of their own -/

theorem Groom.ldk_eq (w : Nat) (g : Groom) :
    g.ldk w = (g.putAll (GW.wd w) (GW.dst w) ((List.range (GW.cnt w)).map fun _ => ⟨Fp.canon32 (GW.value w), 0⟩)).ends 0 := by
  rw [List.map_const', List.length_range]
  rfl

/-- The values and the flags of results that are listed together. -/
theorem Groom.ends_results (g : Groom) (wide : Bool) (reg n : Nat) (res : Nat → Fp.WideRes) :
    (g.putAll wide reg (((List.range n).map res).map (·.v))).ends (flagsAll (((List.range n).map res).map (·.flags))) =
      (g.putAll wide reg ((List.range n).map fun k => (res k).v)).ends (flagsAll ((List.range n).map fun k => (res k).flags)) := by
  rw [List.map_map, List.map_map]
  rfl

theorem Groom.elementwise_eq (f : Groom → Nat → Nat → ERes) (mode : Rnd) (w : Nat) (g : Groom) :
    let res := fun k => placed (GW.wd w) mode (f g w k)
    g.elementwise f mode w = (g.putAll (GW.wd w) (GW.dst w) ((List.range (GW.cnt w)).map fun k => (res k).v)).ends
      (flagsAll ((List.range (GW.cnt w)).map fun k => (res k).flags)) :=
  g.ends_results ..

theorem Groom.reduction_eq (rows isSum : Bool) (f : Rnd → Ext → Ext → ERes) (w : Nat) (g : Groom) :
    let mode := if isSum then addMode w else .rne
    let many := if rows then ceilDiv (GW.cnt w) 64 else min (min (GW.cnt w) 64) (GW.ncol w)
    let res := fun k => reduceTo (GW.wd w) isSum mode (f mode)
      ((List.range 64).map fun j => if rows then g.present w k j else g.present w j k)
    g.reduction rows isSum f w = (g.putAll (GW.wd w) (GW.dst w) ((List.range many).map fun k => (res k).v)).ends
      (flagsAll ((List.range many).map fun k => (res k).flags)) :=
  g.ends_results ..

/-- An instruction that puts m results in its destination and ends with these flags (R156, R158, R171). -/
theorem exec_putAll {i : Instr} {op n w m flags : Nat} {f : Kop → Nat → Groom → Groom} {s : State} {o : Kop} {wide : Bool}
    {res : Nat → Fp.Pair} (hat : s.groomAt n o w) (hop : GW.op w = op) (hgo : s.groomGoesOn n o)
    (htiles : (s.groom n).tiles.length = 8)
    (hf : f o w (s.groom n) = ((s.groom n).putAll wide (GW.dst w) ((List.range m).map res)).ends flags)
    (hx : exec i s = onUnit (n < 72) (issueGroom op (onShare f) n s)) :
    ∃ t, exec i s = .next t ∧ groomEnded s t n o flags ∧
      (∀ k, k < m → (t.groom n).elemAt (GW.dst w) k = (res k).hi) ∧
      (wide = true → GW.dst w ≠ 7 → ∀ k, k < m → (t.groom n).elemAt (GW.dst w + 1) k = (res k).lo) ∧
      (∀ r k, offDest wide (GW.dst w) r ∨ m ≤ k → (t.groom n).elemAt r k = (s.groom n).elemAt r k) ∧
      (t.groom n).sums = (s.groom n).sums ∧ (t.groom n).pos = (s.groom n).pos := by
  obtain ⟨t, ht, hends, hg⟩ := exec_groomEnded hat hop hgo hf (Groom.putAll_pc ..) (Groom.putAll_loops ..)
    (Groom.putAll_flags ..) hx
  obtain ⟨hhi, hlo, hother⟩ := Groom.elemAt_putAll_range wide w m res htiles
  refine ⟨t, ht, hends, ?_⟩
  rw [hg]
  exact ⟨hhi, hlo, hother, Groom.putAll_sums .., Groom.putAll_pos ..⟩

/-- Settles O42: an instruction that does not stand next leaves the state as issueGroom returns it at once, and each of the four is its own change of the groom. -/
theorem groomIssuesInProgramOrder : Obligations.GroomIssuesInProgramOrder := by
  refine ⟨⟨?otherOp, ?stopped, ?noShare, ?held, ?noUnit⟩, ?ldk, ?rand, ?scal, ?rep⟩
  case otherOp =>
    intro i n op s o w hi hat hop
    obtain ⟨f, hx⟩ := exec_of_groomOp hi
    rw [hx, onUnit_exists hat.1, issueGroom_otherOp hat hop]
  case stopped =>
    intro i n op s hi hn hr
    obtain ⟨f, hx⟩ := exec_of_groomOp hi
    rw [hx, onUnit_exists hn, issueGroom_stopped hr]
  case noShare =>
    intro i n op s hi hn hk
    obtain ⟨f, hx⟩ := exec_of_groomOp hi
    rw [hx, onUnit_exists hn, issueGroom_noShare hk]
  case held =>
    intro i n op s o hi hn hk hb hc
    obtain ⟨f, hx⟩ := exec_of_groomOp hi
    rw [hx, onUnit_exists hn, issueGroom_held hk hb hc]
  case noUnit =>
    intro i n op s hi hn
    obtain ⟨f, hx⟩ := exec_of_groomOp hi
    rw [hx, onUnit_missing hn]
  case ldk =>
    intro n s o w hat hop hgo htiles
    obtain ⟨t, ht, hends, hhi, hlo, hother, _⟩ := exec_putAll (i := .gLdk n) (f := fun _ => Groom.ldk) hat hop hgo htiles
      (Groom.ldk_eq w _) rfl
    exact ⟨t, ht, hends, hhi, hlo, hother⟩
  case rand =>
    intro n s o w hat hop hgo htiles
    obtain ⟨t, ht, hends, hg⟩ := exec_groomEnded (i := .gRand n) (f := Groom.rand) hat hop hgo rfl (Groom.putAll_pc ..)
      (Groom.putAll_loops ..) (Groom.putAll_flags ..) rfl
    obtain ⟨hhi, _, hother⟩ := Groom.elemAt_putAll_range false w (GW.cnt w)
      (fun k => ⟨o.randElem w (s.groom n).rands k, 0⟩) htiles
    refine ⟨t, ht, hends, ?_⟩
    rw [hg]
    exact ⟨rfl, hhi, fun r k h => hother r k (h.imp_left fun hr => ⟨hr, nofun⟩)⟩
  case scal =>
    intro n s o w hat hop hgo hr
    obtain ⟨t, ht, hends, hg⟩ := exec_groomEnded (i := .gScal n) (f := fun _ => Groom.scal)
      (g := { s.groom n with sums := (s.groom n).sums.set (GW.sreg w) ((s.groom n).summary w) }) hat hop hgo rfl rfl rfl rfl rfl
    refine ⟨t, ht, hends, ?_⟩
    rw [hg]
    exact ⟨List.getElem?_set_self hr, fun k hk => List.getElem?_set_ne hk.symm, rfl⟩
  case rep =>
    intro n s o w hat hop hpc
    obtain ⟨ht, hother, hn⟩ := issueGroom_onShare (f := fun _ => Groom.rep) hat hop (.inr hpc)
    have hg : (issueGroom 0x3C (onShare fun _ => Groom.rep) n s).groom n = Groom.rep w (s.groom n) := congrArg Stable.groom hn
    refine ⟨_, onUnit_exists hat.1 (issueGroom 0x3C (onShare fun _ => Groom.rep) n s), ht, ?_⟩
    rw [hg]
    exact ⟨rfl, rfl, rfl, rfl, hother⟩

/-- Settles O43: all results are read from the groom before the instruction and put down one after the other. -/
theorem groomInstructionsWriteTheirResults : Obligations.GroomInstructionsWriteTheirResults := by
  refine ⟨?elementwise, ?reduction⟩
  case elementwise =>
    intro i n op f mode s o w he hi hat hop hgo htiles res
    obtain ⟨t, ht, hends, hhi, hlo, hother, hsums, hpos⟩ := exec_putAll hat hop hgo htiles
      (Groom.elementwise_eq (f w) (mode w) w _) (exec_of_elementOp he hi s)
    exact ⟨t, ht, hends, hhi, hlo, hother, hsums, hpos⟩
  case reduction =>
    intro i n op rows isSum f s o w hr hi hat hop hgo htiles mode many res
    obtain ⟨t, ht, hends, hhi, _, hother, _⟩ := exec_putAll hat hop hgo htiles
      (Groom.reduction_eq rows isSum f w _) (exec_of_reductionOp hr hi s)
    exact ⟨t, ht, hends, hhi, hother⟩

end Sys2Proof.Machine
end

section
/-! PROOFS. The long accumulator (R197-R201): sums of terms combine by a commutative and associative rule, so the terms decide the value and the flags; a finite value reads back from its 16 bytes. -/

namespace Sys2Proof.Machine

/-! ### The value of the terms of both (R201) -/

@[simp] theorem Long.nan_add (a : Acc) : Long.add .nan a = .nan := rfl

@[simp] theorem Long.add_nan (a : Acc) : Long.add a .nan = .nan := by
  cases a <;> rfl

theorem Long.add_comm (a b : Acc) : Long.add a b = Long.add b a := by
  cases a <;> cases b
  case inf.inf m n => cases m <;> cases n <;> rfl
  case sat.sat p n p' n' => simp only [Long.add, Bool.or_comm]
  case fin.fin v w => simp only [Long.add, Int.add_comm]
  all_goals rfl

/-- Of two classes the higher one hides the lower one, so only sums within one class need a law of their own; infinities of both signs make NaN wherever they meet. -/
theorem Long.add_assoc (a b c : Acc) : Long.add (Long.add a b) c = Long.add a (Long.add b c) := by
  cases a <;> cases b <;> cases c
  case inf.inf.nan l m => cases l <;> cases m <;> rfl
  case inf.inf.inf l m n => cases l <;> cases m <;> cases n <;> rfl
  case inf.inf.sat l m p n => cases l <;> cases m <;> rfl
  case inf.inf.fin l m v => cases l <;> cases m <;> rfl
  case sat.inf.inf p n l m => cases l <;> cases m <;> rfl
  case fin.inf.inf v l m => cases l <;> cases m <;> rfl
  case sat.sat.sat => simp only [Long.add, Bool.or_assoc]
  case fin.fin.fin => simp only [Long.add, Int.add_assoc]
  all_goals rfl

theorem Long.add_associative : Std.Associative Long.add := ⟨Long.add_assoc⟩

/-! ### The sum of a list of terms (R201) -/

/-- A term over the range (R199). -/
def Acc.isSat : Acc → Bool
  | .sat _ _ => true
  | _ => false

/-- A positive term over the range. -/
def Acc.satPos : Acc → Bool
  | .sat p _ => p
  | _ => false

/-- A negative term over the range. -/
def Acc.satNeg : Acc → Bool
  | .sat _ n => n
  | _ => false

/-- What a term adds to an exact sum. -/
def Acc.finPart : Acc → Int
  | .fin v => v
  | _ => 0

/-- R201's value of terms that are neither NaN nor infinite. -/
def Long.finTotal (ts : List Acc) : Acc :=
  if ts.any Acc.isSat then .sat (ts.any Acc.satPos) (ts.any Acc.satNeg)
  else .fin (ts.map Acc.finPart).sum

/-- R201's value of a set of terms, rule by rule. -/
def Long.total (ts : List Acc) : Acc :=
  if .nan ∈ ts ∨ (.inf false ∈ ts ∧ .inf true ∈ ts) then .nan
  else if .inf false ∈ ts then .inf false
  else if .inf true ∈ ts then .inf true
  else Long.finTotal ts

theorem Acc.isSat_of_sign {a : Acc} (h : a.satPos = true ∨ a.satNeg = true) : a.isSat = true := by
  cases a with
  | sat p n => rfl
  | _ => exact h.elim nofun nofun

/-- Terms none of which is over the range have no sign of one that is. -/
theorem Acc.any_sign_eq_false {ts : List Acc} (h : ¬ ts.any Acc.isSat = true) :
    ts.any Acc.satPos = false ∧ ts.any Acc.satNeg = false := by
  simp only [List.any_eq_true, not_exists, not_and] at h
  simp only [List.any_eq_false]
  exact ⟨fun a ha hp => h a ha (Acc.isSat_of_sign (.inl hp)), fun a ha hn => h a ha (Acc.isSat_of_sign (.inr hn))⟩

theorem Long.inf_add_finTotal (m : Bool) (ts : List Acc) : Long.add (.inf m) (Long.finTotal ts) = .inf m := by
  rw [Long.finTotal]
  split <;> rfl

theorem Long.finTotal_cons_sat (p n : Bool) (ts : List Acc) :
    Long.finTotal (.sat p n :: ts) = Long.add (.sat p n) (Long.finTotal ts) := by
  by_cases hs : ts.any Acc.isSat = true
  · simp only [Long.finTotal, List.any_cons, Acc.isSat, Acc.satPos, Acc.satNeg, hs, Bool.true_or, if_true, Long.add]
  · obtain ⟨hp, hn⟩ := Acc.any_sign_eq_false hs
    simp only [Long.finTotal, List.any_cons, Acc.isSat, Acc.satPos, Acc.satNeg, hs, hp, hn, Bool.or_false, if_true,
      if_false, Bool.false_eq_true, Long.add]

theorem Long.finTotal_cons_fin (v : Int) (ts : List Acc) :
    Long.finTotal (.fin v :: ts) = Long.add (.fin v) (Long.finTotal ts) := by
  simp only [Long.finTotal, List.any_cons, List.map_cons, List.sum_cons, Acc.isSat, Acc.satPos, Acc.satNeg, Acc.finPart,
    Bool.false_or]
  split <;> rfl

/-- Below NaN and the infinities, a term leaves the classes above it as they are. -/
theorem Long.total_cons_of_below {t : Acc} {ts : List Acc} (hnan : .nan ≠ t) (hinf : ∀ m, .inf m ≠ t)
    (hadd : ∀ m, Long.add t (.inf m) = .inf m) (hfin : Long.finTotal (t :: ts) = Long.add t (Long.finTotal ts)) :
    Long.total (t :: ts) = Long.add t (Long.total ts) := by
  simp only [Long.total, List.mem_cons, hnan, hinf, false_or, hfin]
  repeat' split
  · exact (Long.add_nan t).symm
  · exact (hadd false).symm
  · exact (hadd true).symm
  · rfl

theorem Long.total_of_nan {ts : List Acc} (h : .nan ∈ ts) : Long.total ts = .nan := if_pos (.inl h)

theorem Long.total_cons (t : Acc) (ts : List Acc) : Long.total (t :: ts) = Long.add t (Long.total ts) := by
  cases t with
  | nan => exact Long.total_of_nan List.mem_cons_self
  | inf m =>
    by_cases hnan : .nan ∈ ts
    · rw [Long.total_of_nan (List.mem_cons_of_mem _ hnan), Long.total_of_nan hnan, Long.add_nan]
    by_cases hpos : .inf false ∈ ts <;> by_cases hneg : .inf true ∈ ts <;> cases m <;>
      simp only [Long.total, List.mem_cons, hnan, hpos, hneg, reduceCtorEq, Acc.inf.injEq, or_true, or_false, and_true, and_false,
        if_true, if_false, Long.inf_add_finTotal] <;> rfl
  | sat p n => exact Long.total_cons_of_below nofun nofun (fun _ => rfl) (Long.finTotal_cons_sat p n ts)
  | fin v => exact Long.total_cons_of_below nofun nofun (fun _ => rfl) (Long.finTotal_cons_fin v ts)

theorem Long.foldl_add_zero (ts : List Acc) : ts.foldl Long.add Long.zero = Long.total ts := by
  have := Long.add_associative
  induction ts with
  | nil => rfl
  | cons t ts ih => rw [List.foldl_cons, Long.add_comm, List.foldl_assoc, ih, Long.total_cons]

/-! ### Flags of a list of terms (R199, R201) -/

theorem flagOr_comm (a b : Nat) : flagOr a b = flagOr b a := Nat.or_comm a b

theorem flagOr_assoc (a b c : Nat) : flagOr (flagOr a b) c = flagOr a (flagOr b c) := Nat.or_assoc a b c

@[simp] theorem flagOr_zero (a : Nat) : flagOr a 0 = a := Nat.or_zero a
@[simp] theorem zero_flagOr (a : Nat) : flagOr 0 a = a := Nat.zero_or a

theorem flagsAll_perm {fs gs : List Nat} (h : fs.Perm gs) : flagsAll fs = flagsAll gs := by
  refine h.foldl_eq' (fun f _ g _ a => ?_) 0
  rw [flagOr_assoc, flagOr_comm f, ← flagOr_assoc]

theorem flagsAll_cons (f : Nat) (fs : List Nat) : flagsAll (f :: fs) = flagOr f (flagsAll fs) := by
  have : Std.Associative flagOr := ⟨flagOr_assoc⟩
  rw [flagsAll, List.foldl_cons, flagOr_comm 0 f, List.foldl_assoc, flagsAll]

theorem Long.foldl_add_nan (ts : List Acc) : ts.foldl Long.add .nan = .nan := by
  induction ts with
  | nil => rfl
  | cons t ts ih => exact ih

/-- A term that is NaN brings INV itself (R199). -/
theorem Long.term_flags_of_nan {t : Ext} (h : (Long.term t).acc = .nan) : (Long.term t).flags = flagINV := by
  cases t with
  | nan => rfl
  | inf n => cases h
  | zero n => cases h
  | fin d =>
    simp only [Long.term] at h
    split at h <;> exact nomatch h

/-- INV where a sum has become NaN: the value is, and the accumulator that it began from was not (R175, R208). -/
def Long.newNaN (a r : Acc) : Nat := flagIf (r == .nan && a != .nan) flagINV

@[simp] theorem Long.newNaN_self (a : Acc) : Long.newNaN a a = 0 := by
  cases a <;> rfl

theorem Long.newNaN_of_ne {a : Acc} (h : a ≠ .nan) (r : Acc) : Long.newNaN a r = flagIf (r == .nan) flagINV := by
  rw [Long.newNaN, bne_iff_ne.2 h, Bool.and_true]

@[simp] theorem Long.newNaN_nan (r : Acc) : Long.newNaN .nan r = 0 := by
  rw [Long.newNaN, show (Acc.nan != .nan) = false from rfl, Bool.and_false]
  rfl

/-- A sum that becomes NaN stays NaN, so one of two steps makes it so exactly where both together do. -/
theorem Long.newNaN_foldl (a b : Acc) (ts : List Acc) :
    flagOr (Long.newNaN a (Long.add a b)) (Long.newNaN (Long.add a b) (ts.foldl Long.add (Long.add a b))) =
      Long.newNaN a (ts.foldl Long.add (Long.add a b)) := by
  by_cases ha : a = .nan
  · simp only [ha, Long.nan_add, Long.newNaN_nan, flagOr_zero]
  by_cases hr : Long.add a b = .nan
  · rw [hr, Long.foldl_add_nan, Long.newNaN_self, flagOr_zero]
  · rw [Long.newNaN_of_ne ha, Long.newNaN_of_ne hr, Long.newNaN_of_ne ha, beq_false_of_ne hr]
    exact zero_flagOr _

theorem Long.inv_or_newNaN (a r : Acc) : flagOr flagINV (Long.newNaN a r) = flagINV := by
  rw [Long.newNaN]
  cases r == .nan && a != .nan <;> rfl

/-- A term that is NaN has INV already, so what a term adds to the flags does not depend on its class (R199). -/
theorem Long.take_term (a : Acc) (f : Nat) (t : Ext) :
    Long.take ⟨a, f⟩ (Long.term t) =
      ⟨Long.add a (Long.term t).acc, flagOr f (flagOr (Long.term t).flags (Long.newNaN a (Long.add a (Long.term t).acc)))⟩ := by
  by_cases ht : (Long.term t).acc = .nan
  · rw [Long.take, ht, Long.add_nan, Long.term_flags_of_nan ht, show (Acc.nan != .nan) = false from rfl, Bool.and_false,
      Long.inv_or_newNaN, flagOr_assoc]
    rfl
  · rw [Long.take, bne_iff_ne.2 ht, Bool.and_true, flagOr_assoc, Long.newNaN]

/-- An accumulator takes terms: the sum of all, the flags of each, and INV where the sum became NaN (R175, R201). -/
theorem Long.foldl_take (a : Acc) (f : Nat) (ts : List Ext) :
    ts.foldl (fun r t => Long.take r (Long.term t)) ⟨a, f⟩ =
      ⟨(ts.map fun t => (Long.term t).acc).foldl Long.add a,
        flagOr f (flagOr (flagsAll (ts.map fun t => (Long.term t).flags))
          (Long.newNaN a ((ts.map fun t => (Long.term t).acc).foldl Long.add a)))⟩ := by
  induction ts generalizing a f with
  | nil =>
    simp only [List.map_nil, List.foldl_nil, flagsAll, Long.newNaN_self, flagOr_zero]
  | cons t ts ih =>
    have hinv := Long.newNaN_foldl a (Long.term t).acc (ts.map fun t => (Long.term t).acc)
    rw [List.foldl_cons, Long.take_term, ih, List.map_cons, List.foldl_cons, List.map_cons, flagsAll_cons, ← hinv]
    congr 1
    simp only [flagOr]
    ac_rfl

theorem Accum.take_exact (a : Acc) (ts : List Ext) :
    (Accum.exact a).take ts =
      (.exact ((ts.map fun t => (Long.term t).acc).foldl Long.add a),
        flagOr (flagsAll (ts.map fun t => (Long.term t).flags))
          (Long.newNaN a ((ts.map fun t => (Long.term t).acc).foldl Long.add a))) := by
  simp only [Accum.take, Long.foldl_take, zero_flagOr]

theorem Long.foldl_add_perm (a : Acc) {ts us : List Acc} (h : ts.Perm us) : ts.foldl Long.add a = us.foldl Long.add a := by
  refine h.foldl_eq' (fun t _ u _ b => ?_) a
  rw [Long.add_assoc, Long.add_comm t, ← Long.add_assoc]

theorem Accum.take_exact_perm (a : Acc) {ts us : List Ext} (h : ts.Perm us) :
    (Accum.exact a).take ts = (Accum.exact a).take us := by
  have hsum := Long.foldl_add_perm a (h.map fun t => (Long.term t).acc)
  have hflags := flagsAll_perm (h.map fun t => (Long.term t).flags)
  rw [Accum.take_exact, Accum.take_exact, hsum, hflags]

/-! ### The 16 bytes of a finite value (R197) -/

theorem leVal_leBytes (n v : Nat) : leVal (leBytes n v) = v % 256 ^ n := by
  induction n generalizing v with
  | zero => exact (Nat.mod_one v).symm
  | succ n ih => rw [leBytes, leVal, ih, BitVec.toNat_ofNat, show 2 ^ 8 = 256 from rfl, Nat.pow_succ', Nat.mod_mul]

theorem unsignedOf_lt (n : Nat) (i : Int) : unsignedOf n i < 2 ^ n := by
  have hpos : (0 : Int) < ((2 ^ n : Nat) : Int) := Int.natCast_pos.2 (Nat.two_pow_pos n)
  have h := Int.emod_lt_of_pos i hpos
  rw [unsignedOf]
  omega

theorem unsignedOf_of_nonneg {n : Nat} {i : Int} (h0 : 0 ≤ i) (h1 : i < (2 ^ n : Nat)) : (unsignedOf n i : Int) = i := by
  rw [unsignedOf, Int.emod_eq_of_lt h0 h1, Int.toNat_of_nonneg h0]

theorem unsignedOf_of_neg {n : Nat} {i : Int} (h0 : i < 0) (h1 : -(2 ^ n : Nat) ≤ i) :
    (unsignedOf n i : Int) = i + (2 ^ n : Nat) := by
  rw [unsignedOf, ← Int.add_emod_right, Int.emod_eq_of_lt (by omega) (by omega), Int.toNat_of_nonneg (by omega)]

/-- A number of the two's-complement range is read back from its low bits. -/
theorem signedOf_unsignedOf {n : Nat} {i : Int} (hlo : -(2 ^ n : Nat) ≤ 2 * i) (hhi : 2 * i < (2 ^ n : Nat)) :
    signedOf n (unsignedOf n i) = i := by
  rw [signedOf, Nat.mod_eq_of_lt (unsignedOf_lt n i)]
  rcases Int.lt_or_le i 0 with h0 | h0
  · have h := unsignedOf_of_neg (n := n) h0 (by omega)
    split <;> omega
  · have h := unsignedOf_of_nonneg (n := n) h0 (by omega)
    split <;> omega

/-- The finite values keep clear of the six patterns of the state codes (R197). -/
theorem Long.ofBits_toBits_fin {v : Int} (hlo : -(2 ^ 127 - 6) ≤ v) (hhi : v < 2 ^ 127) :
    Long.ofBits (Long.toBits (.fin v)) = .fin v := by
  have hlt := unsignedOf_lt 128 v
  have hback : signedOf 128 (unsignedOf 128 v) = v := signedOf_unsignedOf (by omega) (by omega)
  have hclear : unsignedOf 128 v < 2 ^ 127 ∨ 2 ^ 127 + 6 ≤ unsignedOf 128 v := by
    rcases Int.lt_or_le v 0 with h0 | h0
    · have h := unsignedOf_of_neg (n := 128) h0 (by omega)
      omega
    · have h := unsignedOf_of_nonneg (n := 128) h0 (by omega)
      omega
  simp only [Long.toBits, Long.ofBits, Nat.mod_eq_of_lt hlt, hback]
  iterate 6 rw [if_neg (by omega)]

theorem Long.toBits_lt (a : Acc) : Long.toBits a < 2 ^ 128 := by
  unfold Long.toBits
  split
  case h_7 => exact unsignedOf_lt ..
  all_goals decide

theorem Accum.leVal_bytes_exact (a : Acc) : leVal (Accum.bytes (.exact a)) = Long.toBits a := by
  rw [Accum.bytes, leVal_leBytes]
  exact Nat.mod_eq_of_lt (Long.toBits_lt a)

/-- Settles O50: terms combine by a commutative and associative sum, whose value is that of R201's rules. -/
theorem accumulatorIsDecidedByItsTerms : Obligations.AccumulatorIsDecidedByItsTerms := by
  refine ⟨Long.foldl_add_zero, fun a ts us h => Accum.take_exact_perm a h, fun v ts => ?flags, fun v hlo hhi => ?bytes⟩
  case flags =>
    rw [Accum.take_exact, Long.newNaN_of_ne (show Acc.fin v ≠ .nan from nofun)]
  case bytes =>
    rw [Accum.leVal_bytes_exact, Long.ofBits_toBits_fin hlo hhi]

end Sys2Proof.Machine
end

section
/-! PROOFS. The letters of a pigeonhole (R318-R320): what a write of one position makes of a letter, which letters stay and which are freed when a record ends. -/

namespace Sys2Proof.Machine

/-! ### A write of one position (R318) -/

/-- A first write to the last position of a letter completes it. -/
theorem Letter.write_last {l : Letter} {n part j : Nat} (hnew : (part, j) ∉ l.written) (hn : l.written.length + 1 = n) :
    l.write n part j = { l with state := .ready, written := [] } := by
  simp only [Letter.write, List.contains_iff_mem, if_neg hnew, List.length_cons, if_pos hn]

/-- A first write to another position is counted. -/
theorem Letter.write_new {l : Letter} {n part j : Nat} (hnew : (part, j) ∉ l.written) (hn : l.written.length + 1 ≠ n) :
    l.write n part j = { l with written := (part, j) :: l.written } := by
  simp only [Letter.write, List.contains_iff_mem, if_neg hnew, List.length_cons, if_neg hn]

/-- A later write to a position of an incomplete letter is not counted again. -/
theorem Letter.write_again {l : Letter} {n part j : Nat} (hold : (part, j) ∈ l.written) (hn : l.written.length ≠ n) :
    l.write n part j = l := by
  simp only [Letter.write, List.contains_iff_mem, if_pos hold, if_neg hn]

/-! ### A record ends (R320) -/

/-- The letter is held by the record with this ordinal (R319, R326). -/
def Letter.HeldBy (l : Letter) (ordinal : Nat) : Prop := l.state = .held ∧ l.holder = some ordinal

theorem Pigeon.mem_release_letters {g : Pigeon} {i : Nat} {l : Letter} :
    l ∈ (g.release i).letters ↔ l ∈ g.letters ∧ ¬ l.HeldBy i := by
  simp only [Pigeon.release, Letter.HeldBy, List.mem_filter, Bool.not_eq_true', List.contains_eq_mem, decide_eq_false_iff_not,
    Bool.and_eq_true, beq_iff_eq]
  exact and_congr_right fun hl => not_congr (and_iff_right hl)

theorem Pigeon.freed_prefix_release (g : Pigeon) (i : Nat) : g.freed <+: (g.release i).freed := List.prefix_append ..

theorem Pigeon.ordinal_mem_release_freed {g : Pigeon} {i : Nat} {l : Letter} (hl : l ∈ g.letters) (hi : l.HeldBy i) :
    l.ordinal ∈ (g.release i).freed := by
  obtain ⟨hstate, hholder⟩ := hi
  have hmine : l ∈ g.letters.filter fun l => l.state == .held && l.holder == some i :=
    List.mem_filter.2 ⟨hl, Bool.and_eq_true_iff.2 ⟨beq_iff_eq.2 hstate, beq_iff_eq.2 hholder⟩⟩
  exact List.mem_append_right _ (List.mem_map_of_mem hmine)

/-- Settles O56: a letter after a write is given case by case, and what a record's end leaves is the letters that it does not hold. -/
theorem pigeonholeLettersFillAndGoFree : Obligations.PigeonholeLettersFillAndGoFree := by
  refine ⟨?last, ?new, ?again, fun g i => ⟨?stays, ?kept, ?freed, g.freed_prefix_release i⟩⟩
  case last =>
    intro l n part j _ hnew hn
    rw [Letter.write_last hnew hn]
  case new =>
    intro l n part j hfilling hnew hn
    rw [Letter.write_new hnew (Nat.ne_of_lt hn)]
    exact ⟨hfilling, rfl⟩
  case again => exact fun l n part j hold hn => Letter.write_again hold (Nat.ne_of_lt hn)
  case stays => exact fun l hl => Pigeon.mem_release_letters.1 hl
  case kept => exact fun l hl hi => Pigeon.mem_release_letters.2 ⟨hl, hi⟩
  case freed => exact fun l hl hstate hholder => Pigeon.ordinal_mem_release_freed hl ⟨hstate, hholder⟩

end Sys2Proof.Machine
end

section
/-! PROOFS. STEP_RUN (R334, R527, R577): what decide() can make of a context, what a context's entering of a state leaves of the module, and the answers of STEP_RUN. -/

namespace Sys2Proof.Machine

/-! ### A context after a change -/

theorem Paddock.ctx_modCtx_same {d : Paddock} {c : Nat} {x : Ctx} (f : Ctx → Ctx) (h : d.ctx c = some x) :
    (d.modCtx c f).ctx c = some (f x) := by
  have hc : c < d.ctxs.length := by
    refine Nat.lt_of_not_le fun hge => ?_
    rw [Paddock.ctx, List.getD_eq_getElem?_getD, List.getElem?_eq_none hge] at h
    cases h
  exact (getD_modify_same _ _ _ _ hc).trans (congrArg (Option.map f) h)

theorem Paddock.ctx_modCtx_other {c k : Nat} (d : Paddock) (f : Ctx → Ctx) (h : c ≠ k) : (d.modCtx c f).ctx k = d.ctx k :=
  getD_modify_other _ _ _ _ _ h

/-- A paddock with a context is one of the module's. -/
theorem State.pad_lt_of_ctx {s : State} {p c : Nat} {x : Ctx} (h : s.ctx p c = some x) : p < s.pads.length := by
  refine Nat.lt_of_not_le fun hge => ?_
  rw [State.ctx, State.pd, List.getD_eq_getElem?_getD, List.getElem?_eq_none hge] at h
  have bare : Paddock.closed.ctx c = none := by
    simp only [Paddock.ctx, Paddock.closed, List.getD_eq_getElem?_getD, List.getElem?_replicate]
    split <;> rfl
  cases bare.symm.trans h

theorem State.ctx_modPd {s : State} {p c : Nat} {x : Ctx} (f : Paddock → Paddock) (h : s.ctx p c = some x) :
    (s.modPd p f).ctx p c = (f (s.pd p)).ctx c :=
  congrArg (Paddock.ctx · c) (s.pd_modPd_same p f (State.pad_lt_of_ctx h))

theorem State.ctx_modCtx_same {s : State} {p c : Nat} {x : Ctx} (f : Ctx → Ctx) (h : s.ctx p c = some x) :
    (s.modCtx p c f).ctx p c = some (f x) :=
  (State.ctx_modPd _ h).trans (Paddock.ctx_modCtx_same f h)

theorem State.modPd_modPd (s : State) (p : Nat) (f g : Paddock → Paddock) : (s.modPd p f).modPd p g = s.modPd p (g ∘ f) := by
  unfold State.modPd
  rw [List.modify_modify_eq]

/-- Entering a state records the state and the moment, and nothing else. -/
theorem Ctx.enter_rest (x : Ctx) (st : CtxState) (now : Nat) :
    ∃ n, x.enter st now = { x with state := st, since := n } := by
  unfold Ctx.enter
  split
  next h => exact ⟨x.since, by rw [← h]⟩
  · exact ⟨now, rfl⟩

/-! ### decide() (R527) -/

theorem bestBy_mem {before : Nat × Ctx → Nat × Ctx → Bool} {l : List (Nat × Ctx)} {a : Nat × Ctx}
    (h : bestBy before l = some a) : a ∈ l := by
  induction l generalizing a with
  | nil => cases h
  | cons b bs ih =>
    unfold bestBy at h
    split at h
    · cases h
      exact List.mem_cons_self
    next e he =>
      cases h
      split
      · exact List.mem_cons_self
      · exact List.mem_cons_of_mem _ (ih he)

theorem Paddock.mem_withCtx {d : Paddock} {f : Ctx → Bool} {c : Nat} {x : Ctx} (h : (c, x) ∈ d.withCtx f) :
    d.ctx c = some x ∧ f x = true := by
  obtain ⟨k, -, hk⟩ := List.mem_filterMap.1 h
  split at hk
  next y hy =>
    split at hk
    next hf =>
      cases hk
      exact ⟨hy, hf⟩
    · cases hk
  · cases hk

/-- The context that is chosen is READY. -/
theorem Paddock.choice_ready {d : Paddock} {b : Nat} (h : d.choice = some b) : ∃ x, d.ctx b = some x ∧ x.state = .ready := by
  unfold Paddock.choice at h
  split at h
  · cases h
  next c x hbest =>
    obtain ⟨hx, hf⟩ := Paddock.mem_withCtx (bestBy_mem hbest)
    have hready : x.state = .ready := eq_of_beq (Bool.and_eq_true_iff.1 hf).2
    have hc : c = b := by
      split at h
      · exact Option.some.inj h
      · split at h
        · exact Option.some.inj h
        · split at h
          · exact Option.some.inj h
          · split at h
            · exact Option.some.inj h
            · cases h
    exact ⟨x, hc ▸ hx, hready⟩

/-- The running context is inside a span that is not pre-empted (R535). -/
def Paddock.inSpan (d : Paddock) : Bool :=
  match d.running.bind d.ctx with
  | some x => x.spanCode.isSome && x.state == .running
  | none => false

theorem Paddock.reschedule_switching {d : Paddock} (now : Nat) (h : d.switching.isSome = true) : d.reschedule now = d := if_pos h

theorem Paddock.reschedule_unchosen {d : Paddock} (now : Nat) (h : d.choice = none) : d.reschedule now = d := by
  unfold Paddock.reschedule
  rw [h]
  exact ite_self d

theorem Paddock.reschedule_chosen {d : Paddock} {b : Nat} (now : Nat) (hs : d.switching.isSome = false) (h : d.choice = some b) :
    d.reschedule now =
      if d.inSpan then { d with due := some (d.due.getD now) }
      else if d.running = some b then { d.modCtx b (·.enter .running now) with sliceOver := false, ranSince := now }
      else { d with switching := some ⟨d.running, b, .requested⟩ } := by
  unfold Paddock.reschedule
  rw [hs, h]
  rfl

/-- What decide() can do: nothing, the pre-emption falls due, the chosen context runs on, or a switch is asked for. -/
theorem Paddock.reschedule_cases (d : Paddock) (now : Nat) :
    d.reschedule now = d ∨ (∃ t, d.reschedule now = { d with due := t }) ∨
      (∃ b, d.choice = some b ∧ d.reschedule now = { d.modCtx b (·.enter .running now) with sliceOver := false, ranSince := now }) ∨
      ∃ w, d.reschedule now = { d with switching := w } := by
  cases hs : d.switching.isSome with
  | true => exact .inl (Paddock.reschedule_switching now hs)
  | false =>
    cases hb : d.choice with
    | none => exact .inl (Paddock.reschedule_unchosen now hb)
    | some b =>
      rw [Paddock.reschedule_chosen now hs hb]
      split
      · exact .inr (.inl ⟨_, rfl⟩)
      · split
        · exact .inr (.inr (.inl ⟨b, rfl, rfl⟩))
        · exact .inr (.inr (.inr ⟨_, rfl⟩))

/-- What decide() makes of one context: nothing, or a READY one runs. -/
theorem Paddock.reschedule_ctx {d : Paddock} {c : Nat} {x : Ctx} (now : Nat) (h : d.ctx c = some x) :
    (d.reschedule now).ctx c = some x ∨ x.state = .ready ∧ (d.reschedule now).ctx c = some (x.enter .running now) := by
  rcases d.reschedule_cases now with e | ⟨t, e⟩ | ⟨b, hb, e⟩ | ⟨w, e⟩
  · exact .inl ((congrArg (Paddock.ctx · c) e).trans h)
  · exact .inl (e ▸ h)
  · rw [e]
    by_cases hbc : b = c
    · subst hbc
      obtain ⟨y, hy, hready⟩ := Paddock.choice_ready hb
      obtain rfl : x = y := Option.some.inj (h.symm.trans hy)
      exact .inr ⟨hready, Paddock.ctx_modCtx_same _ h⟩
    · exact .inl ((d.ctx_modCtx_other _ hbc).trans h)
  · exact .inl (e ▸ h)

/-- decide() does not look at what stands in the ring. -/
theorem Paddock.reschedule_noRing (d : Paddock) (now : Nat) : d.noRing.reschedule now = (d.reschedule now).noRing := by
  cases hs : d.switching.isSome with
  | true => rw [Paddock.reschedule_switching now hs, Paddock.reschedule_switching (d := d.noRing) now hs]
  | false =>
    cases hb : d.choice with
    | none => rw [Paddock.reschedule_unchosen now hb, Paddock.reschedule_unchosen (d := d.noRing) now hb]
    | some b =>
      rw [Paddock.reschedule_chosen now hs hb, Paddock.reschedule_chosen (d := d.noRing) now hs hb, apply_ite Paddock.noRing,
        apply_ite Paddock.noRing]
      rfl

/-- decide() leaves the ring alone. -/
theorem Paddock.reschedule_ring (d : Paddock) (now : Nat) : (d.reschedule now).ring = d.ring := by
  rcases d.reschedule_cases now with e | ⟨t, e⟩ | ⟨b, -, e⟩ | ⟨w, e⟩
  · rw [e]
  · rw [e]
  · rw [e]
    rfl
  · rw [e]

/-- Posting takes no time. -/
theorem Posted.now {s t : State} (h : Posted s t) (p : Nat) : t.now p = s.now p := by
  obtain ⟨m, c, f, ps, rfl, -⟩ := h
  rfl

theorem Posted.reschedule {s t : State} (h : Posted s t) (p : Nat) : Posted (s.reschedule p) (t.reschedule p) := by
  unfold State.reschedule
  rw [h.now]
  refine h.modPd p _ (fun d e hde => ?_) fun d => ?_
  · rw [← Paddock.reschedule_noRing, hde, Paddock.reschedule_noRing]
  · rw [Paddock.reschedule_ring]
    exact ⟨rfl, rfl⟩

/-! ### A context enters a state -/

/-- What a context is once it has entered a state and the ostler has decided: in that state, or RUNNING where it became READY. -/
theorem State.enterState_ctx {s : State} {p c : Nat} {x : Ctx} (st : CtxState) (h : s.ctx p c = some x) :
    ∃ st' n, (s.enterState p c st).ctx p c = some { x with state := st', since := n } ∧ (st' = st ∨ st = .ready ∧ st' = .running) := by
  obtain ⟨n, hn⟩ := x.enter_rest st (s.now p)
  have hc : (s.modCtx p c (·.enter st (s.now p))).ctx p c = some { x with state := st, since := n } := by
    rw [State.ctx_modCtx_same _ h, hn]
  have he := State.ctx_modPd (·.reschedule (s.now p)) hc
  rcases Paddock.reschedule_ctx (s.now p) hc with hs | ⟨hready, hs⟩
  · exact ⟨st, n, he.trans hs, .inl rfl⟩
  · obtain ⟨m, hm⟩ := Ctx.enter_rest { x with state := st, since := n } .running (s.now p)
    exact ⟨.running, m, he.trans (hs.trans (congrArg some hm)), .inr ⟨hready, rfl⟩⟩

theorem Posted.enterState {s t : State} (h : Posted s t) (p c : Nat) (st : CtxState) :
    Posted (s.enterState p c st) (t.enterState p c st) := by
  unfold State.enterState
  rw [h.now]
  exact (h.modCtx p c _).reschedule p

/-- Entering a state changes one paddock alone. -/
theorem State.enterState_modCtx (s : State) (p c : Nat) (f : Ctx → Ctx) (st : CtxState) :
    ∃ g, (s.modCtx p c f).enterState p c st = s.modPd p g :=
  ⟨_, (State.modPd_modPd ..).trans (State.modPd_modPd ..)⟩

/-- Where one paddock changed, the module is the old one with that paddock, but for what posting changed. -/
theorem Posted.paddock_alone {s t : State} {p : Nat} {f : Paddock → Paddock} (h : Posted (s.modPd p f) t) :
    Posted (s.modPd p fun _ => t.pd p) t := by
  have hpads : (s.pads.modify p f).map Paddock.noRing = (s.pads.modify p fun _ => t.pd p).map Paddock.noRing := by
    by_cases hp : p < s.pads.length
    · have hd : (t.pd p).noRing = (f (s.pd p)).noRing := (h.pd p).trans (congrArg _ (s.pd_modPd_same p f hp))
      refine List.ext_getElem? fun n => ?_
      simp only [List.getElem?_map, List.getElem?_modify]
      split
      next hn =>
        subst hn
        rw [List.getElem?_eq_getElem hp]
        have here : s.pd p = s.pads[p] := by
          rw [State.pd, List.getD_eq_getElem?_getD, List.getElem?_eq_getElem hp, Option.getD_some]
        exact congrArg some ((congrArg (fun d => (f d).noRing) here).symm.trans hd.symm)
      · rfl
    · rw [List.modify_eq_self (Nat.not_lt.1 hp), List.modify_eq_self (Nat.not_lt.1 hp)]
  exact Posted.trans ⟨s.mem, s.mcl, s.deferred, _, rfl, hpads, fun hw => ⟨hw, fun _ _ => rfl⟩⟩ h

/-! ### The answers of STEP_RUN (R334, R577) -/

/-- The context owes that many steps from its counter on. -/
def Ctx.owes (n : Nat) (x : Ctx) : Ctx := { x with stepsLeft := x.stepsFor n, stopAsked := false }

theorem Ctx.stepsFor_notInStep {x : Ctx} (n : Nat) (h : x.inStep = false) : x.stepsFor n = n := by
  unfold Ctx.stepsFor
  rw [h]
  split <;> rfl

theorem State.makeReady_idle {s : State} {p c : Nat} {x : Ctx} (hx : s.ctx p c = some x) (h : x.state = .idle) :
    s.makeReady p c = s.enterState p c .ready := by
  unfold State.makeReady
  rw [hx]
  exact if_neg (by simp [h])

section StepRun
variable {p c : Nat} {s : State} {x : Ctx}

/-- A number that is free, and a context that serves or is HALTED, runs no steps. -/
theorem actStepRun_refused (st n : Nat) (h : ∀ x, s.ctx p c = some x → x.parcel.kind = 1 ∨ x.state = .halted) :
    actStepRun p c st n s = Taken.refuse s 0x0003 := by
  unfold actStepRun
  cases hx : s.ctx p c with
  | none => rfl
  | some x => exact if_pos (h x hx)

variable (hx : s.ctx p c = some x) (hk : x.parcel.kind ≠ 1) (hh : x.state ≠ .halted)
include hx hk hh

theorem actStepRun_otherStep {st : Nat} (n : Nat) (h : st ≠ x.counter) : actStepRun p c st n s = Taken.refuse s 0x0501 := by
  unfold actStepRun
  rw [hx]
  exact (if_neg (not_or.2 ⟨hk, hh⟩)).trans (if_pos h)

/-- The step asked for is the counter's. -/
theorem actStepRun_step (n : Nat) : actStepRun p c x.counter n s =
    if n = 0 then
      if x.inStep || x.tr.gen != 0 then Taken.ok (s.modCtx p c fun x => { x with stopAsked := true }) []
      else Taken.ok ((s.modCtx p c fun x => { x with stepsLeft := 0 }).enterState p c .idle) []
    else Taken.ok (if x.state = .idle then (s.modCtx p c (·.owes n)).makeReady p c else s.modCtx p c (·.owes n)) [] := by
  unfold actStepRun
  rw [hx]
  exact (if_neg (not_or.2 ⟨hk, hh⟩)).trans (if_neg fun hne => hne rfl)

/-- Count 0 between two steps: the context is IDLE at once. -/
theorem actStepRun_idle (hin : x.inStep = false) (hgen : x.tr.gen = 0) : actStepRun p c x.counter 0 s =
    Taken.ok ((s.modCtx p c fun x => { x with stepsLeft := 0 }).enterState p c .idle) [] := by
  rw [actStepRun_step hx hk hh, hin, hgen]
  rfl

end StepRun

/-- An IDLE context from which steps are asked becomes READY. -/
theorem actStepRun_ready {p c n : Nat} {s : State} {x : Ctx} (hx : s.ctx p c = some x) (hk : x.parcel.kind ≠ 1) (hi : x.state = .idle)
    (hn : n ≠ 0) : actStepRun p c x.counter n s = Taken.ok ((s.modCtx p c (·.owes n)).enterState p c .ready) [] := by
  have hh : x.state ≠ .halted := by rw [hi]; exact nofun
  rw [actStepRun_step hx hk hh, if_neg hn, if_pos hi, State.makeReady_idle (State.ctx_modCtx_same _ hx) hi]

/-- A STEP_RUN by which its context enters a state changes that paddock alone, but for what posting changes. -/
theorem execStepRun_enterState {p c st n : Nat} {h : LetterHead} {s : State} {x : Ctx} {f : Ctx → Ctx} {cs : CtxState}
    (ha : s.accepts p 0x0042 13 h = true) (hx : s.ctx p c = some x)
    (e : actStepRun p c st n (s.took p h) = Taken.ok (((s.took p h).modCtx p c f).enterState p c cs) []) :
    ∃ t st' k, exec (.stepRun p h c st n) s = .next t ∧ t.ctx p c = some { f x with state := st', since := k } ∧
      (st' = cs ∨ cs = .ready ∧ st' = .running) ∧ Posted (s.modPd p fun _ => t.pd p) t := by
  have taken := State.accepts_posted ha
  obtain ⟨st', k, hy, hst⟩ := State.enterState_ctx cs (State.ctx_modCtx_same f ((taken.ctx p c).trans hx))
  have answer := State.answered_posted (((s.took p h).modCtx p c f).enterState p c cs) p 0x0042 h 0 []
  refine ⟨_, st', k, State.letter_now ha e, (answer.ctx p c).trans hy, hst, ?_⟩
  have whole := ((taken.modCtx p c f).enterState p c cs).trans answer
  obtain ⟨g, hg⟩ := s.enterState_modCtx p c f cs
  rw [hg] at whole
  exact whole.paddock_alone

/-- Settles O19: STEP_RUN is its action on the state that has taken the letter up; a context that enters a state changes its paddock alone, and decide() can only let a READY one run. -/
theorem stepRunStartsAndStopsSteps : Obligations.StepRunStartsAndStopsSteps := by
  have taken : ∀ {p : Nat} {h : LetterHead} {s : State} (c : Nat), s.accepts p 0x0042 13 h = true →
      (s.took p h).ctx p c = s.ctx p c := fun c ha => (State.accepts_posted ha).ctx _ c
  refine ⟨?runs, ?stops, ?idle, ?otherStep, ?refused⟩
  case runs =>
    intro p h c n s x ha hx hk hidle hn hin
    obtain ⟨t, st', k, he, hy, hst, hp⟩ := execStepRun_enterState ha hx (actStepRun_ready ((taken c ha).trans hx) hk hidle hn)
    exact ⟨t, _, he, hy, Ctx.stepsFor_notInStep n hin, rfl, hst.imp id And.right, rfl, rfl, rfl, hp⟩
  case stops =>
    intro p h c s x ha hx hk hh hin
    refine ⟨_, State.letter_now ha ?_, (State.accepts_posted ha).modCtx p c _⟩
    rw [actStepRun_step ((taken c ha).trans hx) hk hh, hin]
    rfl
  case idle =>
    intro p h c s x ha hx hk hh hin hgen
    obtain ⟨t, st', k, he, hy, hst, hp⟩ := execStepRun_enterState ha hx (actStepRun_idle ((taken c ha).trans hx) hk hh hin hgen)
    exact ⟨t, _, he, hy, rfl, hst.resolve_right (fun hr => nomatch hr.1), hp⟩
  case otherStep =>
    intro p h c st n s x ha hx hk hh hst
    exact State.letter_now ha (actStepRun_otherStep ((taken c ha).trans hx) hk hh n hst)
  case refused =>
    intro p h c st n s ha hr
    refine State.letter_now ha (actStepRun_refused st n fun x hx => ?_)
    rw [(taken c ha).symm.trans hx] at hr
    simpa using hr

end Sys2Proof.Machine
end

section
/-! PROOFS. STEP_BEGIN of a job whose SHED layer lies in no package (R255, R343, R368): LOAD halts it with 0x0202. -/

namespace Sys2Proof.Machine

/-! ### What LOAD cannot bind (R343, R368) -/

theorem State.bindStep_misplaced {s : State} {x : Ctx} (p c step : Nat) (h : s.shedLayersOk x = false) :
    s.bindStep p c step x = .error 0x0202 := by
  have records : s.bindRecords p c x = .error 0x0202 := if_pos (by rw [h, Bool.not_false, Bool.or_true])
  unfold State.bindStep
  rw [records]

/-- The state in which a LOAD of context w binds its records: the histories are taken, and the attempt begins. -/
def State.loading (s : State) (p c : Nat) (w : Ctx) : State := (s.takeN p c w.counter).modCtx p c (·.loadAttempt (s.now p))

theorem State.loadStep_misplaced {s : State} {p c : Nat} {w x : Ctx} (hw : s.ctx p c = some w)
    (hx : (s.loading p c w).ctx p c = some x) (h : (s.loading p c w).shedLayersOk x = false) :
    s.loadStep p c true = (s.loading p c w).haltJob p c 0x0202 := by
  have hl : ((s.takeN p c w.counter).modCtx p c (·.loadAttempt (s.now p))).ctx p c = some x := hx
  have hb := State.bindStep_misplaced p c x.counter h
  unfold State.loading at hb
  unfold State.loadStep
  simp only [hw, hl, if_true, hb]
  rfl

/-! ### A job with such a layer -/

/-- A class that SHED updates (R366), and a layer of it whose tensors lie where `strayJob` has no range. -/
def strayClass : ClassCoef := { (default : ClassCoef) with engineShed := true }
def strayLayer : LayerRec :=
  { (default : LayerRec) with rows := 1, cols := 128, hiBase := 0x10000, rBase := 0x10000, s1Base := 0x10000, s2Base := 0x10000 }

/-- The begin of a step that gives one stable to the teacher and names no inputs. -/
def strayBegin : StepBeginRec := { (default : StepBeginRec) with tLo := 1, tHi := 1 }

/-- A record with this tag, on no named side. -/
def strayRec (tag : Nat) (b : RecBody) : Rec := ⟨⟨tag, 0, false, 0, 1, 0⟩, b⟩

def strayParcel : Parcel :=
  { (default : Parcel) with recs := [strayRec 0 (.classCoef strayClass), strayRec 0 (.layer strayLayer), strayRec 0 (.stepBegin strayBegin),
      strayRec 1 (.stepCoef default), strayRec 1 (.collSet true 0 0), strayRec 0 .stepEnd] }

/-- A running context of which one step is asked; its table has one page of package 0. -/
def strayJob : Ctx :=
  { (default : Ctx) with
    parcel := strayParcel, state := .running, resident := true, stepsLeft := 1, tr := Train.start, sv := Serve.start
    table := [⟨0, 0x1000, 0x1000, 0, 3, 0, 0, []⟩] }

/-- A module in phase 7 that runs the job in paddock 0, on two stables. -/
def strayState : State :=
  { State.reset with
    start := { Start.none with phase := 7 }
    remount := { Remount.empty with bind := some 3 :: some 4 :: List.replicate 62 none }
    pads := { Paddock.closed with
        state := .opened, owned := ⟨1, 1, 1, [0], 1⟩, running := some 0
        ctxs := some strayJob :: List.replicate 7 none } :: List.replicate 15 Paddock.closed }

/-- The job at its first attempt, and the state that STEP_BEGIN then loads. -/
def strayTry : Ctx := strayJob.firstAttempt strayBegin (strayState.now 0)
def strayFirst : State := strayState.modCtx 0 0 fun x => x.firstAttempt strayBegin (strayState.now 0)

theorem stepBegin_stray : exec (.stepBegin 0 0) strayState = .next ((strayFirst.loading 0 0 strayTry).haltJob 0 0 0x0202) := by
  have begins : exec (.stepBegin 0 0) strayState = .next (strayFirst.loadStep 0 0 true) := by rfl
  have loads : (strayFirst.loading 0 0 strayTry).ctx 0 0 = some (strayTry.loadAttempt (strayFirst.now 0)) := by decide +kernel
  have misplaced : (strayFirst.loading 0 0 strayTry).shedLayersOk (strayTry.loadAttempt (strayFirst.now 0)) = false := by
    decide +kernel
  rw [begins, State.loadStep_misplaced rfl loads misplaced]

/-- Refutes O57: its clause of a first attempt does not ask that each layer of SHED lie in one package. LOAD halts `strayJob`, whose layer lies in none, with 0x0202 (R343, R368), and a halted job is in no step. -/
theorem not_stepsBeginAndPassOn : ¬ Obligations.StepsBeginAndPassOn := by
  rintro ⟨⟨-, -, firstAttempt, -⟩, -⟩
  have runs : strayState.runsCtx 0 0 strayJob := by decide +kernel
  have stables : strayBegin.tHi < (strayState.stablesOf 0).length := by decide +kernel
  have placed : (strayTry.loadAttempt (strayState.now 0)).placedOk = true ∧
      (strayTry.loadAttempt (strayState.now 0)).sidesOk (strayState.stablesOf 0).length = true := by decide +kernel
  obtain ⟨t, y, ht, hy, hin, -⟩ := firstAttempt 0 0 strayState strayJob strayBegin [] runs rfl rfl rfl rfl rfl rfl rfl rfl rfl
    rfl rfl (by decide) (by decide) stables (by decide +kernel) placed rfl
  have halted : (((strayFirst.loading 0 0 strayTry).haltJob 0 0 0x0202).ctx 0 0).map (·.inStep) = some false := by decide +kernel
  rw [stepBegin_stray] at ht
  cases ht
  rw [hy] at halted
  simp [hin] at halted

end Sys2Proof.Machine
end

section
/-! PROOFS. PARAM and XFER frames (R394, R413-R415, R437, R464, R467): a frame that is next is taken and its job acts on it, what sending a frame or sending it down a tree makes of the ports, and where the bytes of the two kinds go. -/

namespace Sys2Proof.Machine

/-! ### A frame that is next (R413-R415) -/

theorem seqFrom_self (a : Nat) : seqFrom a a = 0 := by
  unfold seqFrom
  omega

theorem seqAfter_self (a : Nat) : seqAfter a a = false :=
  decide_eq_false fun h => Nat.ne_of_gt h.1 (seqFrom_self a)

theorem Port.frees_serial (x : Port) (stage cells : Nat) : (x.frees stage cells).serial = x.serial := by
  unfold Port.frees Port.giveBack
  split
  · dsimp only
    split
    · rfl
    · rfl
  · rfl

theorem Port.taken_serial (x : Port) (now n stage cells : Nat) : (x.taken now n stage cells).serial = x.serial :=
  Port.frees_serial _ _ _

theorem State.modPort_modPort (s : State) (n : Nat) (f g : Port → Port) : (s.modPort n f).modPort n g = s.modPort n (g ∘ f) := by
  unfold State.modPort
  rw [List.modify_modify_eq]

/-- Whether the peer is the one that the job names is a matter of the port's serial alone. -/
theorem State.peerOk_modPort {s : State} {n : Nat} {f : Port → Port} (x : Ctx) (hn : n < s.ports.length)
    (hf : ∀ q, (f q).serial = q.serial) : (s.modPort n f).peerOk x n = s.peerOk x n := by
  unfold State.peerOk
  rw [s.port_modPort_same n f hn, hf]

/-- The module once the frame has been taken on its port. -/
def State.tookFrame (s : State) (n : Nat) (f : FrameHead) (k stage : Nat) : State := s.modPort n (·.taken s.now16 k stage f.cells)

section Taken
variable {s : State} {n p c : Nat} {f : FrameHead} {x : Ctx} (hf : s.frameFor n f p c x)
include hf

theorem State.takeFrame_next (k stage : Nat) (act : Nat → Nat → Ctx → State → State) :
    s.takeFrame n f k stage act = act p c x (s.tookFrame n f k stage) := by
  obtain ⟨⟨-, hn, hr, hc, hcrc, hseq⟩, hj, -, hp, -⟩ := hf
  have taken : (s.hearsPort n).modPort n (fun q =>
      ({ q with lseqIn := (q.lseqIn + k) % 2 ^ 32, asksResend := false, owes := true } : Port).frees stage f.cells) =
      s.tookFrame n f k stage := State.modPort_modPort ..
  have job : (s.tookFrame n f k stage).jobOf f.tag = some (p, c, x) := hj
  have peer : (s.tookFrame n f k stage).peerOk x n = true :=
    (State.peerOk_modPort x hn fun q => q.taken_serial _ _ _ _).trans hp
  have inOrder : (!f.crcOk || seqAfter (s.port n).lseqIn f.lseq) = false := by
    rw [hcrc, hseq, seqAfter_self]
    rfl
  have whole : seqFrom (s.port n).lseqIn f.lseq = 0 := hseq ▸ seqFrom_self f.lseq
  unfold State.takeFrame
  simp only [hr, hc, inOrder, whole, taken, job, peer, Bool.not_true, Bool.or_false, Bool.false_eq_true, ne_eq, not_true_eq_false, if_false]

/-- A job that is not HALTED acts on its frame. -/
theorem State.takeLive_next (hh : x.state ≠ .halted) (k stage : Nat) (act : Nat → Nat → Ctx → State → State) :
    s.takeLive n f k stage act = act p c x (s.tookFrame n f k stage) := by
  have taken := State.takeFrame_next hf k stage fun p c x s => if x.state = .halted then s.dropAt n stage f.cells else act p c x s
  obtain ⟨-, hj, -, -, hw⟩ := hf
  have ready : s.frameAwaits f.tag = false := by
    unfold State.frameAwaits
    rw [hj]
    exact hw
  unfold State.takeLive
  rw [ready, taken, if_neg hh]
  rfl

theorem State.padOf_tookFrame (k stage : Nat) : (s.tookFrame n f k stage).padOf f.tag = p := by
  have job : (s.tookFrame n f k stage).jobOf f.tag = some (p, c, x) := hf.2.1
  unfold State.padOf
  rw [job]

end Taken

/-- A port other than the one that took the frame is as it was. -/
theorem State.port_tookFrame_other (s : State) {n q : Nat} (f : FrameHead) (k stage : Nat) (h : q ≠ n) :
    (s.tookFrame n f k stage).port q = s.port q := s.port_modPort_other n q _ h.symm

theorem State.tookFrame_ports_length (s : State) (n : Nat) (f : FrameHead) (k stage : Nat) :
    (s.tookFrame n f k stage).ports.length = s.ports.length := List.length_modify ..

/-! ### Sending (R441, R464) -/

theorem State.port_sendFrame_same {s : State} {q : Nat} (cells tree tag : Nat) (body : FrameBody) (h : q < s.ports.length) :
    (s.sendFrame q cells tree tag body).port q = (s.port q).sendFrame (s.padOf tag) cells tree tag body :=
  s.port_modPort_same q _ h

theorem State.port_sendFrame_other (s : State) {a q : Nat} (cells tree tag : Nat) (body : FrameBody) (h : q ≠ a) :
    (s.sendFrame a cells tree tag body).port q = s.port q := s.port_modPort_other a q _ h.symm

/-- Sending frames changes the ports alone. -/
theorem State.foldl_sendFrame_rest (cells tree tag : Nat) (body : FrameBody) (qs : List Nat) : ∀ s : State,
    ∃ ps, qs.foldl (fun (s : State) q => s.sendFrame q cells tree tag body) s = { s with ports := ps } := by
  induction qs with
  | nil => exact fun s => ⟨s.ports, rfl⟩
  | cons q qs ih => exact fun s => ih (s.sendFrame q cells tree tag body)

/-- Each of the ports is offered the frame once; the others stay. -/
theorem State.port_foldl_sendFrame (cells tree tag : Nat) (body : FrameBody) {qs : List Nat} (hd : qs.Nodup) : ∀ {s : State} {q : Nat},
    q < s.ports.length → (qs.foldl (fun (s : State) q => s.sendFrame q cells tree tag body) s).port q =
      if q ∈ qs then (s.port q).sendFrame (s.padOf tag) cells tree tag body else s.port q := by
  induction qs with
  | nil => exact fun _ => rfl
  | cons a qs ih =>
    intro s q hq
    obtain ⟨ha, hd⟩ := List.nodup_cons.1 hd
    have rest := ih hd (s := s.sendFrame a cells tree tag body) (q := q) 
      (Nat.lt_of_lt_of_eq hq (List.length_modify ..).symm)
    have pad : (s.sendFrame a cells tree tag body).padOf tag = s.padOf tag := rfl
    rw [List.foldl_cons, rest, pad]
    by_cases h : q = a
    · subst h
      rw [if_neg ha, if_pos List.mem_cons_self, State.port_sendFrame_same _ _ _ _ hq]
    · rw [State.port_sendFrame_other s _ _ _ _ h]
      simp only [List.mem_cons, h, false_or]

theorem TreeRec.downPorts_nodup (t : TreeRec) : t.downPorts.Nodup := List.nodup_range.filter _

theorem State.sendDown_rest (s : State) (t : TreeRec) (cells tag : Nat) (body : FrameBody) :
    ∃ ps, s.sendDown t cells tag body = { s with ports := ps } := State.foldl_sendFrame_rest ..

theorem State.port_sendDown {s : State} {t : TreeRec} {q : Nat} (cells tag : Nat) (body : FrameBody) (hq : q ∈ t.downPorts)
    (hl : q < s.ports.length) : (s.sendDown t cells tag body).port q = (s.port q).sendFrame (s.padOf tag) cells t.tree tag body :=
  (State.port_foldl_sendFrame _ _ _ _ t.downPorts_nodup hl).trans (if_pos hq)

/-! ### PARAM (R394, R464) -/

/-- A column statistic that is not yet whole: the frame goes down its tree, its words into the layer's state. -/
theorem paramFrame_columns {n p c : Nat} {f : FrameHead} {h : ParamHead} {bs : List Byte} {s : State} {x : Ctx} {tr : TreeRec}
    {b : BucketRec} {l : LayerRec} {st : LayerSt} (hf : s.frameFor n f p c x) (hh : x.state ≠ .halted)
    (htree : x.parcel.tree? f.tree = some tr) (hb : x.parcel.bucket? h.bucket = some b) (hstep : h.step = x.stepNow % 2 ^ 32)
    (hup : tr.upPort = n) (hl : x.parcel.layer? b.layer = some l) (hst : x.layerSt b.layer = some st) (hph : x.tr.phase ≠ 9)
    (hfr : l.frozen = false) (hk : h.kind = 1) (hpart : h.offset + bs.length < 4 * l.cols + 4) :
    paramFrame n f h bs s = ((s.tookFrame n f 1 writerStage).sendDown tr f.cells f.tag (.param h bs)).modCtx p c fun x =>
      x.modLayer b.layer fun t => t.putColumns l.cols (h.offset / 4) (wordsOf bs) := by
  unfold paramFrame
  rw [State.takeLive_next hf hh]
  simp only [htree, hb, hl, hst]
  rw [if_neg (by simp [hstep, hup]), if_neg (by simp [hph, hfr]), if_neg (by simp [hk]), if_pos hpart]

/-! ### XFER (R437, R467) -/

section Xfer
variable {s : State} {n p c : Nat} {f : FrameHead} {x : Ctx} (hf : s.frameFor n f p c x) (hh : x.state ≠ .halted)
include hf hh

/-- A transfer for another role goes on by the route table. -/
theorem xferFrame_forwarded {d q : Nat} (src k off : Nat) (bs : List Byte) (hd : d ≠ x.parcel.role) (hq : x.parcel.routeTo d = some q) :
    xferFrame n f d src k off bs s = (s.tookFrame n f 1 (xferStage f.tag src k)).sendFrame q f.cells f.tree f.tag (.xfer d src k off bs) := by
  have ready : s.xferWaits f.tag d src k = false := by
    obtain ⟨-, hj, -⟩ := hf
    unfold State.xferWaits
    rw [hj]
    simp [hd]
  unfold xferFrame
  rw [ready, State.takeLive_next hf hh]
  simp [hd, hq]

/-- One for this role at the bytes that its receiving record expects goes to that record. -/
theorem xferFrame_received {src k w u dst e : Nat} {r : XferRx} (bs : List Byte)
    (hr : (x.tr.xfers.find? fun r => r.role == src && r.number == k) = some r)
    (hrec : (x.parcel.recs[r.ordinal]?).map Rec.body = some (.xferRecv w u dst e))
    (hw : s.xferWaits f.tag x.parcel.role src k = false) :
    xferFrame n f x.parcel.role src k r.got bs s = (s.tookFrame n f 1 (xferStage f.tag src k)).takeXfer p c x r dst bs := by
  unfold xferFrame
  rw [hw, State.takeLive_next hf hh]
  simp [hr, hrec]

end Xfer

/-- A frame that is not the last of its transfer moves the record on by its bytes. -/
theorem State.takeXfer_goesOn {s v : State} {p c dst : Nat} {x : Ctx} {r : XferRx} {bs : List Byte}
    (hv : s.putXfer x (x.parcel.desc dst) r.got bs = .ok v) (hgot : r.got + bs.length < x.parcel.xferBytes dst)
    (hb : x.state ≠ .blocked) : s.takeXfer p c x r dst bs = v.modCtx p c fun x => x.modTr fun t =>
      { t with xfers := t.xfers.map fun y => if y = r then { r with got := r.got + bs.length } else y } := by
  unfold State.takeXfer
  rw [hv]
  simp only [if_pos hgot, if_neg hb]

/-- Settles O31: each frame is taken on its port and its job acts on it; what it sends changes ports alone, and each child's port is offered it once. -/
theorem paramAndXferFramesMove : Obligations.ParamAndXferFramesMove := by
  have onPort : ∀ {n : Nat} {f : FrameHead} {s : State} {p c : Nat} {x : Ctx} (u : State), s.frameFor n f p c x →
      onUnit (n < 32) u = .next u := fun u hf => onUnit_exists hf.1.1 u
  refine ⟨?param, ?forwarded, ?received⟩
  case param =>
    intro n f h bs s p c x tr b l st hf hh htree hb hstep hup hl hst hph hfr hk hpart
    have e := paramFrame_columns hf hh htree hb hstep hup hl hst hph hfr hk hpart
    obtain ⟨ps, hs⟩ := (s.tookFrame n f 1 writerStage).sendDown_rest tr f.cells f.tag (.param h bs)
    refine ⟨_, (onPort _ hf).trans (congrArg _ e), ?_, ?_, ?_⟩
    · rw [hs]
      rfl
    · rw [hs]
      rfl
    · intro q hq hqn hql
      have sent := State.port_sendDown (s := s.tookFrame n f 1 writerStage) f.cells f.tag (.param h bs) hq
        (Nat.lt_of_lt_of_eq hql (s.tookFrame_ports_length ..).symm)
      rw [State.port_tookFrame_other s f 1 writerStage hqn, State.padOf_tookFrame hf] at sent
      exact sent
  case forwarded =>
    intro n f d src k off bs s p c x q hf hh hd hq hqn hql
    have e := xferFrame_forwarded hf hh src k off bs hd hq
    refine ⟨_, (onPort _ hf).trans (congrArg _ e), rfl, ?_⟩
    rw [State.port_sendFrame_same _ _ _ _ (Nat.lt_of_lt_of_eq hql (s.tookFrame_ports_length ..).symm),
      State.port_tookFrame_other s f 1 _ hqn, State.padOf_tookFrame hf]
  case received =>
    intro n f src k bs s p c x r w u dst e v hf hh hr hrec hgot hw hb hv
    have taken := (xferFrame_received hf hh bs hr hrec hw).trans (State.takeXfer_goesOn hv hgot hb)
    exact (onPort _ hf).trans (congrArg _ taken)

end Sys2Proof.Machine
end

section
/-! PROOFS. CHECKPOINT, RESTORE, INITIALISE and STATE_READ (R373, R406, R538, R576-R578): which contexts their letters reach, what lent pens and a restore leave of the module and of the context, and the items that are read. -/

namespace Sys2Proof.Machine

/-! ### Letters about a context between steps (R573, R577) -/

theorem Ctx.quiet_eq_true {x : Ctx} : x.quiet = true ↔ x.state = .idle ∨ x.state = .halted := by
  unfold Ctx.quiet
  rw [Bool.or_eq_true, beq_iff_eq, beq_iff_eq]

theorem State.onQuiet_quiet {s : State} {p c : Nat} {x : Ctx} (f : Ctx → Taken) (hx : s.ctx p c = some x)
    (hq : x.state = .idle ∨ x.state = .halted) : s.onQuiet p c f = f x := by
  unfold State.onQuiet
  rw [hx]
  exact if_pos (Ctx.quiet_eq_true.2 hq)

theorem State.onQuiet_refused {s : State} {p c : Nat} (f : Ctx → Taken)
    (h : ∀ x, s.ctx p c = some x → ¬(x.state = .idle ∨ x.state = .halted)) : s.onQuiet p c f = Taken.refuse s 0x0003 := by
  unfold State.onQuiet
  cases hx : s.ctx p c with
  | none => rfl
  | some x => exact if_neg fun hq => h x hx (Ctx.quiet_eq_true.1 hq)

/-- Work on a context's tensors that succeeds in its lent pens succeeds, and the pens go back (R406, R538). -/
theorem State.onPens_ok {s v : State} {p c : Nat} {x : Ctx} {f : State → Taken} {pl : List Byte}
    (h : f (s.lendPens x) = Taken.ok v pl) : s.onPens p c x f = Taken.ok (v.returnPens s p c x) pl := by
  unfold State.onPens
  rw [h]
  rfl

theorem State.lendPens_resident (s : State) {x : Ctx} (h : x.resident = true) : s.lendPens x = s := if_pos h

theorem State.returnPens_resident (t s : State) (p c : Nat) {x : Ctx} (h : x.resident = true) : t.returnPens s p c x = t := if_pos h

/-! ### CHECKPOINT and INITIALISE (R373, R406, R576) -/

theorem maskBytes_length (l : List Byte) : ∀ i, (maskBytes i l).length = l.length := by
  induction l with
  | nil => exact fun _ => rfl
  | cons b l ih => exact fun i => congrArg (· + 1) (ih (i + 1))

theorem actCheckpoint_ok {s v : State} {p c dest : Nat} {x : Ctx} {d : Desc} {data : List Byte} (hx : s.ctx p c = some x)
    (hq : x.state = .idle ∨ x.state = .halted) (hd : (s.lendPens x).letterDesc dest = .ok d)
    (hr : (s.lendPens x).readParts x x.parts = .ok data) (hn : ((s.lendPens x).ckHead p x ++ data).length ≤ d.count)
    (hv : (s.lendPens x).putDesc x.plain d 0 (maskBytes 0 ((s.lendPens x).ckHead p x ++ data)) = .ok v) :
    actCheckpoint p c dest s = Taken.ok ((v.hasRead x x.parcel.bankedSpans).returnPens s p c x)
      (leBytes 8 x.counter ++ leBytes 8 ((s.lendPens x).ckHead p x ++ data).length) := by
  unfold actCheckpoint
  rw [State.onQuiet_quiet _ hx hq]
  refine State.onPens_ok ?_
  simp only [hd, hr, hv, maskBytes_length, if_neg (Nat.not_lt.2 hn)]

theorem actInitialise_ok {s v : State} {p c l part src n z : Nat} {x : Ctx} {r : LayerRec} {d : Desc} {f : Nat → Nat}
    {vs : List (List Byte)} (hx : s.ctx p c = some x) (hq : x.state = .idle ∨ x.state = .halted) (hl : x.parcel.layer? l = some r)
    (hd : (s.lendPens x).letterDesc src = .ok d) (h5 : part ≠ 5) (hp : x.parcel.initPart r part = some (n, z, f)) (hn : n ≤ d.count)
    (hvs : (s.lendPens x).initValues x d z n = .ok vs)
    (hv : (s.lendPens x).putPieces x (vs.zipIdx.map fun e => (f e.2, e.1)) = .ok v) :
    actInitialise p c l part src s = Taken.ok (v.returnPens s p c x) [] := by
  unfold actInitialise
  rw [State.onQuiet_quiet _ hx hq]
  refine State.onPens_ok ?_
  simp only [hl, hd, hp, hvs, hv, if_neg h5, if_neg (Nat.not_lt.2 hn)]

/-! ### What posting leaves (R571) -/

theorem Posted.otp {s t : State} (h : Posted s t) : t.otp = s.otp := by
  obtain ⟨m, c, f, ps, rfl, -⟩ := h
  rfl
theorem Posted.start {s t : State} (h : Posted s t) : t.start = s.start := by
  obtain ⟨m, c, f, ps, rfl, -⟩ := h
  rfl

/-- What stands in the ring is no item. -/
theorem Posted.items {s t : State} (h : Posted s t) (p c sel first : Nat) (x : Ctx) :
    t.items p c sel first x = s.items p c sel first x := by
  have slots : (t.pd p).slotBytes = (s.pd p).slotBytes := (congrArg Paddock.slotBytes (h.pd p) :)
  have owned : (t.pd p).owned = (s.pd p).owned := (congrArg Paddock.owned (h.pd p) :)
  have history : (t.pd p).history = (s.pd p).history := (congrArg Paddock.history (h.pd p) :)
  have overrun : (t.pd p).overrun = (s.pd p).overrun := (congrArg Paddock.overrun (h.pd p) :)
  unfold State.items
  simp only [slots, owned, history, overrun]

/-! ### Computations that succeed -/

theorem exists_ok_of_bind {ε α β : Type} {e : Except ε α} {k : α → Except ε β} {b : β} (h : (e >>= k) = .ok b) :
    ∃ a, e = .ok a ∧ k a = .ok b := by
  cases e with
  | error => cases h
  | ok a => exact ⟨a, rfl, h⟩

/-- What comes after a check has been reached. -/
theorem ok_of_check {ε β : Type} {q : Prop} [Decidable q] {n : ε} {k : Unit → Except ε β} {b : β}
    (h : (if q then throw n >>= k else k ()) = .ok b) : k () = .ok b := by
  split at h
  · cases h
  · exact h

/-! ### What access to memory leaves (R263, R406) -/

/-- t is s but for what memory holds: its bytes, its units that cannot be corrected, its flipped bits. -/
def State.AccessOf (s t : State) : Prop := ∃ m b f, t = { s with mem := m, bad := b, flips := f }

theorem State.AccessOf.refl (s : State) : s.AccessOf s := ⟨s.mem, s.bad, s.flips, rfl⟩

theorem State.AccessOf.trans {s t u : State} (h : s.AccessOf t) (k : t.AccessOf u) : s.AccessOf u := by
  obtain ⟨_, _, _, rfl⟩ := h
  obtain ⟨m, b, f, rfl⟩ := k
  exact ⟨m, b, f, rfl⟩

theorem State.AccessOf.ctx {s t : State} (h : s.AccessOf t) (p c : Nat) : t.ctx p c = s.ctx p c := by
  obtain ⟨m, b, f, rfl⟩ := h
  rfl
theorem State.AccessOf.otp {s t : State} (h : s.AccessOf t) : t.otp = s.otp := by
  obtain ⟨m, b, f, rfl⟩ := h
  rfl
theorem State.AccessOf.start {s t : State} (h : s.AccessOf t) : t.start = s.start := by
  obtain ⟨m, b, f, rfl⟩ := h
  rfl

theorem State.AccessOf.foldl {α : Type} {f : State → α → State} (hf : ∀ (s : State) a, s.AccessOf (f s a)) (l : List α) :
    ∀ s : State, s.AccessOf (l.foldl f s) := by
  induction l with
  | nil => exact State.AccessOf.refl
  | cons a l ih => exact fun s => (hf s a).trans (ih (f s a))

theorem State.writeDevs_access {s t : State} {ds : List Nat} {bs : List Byte} (h : s.writeDevs ds bs = .ok t) : s.AccessOf t := by
  unfold State.writeDevs at h
  dsimp only at h
  split at h
  · cases h
  · cases h
    exact ⟨_, _, _, rfl⟩

theorem State.store_access {s t : State} {x : Ctx} {a : Nat} {bs : List Byte} (h : s.store x a bs = .ok t) : s.AccessOf t := by
  unfold State.store at h
  split at h
  · cases h
  · exact State.writeDevs_access h

theorem State.putPieces_access {x : Ctx} {l : List (Nat × List Byte)} :
    ∀ {s t : State}, s.putPieces x l = .ok t → s.AccessOf t := by
  induction l with
  | nil =>
    intro s t h
    cases h
    exact .refl s
  | cons e l ih =>
    intro s t h
    obtain ⟨a, bs⟩ := e
    obtain ⟨u, hu, ht⟩ := exists_ok_of_bind h
    exact (State.store_access hu).trans (ih ht)

theorem State.setPens_access (s : State) (x : Ctx) (im : List (Nat × Byte)) (lost : List Nat) (flips : List (Nat × Nat)) :
    s.AccessOf (s.setPens x im lost flips) := by
  have zeroed := State.AccessOf.foldl (f := fun s n => s.zero (penBase n) penSize) (fun s n => ⟨_, _, _, rfl⟩) x.pens s
  have written := State.AccessOf.foldl (f := fun s (ab : Nat × Byte) => s.wr ab.1 [ab.2]) (fun s ab => ⟨_, s.bad, s.flips, rfl⟩) im
    (x.pens.foldl (fun s n => s.zero (penBase n) penSize) s)
  exact (zeroed.trans written).trans ⟨_, _, _, rfl⟩

theorem State.lendPens_access (s : State) (x : Ctx) : s.AccessOf (s.lendPens x) := by
  unfold State.lendPens
  split
  · exact .refl s
  · exact s.setPens_access ..

/-- Giving lent pens back records in the context what they hold, and nothing else of it. -/
theorem State.returnPens_spec {t : State} {p c : Nat} {y : Ctx} (before : State) (x : Ctx) (hy : t.ctx p c = some y) :
    (∃ im lost, (t.returnPens before p c x).ctx p c = some { y with swapImage := im, swapBad := lost }) ∧
      (t.returnPens before p c x).otp = t.otp ∧ (t.returnPens before p c x).start = t.start := by
  unfold State.returnPens
  split
  · exact ⟨⟨y.swapImage, y.swapBad, hy⟩, rfl, rfl⟩
  · obtain ⟨m, b, f, same⟩ := t.setPens_access x (before.penImage x)
      (before.bad.filter _) (before.flips.filter _)
    dsimp only
    rw [same]
    exact ⟨⟨_, _, State.ctx_modCtx_same _ hy⟩, rfl, rfl⟩

/-! ### RESTORE (R406, R507, R576) -/

theorem Ctx.restored_parcel (x : Ctx) (layers : List LayerSt) (step : Nat) (cPrev : W32) (now : Nat) :
    (x.restored layers step cPrev now).parcel = x.parcel := by
  obtain ⟨n, hn⟩ := x.enter_rest .idle now
  unfold Ctx.restored
  dsimp only
  split
  · rfl
  · rw [hn]

/-- A context that is no halted serving job is IDLE once restored. -/
theorem Ctx.restored_idle {x : Ctx} (layers : List LayerSt) (step : Nat) (cPrev : W32) (now : Nat)
    (h : x.parcel.kind ≠ 1 ∨ x.state = .idle) :
    (x.restored layers step cPrev now).state = .idle ∧ (x.restored layers step cPrev now).status = 0 := by
  have live : ¬(x.parcel.kind = 1 ∧ x.state = .halted) := fun hh =>
    h.elim (· hh.1) fun hi => CtxState.noConfusion (hi.symm.trans hh.2)
  obtain ⟨n, hn⟩ := x.enter_rest .idle now
  unfold Ctx.restored
  rw [if_neg live, hn]
  exact ⟨rfl, rfl⟩

/-- A restore writes memory, and its context becomes what the checkpoint holds. -/
theorem State.restoreHere_spec {s v : State} {p c step : Nat} {x y : Ctx} {d : Desc} (h : s.restoreHere p c x d = .ok (v, step))
    (hy : s.ctx p c = some y) :
    (∃ layers cPrev now, v.ctx p c = some (y.restored layers step cPrev now)) ∧ v.otp = s.otp ∧ v.start = s.start := by
  unfold State.restoreHere at h
  obtain ⟨raw, -, h⟩ := exists_ok_of_bind (ok_of_check h)
  obtain ⟨u, hu, h⟩ := exists_ok_of_bind (ok_of_check h)
  cases h
  have access := State.putPieces_access hu
  have hx : u.ctx p c = some y := (access.ctx p c).trans hy
  exact ⟨⟨_, _, _, (State.ctx_modPd _ hx).trans (Paddock.ctx_modCtx_same _ hx)⟩, access.otp, access.start⟩

theorem State.restoreFrom_spec {s v : State} {p c step : Nat} {x : Ctx} {d : Desc} (h : s.restoreFrom p c x d = .ok (v, step))
    (hx : s.ctx p c = some x) :
    (∃ y, v.ctx p c = some y ∧ (x.parcel.kind ≠ 1 ∨ x.state = .idle → y.state = .idle ∧ y.status = 0) ∧ y.counter = step ∧
      y.parcel = x.parcel) ∧ v.otp = s.otp ∧ v.start = s.start := by
  unfold State.restoreFrom at h
  obtain ⟨⟨u, k⟩, hu, h⟩ := exists_ok_of_bind h
  cases h
  have lent := s.lendPens_access x
  obtain ⟨⟨layers, cPrev, now, hc⟩, ho, hs⟩ := State.restoreHere_spec hu ((lent.ctx p c).trans hx)
  obtain ⟨⟨im, lost, hy⟩, ho', hs'⟩ := State.returnPens_spec s x hc
  exact ⟨⟨_, hy, x.restored_idle layers k cPrev now, rfl, x.restored_parcel layers k cPrev now⟩, ho'.trans (ho.trans lent.otp),
    hs'.trans (hs.trans lent.start)⟩

theorem actRestore_ok {s v : State} {p c src step : Nat} {x : Ctx} {d : Desc} (hx : s.ctx p c = some x)
    (hq : x.state = .idle ∨ x.state = .halted) (hd : s.letterDesc src = .ok d) (hv : s.restoreFrom p c x d = .ok (v, step)) :
    actRestore p c src s = Taken.ok v (leBytes 8 step) := by
  unfold actRestore
  rw [State.onQuiet_quiet _ hx hq]
  simp only [hd, hv]

/-! ### STATE_READ (R482, R537, R578) -/

/-- A selector that is not listed has no items. -/
theorem State.items_unlisted (s : State) (p c : Nat) {sel : Nat} (first : Nat) (x : Ctx) (h : sel = 0 ∨ 6 < sel) :
    s.items p c sel first x = none := by
  rcases h with rfl | h
  · rfl
  · obtain ⟨n, rfl⟩ := Nat.exists_eq_add_of_le' h
    rfl

/-- The items from `first` on, up to `count`, go to the buffer, and the answer is their length. -/
theorem execStateRead_items {s : State} {p c sel first count n : Nat} {h : LetterHead} {b : Bulk} {x : Ctx} {l : List (List Byte)}
    {bs : List Byte} (ha : s.accepts p 0x0027 22 h = true) (hx : s.ctx p c = some x) (hi : s.items p c sel first x = some l)
    (h5 : sel ≠ 5) (hl : ((l.drop first).take count).flatten = bs) (hn : bs.length = n) (hb : bulkHolds b n = true) :
    exec (.stateRead p h c sel first count b) s =
      .next (((s.took p h).sendComp .buffer b.addr bs).answered p 0x0027 h 0 (leBytes 4 n)) := by
  subst hn
  have posted := State.accepts_posted ha
  refine State.letter_now ha ?_
  unfold actStateRead
  simp only [posted.ctx, hx, posted.items, hi, if_neg h5, hl]
  rw [bulk_ok hb, List.append_nil]

theorem actStateRead_unlisted {s : State} {p c sel : Nat} (first count : Nat) (b : Bulk) {x : Ctx} (hx : s.ctx p c = some x)
    (h : sel = 0 ∨ 6 < sel) : actStateRead p c sel first count b s = Taken.refuse s 0x0101 := by
  unfold actStateRead
  simp only [hx, s.items_unlisted p c first x h]

/-- One item of a list that a function gives by number. -/
theorem take_one_drop_range {α : Type} (f : Nat → α) {n i : Nat} (h : i < n) : (((List.range n).map f).drop i).take 1 = [f i] := by
  rw [List.drop_eq_getElem_cons (by simpa using h), List.take_succ_cons, List.take_zero, List.getElem_map, List.getElem_range]

/-- Settles O20: each letter is its action on the state that has taken it up; a restore writes memory and its own context, and STATE_READ sends the items of its selector. -/
theorem stateIsSavedRestoredAndRead : Obligations.StateIsSavedRestoredAndRead := by
  have taken : ∀ {p kind need : Nat} {h : LetterHead} {s : State} {c : Nat} {x : Ctx}, s.accepts p kind need h = true →
      s.ctx p c = some x → (s.took p h).ctx p c = some x := fun ha hx => ((State.accepts_posted ha).ctx _ _).trans hx
  refine ⟨⟨?checkpoint, ?restore, ?initialise, ?resident, ?atWork⟩, ?step, ?slots, ?state, ?unlisted⟩
  case checkpoint =>
    intro p h c dest s x d data v ha hx hq u hd hr hn hv
    exact State.letter_now ha (actCheckpoint_ok (taken ha hx) hq hd hr hn hv)
  case restore =>
    intro p h c src s x d v step ha hx hq hd hv
    obtain ⟨⟨y, hy, hidle, hstep, hparcel⟩, ho, hs⟩ := State.restoreFrom_spec hv (taken ha hx)
    have taking := State.accepts_posted ha
    have answer := v.answered_posted p 0x0044 h 0 (leBytes 8 step)
    exact ⟨_, y, State.letter_now ha (actRestore_ok (taken ha hx) hq hd hv), rfl, (answer.ctx p c).trans hy, hidle, hstep, hparcel,
      answer.otp.trans (ho.trans taking.otp), answer.start.trans (hs.trans taking.start)⟩
  case initialise =>
    intro p h c l part src s x r d n z f vs v ha hx u hq hl hd h5 hp hn hvs hv
    exact State.letter_now ha (actInitialise_ok (taken ha hx) hq hl hd h5 hp hn hvs hv)
  case resident => exact fun s t p c x h => ⟨s.lendPens_resident h, t.returnPens_resident s p c h⟩
  case atWork =>
    intro p h c a l part s hw
    have atWork : ∀ {kind need : Nat} (f : Ctx → Taken), s.accepts p kind need h = true →
        (s.took p h).onQuiet p c f = Taken.refuse (s.took p h) 0x0003 := by
      intro kind need f ha
      refine State.onQuiet_refused f fun x hx => ?_
      rw [((State.accepts_posted ha).ctx p c).symm.trans hx] at hw
      simpa using hw
    exact ⟨fun ha => State.letter_now ha (atWork _ ha), fun ha => State.letter_now ha (atWork _ ha),
      fun ha => State.letter_now ha (atWork _ ha)⟩
  case step =>
    exact fun p h c s x b ha hx hb => execStateRead_items (n := 16) ha hx rfl (by decide) rfl rfl hb
  case slots =>
    intro p h c s x b i ha hx hi hlen hb
    have item := take_one_drop_range (s.pd p).slotBytes hi
    exact execStateRead_items ha hx rfl (by decide) ((congrArg List.flatten item).trans (List.flatten_singleton ..)) hlen hb
  case state =>
    exact fun p h c s x b ha hx hb => execStateRead_items (n := 16) ha hx rfl (by decide) rfl rfl hb
  case unlisted => exact fun p h c sel f n s x b ha hx hs => State.letter_now ha (actStateRead_unlisted f n b (taken ha hx) hs)

end Sys2Proof.Machine
end
